-- ==== Sys2Proof/Word.lean ====
section
/-!
DEFINITION. The machine words and the sparse table every memory and register file is held in.
-/
namespace Sys2Proof

/-- One byte of memory (00_scope.md R2). -/
abbrev Byte := BitVec 8
/-- A general register (00_scope.md R9). -/
abbrev Word := BitVec 64
/-- A command register, a stream command (00_scope.md R9, 13_encodings.md R285). -/
abbrev QWord := BitVec 128
/-- Sixteen lanes of 32 bits (03_fabric.md R53). -/
abbrev Lanes := BitVec 512

/-- A sparse table: a list of (key, value) pairs. An absent key reads as a default the reader names.
In canonical form the keys rise strictly and no entry equals the default. -/
abbrev Map (β : Type) := List (Nat × β)

end Sys2Proof
end

