-- ==== Sys2Proof/Syntax.lean ====
section
/-!
DEFINITION. The instructions, commands, slot ops and machine steps: one constructor per row of spec/opcode_table.json.
Register fields keep the names of the table: d, a, b, c registers; o offsets; z size; s scope; p predicate or op.
-/
namespace Sys2Proof

/-- The fields of a slot word beside its op (03_fabric.md R62): source A [24:21], source B [20:17], destination [16:13],
next slot [12:9], modifier [8:0]. -/
structure Slot where
  a : BitVec 4
  b : BitVec 4
  d : BitVec 4
  n : BitVec 4
  m : BitVec 9
  deriving DecidableEq, Repr

/-- The fields of a stream command beside its opcode (13_encodings.md R285). -/
structure Cmd where
  /-- [119] wait enable, [118:116] wait FIFO. -/
  waitEn : Bool
  waitF : BitVec 3
  /-- [115] signal enable, [114:112] signal FIFO. -/
  sigEn : Bool
  sigF : BitVec 3
  /-- [111:107] stream ID. -/
  sid : BitVec 5
  /-- [106:104] binding. -/
  bind : BitVec 3
  /-- [103:96] flags. -/
  flags : BitVec 8
  /-- [95:0] operands. -/
  ops : BitVec 96
  deriving DecidableEq, Repr

/-- An access that reaches a memory tile's window port (06_memory.md R135): the master that made it, the cluster scratch
address, whether it is a write, and the bytes written (for a read: as many bytes as are read). -/
structure WindowReq where
  master : BitVec 10
  csa : Nat
  write : Bool
  bytes : List (BitVec 8)
  deriving DecidableEq, Repr

/-- A host CXL.mem request to stack memory (07_consistency.md R168). -/
structure HostReq where
  addr : Nat
  write : Bool
  bytes : List (BitVec 8)
  deriving DecidableEq, Repr

/-- A request that arrives on an Adit port (14_system.md R307): a read, a write or an instruction fetch of memory, an atomic
(07_consistency.md R156), an ENQ record with its sender's ASID (16_ref_d_l.md R351), a cancel, or a decrement of a job
(11_scheduling.md R249, R259). -/
inductive AditReq where
  | read (port : BitVec 4) (addr len : Nat)
  | write (port : BitVec 4) (addr : Nat) (bytes : List (BitVec 8))
  | fetch (port : BitVec 4) (addr : Nat)
  /-- AMO op on 4 or 8 bytes (size 0 or 1) with gb's value (15_ref_a_c.md R319). -/
  | amo (port : BitVec 4) (addr : Nat) (op : BitVec 3) (size : BitVec 1) (b : BitVec 64)
  /-- CAS of 4 or 8 bytes: b is stored where the location holds d. -/
  | cas (port : BitVec 4) (addr : Nat) (size : BitVec 1) (d b : BitVec 64)
  | enq (port : BitVec 4) (cluster : BitVec 2) (queue : BitVec 4) (record : BitVec 128) (asid : BitVec 16) (originModule : BitVec 12)
  | cancel (port : BitVec 4) (job : BitVec 16) (originModule : BitVec 12)
  /-- The end of a task of this module's job: how 0 completed, 1 failed, 2 or 3 cancelled, and its code (11_scheduling.md R249). -/
  | decrement (port : BitVec 4) (job : BitVec 16) (how : BitVec 2) (code : BitVec 8)
  deriving DecidableEq, Repr

/-- A write to the control-register space (14_system.md R300): master, offset from 0x0200_0000_0000, 8-byte value. -/
structure RegWrite where
  master : BitVec 10
  offset : Nat
  value : BitVec 64
  deriving DecidableEq, Repr

/-- The mailbox request HANDLER (14_system.md R309): one entry of the slices of a mask of one die, its table words and window images. -/
structure HandlerReq where
  die : BitVec 2
  mask : BitVec 64
  entry : BitVec 4
  words : List (BitVec 64)
  imem : List (BitVec 8)
  dmem : List (BitVec 8)
  deriving DecidableEq, Repr

/-- One constructor per row of spec/opcode_table.json, in the table's order. -/
inductive Instr where
  -- control-thread words (13_encodings.md R280 to R284)
  /-- Sets gd to the 64-bit wrapped sum of ga and gb (R316). -/
  | add (d a b : BitVec 5)
  /-- Sets gd to ga minus gb, modulo 2^64 (R395). -/
  | sub (d a b : BitVec 5)
  /-- Sets gd to the low 64 bits of ga times gb (R378). -/
  | mul (d a b : BitVec 5)
  /-- Sets gd to bits 127:64 of the signed product of ga and gb (R378). -/
  | mulh (d a b : BitVec 5)
  /-- Signed 64-bit division rounded toward zero, with the limit cases of Table 4.6 (R348). -/
  | div (d a b : BitVec 5)
  /-- Unsigned 64-bit division rounded toward zero, with the limit cases of Table 4.6 (R348). -/
  | divu (d a b : BitVec 5)
  /-- Signed remainder of DIV, with the limit cases of Table 4.6 (R378). -/
  | rem (d a b : BitVec 5)
  /-- Unsigned remainder, with the limit cases of Table 4.6 (R378). -/
  | remu (d a b : BitVec 5)
  /-- Sets gd to the bitwise AND of ga and gb (R316). -/
  | and (d a b : BitVec 5)
  /-- Sets gd to the bitwise OR of ga and gb (R378). -/
  | or (d a b : BitVec 5)
  /-- Sets gd to the bitwise XOR of ga and gb (R438). -/
  | xor (d a b : BitVec 5)
  /-- Shifts ga left by gb[5:0], modulo 2^64 (R395). -/
  | shl (d a b : BitVec 5)
  /-- Shifts ga right logically by gb[5:0] (R395). -/
  | shr (d a b : BitVec 5)
  /-- Shifts ga right arithmetically by gb[5:0] (R395). -/
  | sar (d a b : BitVec 5)
  /-- Sets gd to the signed minimum of ga and gb (R378). -/
  | min (d a b : BitVec 5)
  /-- Sets gd to the signed maximum of ga and gb (R378). -/
  | max (d a b : BitVec 5)
  /-- Sets gd to the unsigned minimum of ga and gb (R378). -/
  | minu (d a b : BitVec 5)
  /-- Sets gd to the unsigned maximum of ga and gb (R378). -/
  | maxu (d a b : BitVec 5)
  /-- Counts the leading zero bits of ga, giving 64 for zero (R316). -/
  | clz (d a : BitVec 5)
  /-- Counts the one bits of ga (R378). -/
  | popc (d a : BitVec 5)
  /-- Sign-extends the low 8, 16 or 32 bits of ga into gd (R395). -/
  | sext (d a w : BitVec 5)
  /-- Zero-extends the low 8, 16 or 32 bits of ga into gd (R438). -/
  | zext (d a w : BitVec 5)
  /-- Sets gd to the counter-generator output for counter ga[31:0] and key gb (R378). -/
  | randk (d a b : BitVec 5)
  /-- Does nothing (R378). -/
  | nop
  /-- Adds a sign-extended 16-bit immediate to ga (R317). -/
  | addi (d a : BitVec 5) (i : BitVec 16)
  /-- ANDs ga with a zero-extended 16-bit immediate (R317). -/
  | andi (d a : BitVec 5) (i : BitVec 16)
  /-- ORs ga with a zero-extended 16-bit immediate (R385). -/
  | ori (d a : BitVec 5) (i : BitVec 16)
  /-- XORs ga with a zero-extended 16-bit immediate (R438). -/
  | xori (d a : BitVec 5) (i : BitVec 16)
  /-- Shifts ga left by an immediate count of 0 to 63 (R395). -/
  | shli (d a : BitVec 5) (n : BitVec 6)
  /-- Shifts ga right logically by an immediate count (R395). -/
  | shri (d a : BitVec 5) (n : BitVec 6)
  /-- Shifts ga right arithmetically by an immediate count (R395). -/
  | sari (d a : BitVec 5) (n : BitVec 6)
  /-- Writes a 16-bit immediate into quarter h of gd and keeps the other bits (R367). -/
  | lih (d : BitVec 5) (h : BitVec 2) (i : BitVec 16)
  /-- Sets gd to pc plus four times a signed 21-bit word offset (R318). -/
  | addpc (d : BitVec 5) (o : BitVec 21)
  /-- Sets gd to ga times gb plus gc, modulo 2^64 (R377). -/
  | madd (d a b c : BitVec 5)
  /-- Extracts a bit field of ga, sign- or zero-extended (R327). -/
  | bitf (d a : BitVec 5) (s : BitVec 1) (p w : BitVec 6)
  /-- Inserts the low bits of ga into a bit field of gd (R327). -/
  | biti (d a : BitVec 5) (p w : BitVec 6)
  /-- Sets predicate pd from a condition on ga and gb (R336). -/
  | cmpCc (p : BitVec 3) (a b : BitVec 5) (c : BitVec 4)
  /-- Sets predicate pd from a condition on ga and a 14-bit immediate (R336). -/
  | cmpiCc (p : BitVec 3) (a : BitVec 5) (c : BitVec 4) (i : BitVec 14)
  /-- Sets pd to pa AND pb (R386). -/
  | pand (d a b : BitVec 3)
  /-- Sets pd to pa OR pb (R386). -/
  | por (d a b : BitVec 3)
  /-- Sets pd to NOT pa (R386). -/
  | pnot (d a : BitVec 3)
  /-- Sets gd to ga if pa is true, otherwise to gb (R400). -/
  | sel (d a b : BitVec 5) (p : BitVec 3)
  /-- Branches by a 12-bit word offset when a condition on ga and gb holds (R330). -/
  | brCc (a b : BitVec 5) (c : BitVec 4) (o : BitVec 12)
  /-- Branches when predicate pa is true (R329). -/
  | bp (p : BitVec 3) (o : BitVec 20)
  /-- Branches when predicate pa is false (R329). -/
  | bpn (p : BitVec 3) (o : BitVec 20)
  /-- Jumps by a signed 21-bit word offset (R361). -/
  | jmp (o : BitVec 21)
  /-- Jumps by a word offset and writes pc + 4 to gd (R361). -/
  | jal (d : BitVec 5) (o : BitVec 21)
  /-- Jumps to ga plus an immediate and writes pc + 4 to gd (R361). -/
  | jalr (d a : BitVec 5) (i : BitVec 16)
  /-- Skips the body if ga is 0, otherwise decrements ga and enters the body (R368). -/
  | loop (a : BitVec 5) (o : BitVec 12)
  /-- Loads 1 to 8 bytes from the home, sign-extended into gd (R365). -/
  | ld (d a : BitVec 5) (z : BitVec 2) (o : BitVec 14)
  /-- Loads 1 to 8 bytes from the home, zero-extended into gd (R365). -/
  | ldu (d a : BitVec 5) (z : BitVec 2) (o : BitVec 14)
  /-- Stores 1 to 8 bytes of gs toward their home (R414). -/
  | st (g a : BitVec 5) (z : BitVec 2) (o : BitVec 14)
  /-- Loads 16 bytes into a command register (R365). -/
  | ldq (q : BitVec 3) (a : BitVec 5) (o : BitVec 14)
  /-- Stores 16 bytes of a command register as one unit (R414). -/
  | stq (q : BitVec 3) (a : BitVec 5) (o : BitVec 14)
  /-- Asks the home slice to allocate a stack line, with no access and no fault (R390). -/
  | pref (a : BitVec 5) (o : BitVec 14)
  /-- Performs an atomic read-modify-write at the home and returns the old value (R319). -/
  | amo (d a b : BitVec 5) (p : BitVec 3) (s : BitVec 2) (z : BitVec 1) (r : BitVec 2)
  /-- Compares and swaps atomically at the home and returns the old value (R332). -/
  | cas (d a b : BitVec 5) (s : BitVec 2) (z : BitVec 1) (r : BitVec 2)
  /-- Loads with acquire at a scope (R365). -/
  | lda (d a : BitVec 5) (z s : BitVec 2) (o : BitVec 12)
  /-- Stores with release at a scope (R414). -/
  | str (g a : BitVec 5) (z s : BitVec 2) (o : BitVec 12)
  /-- Makes a full ordering barrier at a scope and discards fetched instruction words (R354). -/
  | fence (s : BitVec 2)
  /-- Initialises a barrier object atomically for gb participants (R325). -/
  | barInit (a b : BitVec 5)
  /-- Arrives at a barrier phase and completes the phase when all have arrived (R325). -/
  | barArv (d a : BitVec 5)
  /-- Arrives for the current phase and leaves every later phase (R325). -/
  | barDrp (d a : BitVec 5)
  /-- Waits until the barrier phase reaches gb, rereading after each write (R325). -/
  | barWait (a b : BitVec 5)
  /-- Pushes 0x00 to a token FIFO as a release, stalling while it is full (R424). -/
  | tkpush (n : BitVec 3)
  /-- Pops a token FIFO entry into gd as an acquire, stalling while it is empty (R424). -/
  | tkpop (d : BitVec 5) (n : BitVec 3)
  /-- Waits until the 8 bytes at ga differ from gb and returns them (R437). -/
  | watch (d a b : BitVec 5)
  /-- Sends a MSG event with a 16-byte payload to the home slice of a line (R321). -/
  | amsg (a : BitVec 5) (b : BitVec 3)
  /-- Writes ga into one 64-bit half of a command register (R391). -/
  | qset (q : BitVec 3) (a : BitVec 5) (h : BitVec 1)
  /-- Writes a 16-bit immediate into one chunk of a command register (R391). -/
  | qseti (q c : BitVec 3) (i : BitVec 16)
  /-- Copies one command register into another (R391). -/
  | qmov (d s : BitVec 3)
  /-- Checks a stream command and places it in its engine queue (R359). -/
  | issue (q : BitVec 3)
  /-- Issues a stream command and retires only when the command retires (R359). -/
  | issuew (q : BitVec 3)
  /-- Delivers a task record to a foreman's pool after reserving an entry and raising the job count (R351). -/
  | enq (q : BitVec 3) (a : BitVec 5)
  /-- Waits until a task is bound to the core and loads its state (R420). -/
  | take (d : BitVec 5)
  /-- Waits for the thread's commands, closes streams and ends the task with a code (R349). -/
  | done (a : BitVec 5)
  /-- Waits until a job's count is 0, returns its status word and sets the entry IDLE (R362). -/
  | join (d a : BitVec 5)
  /-- Sets CANCELLING at the job's home foreman and retires when the cancel has been sent (R331). -/
  | cancel (a : BitVec 5)
  /-- Reads a CSR into gd (R343). -/
  | csrr (d : BitVec 5) (c : BitVec 16)
  /-- Writes ga to a CSR and returns the old value (R343). -/
  | csrw (d a : BitVec 5) (c : BitVec 16)
  /-- Sets the CSR bits named by ga and returns the old value (R343). -/
  | csrs (d a : BitVec 5) (c : BitVec 16)
  /-- Clears the CSR bits named by ga and returns the old value (R343). -/
  | csrc (d a : BitVec 5) (c : BitVec 16)
  /-- Raises TRAPI synchronously (R426). -/
  | trap (i : BitVec 16)
  /-- Restores PRIV and AIE, clears INTRAP and resumes at EPC (R417). -/
  | sysret
  /-- Ends the task at once, stopping its work, or parks a privileged thread that holds no task (R353). -/
  | exit (a : BitVec 5)
  /-- Raises BKPT synchronously (R328). -/
  | bkpt (i : BitVec 16)
  /-- Offers the foreman a pre-emption point (R439). -/
  | yield
  -- steps that have no encoding of their own
  /-- A pending asynchronous fault is delivered as a trap at an instruction boundary while AIE is 1 (R220). -/
  | asyncFaultDelivery
  /-- With STEP set, a retired user instruction is followed by a BKPT trap with ECAUSE.STEP (R235). -/
  | singleStep
  -- stream commands (13_encodings.md R285)
  /-- Runs an affine entry program that reads elements and emits them as segments (R406). -/
  | sload (c : Cmd)
  /-- Runs an entry program whose element data come from lines pushed into the port (R409). -/
  | sloadPush (c : Cmd)
  /-- Runs an affine exit program that stores elements from arriving tokens (R408). -/
  | sstore (c : Cmd)
  /-- Runs an indirect entry program through an indirect stream engine (R404). -/
  | sgather (c : Cmd)
  /-- Runs an indirect exit program that scatters elements in index order (R405). -/
  | sscatter (c : Cmd)
  /-- Pins the run list's pages and decodes seam blocks into the stream (R363). -/
  | kvadmit (c : Cmd)
  /-- Waits for the stream's programs, flushes, writes the dirty-range record, drops pins and idles the port (R397). -/
  | sclose (c : Cmd)
  /-- Forms a stream barrier over the named streams at a scope (R396). -/
  | sbar (c : Cmd)
  /-- Hands an owned range from its owner to its successor (R411). -/
  | sown (c : Cmd)
  /-- Retires when the stream has completed n segments (R413). -/
  | sseg (c : Cmd)
  /-- Reads a configuration image, checks it and makes it resident in a context slot (R334). -/
  | cload (c : Cmd)
  /-- Switches a region to another resident context at its next segment boundary (R345). -/
  | cswitch (c : Cmd)
  /-- Empties a context slot, closing its streams and dissolving an empty region (R341). -/
  | cretire (c : Cmd)
  /-- Stops the active context and scans its state out to a save area (R342). -/
  | csave (c : Cmd)
  /-- Resumes a frozen context from its save area (R340). -/
  | crestore (c : Cmd)
  /-- Copies a byte range through a hoist engine (R357). -/
  | hcopy (c : Cmd)
  /-- Fills a byte range with an 8-byte pattern through a hoist engine (R357). -/
  | hfill (c : Cmd)
  /-- A sluice engine writes a record for each element that satisfies a predicate (R402). -/
  | selpred (c : Cmd)
  /-- A sluice engine keeps the k best elements or seam-digest scores and writes them (R401). -/
  | seltopk (c : Cmd)
  /-- A sluice engine packs BF16 K and V rows into a seam block and side record (R398). -/
  | seampack (c : Cmd)
  /-- Joins a reduction collective whose instance folds every member's source (R337). -/
  | collred (c : Cmd)
  /-- Joins a gather collective (R337). -/
  | collgath (c : Cmd)
  /-- Joins a scatter collective (R337). -/
  | collscat (c : Cmd)
  /-- Takes one pin on each page of a range for its holder (R388). -/
  | pgpin (c : Cmd)
  /-- Clears V in each page's PTE and shoots it down, or marks a pinned page pending (R389). -/
  | pgrel (c : Cmd)
  /-- Moves a page to a new frame under the five steps of R169 (R380). -/
  | migrate (c : Cmd)
  /-- Sets or removes one port's ceiling and BURST (R277). -/
  | meterCeil (c : Cmd)
  /-- Sets or removes the ceiling and BURST of all 32 ports of the core (R277). -/
  | meterCeilall (c : Cmd)
  /-- Changes a voltage and frequency region's operating point (R277). -/
  | meterPoint (c : Cmd)
  /-- Sets the core's voltage and frequency cuts (R277). -/
  | meterCut (c : Cmd)
  -- steps that have no encoding of their own
  /-- A command retires in queue order and pushes its status code to its signal FIFO, waiting while the FIFO is full (R46). -/
  | commandRetire
  -- slot words (03_fabric.md R62)
  /-- Adds two word operands lane by lane (R430). -/
  | vadd (f : Slot)
  /-- Subtracts lane by lane (R430). -/
  | vsub (f : Slot)
  /-- Multiplies lane by lane (R430). -/
  | vmul (f : Slot)
  /-- Computes A times B plus C, rounded once (R430). -/
  | vfma (f : Slot)
  /-- Takes the lane minimum (R430). -/
  | vmin (f : Slot)
  /-- Takes the lane maximum (R430). -/
  | vmax (f : Slot)
  /-- Takes the lane absolute value (R430). -/
  | vabs (f : Slot)
  /-- Negates each lane (R430). -/
  | vneg (f : Slot)
  /-- Writes an all-ones or zero mask from a lane comparison (R430). -/
  | vcmp (f : Slot)
  /-- Selects A or B per lane by a third source (R430). -/
  | vsel (f : Slot)
  /-- Bitwise AND of 32-bit lanes (R430). -/
  | vand (f : Slot)
  /-- Bitwise OR of 32-bit lanes (R430). -/
  | vor (f : Slot)
  /-- Bitwise XOR of 32-bit lanes (R430). -/
  | vxor (f : Slot)
  /-- Shifts lanes left by B[4:0] (R430). -/
  | vshl (f : Slot)
  /-- Shifts lanes logically right by B[4:0] (R430). -/
  | vshr (f : Slot)
  /-- Shifts lanes arithmetically right by B[4:0] (R430). -/
  | vsar (f : Slot)
  /-- Converts each lane between element types (R433). -/
  | vcvt (f : Slot)
  /-- Swaps lane pairs at a distance, optionally negating one (R431). -/
  | vpswap (f : Slot)
  /-- Permutes lanes of A by indices in B (R431). -/
  | vperm (f : Slot)
  /-- Broadcasts one lane of A (R431). -/
  | vbcast (f : Slot)
  /-- Sums the valid elements exactly and rounds once (R436). -/
  | vredadd (f : Slot)
  /-- Takes the maximum of the valid elements (R436). -/
  | vredmax (f : Slot)
  /-- Evaluates sin(pi x) per lane (R432). -/
  | vsinpi (f : Slot)
  /-- Evaluates cos(pi x) per lane (R432). -/
  | vcospi (f : Slot)
  /-- Evaluates 2^x per lane (R432). -/
  | vexp2 (f : Slot)
  /-- Computes the correctly rounded reciprocal per lane (R432). -/
  | vrcp (f : Slot)
  /-- Computes the correctly rounded reciprocal square root per lane (R432). -/
  | vrsq (f : Slot)
  /-- Clamps A between B and C (R430). -/
  | vclamp (f : Slot)
  /-- Scales A by 2 to the power of B (R430). -/
  | vscale (f : Slot)
  /-- Moves A as a bit pattern (R430). -/
  | vmov (f : Slot)
  /-- Counts ones, leading zeros or trailing zeros per lane (R430). -/
  | vcnt (f : Slot)
  /-- Converts 32 FP32 values to narrow codes, optionally with an MX scale (R434). -/
  | vpack (f : Slot)
  /-- Computes the counter-generator output per lane (R435). -/
  | vrand (f : Slot)
  /-- Forms lane 0 of A plus i times 2^OPT in each lane (R431). -/
  | viota (f : Slot)
  /-- Converts one WORD token into a digit instance of G groups (R113). -/
  | denc (f : Slot)
  /-- Converts a digit instance into one WORD token, rounded once (R114). -/
  | ddec (f : Slot)
  /-- Adds two digit streams online (R115). -/
  | dadd (f : Slot)
  /-- Subtracts two digit streams online (R115). -/
  | dsub (f : Slot)
  /-- Multiplies two digit streams by the residual recurrence (R116). -/
  | dmul (f : Slot)
  /-- Divides two digit streams by the residual recurrence (R118). -/
  | ddiv (f : Slot)
  /-- Takes the square root of a digit stream (R118). -/
  | dsqrt (f : Slot)
  /-- Scales a digit stream by a power of two or a constant (R119). -/
  | dscl (f : Slot)
  /-- Emits the larger of two digit streams and kills the loser (R121). -/
  | dmaxk (f : Slot)
  /-- Emits max(A, 0) and kills lanes decided negative (R120). -/
  | dsign (f : Slot)
  /-- Passes a lane or drops it below a threshold, killing it upstream (R122). -/
  | dthr (f : Slot)
  /-- Copies a digit token to two directions (R123). -/
  | dfork (f : Slot)
  /-- Adds dot-product groups of two operands into one accumulator lane (R374). -/
  | mdot (f : Slot)
  /-- Multiplies an activation token by the stationary weights into 16 lanes (R372). -/
  | mma (f : Slot)
  /-- Multiplies an N:M-sparse activation by the stationary weights (R373). -/
  | mmas (f : Slot)
  /-- Loads a chunk of stationary weights or their scales (R371). -/
  | mldw (f : Slot)
  /-- Adds, sets, takes or multiplies an accumulator (R375). -/
  | macc (f : Slot)
  /-- Merges two partial attention records (R383). -/
  | mtri (f : Slot)
  /-- Runs the score-modification program on each valid score lane (R382). -/
  | mscm (f : Slot)
  /-- Sends a data token to one of two outputs by a test (R416). -/
  | steer (f : Slot)
  /-- Forwards data tokens of two inputs in arrival order (R379). -/
  | merge (f : Slot)
  /-- Forwards segments in ascending segment number (R384). -/
  | ordmerge (f : Slot)
  /-- Sends whole segments alternately to two outputs (R412). -/
  | split (f : Slot)
  /-- Emits a NULL in place of its operand (R379). -/
  | nullt (f : Slot)
  /-- Forwards a token unchanged (R379). -/
  | pass (f : Slot)
  /-- Discards data tokens, or only empty ones (R350). -/
  | drop (f : Slot)
  /-- Allocates a frame tag or copies a tag onto a token (R419). -/
  | tagset (f : Slot)
  /-- Compares the tags of two tokens (R418). -/
  | tagchk (f : Slot)
  /-- Stamps a frame slot onto a token (R355). -/
  | framest (f : Slot)
  /-- Passes data tokens and emits an ORDER or MARK after qualifying ones (R399). -/
  | segmark (f : Slot)
  /-- Evaluates the LUT patch and updates its enabled flip-flops (R369). -/
  | lutop (f : Slot)
  /-- Reads 64 bytes of the full read buffer (R421). -/
  | trd (f : Slot)
  /-- Writes valid lanes into the empty write buffer (R421). -/
  | twr (f : Slot)
  /-- Reads 64 bytes of the read buffer and writes new lanes there (R421). -/
  | tswap (f : Slot)
  /-- Empties the read buffer and moves the reader on (R421). -/
  | tfe (f : Slot)
  -- steps that have no encoding of their own
  /-- A SYS tile multiplies a W token by its weights, adds the N partial sums and forwards W (R81). -/
  | systolicFire
  /-- A memory tile in a systolic rectangle forwards a token one cycle later (R80). -/
  | passStage
  -- assayer custom words (08_assayers.md R182)
  /-- Copies a line named by a handle into DMEM (R183). -/
  | ayLdl (s a d : BitVec 5)
  /-- Writes 128 bytes from DMEM into a line and sets D (R183). -/
  | ayStl (s a d : BitVec 5)
  /-- Translates up to 16 lines and fetches the absent ones (R183). -/
  | ayFill (s a d : BitVec 5)
  /-- Pushes a line into a core's stream port, waiting for a credit (R183). -/
  | ayPush (s a d : BitVec 5)
  /-- Writes back or invalidates a line, or substitutes an EVICT victim (R183). -/
  | ayEvict (s a d : BitVec 5)
  /-- Sends a MSG event to the home slice of a VA (R183). -/
  | ayMsg (a d : BitVec 5)
  /-- Locks a line by VA or unlocks a line by handle (R183). -/
  | ayLock (s a d : BitVec 5)
  /-- Returns a state word or slice statistic by selector (R183). -/
  | ayStat (s a d : BitVec 5)
  /-- Ends the handler with an action and releases its lines (R183). -/
  | ayRet (a : BitVec 5)
  /-- Returns the budget cycles remaining (R183). -/
  | ayBudget (d : BitVec 5)
  /-- An assayer context executes a supported RV32IMC, Zicsr, Zba or Zbb instruction, or aborts on an unsupported one (R170). -/
  | assayerRiscvInstruction (w : BitVec 32)
  -- steps that have no encoding of their own
  /-- A handler whose budget count reaches its limit is aborted with cause BUDGET (R184). -/
  | budgetExpiry
  /-- A MISS handler runs on the reserved way of a matching miss (R177). -/
  | missEvent (k : Nat)
  /-- A FILL handler runs on a newly filled tagged line before the access is performed (R177). -/
  | fillEvent (k : Nat)
  /-- An EVICT handler runs on a victim line that carries its entry (R177). -/
  | evictEvent (k : Nat)
  /-- A MSG handler runs on a message's line after any fill (R178). -/
  | msgEvent (k : Nat)
  /-- A slice performs an access to a home line, allocating, evicting or raising events as needed (R137). -/
  | l2Access (k : Nat)
  /-- A miss register's stack read completes and the line is installed (R140). -/
  | l2FillComplete (line : Nat)
  /-- An engine line access probes its home slice and uses the slice's line or the stack (R144). -/
  | engineProbe (e : Nat)
  /-- A read reply or completion reaches the requesting agent (R139). -/
  | accessReply (k : Nat)
  /-- The drive read ends; the service installs the frame and appends a completion record (R147). -/
  | deepFetchComplete (k : Nat) (driveError : Bool)
  /-- A memory tile's window port serves an access of up to 64 bytes (R135). -/
  | windowAccess (r : WindowReq)
  /-- A pushed line reaches a stream port and becomes two WORD tokens, or is dropped (R141). -/
  | pushArrival
  /-- An entry AG tile emits an SOT, element token, EOT or SBARTOK, under the meter and the cage (R78). -/
  | streamTokenEmit
  /-- An exit AG tile takes a token, storing its elements or acting on a control token (R408). -/
  | streamTokenAbsorb
  /-- Once every access before a barrier's points is performed, held streams resume (R159). -/
  | streamBarrierResume (k : Nat)
  /-- An open coalescing line that no access has joined for 16 cycles is flushed (R79). -/
  | coalesceTimeout (k : Nat)
  /-- A slot forwards a control token once the same kind stands at all its inputs (R35). -/
  | controlTokenForward
  /-- After the boundary and drain, each entry AG tile emits RECONF and tiles switch as it passes (R40). -/
  | reconfEmit (region : BitVec 2)
  /-- Sixteen cycles after RECONF absorption the incoming context's first SOT may leave and CSWITCH retires (R40). -/
  | cswitchSettle (region : BitVec 2)
  /-- A KILL at a digit op stops computing killed lanes and propagates upstream when all consumers have killed (R125). -/
  | killApply (dir : BitVec 2)
  /-- A PASS, FIFO tile, pass stage or elastic buffer forwards a KILL upstream one cycle later (R126). -/
  | killForward (dir : BitVec 2)
  /-- A token written to a frame slot sets its presence bit, or faults (R37). -/
  | frameWrite (dir : BitVec 2)
  /-- A completed frame mask sends its operands to the consumer tile one per cycle (R77). -/
  | frameOperandSend
  /-- A memory tile in FIFO mode releases a token in arrival order (R74). -/
  | fifoTilePass (dir : BitVec 2)
  /-- A line-buffer tile emits H tokens for each arriving token (R75). -/
  | lineBufferEmit (dir : BitVec 2)
  /-- A discarded segment is re-run at once or after its page's completion record (R226). -/
  | replayRerun (region : BitVec 2)
  /-- The scan-out completes, FROZEN is set and the fault is delivered (R227). -/
  | freezeScanComplete (region : BitVec 2)
  /-- A region with no progress for 2^24 cycles raises WATCHDOG against its oldest segment (R237). -/
  | watchdog (region : BitVec 2)
  /-- When all members have issued, a collective instance runs (R308). -/
  | collectiveInstance (k : Nat)
  /-- The foreman takes a valid ring record, checks it, clears the slot and advances the head (R243). -/
  | intakeRecord (q : BitVec 4)
  /-- Every 16 uncore cycles the foreman binds the first ready task that has a qualifying place (R253). -/
  | taskBind
  /-- A task end reaches its foreman, which updates the job and the signal key (R251). -/
  | taskEnd (k : Nat)
  /-- A decrement message reaches the job's home foreman and lowers the count (R249). -/
  | jobDecrement (k : Nat)
  /-- A cancel reaches a foreman, which ends pooled tasks and abandons running ones (R259). -/
  | cancelArrival (k : Nat)
  /-- A running task's QUANT elapses with a rival ready, so its fabric loads are stopped for pre-emption (R263). -/
  | quantExpiry (p : Nat)
  /-- At an eligible boundary the thread's state is saved and it returns to IDLEPC (R233). -/
  | threadSave
  /-- At the end of a 65,536-cycle window the foreman may add or remove a copy of a load (R255). -/
  | cloneWindow (region : BitVec 2) (entryWait exitWait : Nat)
  /-- A throttle notice ends a stall or stays pending and is recorded in THROT (R265). -/
  | throttleNotice (reason : BitVec 2)
  /-- Every 10 us the controller measures power and adjusts phi-cap (R272). -/
  | powerMeasurement (milliwatts : Nat)
  /-- Every 1 us the controller estimates core-rail current and may cut phi-cap (R272). -/
  | currentEstimate (milliamps : Nat)
  /-- Each microsecond a port's applied rate rises toward its target (R271). -/
  | rateRamp
  /-- Every 1 ms a region's canary samples temperature and adjusts phi-can (R273). -/
  | canarySample (region : BitVec 2) (quarterDegrees : Int)
  /-- A sensor at 110 C or more trips its region, setting FRAC and the buckets to 0 (R274). -/
  | trip (region : BitVec 2) (quarterDegrees : Int)
  /-- Ten consecutive samples at 100 C or less end a trip (R274). -/
  | tripEnd (region : BitVec 2)
  /-- A voltage slew completes and the clock switches, completing an operating-point change (R269). -/
  | voltageSlewDone (region : BitVec 2)
  /-- A CRC failure retransmits a flit, charging LINK after 7 failures (R236). -/
  | linkRetransmit (k : Nat)
  /-- An uncorrectable SRAM error poisons the word (R236). -/
  | eccError (addr : Nat)
  /-- A host CXL.mem request is performed at its home slice (R168). -/
  | hostCxlMemRequest (r : HostReq)
  /-- A request arriving on an Adit port is checked and performed (R307). -/
  | aditRequest (r : AditReq)
  /-- A write to a control-register field without behaviour of its own (R300). -/
  | registerWrite (w : RegWrite)
  /-- A write of ENABLE = 1 checks the ring and reads the head counter (R241). -/
  | intakeEnable (q : BitVec 4)
  /-- A write of TEARDOWN clears ENABLE, sets DRAINING and ends the queue's tasks (R262). -/
  | teardown (q : BitVec 4)
  /-- A write of VALID = 1 to a task-type entry is checked and measured (R246). -/
  | taskTypeValid (t : BitVec 10)
  /-- A write of VALID = 0 stops new events matching a handler entry (R175). -/
  | handlerValidClear (e : BitVec 4)
  /-- Mailbox request that writes and validates an ASID descriptor (R309). -/
  | asidset (asid : BitVec 16) (hostPa : Nat)
  /-- Mailbox request that copies, measures and validates handler images on slices (R309). -/
  | handler (r : HandlerReq)
  /-- Mailbox request that writes one access-table entry (R309). -/
  | access (target : Nat) (master : BitVec 10) (entry : BitVec 512)
  /-- Mailbox request that writes one aperture entry (R309). -/
  | aperture (a : BitVec 6) (entry : BitVec 64)
  /-- Mailbox request that writes one route-table mask (R309). -/
  | route (m : BitVec 12) (mask : BitVec 16)
  /-- Mailbox request that writes a signed attestation report (R312). -/
  | attest (nonce : BitVec 256) (hostPa : Nat)
  /-- Mailbox request that sets CLID.MODULE before step 6 (R309). -/
  | module (m : BitVec 12)
  /-- Mailbox request for a warm reset (R314). -/
  | reset
  /-- Mailbox request that ends the bring-up hold after step 5 (R313). -/
  | release
  /-- A mailbox request with an unlisted code ends with STATUS 1 (R309). -/
  | mailboxUnlistedCode (code : BitVec 8)
  /-- Cold reset starts the bring-up sequence (R313). -/
  | coldReset
  /-- A bring-up step completes and the next one begins (R313). -/
  | bringupStep (failure : Option (BitVec 32))
  /-- A host write to a host-window line that the device holds shared under CXL.cache arrives as a snoop, after which the foreman reads its intake head slot and a waiting WATCH rereads (R243). -/
  | cxlCacheSnoop (hostAddr : Nat) (bytes : List (BitVec 8))
  /-- Every 2 us a WATCH on an Adit aperture rereads its 8 bytes and returns if they differ from gb (R437). -/
  | apertureWatchPoll
  /-- A translation cache drops one of its entries of its own accord, so the next access walks the page tables and sees the current PTE (R217). -/
  | translationCacheDrop (cache : Nat) (k : Nat)
  /-- The headframe moves an unpinned page to the deep tier, leaving its PTE with TIER = 1 (R202). -/
  | moveToDeepTier (asid : BitVec 16) (va : Nat) (port : BitVec 2) (index : BitVec 30)
  deriving DecidableEq, Repr

end Sys2Proof
end

