-- ==== Sys2Proof/Machine/State.lean ====
section
/-!
DEFINITION. The state of one Hafepa module as plain data, and the state right after reset.
Every table is sparse (Map): a key that is not listed reads as the reset value of its element type.
Keys: core = 96 * die + number (0 to 383); tile = 384 * core + 24 * y + x; port = 32 * core + stream;
slice = 64 * die + number (0 to 255); hart = 4 * slice + context.
-/
namespace Sys2Proof.Machine

/-- Why the machine stops with a fault. No rule of the spec stops the whole machine: every fault of the spec is delivered
as a trap, a status code or a record, so no meaning raises one. -/
inductive Fault where
  /-- Raised by no meaning; kept so that the type is inhabited. Safe. -/
  | none
  deriving DecidableEq, Repr

/-- Why an instruction has no meaning in a state. -/
inductive Refusal where
  /-- The instruction is not modelled yet; only arms of Dispatch.lean raise it. Safe: no claim about it can be proved. -/
  | notModelled (mnemonic : String)
  /-- The agent whose turn it is (State.self) is not of the kind that executes the instruction: an ADD given to a tile.
  Raised by every meaning through its agent check; step never brings it about. Safe. -/
  | wrongAgent
  deriving DecidableEq, Repr

/-- A request of the host or the headframe that is no event of the opcode table: a read of 8 bytes of the control-register
space, or an atomic there (14_system.md R300). -/
inductive Outside where
  | readReg (master : BitVec 10) (offset : Nat)
  | atomicReg (master : BitVec 10) (offset : Nat)
  deriving DecidableEq, Repr

/-- An agent that takes a step (02_execution_model.md R28, 07_consistency.md R149). -/
inductive Who where
  | thread (core : Nat)
  /-- The control thread of a core, which leaves a plain load that it may make now outstanding (15_ref_a_c.md R315). -/
  | ahead (core : Nat)
  /-- The memory's answer to the n-th outstanding load of a core's thread. -/
  | loaded (core n : Nat)
  | tile (core y x slot : Nat)
  | queue (core q pos : Nat)
  | ag (core sid : Nat)
  | hart (slice ctx : Nat)
  | slice (slice : Nat)
  | foreman (die : Nat)
  | stack (j : Nat)
  | core (core : Nat)
  | module
  | outside (r : Outside)
  deriving DecidableEq, Repr, Inhabited

/-- One turn of the schedule: the agent that moves, and the step it makes; `none` makes it run what it holds: the
instruction at its program counter, the slot word, or the command at the head of its queue. -/
structure Turn where
  who : Who
  what : Option Instr
  deriving DecidableEq, Repr, Inhabited

/-- A link token (03_fabric.md R53, Table 3.1). `seg` is the model's own: the number of the segment it belongs to. -/
structure Token where
  kind : BitVec 4 := 0
  slot : BitVec 4 := 0
  tag : BitVec 12 := 0
  frame : BitVec 8 := 0
  valid : BitVec 16 := 0
  payload : Lanes := 0
  seg : Nat := 0
  deriving DecidableEq, Repr

/-- A fault record (10_faults_modes.md Table 10.7). -/
structure FRec where
  core : Nat
  asid : BitVec 16
  code : BitVec 8
  async : Bool := true
  step : Bool := false
  final : Bool := false
  region : Nat := 0
  queue : Nat := 7
  stream : Nat := 0
  va : Word := 0
  ipc : Word := 0
  iter : List Nat := [0, 0, 0, 0]
  seg : Nat := 0
  save : Nat := 0
  deriving DecidableEq, Repr

/-- What follows once a fault record stands in its ring, or has been dropped (10_faults_modes.md R220, R231, R235). -/
inductive After where
  | nothing
  /-- The fault is pending for the thread, as long as it holds the task that it held at the fault (none for none). -/
  | pend (task : Option Nat)
  /-- The thread, which waits for it, takes the trap with this EPC. -/
  | trap (epc : Word)
  deriving DecidableEq, Repr

/-- An entry on its way to a ring in memory (10_faults_modes.md R213): a fault record, or the bytes of a dirty-range record
(R218), of a core and an ASID, with TIME as it was. -/
structure RingEntry where
  core : Nat
  asid : BitVec 16
  fault : Option FRec := .none
  dirty : List Byte := []
  time : Nat := 0
  after : After := .nothing
  deriving DecidableEq, Repr

/-- A plain load of the control thread that has been left outstanding (07_consistency.md R154, 15_ref_a_c.md R315): the
register that waits for it, a command register where `cmd`; its bytes, and their value as it was when the load was made. -/
structure Load where
  cmd : Bool
  reg : Nat
  n : Nat
  signed : Bool
  asid : BitVec 16
  va : Nat
  pa : Nat
  key : Nat
  value : Nat
  deriving DecidableEq, Repr

/-- A fault waiting for its thread (10_faults_modes.md R220): its ECAUSE image and EVAL. -/
structure PendFault where
  ecause : BitVec 64
  eval : BitVec 64
  deriving DecidableEq, Repr

/-- What a thread executes (10_faults_modes.md R220, R222, 14_system.md R313). -/
inductive Run where
  /-- Before release at bring-up step 7. -/
  | held
  | running
  /-- Parked by EXIT or stop_thread; executes nothing until warm reset. -/
  | parked
  deriving DecidableEq, Repr

/-- A wait of the instruction at pc (02_execution_model.md R47, 11_scheduling.md R265): whether the thread stands at the
boundary before it for pre-emption and abandonment (15_ref_a_c.md R326, 16_ref_d_l.md R362, 19_ref_t_z.md R424, R437),
whether a throttle notice ends it, and the register that the notice's code goes to (0 for none). -/
structure Stall where
  edge : Bool
  notice : Bool
  d : BitVec 5 := 0
  /-- For a wait at a foreman: its die, and TIME when the request first reached it (02_execution_model.md R52). -/
  asked : Option (Nat × Nat) := .none
  deriving DecidableEq, Repr

/-- A control thread and its CSRs (10_faults_modes.md Table 10.5, 13_encodings.md Table 13.5). -/
structure Thread where
  /-- g1 to g31, keys 1 to 31. -/
  g : Map Word := []
  /-- Bit n is pn; p0 reads true whatever bit 0 holds. -/
  p : BitVec 8 := 0
  q : Map QWord := []
  pc : Word := 0
  asid : BitVec 16 := 0
  /-- STATUS: [0] PRIV, [1] PPRIV, [3] AIE, [4] PAIE, [6] STEP, [7] INTRAP. -/
  status : Word := 1
  tvec : Word := 0
  epc : Word := 0
  ecause : Word := 0
  eval : Word := 0
  /-- THROT.LAST and THROT.PEND (12_power.md Table 12.2). -/
  throtLast : BitVec 2 := 0
  throtPend : BitVec 2 := 0
  run : Run := .held
  /-- Pending asynchronous faults, oldest first, at most 16. -/
  pend : List PendFault := []
  /-- A 17th pending fault was lost (ECAUSE.MORE at the next delivery). -/
  more : Bool := false
  /-- The last instruction retired in user mode with STATUS.STEP = 1: a BKPT trap is due (R235). -/
  stepDue : Bool := false
  /-- While it steps, the first earlier command that has retired since the last boundary: queue, stream, PC of its ISSUE (R235). -/
  finished : Option (Nat × Nat × Word) := .none
  /-- Fetched but unexecuted words: (ASID, VA, word) (06_memory.md R138). -/
  fetched : List (BitVec 16 × Nat × BitVec 32) := []
  /-- Pool index at the foreman of the core's die of the task the thread holds. -/
  task : Option Nat := .none
  /-- The instruction at pc has begun and waits. -/
  stall : Option Stall := .none
  /-- The thread waits in TAKE (11_scheduling.md R253). -/
  taking : Bool := false
  /-- The command an ISSUEW waits for. -/
  awaits : Option Nat := .none
  /-- A WATCH (d, a, b) on an Adit aperture between its rereads (19_ref_t_z.md R437). -/
  watching : Option (BitVec 5 × BitVec 5 × BitVec 5) := .none
  /-- The job that a JOIN in progress waits on. -/
  joining : Option (BitVec 16) := .none
  /-- Outstanding plain loads, oldest first. -/
  loads : List Load := []
  deriving DecidableEq, Repr

/-- Where a queued command stands (02_execution_model.md R45, R46). -/
inductive Phase where
  /-- In its queue; its wait FIFO is not popped yet. -/
  | queued
  /-- Its wait is over; it is about to go to its engine or tile. -/
  | ready
  /-- Its engine or tile holds it. -/
  | started
  /-- All its effects are performed; it ended with this code (0 completed) and retires in queue order. -/
  | done (code : BitVec 8)
  deriving DecidableEq, Repr

/-- A command in an engine queue, with what it was issued under (10_faults_modes.md R212, R223). -/
structure QCmd where
  id : Nat
  word : QWord
  asid : BitVec 16
  /-- PC of the ISSUE. -/
  ipc : Word
  priv : Bool
  /-- Issued by the foreman, not by the thread (11_scheduling.md R246, R253): pool index. -/
  byForeman : Option Nat := .none
  /-- The thread's ISSUEW, or PRECISE ISSUE, waits for it (R231, R359). -/
  waited : Bool := false
  precise : Bool := false
  /-- The task that issued it has ended: it signals no FIFO and leaves no fault pending (11_scheduling.md R261,
  19_ref_t_z.md R425). -/
  orphan : Bool := false
  phase : Phase := .queued
  /-- A stream program: 0 at its tile, 1 running, 2 nothing left to emit or absorb, and 4 more while its port stands in a
  save area. A hoist command: lines moved. -/
  progress : Nat := 0
  /-- The parameter block as the engine read it. -/
  block : BitVec 512 := 0
  /-- What its engine has read so far and still needs: number of the read, piece of it that one line holds, bytes; and the
  pieces of its writes that have been performed (07_consistency.md R149). -/
  parts : List (Nat × Nat × List Byte) := []
  puts : List (Nat × Nat) := []
  /-- Writes of a SELTOPK that have been let in at their homes and not yet performed: number of the piece, VA, physical
  address, key in memory (18_ref_s.md R403). -/
  sent : List (Nat × Nat × Nat × Nat) := []
  /-- An indirect command that found its base die's queue full: its SQ waits behind it (06_memory.md R142). -/
  holds : Bool := false
  /-- It has been at the head of its queue, and the contexts to which it was bound there: region and identity of the load
  (02_execution_model.md R30). -/
  headed : Bool := false
  boundTo : List (Nat × Nat) := []
  /-- CAGE, MODE and rectangle that the foreman puts in place of a CLOAD block's own; CAGE 0 leaves the block's CAGE and
  MODE (11_scheduling.md R246, R264). -/
  given : Option (Nat × BitVec 5 × Nat) := .none
  deriving DecidableEq, Repr

/-- A channel record of a load (13_encodings.md Table 13.12). -/
structure Chan where
  y : Nat
  x : Nat
  dir : Nat
  fromAg : Bool
  xr : Bool
  inn : Bool
  sid : Nat
  cap : Nat
  init : Nat
  islot : Nat
  p : Nat
  c : Nat
  hold : Bool
  back : Bool
  rated : Bool
  deriving DecidableEq, Repr

/-- An edge record (Table 13.13). -/
structure Edge where
  sid : Nat
  role : Nat
  slot : Nat
  deriving DecidableEq, Repr

/-- An owned range with its present owner and successor (07_consistency.md R160, R161). -/
structure Owned where
  base : Nat
  len : Nat
  owner : Nat
  succ : Option Nat
  /-- The last ORDER instance that has handed it over (R161). -/
  handed : Option Nat := .none
  deriving DecidableEq, Repr

/-- The LUT configuration of a context (13_encodings.md R294): table and selectors of each LUT, enables, INIT, SEGRST. -/
structure LutCfg where
  luts : List (BitVec 64 × List Nat) := []
  enable : BitVec 64 := 0
  init : BitVec 64 := 0
  segrst : Bool := false
  deriving DecidableEq, Repr

/-- What a context slot of one tile holds (02_execution_model.md R39). -/
structure TileCfg where
  ops : Map (BitVec 32) := []
  cfg : BitVec 32 := 0
  sm : Map (BitVec 16) := []
  lut : LutCfg := {}
  deriving DecidableEq, Repr

/-- A frame of a memory tile in frame mode (03_fabric.md R76, 16_ref_d_l.md R356): presence bits, closed. Its payloads stand
in the bytes of its tile's memory, 64 bytes a slot. -/
structure Frame where
  present : BitVec 16 := 0
  closed : Bool := false
  /-- The segment of its last write. -/
  seg : Nat := 0
  deriving DecidableEq, Repr

/-- State of an online digit slot for its current instance (05_online_arithmetic.md R107 to R130): the groups taken from
each input, oldest first; residuals and decisions are functions of their digits. -/
structure DigitSt where
  ga : List Token := []
  gb : List Token := []
  /-- Lanes killed by each consumer direction N, E, S, W. -/
  killed : Map (BitVec 16) := []
  /-- Lanes for which a KILL was already sent on input A and on input B. -/
  sentA : BitVec 16 := 0
  sentB : BitVec 16 := 0
  /-- Lanes that the op itself has cleared in a group of the instance (05_online_arithmetic.md R109). -/
  cleared : BitVec 16 := 0
  deriving DecidableEq, Repr

/-- State a slot of a context keeps between firings. -/
structure SlotSt where
  /-- MLDW chunk pointer, MDOT lane pointer (17_ref_m_r.md R371, R374). -/
  ptr : Nat := 0
  /-- DENC instances since the SOT (05_online_arithmetic.md R107). -/
  chain : Nat := 0
  /-- MTRI record positions of inputs A and B, bad flag and weights (09_attention.md R210). -/
  posA : Nat := 0
  posB : Nat := 0
  bad : Bool := false
  e1 : BitVec 32 := 0
  e2 : BitVec 32 := 0
  /-- ORDMERGE expected number and the input it forwards within a segment (17_ref_m_r.md R384). -/
  expect : Nat := 0
  inSeg : Option (BitVec 2) := .none
  /-- SPLIT: the current output is D2 (18_ref_s.md R412). -/
  second : Bool := false
  digit : DigitSt := {}
  /-- The instance whose last groups wait in the tile's outbox: a DENC's, or one with its tail still to leave (R126, R128). -/
  leaving : DigitSt := {}
  /-- PASS: chain of the last DIGIT token passed, and lanes killed by each direction (17_ref_m_r.md R379). -/
  passTag : Option (BitVec 12) := .none
  passKill : Map (BitVec 16) := []
  deriving DecidableEq, Repr

/-- The state of a memory-tile range (03_fabric.md R72 to R76, 19_ref_t_z.md R421). -/
structure RangeSt where
  /-- Tile store: EOTs of the writer side and of the reader side since CLOAD; the write buffer is nw mod NB, the read buffer
  ne mod NB. How often each buffer became full, and empty: it is full while the two differ. -/
  nw : Nat := 0
  ne : Nat := 0
  fills : Map Nat := []
  empties : Map Nat := []
  wp : Nat := 0
  rp : Nat := 0
  /-- FIFO: tokens with the direction each arrived from, oldest first, and the one released to the slot it names. The bytes
  of the range hold them as well, 72 each (Table 3.12): where in the range the spec does not say, and the model takes a ring
  in order of arrival from the first byte on (log 108); nw counts the tokens taken. -/
  fifo : List (Nat × Token) := []
  out : List (Nat × Token) := []
  /-- Line buffer: data tokens of the current segment, oldest first; they stand in the bytes of the range too, as a FIFO's do
  (log 108). -/
  lines : List Token := []
  /-- Frames by tag. -/
  frames : Map Frame := []
  /-- The invocation whose operands are being sent: tag, node, operands sent. -/
  sending : Option (Nat × Nat × Nat) := .none
  deriving DecidableEq, Repr

/-- What a tile returns to at a segment's SOT (10_faults_modes.md R225). -/
structure Snap where
  /-- The slots whose SOT has passed, each as it stood then. -/
  slots : Map (Option SlotSt) := []
  /-- Writer side (nw, wp, fills) and reader side (ne, rp, empties) of a tile store. -/
  writer : Option (Nat × Nat × Map Nat) := .none
  reader : Option (Nat × Nat × Map Nat) := .none
  sr : Option Nat := .none
  lutff : Option (BitVec 64) := .none
  /-- The frames of a frame tile, and the tags of its frames with their segments. -/
  frames : Option (Map Frame × List (Nat × Nat)) := .none
  deriving DecidableEq, Repr

/-- A frame operand on its way to its node (03_fabric.md R77): the node, the direction of the frame tile, the number of its
arrival at the tile, and the token. -/
structure FrameOp where
  node : Nat
  dir : Nat
  at_ : Nat
  tok : Token
  deriving DecidableEq, Repr

/-- An accumulator as it stood before a group addition of a firing that may still be adding (03_fabric.md R69), with how
many firings of the tile have followed that one. -/
structure Partial where
  acc : Nat
  age : Nat
  value : Lanes
  deriving DecidableEq, Repr

/-- A compute or memory tile (03_fabric.md R66, R72, R58, R59, R77; 17_ref_m_r.md R370). -/
structure Tile where
  a : Map Lanes := []
  m : Map Lanes := []
  /-- WS[k][n] at key 16 k + n. -/
  ws : Map (BitVec 16) := []
  wf : Nat := 0
  wsc : Map (BitVec 8) := []
  lutff : BitVec 64 := 0
  /-- Input FIFOs N, E, S, W with the arrival number of each token. -/
  inp : Map (List (Nat × Token)) := []
  /-- Count of arrivals, for the order of R38 and R379. -/
  arrivals : Nat := 0
  kill : Map (List Token) := []
  /-- Frame operands sent by the frame tiles, oldest first. -/
  fch : List FrameOp := []
  /-- What accumulators held before the group additions of the last firings, oldest first (03_fabric.md R69). -/
  partials : List Partial := []
  /-- State of slot n of context k at key 16 k + n. -/
  slots : Map SlotSt := []
  /-- Tokens of firings that have still to leave, oldest first: a DENC's groups, a digit tail, SEGMARK's control token, each
  with its destination field and its slot (R65, R128). -/
  outbox : List (Nat × Nat × Token) := []
  /-- Slots whose firing condition holds, in the order in which it became true (02_execution_model.md R38). -/
  due : List Nat := []
  /-- Per context. -/
  ranges : Map RangeSt := []
  sr : Map Nat := []
  /-- Context the tile has switched to, 4 for none (02_execution_model.md R40). -/
  ctx : Nat := 4
  /-- Rewind state at the SOT of each segment in flight, by context: key 4 * seg + ctx. -/
  snaps : Map Snap := []
  /-- RECONF tokens passed of the switch in progress (R40). -/
  reconfs : Nat := 0
  deriving DecidableEq, Repr

/-- A segment in flight of a load (02_execution_model.md R33). -/
structure Seg where
  n : Nat
  /-- Entry streams that have emitted its EOT. -/
  sent : List Nat := []
  /-- Path ends that have consumed its EOT: exit stream n as n, slot s of tile (y, x) as 1000 + 16 (24 y + x) + s,
  the link that leaves the region from tile (y, x) in direction d as 10000 + 4 (24 y + x) + d. -/
  ended : List Nat := []
  deriving DecidableEq, Repr

/-- A fault charged to a segment: its code and segment and, where it comes from a stream's own access, that stream, the
faulting VA and the element's loop counters (10_faults_modes.md R223). -/
structure SegFault where
  code : BitVec 8
  seg : Nat
  stream : Option Nat := .none
  va : Nat := 0
  iter : List Nat := [0, 0, 0, 0]
  deriving DecidableEq, Repr

/-- A discarded segment waiting for its re-run (10_faults_modes.md R226), and the fault that it was discarded for. -/
structure Rerun where
  seg : Nat
  fault : SegFault
  /-- The page whose completion record it waits for: (ASID, page VA), and that record's status once it is written. -/
  waits : Option (BitVec 16 × Nat) := .none
  status : Option Nat := .none
  deriving DecidableEq, Repr

/-- A copy of a cloned load (02_execution_model.md R50): the region of the original, the corner of the copy's region and that
of the original's. -/
structure Copy where
  region : Nat
  y0 : Nat
  x0 : Nat
  homeY : Nat
  homeX : Nat
  deriving DecidableEq, Repr

/-- A resident fabric load, one context of a region (02_execution_model.md R27, R39, R42; 13_encodings.md Table 13.10). -/
structure Ctx where
  /-- Identity of the load. -/
  id : Nat := 0
  image : Nat := 0
  asid : BitVec 16 := 0
  mode : BitVec 5 := 0
  cage : Nat := 0
  m : Nat := 0
  srkey : BitVec 64 := 0
  clonable : Bool := false
  sys : Option (Nat × Nat × Nat × Nat) := .none
  /-- The save area, and the ASID in which it stands (10_faults_modes.md R228, 15_ref_a_c.md R342). -/
  save : Nat := 0
  saveAsid : BitVec 16 := 0
  chans : List Chan := []
  edges : List Edge := []
  ranges : List Owned := []
  /-- Content of each tile, by 24 y + x (absolute). -/
  tiles : Map TileCfg := []
  frozen : Bool := false
  /-- PENDING of a frozen context: a faulting access is to be performed again. -/
  pending : Bool := false
  /-- After a CRESTORE, the stream whose access comes first: the one that faulted (10_faults_modes.md R229). -/
  firstBy : Option Nat := .none
  /-- The context has been made active since its CLOAD (R71, R345). -/
  begun : Bool := false
  /-- A final fault stopped the load (R226): its code. -/
  final : Option (BitVec 8) := .none
  segs : List Seg := []
  /-- Re-runs that ECC, HANDLER and LINK have started for each segment in flight (R219, R226). -/
  reruns : Map Nat := []
  rerun : Option Rerun := .none
  /-- Frame tags allocated, each with its segment (19_ref_t_z.md R419). -/
  tags : List (Nat × Nat) := []
  /-- The path ends that an EOT must reach, numbered as in Seg.ended (R33). -/
  ends : List Nat := []
  /-- Segment counts of entry streams that have closed (R32). -/
  closed : List (Nat × Nat) := []
  /-- The CLOAD command that loaded it (R263), and the pool index of the task it serves. -/
  cmd : QWord := 0
  task : Option Nat := .none
  /-- Tokens parked at a CSWITCH (15_ref_a_c.md R345): (tile key 24 y + x, direction, tokens). -/
  parked : List (Nat × Nat × List Token) := []
  /-- ENTRYWAIT windows seen low; from 2 on the foreman removes a copy at the next segment boundary (11_scheduling.md R255). -/
  lowWindows : Nat := 0
  /-- The foreman adds a copy at the next segment boundary (R50, 11_scheduling.md R255). -/
  copyDue : Bool := false
  /-- The regions in which the foreman keeps copies of the load beside the original, copies 1, 2 and 3, the segment from
  which the SPLIT deals the segments out, and for each exit stream the segment that its ORDMERGE takes now (R50). -/
  clones : List Nat := []
  splitFrom : Nat := 0
  merges : Map Nat := []
  /-- This is a copy: everything but where its tiles stand is the original's. -/
  copyOf : Option Copy := .none
  /-- When it was last made active (R253 class 4). -/
  used : Nat := 0
  deriving DecidableEq, Repr

/-- A CSWITCH in progress (02_execution_model.md R40). -/
structure Switch where
  slot : Nat
  cmdId : Nat
  /-- RECONF has been emitted and absorbed: the incoming context settles. -/
  settling : Bool := false
  deriving DecidableEq, Repr

/-- A region of a core (02_execution_model.md R29). -/
structure Region where
  y0 : Nat
  x0 : Nat
  y1 : Nat
  x1 : Nat
  active : Option Nat := .none
  ctxs : Map (Option Ctx) := []
  switching : Option Switch := .none
  /-- A FREEZE fault or CSAVE has stopped the region's clock: the context slot and the fault to deliver. -/
  stopped : Option (Nat × Option SegFault) := .none
  /-- The command a CSAVE or CRETIRE of the active context waits under. -/
  pendCmd : Option Nat := .none
  /-- Once the clock has stopped: lines of the save area that the scan-out has still to write, and those it has written
  (10_faults_modes.md R227, 07_consistency.md R149). -/
  scanLeft : Option (List Nat) := .none
  scanned : List (Nat × List Byte) := []
  /-- The watchdog's count: the step in which it last started, and the region cycles that it held then. A token that crosses a
  link and an access that completes clear it; it stands still while the region is tripped at an entry AG tile
  (10_faults_modes.md R237, 12_power.md R274). -/
  moved : Nat := 0
  idle : Nat := 0
  deriving DecidableEq, Repr

/-- Voltage and frequency region (12_power.md R266, R268, R271, R273, R274). -/
structure VfRegion where
  fstep : Nat := 18
  mv : Nat := 550
  phiCan : Nat := 255
  tripped : Bool := false
  cool : Nat := 0
  /-- Canary weights in units of 2^-16, newest first, at most 100,000. -/
  history : List Nat := []
  /-- An operating-point change in progress: the METER command and the point it leads to. -/
  slew : Option (Nat × Nat × Nat) := .none
  deriving DecidableEq, Repr

/-- An injection meter (12_power.md R270, R271, R279). CEIL 0 is no ceiling; B is the bucket as it stood at uncore cycle `at_`. -/
structure Meter where
  ceil : Nat := 0
  burst : Nat := 8
  rate : Nat := 1300
  b : Nat := 0
  at_ : Nat := 0
  deriving DecidableEq, Repr

/-- A core beside its thread, tiles and ports. -/
structure Core where
  fifos : Map (List (BitVec 8)) := []
  queues : Map (List QCmd) := []
  regions : Map (Option Region) := []
  flags : BitVec 64 := 0
  vcut : BitVec 2 := 0
  hcut : Bool := false
  vf : Map VfRegion := []
  meters : Map Meter := []
  /-- When the last throttle notice of each reason reached the thread (TIME), and the reasons due to be sent (12_power.md R275). -/
  notices : Map (Option Nat) := []
  noticeDue : List (BitVec 2) := []
  /-- Pool index of a task bound to the core but not yet taken. -/
  bound : Option Nat := .none
  /-- Lines that the thread's instruction cache holds, by line number, the latest last: at most 256 (06_memory.md R138). -/
  icache : List Nat := []
  deriving DecidableEq, Repr

/-- The kinds of a stream program (18_ref_s.md R392). -/
inductive ProgKind where
  | load | push | store | gather | scatter | kvadmit
  deriving DecidableEq, Repr

/-- A stream program with its loop counters (18_ref_s.md R393, R406). -/
structure Prog where
  kind : ProgKind
  cmdId : Nat
  asid : BitVec 16
  bind : Nat
  ipc : Word
  /-- The 64-byte parameter block as read. -/
  block : BitVec 512
  /-- Segments of this program finished. -/
  segsDone : Nat := 0
  /-- Index within the segment of the next element, or of the next run of a seam stream, and the next token of that run. -/
  pos : Nat := 0
  sub : Nat := 0
  /-- SOT of the current segment has been emitted or taken. -/
  inSeg : Bool := false
  /-- Element tokens emitted in the current segment (R34). -/
  toks : Nat := 0
  /-- The segments begun that may still be in flight: number, segsDone and ORDER count at the SOT. -/
  marks : List (Nat × Nat × Nat) := []
  /-- Elements by index: read and waiting to be emitted, or waiting to be written. -/
  fetched : List (Nat × List Byte) := []
  /-- The side record of the run being decoded (09_attention.md R193). -/
  side : List Byte := []
  /-- Lines of a side record read so far, by piece. -/
  parts : List (Nat × List Byte) := []
  /-- Run list of a KVADMIT: (BVA, FIRST, COUNT). -/
  runs : List (Nat × Nat × Nat) := []
  /-- An SBARTOK is due after the EOT just emitted. -/
  sbDue : Bool := false
  deriving DecidableEq, Repr

/-- A store line of a port: line VA, physical address of the line, 128 byte cells (none = mask bit 0), segment, and the
program that made it (03_fabric.md R79, 10_faults_modes.md R224). -/
structure LineReq where
  va : Nat
  pa : Nat
  cells : List (Option Byte)
  seg : Nat
  cmdId : Nat
  asid : BitVec 16
  ipc : Word
  /-- The loop counters of its first element (10_faults_modes.md R223). -/
  iter : List Nat := [0, 0, 0, 0]
  /-- It is complete or its time is over: it leaves as soon as it is the oldest (03_fabric.md R79). -/
  due : Bool := false
  deriving DecidableEq, Repr

/-- An entry of a hold buffer: a line, the mark of an ORDER with its instance number and mask (07_consistency.md R162),
or a scatter element. -/
inductive Held where
  | line (l : LineReq)
  | order (k : Nat) (mask : BitVec 32) (seg : Nat)
  | scatter (i : Nat) (bytes : List Byte) (seg : Nat)
  deriving DecidableEq, Repr

/-- A stream port (18_ref_s.md R392). -/
structure Port where
  isOpen : Bool := false
  /-- Identity of the stream that has the port open, by which its pins are held (09_attention.md R201). -/
  id : Nat := 0
  entry : Bool := false
  bind : Nat := 0
  asid : BitVec 16 := 0
  /-- Number of the next segment since the stream opened. -/
  segNo : Nat := 0
  prog : Option Prog := .none
  /-- Finished programs with segments that may still be in flight, oldest first, and rewound programs that run after
  `prog` (10_faults_modes.md R225). -/
  past : List Prog := []
  redo : List Prog := []
  /-- Tokens from the fabric (exit) waiting at the tile. -/
  inp : List Token := []
  /-- Open coalescing lines, oldest first. -/
  lines : List LineReq := []
  hold : List Held := []
  /-- Entries of the hold buffer of segments below this one are released (R162). -/
  rel : Nat := 0
  /-- Lowest and highest VA written, if any byte was (R218). -/
  low : Nat := 0
  high : Nat := 0
  written : Bool := false
  /-- Pushed lines accepted and not yet emitted, as payloads, oldest first. -/
  pushed : List Lanes := []
  /-- Lines sent by ay.push still on their way. -/
  arriving : List (BitVec 1024) := []
  /-- Barrier instances whose point the stream has reached and that hold it. -/
  heldBy : List Nat := []
  /-- The stream is being closed by abandonment or by a final fault: its programs retire with this code. -/
  closing : Option (BitVec 8) := .none
  /-- Its SCLOSE has retired while segments of it are still in flight, which a fault may yet rewind to it (R397,
  10_faults_modes.md R225; log 101): the port is idle to every command, and keeps its finished programs until then. -/
  shut : Bool := false
  /-- ORDER tokens absorbed since CLOAD (07_consistency.md Table 7.4: the k-th belongs to instance k). -/
  orders : Nat := 0
  deriving DecidableEq, Repr

/-- A request that has left a core egress or another agent and whose write is not performed (07_consistency.md R151). -/
structure Req where
  id : Nat
  core : Nat
  /-- The stream that made it; none for the control thread. -/
  sid : Option Nat
  cmdId : Option Nat
  asid : BitVec 16
  va : Nat
  pa : Nat
  cells : List (Option Byte)
  pc : Word
  seg : Nat := 0
  iter : List Nat := [0, 0, 0, 0]
  /-- It has left the core: a store of the thread stands before the core egress until it does (R164). -/
  left : Bool := true
  /-- Edges of its route that it has crossed, and the pithead port after them (01_device.md R13, 06_memory.md R139). -/
  hops : Nat := 0
  /-- Edges that its completion has crossed on the way back. -/
  back : Nat := 0
  /-- How often its flit has been sent again over the edge on which it stands (10_faults_modes.md R236). -/
  resent : Nat := 0
  /-- Performed at its home, or refused there with a code; its completion is on the way. -/
  outcome : Option (BitVec 8) := .none
  deriving DecidableEq, Repr

/-- A way of an L2 set (06_memory.md R136, 08_assayers.md R176): line PA, dirty, entry tag (16 for none), the hart that
locked it, and whether with W permission. -/
structure Way where
  line : Nat
  dirty : Bool := false
  tag : Nat := 16
  locked : Option Nat := .none
  lockW : Bool := false
  deriving DecidableEq, Repr

/-- An L2 set: ways 0 to 15 and 15 tree bits. -/
structure CacheSet where
  ways : Map (Option Way) := []
  tree : BitVec 15 := 0
  deriving DecidableEq, Repr

/-- Who makes an access: the originator code of Table 8.4, its master ID, ASID and VA; whether it raises no events (for
ay.fill or a MSG), is a PREF's, or stores all 128 bytes; and the handler context whose ay.fill it is, until that handler has
ended (15_ref_a_c.md R323). -/
structure Origin where
  okind : Nat
  master : Nat
  asid : BitVec 16
  va : Nat
  quiet : Bool := false
  pref : Bool := false
  full : Bool := false
  hart : Option Nat := .none
  deriving DecidableEq, Repr

/-- A request that has reached a slice, whose access table has let it in, and which waits there (14_system.md R303): its
line and origin, TIME when it came, the PC of its thread, and whether it has met its line absent, so that its hit later is
not one (06_memory.md R136, 02_execution_model.md R52). -/
structure Inside where
  line : Nat
  who : Origin
  at_ : Nat
  pc : Word
  met : Bool := false
  deriving DecidableEq, Repr

/-- The stage of a miss (08_assayers.md R177). -/
inductive MissStage where
  | evict
  /-- Its dirty victim waits for a miss register (06_memory.md R140). -/
  | room
  | miss
  /-- It waits for a miss register (06_memory.md R140). -/
  | await
  | fetch | fill | faulted
  deriving DecidableEq, Repr

/-- An access in progress at a slice: its line, reserved way, who asks, and the stage. -/
structure Miss where
  line : Nat
  way : Nat
  stage : MissStage
  /-- The originator: code of Table 8.4, master ID, ASID, VA. -/
  okind : Nat
  master : Nat
  asid : BitVec 16
  va : Nat
  /-- Entry the new line will carry, 16 for none. -/
  tag : Nat
  /-- The access is for ay.fill or a MSG: no events. -/
  quiet : Bool := false
  /-- A PREF made it: nobody waits for it. -/
  pref : Bool := false
  /-- A store of all 128 bytes: the stack is not read (06_memory.md R136). -/
  full : Bool := false
  /-- The handler context whose ay.fill made it: the fetch completes after that handler ends (15_ref_a_c.md R323). -/
  hart : Option Nat := .none
  deriving DecidableEq, Repr

/-- An event queued at a slice (08_assayers.md R185). hook: 0 MISS, 1 FILL, 2 EVICT, 3 MSG. -/
structure SliceEv where
  hook : Nat
  entry : Nat
  line : Nat
  way : Nat
  va : Nat
  asid : BitVec 16
  okind : Nat
  master : Nat
  payload : QWord := 0
  deriving DecidableEq, Repr

/-- A handler context of an assayer (08_assayers.md R173, R179). -/
structure Hart where
  x : Map (BitVec 32) := []
  pc : BitVec 32 := 0
  /-- The event it runs; none when idle. -/
  ev : Option SliceEv := .none
  /-- EVICT: the victim way chosen last. -/
  victim : Nat := 0
  /-- The uncore cycle in which the handler's first instruction issued (R184), and that from which the context is ready. -/
  start : Option Nat := .none
  ready : Nat := 0
  /-- A copy whose cycles reach beyond the budget has been made; the handler is about to be aborted (R184). -/
  spent : Bool := false
  deriving DecidableEq, Repr

/-- An L2 slice with its assayer. -/
structure Slice where
  sets : Map CacheSet := []
  misses : List Miss := []
  /-- Accesses that wait for a way of their set or for a miss register, oldest first (06_memory.md R136, R140). -/
  waiting : List (Nat × Origin) := []
  /-- Requests that the slice has checked and not yet performed, oldest first. -/
  inside : List Inside := []
  /-- Dirty lines on their way back to the stack, each with its miss register (R140). -/
  writebacks : List Nat := []
  /-- The handler context that issued last, and the uncore cycle of that issue (08_assayers.md R173). -/
  lastCtx : Nat := 3
  issuedAt : Option Nat := .none
  events : List SliceEv := []
  /-- Word w of handler-table entry n at key 16 n + w (08_assayers.md Table 8.2). -/
  table : Map (BitVec 64) := []
  unmatched : BitVec 64 := 0
  instret : Word := 0
  deriving DecidableEq, Repr

/-- A cached translation (10_faults_modes.md R216): ASID, page VA / 64 KiB, leaf PTE's frame base, permission bits of the PTE. -/
structure TEntry where
  asid : BitVec 16
  page : Nat
  frame : Nat
  perm : BitVec 9
  deriving DecidableEq, Repr

/-- A deep-tier fetch in progress (06_memory.md R147): page, locator, frame taken. -/
structure Fetch where
  asid : BitVec 16
  page : Nat
  port : Nat
  index : Nat
  frame : Option Nat := .none
  /-- Its completion record waits for room in the ring: status. -/
  ended : Option Nat := .none
  /-- Step 4 has begun: translation of the page stalls (07_consistency.md R169). -/
  stalled : Bool := false
  /-- Lines of the page that have been written (06_memory.md R147). -/
  moved : List Nat := []
  deriving DecidableEq, Repr

/-- A page on its way to the deep tier (09_attention.md R202): the page, its place there, its frame, and the lines read. -/
structure Descent where
  asid : BitVec 16
  page : Nat
  port : Nat
  index : Nat
  frame : Nat
  moved : List Nat := []
  deriving DecidableEq, Repr

/-- A page whose release is pending, or whose PTE has been cleared and whose shootdown is not complete (09_attention.md
R202, 10_faults_modes.md R217). -/
structure Release where
  asid : BitVec 16
  page : Nat
  cleared : Bool := false
  deriving DecidableEq, Repr

/-- A holder of pins (09_attention.md R201, 17_ref_m_r.md R388). -/
inductive Holder where
  /-- The stream that a port's `id` names. -/
  | stream (id : Nat)
  | context (core region slot : Nat)
  | area (core region slot : Nat)
  | task (die pool : Nat)
  | thread (core : Nat)
  deriving DecidableEq, Repr

/-- A stream barrier instance (07_consistency.md R159): participants, those whose point is reached, scope, SBAR command. -/
structure Barrier where
  id : Nat
  core : Nat
  /-- The region of the load that an ORDER or SBARTOK belongs to. -/
  region : Nat := 0
  mask : BitVec 32
  reached : BitVec 32
  scope : BitVec 2
  cmdId : Option Nat
  /-- For ORDER: the instance number k; for SBARTOK: the segment. -/
  key : Nat
  order : Bool
  /-- The segment in which the token stands. -/
  seg : Nat := 0
  deriving DecidableEq, Repr

/-- A command that a sluice engine runs: the engine, core and command, the block, the next element, the bytes read and
not yet looked at, the records found, the best so far as (index, raw bits or BVA, score bits), and the query's bytes. -/
structure SluiceRun where
  engine : Nat
  core : Nat
  cmdId : Nat
  block : BitVec 512
  pos : Nat := 0
  buf : List Byte := []
  count : Nat := 0
  best : List (Nat × Nat × Nat) := []
  query : List Byte := []
  deriving DecidableEq, Repr

/-- A base die (06_memory.md R142, R145). -/
structure StackSt where
  /-- Indirect commands waiting: core and command, at most 64 (06_memory.md R142). -/
  iseQueue : List (Nat × Nat) := []
  /-- Engines 0 to 15: the command each runs. -/
  ise : Map (Option (Nat × Nat)) := []
  /-- Sluice engines in the order in which they became idle. -/
  idle : List Nat := [0, 1, 2, 3]
  /-- The queue of sluice commands, oldest first, at most 16: core and command (06_memory.md R145). -/
  sluice : List (Nat × Nat) := []
  runs : List SluiceRun := []
  deriving DecidableEq, Repr

/-- A member's command waiting in a collective instance (14_system.md R308). -/
structure Member where
  rank : Nat
  core : Nat
  cmdId : Nat
  asid : BitVec 16
  opcode : Nat
  block : BitVec 512
  deriving DecidableEq, Repr

/-- A collective instance by GID: the members that its first descriptor names and their number (0 while no descriptor in its
limits has been read), those of this module that have issued, a fault at a member that ended it, the sources once all have been
read, by rank. -/
structure Coll where
  gid : Nat
  nmem : Nat
  group : List Nat := []
  members : List Member
  code : Option (BitVec 8) := .none
  srcs : Option (List (List Byte)) := .none
  deriving DecidableEq, Repr

/-- State of a task in the pool (11_scheduling.md R252). -/
inductive TaskState where
  | waiting | ready | bound | running | preempted
  deriving DecidableEq, Repr

/-- A task in a foreman's pool. -/
structure Task where
  record : QWord
  queue : Nat
  /-- Origin module and cluster (Table 11.7). -/
  origin : Nat
  state : TaskState
  prio : Nat
  /-- TIME at which it became ready, and at which it was bound. -/
  readyAt : Nat := 0
  boundAt : Nat := 0
  order : Nat := 0
  /-- Place: core, region, slot holding IMAGE. -/
  core : Nat := 0
  region : Nat := 0
  slot : Nat := 0
  /-- It has been pre-empted: its state stands in its save slot. -/
  saved : Bool := false
  /-- CANCEL or teardown has reached it, and it is being abandoned; or a command that the foreman issued for it has failed
  after its TAKE, with the code that it is to end with (R246, R261). -/
  doomed : Bool := false
  doomCode : Option (BitVec 8) := .none
  /-- Its loads are being stopped for pre-emption. -/
  stopping : Bool := false
  /-- A pre-empted task's stopped streams and their commands (10_faults_modes.md R232). -/
  ports : List (Nat × Port) := []
  cmds : List QCmd := []
  /-- The contexts that a pre-empted task left in its region: slot and identity of the load (R264). -/
  left : List (Nat × Nat) := []
  /-- The foreman whose keys its record names, once it has been handed to another (R264). -/
  takenAt : Option Nat := .none
  deriving DecidableEq, Repr

/-- A job-table entry (11_scheduling.md R248). -/
structure Job where
  isOpen : Bool := false
  gen : BitVec 6 := 0
  asid : BitVec 16 := 0
  count : Nat := 0
  first : BitVec 8 := 0
  anyCancel : Bool := false
  failed : Nat := 0
  cancelling : Bool := false
  deriving DecidableEq, Repr

/-- A key (11_scheduling.md R250): completion count, cancellation count, ASID tag, waiting pool indexes oldest first. -/
structure Key where
  c : Nat := 0
  x : Nat := 0
  asid : Option (BitVec 16) := .none
  waiters : List Nat := []
  deriving DecidableEq, Repr

/-- How a task ended (Table 11.5). -/
inductive EndKind where
  | completed | failed | cancelled
  deriving DecidableEq, Repr

/-- A message between foremen or to a foreman. -/
inductive Msg where
  /-- The end of pool entry p with a code reaches its foreman (R251). -/
  | ended (p : Nat) (how : EndKind) (code : BitVec 8)
  /-- A decrement of job j, with what the end adds to its status (R249). -/
  | decrement (job : BitVec 16) (how : EndKind) (code : BitVec 8)
  /-- A cancel of a job whose origin is a module (R259). -/
  | cancel (job : BitVec 16) (origin : Nat)
  deriving DecidableEq, Repr

/-- A message to another module over Adit: a record that an ENQ names, a cancel, or the decrement of a job there
(11_scheduling.md R243, R249, R259). -/
inductive AditMsg where
  | enq (cluster queue : Nat) (record : QWord) (asid : BitVec 16) (origin : Nat)
  | cancel (job : BitVec 16) (origin : Nat)
  | decrement (job : BitVec 16) (how : EndKind) (code : BitVec 8)
  deriving DecidableEq, Repr

/-- A foreman (11_scheduling.md). -/
structure Foreman where
  /-- Word w of intake descriptor q at key 4 q + w (Table 11.1). -/
  desc : Map (BitVec 64) := []
  head : Map Nat := []
  /-- The enabled queues whose head counter is still to be read (R241). -/
  reading : List Nat := []
  age : Nat := 100
  idlePc : Nat := 0
  trapPc : Nat := 0
  saveBase : Nat := 0
  keyOvf : Bool := false
  /-- Word w of task-type entry t at key 8 t + w (Table 11.3). -/
  types : Map (BitVec 64) := []
  jobs : Map Job := []
  keys : Map Key := []
  pool : Map (Option Task) := []
  inbox : List Msg := []
  /-- Number of the next task to become ready, which orders tasks of one TIME. -/
  nextOrder : Nat := 0
  /-- The queue whose head is looked at next (R243). -/
  turn : Nat := 0
  /-- Modules that received an ENQ of a job: (job, module) (R259). -/
  sentTo : List (BitVec 16 × Nat) := []
  deriving DecidableEq, Repr

/-- A measurement-log entry (14_system.md R311). -/
structure LogEntry where
  index : BitVec 8
  asid : BitVec 16
  epoch : BitVec 32
  addr : BitVec 64
  digest : BitVec 512
  deriving DecidableEq, Repr

/-- What a request of the host or of the headframe is answered: its bytes, a poisoned response, or a refusal
(14_system.md R300, R314). -/
inductive HostAns where
  | done (bytes : List Byte)
  | poisoned
  | refused
  deriving DecidableEq, Repr

/-- The headframe, the power controller and the pithead die. -/
structure Head where
  /-- Last completed bring-up step, holding after step 5, failure code. -/
  step : Nat := 0
  holding : Bool := false
  releasing : Bool := false
  failure : Option (BitVec 32) := .none
  recovery : Bool := false
  /-- Mailbox request bytes, GO/BUSY and STATUS (R309). -/
  mboxReq : BitVec 512 := 0
  mboxStatus : BitVec 64 := 0
  busy : Bool := false
  msix : List (BitVec 2) := []
  /-- The answers to reads and writes of memory and of control registers from outside, by physical address, oldest first. -/
  answers : List (Nat × HostAns) := []
  mr : Map (BitVec 512) := []
  log : List LogEntry := []
  epoch : BitVec 32 := 0
  apertures : Map (BitVec 64) := []
  routes : Map (BitVec 16) := []
  /-- Ports that have failed since link training: bit n. -/
  deadPorts : BitVec 16 := 0
  /-- How often the flit that stands at each port, beside those of the requests in `egress`, has been sent again (R236). -/
  retries : Map Nat := []
  /-- CLID.MODULE, and whether the request MODULE has set it. -/
  moduleNo : BitVec 12 := 0
  moduleSet : Bool := false
  /-- Base of the ASID table (10_faults_modes.md R212). -/
  asidBase : Nat := 0
  /-- phi-cap, the last power samples in mW newest first (12_power.md R272). -/
  phiCap : Nat := 255
  power : List Nat := []
  deriving DecidableEq, Repr

/-- One access-table window (14_system.md R302): base line, last line, permissions AT X W R, EN, PUSH. -/
structure Window where
  base : Nat := 0
  last : Nat := 0
  perm : BitVec 4 := 0
  en : Bool := false
  push : Bool := false
  deriving DecidableEq, Repr

/-- A denial log (Table 14.4). -/
structure Denial where
  count : BitVec 32 := 0
  kind : BitVec 2 := 0
  master : BitVec 10 := 0
  addr : BitVec 48 := 0
  deriving DecidableEq, Repr

/-- The scanned-out state of a frozen context (10_faults_modes.md R227 to R229), kept beside its save area's header. -/
structure SaveArea where
  ctx : Ctx
  y0 : Nat
  x0 : Nat
  y1 : Nat
  x1 : Nat
  core : Nat
  /-- Tiles by 24 y + x relative to (y0, x0), those of copy n of a cloned load by 384 n more (R239), and ports by stream ID. -/
  tiles : Map Tile
  ports : Map Port
  flags : BitVec 5
  /-- The bytes of each memory tile, numbered as the tiles, that the context's ranges hold, and its poisoned words, by offset in the tile (R227, R236). -/
  mem : Map (Map Byte)
  bad : Map (List Nat)
  /-- The lines of the area as they were written, by number (15_ref_a_c.md R339). -/
  lines : List (Nat × List Byte)
  deriving DecidableEq, Repr

/-- The whole module, and what the host and other modules hold that it can reach. -/
structure State where
  agenda : List Turn
  self : Who
  tick : Nat
  nextId : Nat
  /-- TIME, ns since cold reset (15_ref_a_c.md R344). -/
  time : Nat
  /-- The step count at the last reset, from which every CYCLE counts (R344). -/
  cycleFrom : Nat
  /-- TIME at the last reset, from which uncore cycles count (08_assayers.md Table 8.1). -/
  timeFrom : Nat
  /-- All byte-addressed memory by physical address; bytes of module m at 2^48 * (m + 1) + PA for other modules. -/
  mem : Map Byte
  /-- Poisoned 8-byte words by PA / 8 (10_faults_modes.md R236). -/
  poison : Map Bool
  threads : Map Thread
  cores : Map Core
  tiles : Map Tile
  ports : Map Port
  egress : List Req
  barriers : List Barrier
  slices : Map Slice
  harts : Map Hart
  /-- Translation caches: core k at k, assayer of slice i at 1,000 + i, base die j at 2,000 + j. -/
  tcaches : Map (List TEntry)
  /-- Access tables: entry of master id at target t, window w, at key (1,024 t + id) * 4 + w; none as reset leaves it. -/
  access : Map (Option Window)
  denials : Map Denial
  fetches : List Fetch
  /-- Pages whose translation a MIGRATE blocks (07_consistency.md R169). -/
  blocked : List (BitVec 16 × Nat)
  /-- How often the flit that stands at each UCIe edge, beside those of the requests in `egress`, has been sent again (R236). -/
  resent : Map Nat
  /-- Pages of drives: key 2^30 * port + index -> byte map kept as a list of (offset, byte). -/
  drives : Map (List (Nat × Byte))
  pins : List (BitVec 16 × Nat × Holder)
  /-- Pages whose release is pending (09_attention.md R202). -/
  releasing : List Release
  /-- Pages on their way to the deep tier. -/
  descents : List Descent
  /-- Entries on their way to a ring, oldest first. -/
  records : List RingEntry
  colls : List Coll
  baseDies : Map StackSt
  foremen : Map Foreman
  /-- What the foremen have sent to other modules, by module number, the oldest first. -/
  sent : List (Nat × AditMsg)
  /-- Scanned-out contexts by the physical address of their save area. -/
  saves : Map (Option SaveArea)
  head : Head
  deriving DecidableEq, Repr

/-- The module right after cold reset: every table at its reset values, the threads held, bring-up at step 0. -/
def State.reset : State where
  agenda := []
  self := .thread 0
  tick := 0
  nextId := 0
  time := 0
  cycleFrom := 0
  timeFrom := 0
  mem := []
  poison := []
  threads := []
  cores := []
  tiles := []
  ports := []
  egress := []
  barriers := []
  slices := []
  harts := []
  tcaches := []
  access := []
  denials := []
  fetches := []
  blocked := []
  resent := []
  drives := []
  pins := []
  releasing := []
  descents := []
  records := []
  colls := []
  baseDies := []
  foremen := []
  sent := []
  saves := []
  head := {}

end Sys2Proof.Machine
end

