-- ==== Sys2Proof/Config.lean ====
section
/-!
DEFINITION. What the spec leaves open and what one part has fixed in it: constants with no body, so that nothing can be
proved of a particular value. Each takes the step count, so that every step has a fresh one.
-/
namespace Sys2Proof.Config

open Sys2Proof.Machine

/-- Which agent moves when the schedule names none: the spec fixes no order of agents (07_consistency.md). -/
opaque freeTurn : Nat → Turn
/-- How many ns pass in a step (15_ref_a_c.md R344). -/
opaque stepNs : Nat → Nat
/-- How many core cycles of core `k` pass in a step (15_ref_a_c.md R344). -/
opaque stepCycles : Nat → Nat → Nat
/-- How many cycles of fabric region `j` of core `k` pass in a step (10_faults_modes.md R237). -/
opaque regionCycles : Nat → Nat → Nat → Nat
/-- Whether a fetched word executes as it was fetched, or as memory holds it now (06_memory.md R138). -/
opaque runsStale : Nat → Bool
/-- Whether a byte that a failed or racing copy may or may not have written holds its new value
(16_ref_d_l.md R358, 15_ref_a_c.md R338, 14_system.md R314). -/
opaque byteIsNew : Nat → Nat → Bool
/-- Which entry a full translation cache replaces (10_faults_modes.md R217). -/
opaque cacheVictim : Nat → Nat
/-- Whether a hoist command, by its identity, moves its lines in descending order where the order is not said
(06_memory.md R146). -/
opaque copyDescends : Nat → Bool
/-- Whether a MODULE request after bring-up step 6 ends with STATUS 1 or 2 (14_system.md R309). -/
opaque eitherOf : Nat → Bool
/-- EVAL of an ACCESS fault of an instruction that names no virtual address (16_ref_d_l.md R351). -/
opaque evalWithoutVa : Nat → BitVec 64
/-- The firmware of boot-flash slots A and B as byte strings (14_system.md R310). -/
opaque firmware : Bool → List Byte
/-- Where the signature, the public key and the version stand in a firmware slot is not given: the fields as the ROM reads
them: key, signature, header bytes, body digest in the header, version, body (14_system.md R310). -/
opaque firmwareKey : Bool → List Byte
opaque firmwareSig : Bool → List Byte
opaque firmwareHeader : Bool → List Byte
opaque firmwareDigest : Bool → List Byte
opaque firmwareVersion : Bool → Nat
opaque firmwareBody : Bool → List Byte
/-- The failure code of a bring-up that has found no accepted firmware slot (14_system.md R310, R313). -/
opaque bootFailure : BitVec 32
/-- The ROM's own bytes, measured into MR0 (14_system.md R311). -/
opaque romImage : List Byte
/-- Fuses: digests of up to four public keys, revocations, anti-rollback counter, unique secret (14_system.md R310, R312). -/
opaque fuseKey : Nat → List Byte
opaque fuseRevoked : Nat → Bool
opaque fuseCounter : Nat
opaque fuseSecret : List Byte
/-- The module number in the boot flash (14_system.md Table 14.8). -/
opaque flashModule : BitVec 12
/-- The address that a measurement is logged with where the spec names none (14_system.md R311). -/
opaque measureAddr : Nat → BitVec 64
/-- What the host link or another module answers to a request: 0 it is performed, 1 its transfer fails with LINK
(10_faults_modes.md R236), 2 the remote target denies it (14_system.md R307), 3, for an ENQ, the pool there is full (16_ref_d_l.md R351). -/
opaque remoteAnswer : Nat → Nat

/-- What the members of a collective in other modules do: whether all of them have issued by a step, which of the faults of
15_ref_a_c.md R338 one of them has met (none beyond its list), and their source bytes: GID, rank, index (14_system.md R308). -/
opaque membersThere : Nat → Bool
opaque memberFault : Nat → Nat
opaque memberSource : Nat → Nat → Nat → Byte

/-- Pages of the drive behind a deep-tier port, at least one (06_memory.md R147; log 53). -/
opaque morePages : Nat → Nat
def drivePages (port : Nat) : Nat := morePages port + 1

/-- The tag of a token that a word, matrix or LUT op forms, and of a NULL put in its place: no rule states it (03_fabric.md R56, R355). -/
opaque resultTag : Nat → BitVec 12

/-- Which of the tokens that one firing consumes from an input of rate above 1 is the operand, and the lanes of the tokens
after the first that it produces on an output of rate above 1: no rule states them (02_execution_model.md R36). -/
opaque rateChoice : Nat → Nat
opaque rateLanes : Nat → Nat → Lanes

/-- How many group additions a lane of an accumulator shows to a slot that reads it while a firing adds to it: of those that
it may show, counted from the first, and the last for every number beyond (03_fabric.md R69). -/
opaque groupsSeen : Nat → Nat → Nat

/-- Byte i of a save area beyond its header, as a scan-out in a step writes it (15_ref_a_c.md R339). -/
opaque areaByte : Nat → Nat → Byte
/-- ORIGIN of a hook event that a collective engine's access raises: Table 8.4 lists no such originator (08_assayers.md). -/
opaque otherOriginator : Nat

/-- Which of an engine's accesses that are still to be made comes next, where they have no order among themselves
(07_consistency.md R149). -/
opaque pieceOrder : Nat → Nat
/-- How far an entry tile's next accesses have come when a line request of its leaves (03_fabric.md R79). -/
opaque lineSpan : Nat → Nat
/-- Whether an entry tile whose next token could leave reads on first (07_consistency.md R158). -/
opaque readsOn : Nat → Bool

/-- Whether, and to which die's foreman, a pre-empted task of a type with MOVE = 1 is handed (11_scheduling.md R264). -/
opaque handsTo : Nat → Option Nat
/-- The words of the status block, whose layout is not given, of the last completed step and the failure's code
(14_system.md R313). -/
opaque statusWord : Nat → Nat → Option (BitVec 32) → BitVec 64
/-- Which idle handler context takes an event (08_assayers.md R185). -/
opaque idleContext : Nat → Nat
/-- Byte i of a reserved way before anything has been written into it (08_assayers.md R183). -/
opaque emptyWayByte : Nat → Nat → Byte
/-- ADDR of the denial of an ay.push, which names no address at its target (14_system.md Table 14.4). -/
opaque pushAddr : Nat → Nat
/-- CLID[1:0] in a report, which the headframe of no cluster writes (14_system.md R312). -/
opaque reportCluster : BitVec 2

end Sys2Proof.Config
end

