-- ==== Sys2Proof/Machine/Bits.lean ====
section
/-!
DEFINITION. Bit fields, sign extension, byte order and lanes (00_scope.md R1, R2, R8).
-/
namespace Sys2Proof

/-- Bits hi..lo of `x` as a number (00_scope.md R1). -/
def field {w : Nat} (x : BitVec w) (hi lo : Nat) : Nat :=
  (x.toNat >>> lo) % 2 ^ (hi + 1 - lo)

/-- Bits hi..lo of a number. -/
def nfield (x hi lo : Nat) : Nat := (x >>> lo) % 2 ^ (hi + 1 - lo)

/-- The low n bits of `x` as a two's-complement integer (00_scope.md R8). -/
def sextN (x n : Nat) : Int :=
  let v := x % 2 ^ n
  if 2 * v < 2 ^ n then v else (v : Int) - 2 ^ n

/-- An integer modulo 2^w. -/
def wrap (w : Nat) (x : Int) : BitVec w := BitVec.ofInt w x

/-- An n-bit field sign-extended to a 64-bit word. -/
def sextW {n : Nat} (x : BitVec n) : Word := x.signExtend 64

/-- The bytes of a number, least significant first (00_scope.md R2). -/
def toBytes : Nat → Nat → List Byte
  | 0, _ => []
  | n + 1, x => BitVec.ofNat 8 x :: toBytes n (x / 256)

/-- The number that bytes hold, the first least significant (00_scope.md R2). -/
def ofBytes : List Byte → Nat
  | [] => 0
  | b :: t => b.toNat + 256 * ofBytes t

/-- Lane i of a payload (03_fabric.md R53). -/
def lane (p : Lanes) (i : Nat) : BitVec 32 := BitVec.ofNat 32 (p.toNat >>> (32 * i))

/-- The payload with lanes f 0 to f 15. -/
def ofLanes (f : Nat → BitVec 32) : Lanes :=
  BitVec.ofNat 512 ((List.range 16).foldr (fun i acc => (f i).toNat + 2 ^ 32 * acc) 0)

/-- The mask with bit i set where `f i`. -/
def ofFlags (f : Nat → Bool) : BitVec 16 :=
  BitVec.ofNat 16 ((List.range 16).foldr (fun i acc => (if f i then 1 else 0) + 2 * acc) 0)

/-- A payload with its invalid lanes cleared (03_fabric.md R53). -/
def maskLanes (v : BitVec 16) (p : Lanes) : Lanes :=
  ofLanes (fun i => if v.getLsbD i then lane p i else 0)

/-- Byte i of a payload. -/
def payByte (p : Lanes) (i : Nat) : Byte := BitVec.ofNat 8 (p.toNat >>> (8 * i))

/-- The number of one bits of x below bit n. -/
def popCount : Nat → Nat → Nat
  | 0, _ => 0
  | n + 1, x => x % 2 + popCount n (x / 2)

/-- Leading zeros of x in n bits; n for zero. -/
def leadZeros (n x : Nat) : Nat := if x = 0 then n else n - 1 - Nat.log2 x

/-- Trailing zeros of x in n bits; n for zero. -/
def trailZeros : Nat → Nat → Nat
  | 0, _ => 0
  | n + 1, x => if x % 2 = 1 then 0 else 1 + trailZeros n (x / 2)

/-- Floor division of integers by a positive number. -/
def fdiv (a : Int) (b : Nat) : Int := Int.fdiv a b

/-- Clamps x into lo..hi. -/
def clampI (lo hi x : Int) : Int := if x < lo then lo else if hi < x then hi else x

end Sys2Proof
end

