-- ==== Sys2Proof/WellFormed.lean ====
section
/-!
DEFINITION. The limits on fields that a word's layout alone does not enforce. A control-thread word that breaks one
raises ILLEGAL at issue (13_encodings.md R281, R282, R284); a stream command raises CMD or PRIV at ISSUE (R285, 12_power.md R278).
-/
namespace Sys2Proof

/-- The CSR numbers of 13_encodings.md Table 13.5. -/
def csrListed (n : BitVec 16) : Bool :=
  n.toNat ∈ [0x000, 0x001, 0x002, 0x010, 0x011, 0x012, 0x013, 0x014, 0x020, 0x021, 0x022, 0x030, 0x031]

/-- The condition codes of 13_encodings.md Table 13.4. -/
def condListed (c : BitVec 4) : Bool := decide (c.toNat ≤ 9)

/-- Width codes 0, 1 and 2 of SEXT and ZEXT (13_encodings.md Table 13.2). -/
def widthListed (w : BitVec 5) : Bool := decide (w.toNat ≤ 2)

/-- pos + width ≤ 64, with the field holding width - 1 (13_encodings.md Table 13.2). -/
def fieldFits (p w : BitVec 6) : Bool := decide (p.toNat + w.toNat + 1 ≤ 64)

/-- LOOP names the first word after its body, 2 to 2,047 words on (13_encodings.md Table 13.2). -/
def loopFits (o : BitVec 12) : Bool := decide (2 ≤ o.toNat ∧ o.toNat ≤ 2047)

/-- The rules that ISSUE checks for every command: FIFO fields 0 while their enables are 0, binding 0 to 3 or 7 (R285). -/
def headerOk (c : Cmd) : Bool :=
  (c.waitEn || c.waitF == 0) && (c.sigEn || c.sigF == 0) && (decide (c.bind.toNat ≤ 3) || c.bind == 7)

/-- Bits of the operands at or above n are 0. -/
def opsBelow (c : Cmd) (n : Nat) : Bool := decide (c.ops.toNat < 2 ^ n)

/-- A block's VA in operands [55:0], 64-byte aligned (R285). -/
def blockAligned (c : Cmd) : Bool := decide (c.ops.toNat % 64 = 0)

/-- The fields of a METER CEIL or CEILALL (12_power.md Table 12.3, R278). -/
def ceilOk (c : Cmd) : Bool :=
  opsBelow c 18 && (field c.ops 10 0 == 0 || decide (16 ≤ field c.ops 10 0)) && decide (field c.ops 17 11 ≤ 64)

/-- A stream command within Table 13.6 and Table 12.3 as far as ISSUE checks it (R285, R278, 17_ref_m_r.md R387). -/
def cmdOk : Instr → Bool
  | .sload c => headerOk c && c.flags == 0 && opsBelow c 56 && blockAligned c
  | .sloadPush c => headerOk c && c.flags == 1 && opsBelow c 56 && blockAligned c
  | .sstore c | .sgather c | .sscatter c | .kvadmit c => headerOk c && c.flags == 0 && opsBelow c 56 && blockAligned c
  | .sclose c => headerOk c && c.flags == 0 && c.ops == 0
  | .sbar c => headerOk c && c.sid == 0 && decide (c.flags.toNat ≤ 3) && opsBelow c 32
  | .sown c => headerOk c && c.bind != 7 && c.flags == 0 && opsBelow c 56
  | .sseg c => headerOk c && c.flags == 0 && opsBelow c 32
  | .cload c => headerOk c && c.bind != 7 && c.sid == 0 && c.flags == 0 && opsBelow c 56 && blockAligned c
  | .cswitch c | .cretire c => headerOk c && c.bind != 7 && c.sid == 0 && c.flags == 0 && opsBelow c 2
  | .csave c => headerOk c && c.bind != 7 && c.sid == 0 && c.flags == 0 && opsBelow c 58
  | .crestore c => headerOk c && c.bind != 7 && c.sid == 0 && c.flags == 0 && opsBelow c 74
  | .hcopy c | .hfill c => headerOk c && c.sid == 0 && c.flags == 0 && opsBelow c 56 && blockAligned c
  | .selpred c | .seltopk c | .seampack c => headerOk c && c.sid == 0 && c.flags == 0 && opsBelow c 59 && blockAligned c
  | .collred c | .collgath c | .collscat c => headerOk c && c.sid == 0 && c.flags == 0 && opsBelow c 56 && blockAligned c
  | .pgpin c | .pgrel c => headerOk c && c.sid == 0 && c.flags == 0 && opsBelow c 80 && field c.ops 63 56 == 0
      && field c.ops 15 0 == 0 && field c.ops 79 64 != 0
      && decide (field c.ops 55 0 + field c.ops 79 64 * 65536 ≤ 2 ^ 56)
  | .migrate c => headerOk c && c.sid == 0 && c.flags == 0 && field c.ops 15 0 == 0 && field c.ops 63 56 == 0
  | .meterCeil c => headerOk c && c.bind == 7 && c.flags == 0 && ceilOk c
  | .meterCeilall c => headerOk c && c.bind == 7 && c.sid == 0 && c.flags == 1 && ceilOk c
  | .meterPoint c => headerOk c && c.bind == 7 && c.sid == 0 && c.flags == 2 && opsBelow c 17
  | .meterCut c => headerOk c && c.bind == 7 && c.sid == 0 && c.flags == 3 && opsBelow c 3
  | _ => true

/-- The limits of a control-thread word beyond its layout (13_encodings.md R281, R282, R284). -/
def threadOk : Instr → Bool
  | .sext _ _ w | .zext _ _ w => widthListed w
  | .bitf _ _ _ p w => fieldFits p w
  | .biti _ _ p w => fieldFits p w
  | .cmpCc _ _ _ c => condListed c
  | .cmpiCc _ _ c _ => condListed c
  | .brCc _ _ c _ => condListed c
  | .loop _ o => loopFits o
  | .csrr _ c => csrListed c
  | .csrw _ _ c | .csrs _ _ c | .csrc _ _ c => csrListed c
  | _ => true

/-- A well-formed instruction. -/
def Instr.wf (i : Instr) : Bool := threadOk i && cmdOk i

end Sys2Proof
end

