-- ==== Sys2Proof/Decode.lean ====
section
/-!
DEFINITION. Decoding of control-thread words, slot words, assayer words and stream commands, and the encoder of each.
The three kinds of 32-bit word share one number space: which decoder reads a word depends on the agent that fetched it.
-/
namespace Sys2Proof

/-- Why a word has no instruction. -/
inductive DecodeError where
  /-- Major 0x00 or 0x39 to 0x3F of a control-thread word (Table 13.2). -/
  | unassignedMajor
  /-- A minor that Table 13.2 or Table 13.3 does not list. -/
  | unassignedMinor
  /-- A field marked 0 is nonzero (R280). -/
  | reservedField
  /-- A slot op that Table 13.9 does not list. -/
  | unassignedOp
  /-- A stream-command opcode or METER function that Table 13.6 and Table 12.3 do not list. -/
  | unassignedCommand
  /-- Fewer bytes than a word. -/
  | short
  deriving DecidableEq, Repr

/-- Major 0x01 (Table 13.3) (13_encodings.md R281). -/
def decodeAlu (w : BitVec 32) : Except DecodeError Instr :=
  if w.extractLsb' 0 11 = 0#11 then .ok (.add (w.extractLsb' 21 5) (w.extractLsb' 16 5) (w.extractLsb' 11 5))
  else if w.extractLsb' 0 11 = 1#11 then .ok (.sub (w.extractLsb' 21 5) (w.extractLsb' 16 5) (w.extractLsb' 11 5))
  else if w.extractLsb' 0 11 = 2#11 then .ok (.mul (w.extractLsb' 21 5) (w.extractLsb' 16 5) (w.extractLsb' 11 5))
  else if w.extractLsb' 0 11 = 3#11 then .ok (.mulh (w.extractLsb' 21 5) (w.extractLsb' 16 5) (w.extractLsb' 11 5))
  else if w.extractLsb' 0 11 = 4#11 then .ok (.div (w.extractLsb' 21 5) (w.extractLsb' 16 5) (w.extractLsb' 11 5))
  else if w.extractLsb' 0 11 = 5#11 then .ok (.divu (w.extractLsb' 21 5) (w.extractLsb' 16 5) (w.extractLsb' 11 5))
  else if w.extractLsb' 0 11 = 6#11 then .ok (.rem (w.extractLsb' 21 5) (w.extractLsb' 16 5) (w.extractLsb' 11 5))
  else if w.extractLsb' 0 11 = 7#11 then .ok (.remu (w.extractLsb' 21 5) (w.extractLsb' 16 5) (w.extractLsb' 11 5))
  else if w.extractLsb' 0 11 = 8#11 then .ok (.and (w.extractLsb' 21 5) (w.extractLsb' 16 5) (w.extractLsb' 11 5))
  else if w.extractLsb' 0 11 = 9#11 then .ok (.or (w.extractLsb' 21 5) (w.extractLsb' 16 5) (w.extractLsb' 11 5))
  else if w.extractLsb' 0 11 = 10#11 then .ok (.xor (w.extractLsb' 21 5) (w.extractLsb' 16 5) (w.extractLsb' 11 5))
  else if w.extractLsb' 0 11 = 11#11 then .ok (.shl (w.extractLsb' 21 5) (w.extractLsb' 16 5) (w.extractLsb' 11 5))
  else if w.extractLsb' 0 11 = 12#11 then .ok (.shr (w.extractLsb' 21 5) (w.extractLsb' 16 5) (w.extractLsb' 11 5))
  else if w.extractLsb' 0 11 = 13#11 then .ok (.sar (w.extractLsb' 21 5) (w.extractLsb' 16 5) (w.extractLsb' 11 5))
  else if w.extractLsb' 0 11 = 14#11 then .ok (.min (w.extractLsb' 21 5) (w.extractLsb' 16 5) (w.extractLsb' 11 5))
  else if w.extractLsb' 0 11 = 15#11 then .ok (.max (w.extractLsb' 21 5) (w.extractLsb' 16 5) (w.extractLsb' 11 5))
  else if w.extractLsb' 0 11 = 16#11 then .ok (.minu (w.extractLsb' 21 5) (w.extractLsb' 16 5) (w.extractLsb' 11 5))
  else if w.extractLsb' 0 11 = 17#11 then .ok (.maxu (w.extractLsb' 21 5) (w.extractLsb' 16 5) (w.extractLsb' 11 5))
  else if w.extractLsb' 0 16 = 18#16 then .ok (.clz (w.extractLsb' 21 5) (w.extractLsb' 16 5))
  else if w.extractLsb' 0 16 = 19#16 then .ok (.popc (w.extractLsb' 21 5) (w.extractLsb' 16 5))
  else if w.extractLsb' 0 11 = 20#11 then .ok (.sext (w.extractLsb' 21 5) (w.extractLsb' 16 5) (w.extractLsb' 11 5))
  else if w.extractLsb' 0 11 = 21#11 then .ok (.zext (w.extractLsb' 21 5) (w.extractLsb' 16 5) (w.extractLsb' 11 5))
  else if w.extractLsb' 0 11 = 22#11 then .ok (.randk (w.extractLsb' 21 5) (w.extractLsb' 16 5) (w.extractLsb' 11 5))
  else if w.extractLsb' 0 26 = 2047#26 then .ok (.nop)
  else .error .unassignedMinor

/-- Major 0x10 (13_encodings.md R281). -/
def decodePred (w : BitVec 32) : Except DecodeError Instr :=
  if w.extractLsb' 0 17 = 0#17 then .ok (.pand (w.extractLsb' 23 3) (w.extractLsb' 20 3) (w.extractLsb' 17 3))
  else if w.extractLsb' 0 17 = 1#17 then .ok (.por (w.extractLsb' 23 3) (w.extractLsb' 20 3) (w.extractLsb' 17 3))
  else if w.extractLsb' 0 20 = 2#20 then .ok (.pnot (w.extractLsb' 23 3) (w.extractLsb' 20 3))
  else .error .unassignedMinor

/-- Major 0x13 (13_encodings.md R281). -/
def decodeBp (w : BitVec 32) : Except DecodeError Instr :=
  if w.extractLsb' 20 2 = 0#2 ∧ w.extractLsb' 25 1 = 0#1 then .ok (.bp (w.extractLsb' 22 3) (w.extractLsb' 0 20))
  else if w.extractLsb' 20 2 = 0#2 ∧ w.extractLsb' 25 1 = 1#1 then .ok (.bpn (w.extractLsb' 22 3) (w.extractLsb' 0 20))
  else .error .unassignedMinor

/-- Major 0x23 (13_encodings.md R281). -/
def decodeBar (w : BitVec 32) : Except DecodeError Instr :=
  if w.extractLsb' 0 11 = 0#11 ∧ w.extractLsb' 21 5 = 0#5 then .ok (.barInit (w.extractLsb' 16 5) (w.extractLsb' 11 5))
  else if w.extractLsb' 0 16 = 1#16 then .ok (.barArv (w.extractLsb' 21 5) (w.extractLsb' 16 5))
  else if w.extractLsb' 0 16 = 2#16 then .ok (.barDrp (w.extractLsb' 21 5) (w.extractLsb' 16 5))
  else if w.extractLsb' 0 11 = 3#11 ∧ w.extractLsb' 21 5 = 0#5 then .ok (.barWait (w.extractLsb' 16 5) (w.extractLsb' 11 5))
  else .error .unassignedMinor

/-- Major 0x24 (13_encodings.md R281). -/
def decodeTk (w : BitVec 32) : Except DecodeError Instr :=
  if w.extractLsb' 0 8 = 0#8 ∧ w.extractLsb' 11 15 = 0#15 then .ok (.tkpush (w.extractLsb' 8 3))
  else if w.extractLsb' 0 8 = 1#8 ∧ w.extractLsb' 11 10 = 0#10 then .ok (.tkpop (w.extractLsb' 21 5) (w.extractLsb' 8 3))
  else .error .unassignedMinor

/-- Major 0x2A (13_encodings.md R281). -/
def decodeIssue (w : BitVec 32) : Except DecodeError Instr :=
  if w.extractLsb' 0 23 = 0#23 then .ok (.issue (w.extractLsb' 23 3))
  else if w.extractLsb' 0 23 = 1#23 then .ok (.issuew (w.extractLsb' 23 3))
  else .error .unassignedMinor

/-- The control-thread instruction of a word (13_encodings.md R280, R281, Table 13.2, Table 13.3). -/
def decodeThread (w : BitVec 32) : Except DecodeError Instr :=
  match (w.extractLsb' 26 6).toNat with
  | 0x01 => decodeAlu w
  | 0x02 => .ok (.addi (w.extractLsb' 21 5) (w.extractLsb' 16 5) (w.extractLsb' 0 16))
  | 0x03 => .ok (.andi (w.extractLsb' 21 5) (w.extractLsb' 16 5) (w.extractLsb' 0 16))
  | 0x04 => .ok (.ori (w.extractLsb' 21 5) (w.extractLsb' 16 5) (w.extractLsb' 0 16))
  | 0x05 => .ok (.xori (w.extractLsb' 21 5) (w.extractLsb' 16 5) (w.extractLsb' 0 16))
  | 0x06 => if w.extractLsb' 6 10 = 0#10 then .ok (.shli (w.extractLsb' 21 5) (w.extractLsb' 16 5) (w.extractLsb' 0 6)) else .error .reservedField
  | 0x07 => if w.extractLsb' 6 10 = 0#10 then .ok (.shri (w.extractLsb' 21 5) (w.extractLsb' 16 5) (w.extractLsb' 0 6)) else .error .reservedField
  | 0x08 => if w.extractLsb' 6 10 = 0#10 then .ok (.sari (w.extractLsb' 21 5) (w.extractLsb' 16 5) (w.extractLsb' 0 6)) else .error .reservedField
  | 0x09 => if w.extractLsb' 18 3 = 0#3 then .ok (.lih (w.extractLsb' 21 5) (w.extractLsb' 16 2) (w.extractLsb' 0 16)) else .error .reservedField
  | 0x0A => .ok (.addpc (w.extractLsb' 21 5) (w.extractLsb' 0 21))
  | 0x0B => if w.extractLsb' 0 6 = 0#6 then .ok (.madd (w.extractLsb' 21 5) (w.extractLsb' 16 5) (w.extractLsb' 11 5) (w.extractLsb' 6 5)) else .error .reservedField
  | 0x0C => if w.extractLsb' 13 3 = 0#3 then .ok (.bitf (w.extractLsb' 21 5) (w.extractLsb' 16 5) (w.extractLsb' 12 1) (w.extractLsb' 6 6) (w.extractLsb' 0 6)) else .error .reservedField
  | 0x0D => if w.extractLsb' 12 4 = 0#4 then .ok (.biti (w.extractLsb' 21 5) (w.extractLsb' 16 5) (w.extractLsb' 6 6) (w.extractLsb' 0 6)) else .error .reservedField
  | 0x0E => if w.extractLsb' 0 9 = 0#9 then .ok (.cmpCc (w.extractLsb' 23 3) (w.extractLsb' 18 5) (w.extractLsb' 13 5) (w.extractLsb' 9 4)) else .error .reservedField
  | 0x0F => .ok (.cmpiCc (w.extractLsb' 23 3) (w.extractLsb' 18 5) (w.extractLsb' 14 4) (w.extractLsb' 0 14))
  | 0x10 => decodePred w
  | 0x11 => if w.extractLsb' 0 8 = 0#8 then .ok (.sel (w.extractLsb' 21 5) (w.extractLsb' 16 5) (w.extractLsb' 11 5) (w.extractLsb' 8 3)) else .error .reservedField
  | 0x12 => .ok (.brCc (w.extractLsb' 21 5) (w.extractLsb' 16 5) (w.extractLsb' 12 4) (w.extractLsb' 0 12))
  | 0x13 => decodeBp w
  | 0x14 => if w.extractLsb' 21 5 = 0#5 then .ok (.jmp (w.extractLsb' 0 21)) else .error .reservedField
  | 0x15 => .ok (.jal (w.extractLsb' 21 5) (w.extractLsb' 0 21))
  | 0x16 => .ok (.jalr (w.extractLsb' 21 5) (w.extractLsb' 16 5) (w.extractLsb' 0 16))
  | 0x17 => if w.extractLsb' 12 9 = 0#9 then .ok (.loop (w.extractLsb' 21 5) (w.extractLsb' 0 12)) else .error .reservedField
  | 0x18 => .ok (.ld (w.extractLsb' 21 5) (w.extractLsb' 16 5) (w.extractLsb' 14 2) (w.extractLsb' 0 14))
  | 0x19 => .ok (.ldu (w.extractLsb' 21 5) (w.extractLsb' 16 5) (w.extractLsb' 14 2) (w.extractLsb' 0 14))
  | 0x1A => .ok (.st (w.extractLsb' 21 5) (w.extractLsb' 16 5) (w.extractLsb' 14 2) (w.extractLsb' 0 14))
  | 0x1B => if w.extractLsb' 14 2 = 0#2 ∧ w.extractLsb' 21 2 = 0#2 then .ok (.ldq (w.extractLsb' 23 3) (w.extractLsb' 16 5) (w.extractLsb' 0 14)) else .error .reservedField
  | 0x1C => if w.extractLsb' 14 2 = 0#2 ∧ w.extractLsb' 21 2 = 0#2 then .ok (.stq (w.extractLsb' 23 3) (w.extractLsb' 16 5) (w.extractLsb' 0 14)) else .error .reservedField
  | 0x1D => if w.extractLsb' 14 2 = 0#2 ∧ w.extractLsb' 21 5 = 0#5 then .ok (.pref (w.extractLsb' 16 5) (w.extractLsb' 0 14)) else .error .reservedField
  | 0x1E => if w.extractLsb' 0 2 = 0#2 ∧ w.extractLsb' 5 1 = 1#1 then .ok (.amo (w.extractLsb' 21 5) (w.extractLsb' 16 5) (w.extractLsb' 11 5) (w.extractLsb' 8 3) (w.extractLsb' 6 2) (w.extractLsb' 4 1) (w.extractLsb' 2 2)) else .error .reservedField
  | 0x1F => if w.extractLsb' 0 2 = 0#2 ∧ w.extractLsb' 5 1 = 1#1 ∧ w.extractLsb' 8 3 = 0#3 then .ok (.cas (w.extractLsb' 21 5) (w.extractLsb' 16 5) (w.extractLsb' 11 5) (w.extractLsb' 6 2) (w.extractLsb' 4 1) (w.extractLsb' 2 2)) else .error .reservedField
  | 0x20 => .ok (.lda (w.extractLsb' 21 5) (w.extractLsb' 16 5) (w.extractLsb' 14 2) (w.extractLsb' 12 2) (w.extractLsb' 0 12))
  | 0x21 => .ok (.str (w.extractLsb' 21 5) (w.extractLsb' 16 5) (w.extractLsb' 14 2) (w.extractLsb' 12 2) (w.extractLsb' 0 12))
  | 0x22 => if w.extractLsb' 2 24 = 0#24 then .ok (.fence (w.extractLsb' 0 2)) else .error .reservedField
  | 0x23 => decodeBar w
  | 0x24 => decodeTk w
  | 0x25 => if w.extractLsb' 0 11 = 0#11 then .ok (.watch (w.extractLsb' 21 5) (w.extractLsb' 16 5) (w.extractLsb' 11 5)) else .error .reservedField
  | 0x26 => if w.extractLsb' 0 8 = 0#8 ∧ w.extractLsb' 11 5 = 0#5 ∧ w.extractLsb' 21 5 = 0#5 then .ok (.amsg (w.extractLsb' 16 5) (w.extractLsb' 8 3)) else .error .reservedField
  | 0x27 => if w.extractLsb' 1 17 = 0#17 then .ok (.qset (w.extractLsb' 23 3) (w.extractLsb' 18 5) (w.extractLsb' 0 1)) else .error .reservedField
  | 0x28 => if w.extractLsb' 16 2 = 0#2 ∧ w.extractLsb' 21 2 = 0#2 then .ok (.qseti (w.extractLsb' 23 3) (w.extractLsb' 18 3) (w.extractLsb' 0 16)) else .error .reservedField
  | 0x29 => if w.extractLsb' 0 15 = 0#15 ∧ w.extractLsb' 18 5 = 0#5 then .ok (.qmov (w.extractLsb' 23 3) (w.extractLsb' 15 3)) else .error .reservedField
  | 0x2A => decodeIssue w
  | 0x2B => if w.extractLsb' 0 18 = 0#18 then .ok (.enq (w.extractLsb' 23 3) (w.extractLsb' 18 5)) else .error .reservedField
  | 0x2C => if w.extractLsb' 0 21 = 0#21 then .ok (.take (w.extractLsb' 21 5)) else .error .reservedField
  | 0x2D => if w.extractLsb' 0 16 = 0#16 ∧ w.extractLsb' 21 5 = 0#5 then .ok (.done (w.extractLsb' 16 5)) else .error .reservedField
  | 0x2E => if w.extractLsb' 0 16 = 0#16 then .ok (.join (w.extractLsb' 21 5) (w.extractLsb' 16 5)) else .error .reservedField
  | 0x2F => if w.extractLsb' 0 16 = 0#16 ∧ w.extractLsb' 21 5 = 0#5 then .ok (.cancel (w.extractLsb' 16 5)) else .error .reservedField
  | 0x30 => if w.extractLsb' 16 5 = 0#5 then .ok (.csrr (w.extractLsb' 21 5) (w.extractLsb' 0 16)) else .error .reservedField
  | 0x31 => .ok (.csrw (w.extractLsb' 21 5) (w.extractLsb' 16 5) (w.extractLsb' 0 16))
  | 0x32 => .ok (.csrs (w.extractLsb' 21 5) (w.extractLsb' 16 5) (w.extractLsb' 0 16))
  | 0x33 => .ok (.csrc (w.extractLsb' 21 5) (w.extractLsb' 16 5) (w.extractLsb' 0 16))
  | 0x34 => if w.extractLsb' 16 10 = 0#10 then .ok (.trap (w.extractLsb' 0 16)) else .error .reservedField
  | 0x35 => if w.extractLsb' 0 26 = 0#26 then .ok (.sysret) else .error .reservedField
  | 0x36 => if w.extractLsb' 0 16 = 0#16 ∧ w.extractLsb' 21 5 = 0#5 then .ok (.exit (w.extractLsb' 16 5)) else .error .reservedField
  | 0x37 => if w.extractLsb' 16 10 = 0#10 then .ok (.bkpt (w.extractLsb' 0 16)) else .error .reservedField
  | 0x38 => if w.extractLsb' 0 26 = 0#26 then .ok (.yield) else .error .reservedField
  | _ => .error .unassignedMajor

/-- The fields of a slot word beside its op (03_fabric.md R62). -/
def slotFields (w : BitVec 32) : Slot :=
  ⟨w.extractLsb' 21 4, w.extractLsb' 17 4, w.extractLsb' 13 4, w.extractLsb' 9 4, w.extractLsb' 0 9⟩

/-- The slot word's op, whatever its other fields hold: the tile looks at the op, CLOAD has checked the rest
(03_fabric.md R62, 13_encodings.md R288, Table 13.9). -/
def decodeSlot (w : BitVec 32) : Except DecodeError Instr :=
  let f := slotFields w
  match (w.extractLsb' 25 7).toNat with
  | 0x01 => .ok (.vadd f)
  | 0x02 => .ok (.vsub f)
  | 0x03 => .ok (.vmul f)
  | 0x04 => .ok (.vfma f)
  | 0x05 => .ok (.vmin f)
  | 0x06 => .ok (.vmax f)
  | 0x07 => .ok (.vabs f)
  | 0x08 => .ok (.vneg f)
  | 0x09 => .ok (.vcmp f)
  | 0x0A => .ok (.vsel f)
  | 0x0B => .ok (.vand f)
  | 0x0C => .ok (.vor f)
  | 0x0D => .ok (.vxor f)
  | 0x0E => .ok (.vshl f)
  | 0x0F => .ok (.vshr f)
  | 0x10 => .ok (.vsar f)
  | 0x11 => .ok (.vcvt f)
  | 0x12 => .ok (.vpswap f)
  | 0x13 => .ok (.vperm f)
  | 0x14 => .ok (.vbcast f)
  | 0x15 => .ok (.vredadd f)
  | 0x16 => .ok (.vredmax f)
  | 0x17 => .ok (.vsinpi f)
  | 0x18 => .ok (.vcospi f)
  | 0x19 => .ok (.vexp2 f)
  | 0x1A => .ok (.vrcp f)
  | 0x1B => .ok (.vrsq f)
  | 0x1C => .ok (.vclamp f)
  | 0x1D => .ok (.vscale f)
  | 0x1E => .ok (.vmov f)
  | 0x1F => .ok (.vcnt f)
  | 0x20 => .ok (.vpack f)
  | 0x21 => .ok (.vrand f)
  | 0x22 => .ok (.viota f)
  | 0x30 => .ok (.denc f)
  | 0x31 => .ok (.ddec f)
  | 0x32 => .ok (.dadd f)
  | 0x33 => .ok (.dsub f)
  | 0x34 => .ok (.dmul f)
  | 0x35 => .ok (.ddiv f)
  | 0x36 => .ok (.dsqrt f)
  | 0x37 => .ok (.dscl f)
  | 0x38 => .ok (.dmaxk f)
  | 0x39 => .ok (.dsign f)
  | 0x3A => .ok (.dthr f)
  | 0x3B => .ok (.dfork f)
  | 0x40 => .ok (.mdot f)
  | 0x41 => .ok (.mma f)
  | 0x42 => .ok (.mmas f)
  | 0x43 => .ok (.mldw f)
  | 0x44 => .ok (.macc f)
  | 0x45 => .ok (.mtri f)
  | 0x46 => .ok (.mscm f)
  | 0x50 => .ok (.steer f)
  | 0x51 => .ok (.merge f)
  | 0x52 => .ok (.ordmerge f)
  | 0x53 => .ok (.split f)
  | 0x54 => .ok (.nullt f)
  | 0x55 => .ok (.pass f)
  | 0x56 => .ok (.drop f)
  | 0x57 => .ok (.tagset f)
  | 0x58 => .ok (.tagchk f)
  | 0x59 => .ok (.framest f)
  | 0x5A => .ok (.segmark f)
  | 0x5B => .ok (.lutop f)
  | 0x60 => .ok (.trd f)
  | 0x61 => .ok (.twr f)
  | 0x62 => .ok (.tswap f)
  | 0x63 => .ok (.tfe f)
  | _ => .error .unassignedOp

/-- An assayer word: a custom-0 word of Table 8.6, or else a word for the RISC-V part (08_assayers.md R182). -/
def decodeAssayer (w : BitVec 32) : Instr :=
  if w.extractLsb' 0 7 = 11#7 ∧ w.extractLsb' 12 3 = 0#3 ∧ w.extractLsb' 25 7 = 0#7 then .ayLdl (w.extractLsb' 20 5) (w.extractLsb' 15 5) (w.extractLsb' 7 5)
  else if w.extractLsb' 0 7 = 11#7 ∧ w.extractLsb' 12 3 = 1#3 ∧ w.extractLsb' 25 7 = 0#7 then .ayStl (w.extractLsb' 20 5) (w.extractLsb' 15 5) (w.extractLsb' 7 5)
  else if w.extractLsb' 0 7 = 11#7 ∧ w.extractLsb' 12 3 = 2#3 ∧ w.extractLsb' 25 7 = 0#7 then .ayFill (w.extractLsb' 20 5) (w.extractLsb' 15 5) (w.extractLsb' 7 5)
  else if w.extractLsb' 0 7 = 11#7 ∧ w.extractLsb' 12 3 = 3#3 ∧ w.extractLsb' 25 7 = 0#7 then .ayPush (w.extractLsb' 20 5) (w.extractLsb' 15 5) (w.extractLsb' 7 5)
  else if w.extractLsb' 0 7 = 11#7 ∧ w.extractLsb' 12 3 = 4#3 ∧ w.extractLsb' 25 7 = 0#7 then .ayEvict (w.extractLsb' 20 5) (w.extractLsb' 15 5) (w.extractLsb' 7 5)
  else if w.extractLsb' 0 7 = 11#7 ∧ w.extractLsb' 12 3 = 5#3 ∧ w.extractLsb' 20 12 = 0#12 then .ayMsg (w.extractLsb' 15 5) (w.extractLsb' 7 5)
  else if w.extractLsb' 0 7 = 11#7 ∧ w.extractLsb' 12 3 = 6#3 ∧ w.extractLsb' 25 7 = 0#7 then .ayLock (w.extractLsb' 20 5) (w.extractLsb' 15 5) (w.extractLsb' 7 5)
  else if w.extractLsb' 0 7 = 11#7 ∧ w.extractLsb' 12 3 = 7#3 ∧ w.extractLsb' 25 7 = 0#7 then .ayStat (w.extractLsb' 20 5) (w.extractLsb' 15 5) (w.extractLsb' 7 5)
  else if w.extractLsb' 0 15 = 11#15 ∧ w.extractLsb' 20 12 = 32#12 then .ayRet (w.extractLsb' 15 5)
  else if w.extractLsb' 0 7 = 11#7 ∧ w.extractLsb' 12 20 = 8193#20 then .ayBudget (w.extractLsb' 7 5)
  else .assayerRiscvInstruction w

/-- The fields of a stream command beside its opcode (13_encodings.md R285). -/
def cmdFields (q : QWord) : Cmd :=
  ⟨q.getLsbD 119, q.extractLsb' 116 3, q.getLsbD 115, q.extractLsb' 112 3, q.extractLsb' 107 5, q.extractLsb' 104 3,
    q.extractLsb' 96 8, q.extractLsb' 0 96⟩

/-- The stream command of a 128-bit word (13_encodings.md R285, Table 13.6, 12_power.md Table 12.3). -/
def decodeCmd (q : QWord) : Except DecodeError Instr :=
  let c := cmdFields q
  match (q.extractLsb' 120 8).toNat with
  | 0x01 => if c.flags.getLsbD 0 then .ok (.sloadPush c) else .ok (.sload c)
  | 0x02 => .ok (.sstore c)
  | 0x03 => .ok (.sgather c)
  | 0x04 => .ok (.sscatter c)
  | 0x05 => .ok (.kvadmit c)
  | 0x06 => .ok (.sclose c)
  | 0x07 => .ok (.sbar c)
  | 0x08 => .ok (.sown c)
  | 0x09 => .ok (.sseg c)
  | 0x10 => .ok (.cload c)
  | 0x11 => .ok (.cswitch c)
  | 0x12 => .ok (.cretire c)
  | 0x13 => .ok (.csave c)
  | 0x14 => .ok (.crestore c)
  | 0x20 => .ok (.hcopy c)
  | 0x21 => .ok (.hfill c)
  | 0x28 => .ok (.selpred c)
  | 0x29 => .ok (.seltopk c)
  | 0x2A => .ok (.seampack c)
  | 0x30 => .ok (.collred c)
  | 0x31 => .ok (.collgath c)
  | 0x32 => .ok (.collscat c)
  | 0x38 => .ok (.pgpin c)
  | 0x39 => .ok (.pgrel c)
  | 0x3A => .ok (.migrate c)
  | 0x40 =>
    match c.flags.toNat with
    | 0 => .ok (.meterCeil c)
    | 1 => .ok (.meterCeilall c)
    | 2 => .ok (.meterPoint c)
    | 3 => .ok (.meterCut c)
    | _ => .error .unassignedCommand
  | _ => .error .unassignedCommand

/-- The word of a control-thread instruction (13_encodings.md R280, R281). -/
def encodeThread : Instr → Option (BitVec 32)
  | .add d a b => some (1#6 ++ d ++ a ++ b ++ 0#11)
  | .sub d a b => some (1#6 ++ d ++ a ++ b ++ 1#11)
  | .mul d a b => some (1#6 ++ d ++ a ++ b ++ 2#11)
  | .mulh d a b => some (1#6 ++ d ++ a ++ b ++ 3#11)
  | .div d a b => some (1#6 ++ d ++ a ++ b ++ 4#11)
  | .divu d a b => some (1#6 ++ d ++ a ++ b ++ 5#11)
  | .rem d a b => some (1#6 ++ d ++ a ++ b ++ 6#11)
  | .remu d a b => some (1#6 ++ d ++ a ++ b ++ 7#11)
  | .and d a b => some (1#6 ++ d ++ a ++ b ++ 8#11)
  | .or d a b => some (1#6 ++ d ++ a ++ b ++ 9#11)
  | .xor d a b => some (1#6 ++ d ++ a ++ b ++ 10#11)
  | .shl d a b => some (1#6 ++ d ++ a ++ b ++ 11#11)
  | .shr d a b => some (1#6 ++ d ++ a ++ b ++ 12#11)
  | .sar d a b => some (1#6 ++ d ++ a ++ b ++ 13#11)
  | .min d a b => some (1#6 ++ d ++ a ++ b ++ 14#11)
  | .max d a b => some (1#6 ++ d ++ a ++ b ++ 15#11)
  | .minu d a b => some (1#6 ++ d ++ a ++ b ++ 16#11)
  | .maxu d a b => some (1#6 ++ d ++ a ++ b ++ 17#11)
  | .clz d a => some (1#6 ++ d ++ a ++ 18#16)
  | .popc d a => some (1#6 ++ d ++ a ++ 19#16)
  | .sext d a w => some (1#6 ++ d ++ a ++ w ++ 20#11)
  | .zext d a w => some (1#6 ++ d ++ a ++ w ++ 21#11)
  | .randk d a b => some (1#6 ++ d ++ a ++ b ++ 22#11)
  | .nop => some (67110911#32)
  | .addi d a i => some (2#6 ++ d ++ a ++ i)
  | .andi d a i => some (3#6 ++ d ++ a ++ i)
  | .ori d a i => some (4#6 ++ d ++ a ++ i)
  | .xori d a i => some (5#6 ++ d ++ a ++ i)
  | .shli d a n => some (6#6 ++ d ++ a ++ 0#10 ++ n)
  | .shri d a n => some (7#6 ++ d ++ a ++ 0#10 ++ n)
  | .sari d a n => some (8#6 ++ d ++ a ++ 0#10 ++ n)
  | .lih d h i => some (9#6 ++ d ++ 0#3 ++ h ++ i)
  | .addpc d o => some (10#6 ++ d ++ o)
  | .madd d a b c => some (11#6 ++ d ++ a ++ b ++ c ++ 0#6)
  | .bitf d a s p w => some (12#6 ++ d ++ a ++ 0#3 ++ s ++ p ++ w)
  | .biti d a p w => some (13#6 ++ d ++ a ++ 0#4 ++ p ++ w)
  | .cmpCc p a b c => some (14#6 ++ p ++ a ++ b ++ c ++ 0#9)
  | .cmpiCc p a c i => some (15#6 ++ p ++ a ++ c ++ i)
  | .pand d a b => some (16#6 ++ d ++ a ++ b ++ 0#17)
  | .por d a b => some (16#6 ++ d ++ a ++ b ++ 1#17)
  | .pnot d a => some (16#6 ++ d ++ a ++ 2#20)
  | .sel d a b p => some (17#6 ++ d ++ a ++ b ++ p ++ 0#8)
  | .brCc a b c o => some (18#6 ++ a ++ b ++ c ++ o)
  | .bp p o => some (38#7 ++ p ++ 0#2 ++ o)
  | .bpn p o => some (39#7 ++ p ++ 0#2 ++ o)
  | .jmp o => some (640#11 ++ o)
  | .jal d o => some (21#6 ++ d ++ o)
  | .jalr d a i => some (22#6 ++ d ++ a ++ i)
  | .loop a o => some (23#6 ++ a ++ 0#9 ++ o)
  | .ld d a z o => some (24#6 ++ d ++ a ++ z ++ o)
  | .ldu d a z o => some (25#6 ++ d ++ a ++ z ++ o)
  | .st g a z o => some (26#6 ++ g ++ a ++ z ++ o)
  | .ldq q a o => some (27#6 ++ q ++ 0#2 ++ a ++ 0#2 ++ o)
  | .stq q a o => some (28#6 ++ q ++ 0#2 ++ a ++ 0#2 ++ o)
  | .pref a o => some (928#11 ++ a ++ 0#2 ++ o)
  | .amo d a b p s z r => some (30#6 ++ d ++ a ++ b ++ p ++ s ++ 1#1 ++ z ++ r ++ 0#2)
  | .cas d a b s z r => some (31#6 ++ d ++ a ++ b ++ 0#3 ++ s ++ 1#1 ++ z ++ r ++ 0#2)
  | .lda d a z s o => some (32#6 ++ d ++ a ++ z ++ s ++ o)
  | .str g a z s o => some (33#6 ++ g ++ a ++ z ++ s ++ o)
  | .fence s => some (570425344#30 ++ s)
  | .barInit a b => some (1120#11 ++ a ++ b ++ 0#11)
  | .barArv d a => some (35#6 ++ d ++ a ++ 1#16)
  | .barDrp d a => some (35#6 ++ d ++ a ++ 2#16)
  | .barWait a b => some (1120#11 ++ a ++ b ++ 3#11)
  | .tkpush n => some (1179648#21 ++ n ++ 0#8)
  | .tkpop d n => some (36#6 ++ d ++ 0#10 ++ n ++ 1#8)
  | .watch d a b => some (37#6 ++ d ++ a ++ b ++ 0#11)
  | .amsg a b => some (1216#11 ++ a ++ 0#5 ++ b ++ 0#8)
  | .qset q a h => some (39#6 ++ q ++ a ++ 0#17 ++ h)
  | .qseti q c i => some (40#6 ++ q ++ 0#2 ++ c ++ 0#2 ++ i)
  | .qmov d s => some (41#6 ++ d ++ 0#5 ++ s ++ 0#15)
  | .issue q => some (42#6 ++ q ++ 0#23)
  | .issuew q => some (42#6 ++ q ++ 1#23)
  | .enq q a => some (43#6 ++ q ++ a ++ 0#18)
  | .take d => some (44#6 ++ d ++ 0#21)
  | .done a => some (1440#11 ++ a ++ 0#16)
  | .join d a => some (46#6 ++ d ++ a ++ 0#16)
  | .cancel a => some (1504#11 ++ a ++ 0#16)
  | .csrr d c => some (48#6 ++ d ++ 0#5 ++ c)
  | .csrw d a c => some (49#6 ++ d ++ a ++ c)
  | .csrs d a c => some (50#6 ++ d ++ a ++ c)
  | .csrc d a c => some (51#6 ++ d ++ a ++ c)
  | .trap i => some (53248#16 ++ i)
  | .sysret => some (3556769792#32)
  | .exit a => some (1728#11 ++ a ++ 0#16)
  | .bkpt i => some (56320#16 ++ i)
  | .yield => some (3758096384#32)
  | _ => none

/-- The op value of a slot instruction (13_encodings.md Table 13.9). -/
def slotOp : Instr → Option (BitVec 7 × Slot)
  | .vadd f => some (0x01, f)
  | .vsub f => some (0x02, f)
  | .vmul f => some (0x03, f)
  | .vfma f => some (0x04, f)
  | .vmin f => some (0x05, f)
  | .vmax f => some (0x06, f)
  | .vabs f => some (0x07, f)
  | .vneg f => some (0x08, f)
  | .vcmp f => some (0x09, f)
  | .vsel f => some (0x0A, f)
  | .vand f => some (0x0B, f)
  | .vor f => some (0x0C, f)
  | .vxor f => some (0x0D, f)
  | .vshl f => some (0x0E, f)
  | .vshr f => some (0x0F, f)
  | .vsar f => some (0x10, f)
  | .vcvt f => some (0x11, f)
  | .vpswap f => some (0x12, f)
  | .vperm f => some (0x13, f)
  | .vbcast f => some (0x14, f)
  | .vredadd f => some (0x15, f)
  | .vredmax f => some (0x16, f)
  | .vsinpi f => some (0x17, f)
  | .vcospi f => some (0x18, f)
  | .vexp2 f => some (0x19, f)
  | .vrcp f => some (0x1A, f)
  | .vrsq f => some (0x1B, f)
  | .vclamp f => some (0x1C, f)
  | .vscale f => some (0x1D, f)
  | .vmov f => some (0x1E, f)
  | .vcnt f => some (0x1F, f)
  | .vpack f => some (0x20, f)
  | .vrand f => some (0x21, f)
  | .viota f => some (0x22, f)
  | .denc f => some (0x30, f)
  | .ddec f => some (0x31, f)
  | .dadd f => some (0x32, f)
  | .dsub f => some (0x33, f)
  | .dmul f => some (0x34, f)
  | .ddiv f => some (0x35, f)
  | .dsqrt f => some (0x36, f)
  | .dscl f => some (0x37, f)
  | .dmaxk f => some (0x38, f)
  | .dsign f => some (0x39, f)
  | .dthr f => some (0x3A, f)
  | .dfork f => some (0x3B, f)
  | .mdot f => some (0x40, f)
  | .mma f => some (0x41, f)
  | .mmas f => some (0x42, f)
  | .mldw f => some (0x43, f)
  | .macc f => some (0x44, f)
  | .mtri f => some (0x45, f)
  | .mscm f => some (0x46, f)
  | .steer f => some (0x50, f)
  | .merge f => some (0x51, f)
  | .ordmerge f => some (0x52, f)
  | .split f => some (0x53, f)
  | .nullt f => some (0x54, f)
  | .pass f => some (0x55, f)
  | .drop f => some (0x56, f)
  | .tagset f => some (0x57, f)
  | .tagchk f => some (0x58, f)
  | .framest f => some (0x59, f)
  | .segmark f => some (0x5A, f)
  | .lutop f => some (0x5B, f)
  | .trd f => some (0x60, f)
  | .twr f => some (0x61, f)
  | .tswap f => some (0x62, f)
  | .tfe f => some (0x63, f)
  | _ => none

/-- The word of a slot instruction (03_fabric.md R62). -/
def encodeSlot (i : Instr) : Option (BitVec 32) :=
  (slotOp i).map (fun (op, f) => op ++ f.a ++ f.b ++ f.d ++ f.n ++ f.m)

/-- The word of an assayer instruction (08_assayers.md R182, Table 8.6). -/
def encodeAssayer : Instr → Option (BitVec 32)
  | .ayLdl s a d => some (0#7 ++ s ++ a ++ 0#3 ++ d ++ 11#7)
  | .ayStl s a d => some (0#7 ++ s ++ a ++ 1#3 ++ d ++ 11#7)
  | .ayFill s a d => some (0#7 ++ s ++ a ++ 2#3 ++ d ++ 11#7)
  | .ayPush s a d => some (0#7 ++ s ++ a ++ 3#3 ++ d ++ 11#7)
  | .ayEvict s a d => some (0#7 ++ s ++ a ++ 4#3 ++ d ++ 11#7)
  | .ayMsg a d => some (0#12 ++ a ++ 5#3 ++ d ++ 11#7)
  | .ayLock s a d => some (0#7 ++ s ++ a ++ 6#3 ++ d ++ 11#7)
  | .ayStat s a d => some (0#7 ++ s ++ a ++ 7#3 ++ d ++ 11#7)
  | .ayRet a => some (32#12 ++ a ++ 11#15)
  | .ayBudget d => some (8193#20 ++ d ++ 11#7)
  | .assayerRiscvInstruction w => some w
  | _ => none

/-- A stream command's opcode and fields. -/
def cmdOp : Instr → Option (BitVec 8 × Cmd)
  | .sload c => some (0x01, c)
  | .sloadPush c => some (0x01, c)
  | .sstore c => some (0x02, c)
  | .sgather c => some (0x03, c)
  | .sscatter c => some (0x04, c)
  | .kvadmit c => some (0x05, c)
  | .sclose c => some (0x06, c)
  | .sbar c => some (0x07, c)
  | .sown c => some (0x08, c)
  | .sseg c => some (0x09, c)
  | .cload c => some (0x10, c)
  | .cswitch c => some (0x11, c)
  | .cretire c => some (0x12, c)
  | .csave c => some (0x13, c)
  | .crestore c => some (0x14, c)
  | .hcopy c => some (0x20, c)
  | .hfill c => some (0x21, c)
  | .selpred c => some (0x28, c)
  | .seltopk c => some (0x29, c)
  | .seampack c => some (0x2A, c)
  | .collred c => some (0x30, c)
  | .collgath c => some (0x31, c)
  | .collscat c => some (0x32, c)
  | .pgpin c => some (0x38, c)
  | .pgrel c => some (0x39, c)
  | .migrate c => some (0x3A, c)
  | .meterCeil c => some (0x40, c)
  | .meterCeilall c => some (0x40, c)
  | .meterPoint c => some (0x40, c)
  | .meterCut c => some (0x40, c)
  | _ => none

/-- The 128 bits of a stream command (13_encodings.md R285). -/
def encodeCmd (i : Instr) : Option QWord :=
  (cmdOp i).map (fun (op, c) =>
    op ++ BitVec.ofBool c.waitEn ++ c.waitF ++ BitVec.ofBool c.sigEn ++ c.sigF ++ c.sid ++ c.bind ++ c.flags ++ c.ops)

/-- The bits of an instruction that has an encoding, with their number: thread, slot and assayer words and commands. -/
def encode (i : Instr) : Option (Nat × Nat) :=
  match encodeThread i, encodeSlot i, encodeAssayer i, encodeCmd i with
  | some w, _, _, _ => some (32, w.toNat)
  | none, some w, _, _ => some (32, w.toNat)
  | none, none, some w, _ => some (32, w.toNat)
  | none, none, none, some q => some (128, q.toNat)
  | none, none, none, none => none

/-- The control-thread instruction in four bytes, the first least significant (00_scope.md R2). -/
def decodeBytes : List Byte → Except DecodeError (Instr × List Byte)
  | b0 :: b1 :: b2 :: b3 :: rest => (decodeThread (b3 ++ b2 ++ b1 ++ b0)).map (fun i => (i, rest))
  | _ => .error .short

/-- How many bits the table fixes for a control-thread instruction. -/
def threadFixedBits : Instr → Nat
  | .add _ _ _ => 17
  | .sub _ _ _ => 17
  | .mul _ _ _ => 17
  | .mulh _ _ _ => 17
  | .div _ _ _ => 17
  | .divu _ _ _ => 17
  | .rem _ _ _ => 17
  | .remu _ _ _ => 17
  | .and _ _ _ => 17
  | .or _ _ _ => 17
  | .xor _ _ _ => 17
  | .shl _ _ _ => 17
  | .shr _ _ _ => 17
  | .sar _ _ _ => 17
  | .min _ _ _ => 17
  | .max _ _ _ => 17
  | .minu _ _ _ => 17
  | .maxu _ _ _ => 17
  | .clz _ _ => 22
  | .popc _ _ => 22
  | .sext _ _ _ => 17
  | .zext _ _ _ => 17
  | .randk _ _ _ => 17
  | .nop => 32
  | .addi _ _ _ => 6
  | .andi _ _ _ => 6
  | .ori _ _ _ => 6
  | .xori _ _ _ => 6
  | .shli _ _ _ => 16
  | .shri _ _ _ => 16
  | .sari _ _ _ => 16
  | .lih _ _ _ => 9
  | .addpc _ _ => 6
  | .madd _ _ _ _ => 12
  | .bitf _ _ _ _ _ => 9
  | .biti _ _ _ _ => 10
  | .cmpCc _ _ _ _ => 15
  | .cmpiCc _ _ _ _ => 6
  | .pand _ _ _ => 23
  | .por _ _ _ => 23
  | .pnot _ _ => 26
  | .sel _ _ _ _ => 14
  | .brCc _ _ _ _ => 6
  | .bp _ _ => 9
  | .bpn _ _ => 9
  | .jmp _ => 11
  | .jal _ _ => 6
  | .jalr _ _ _ => 6
  | .loop _ _ => 15
  | .ld _ _ _ _ => 6
  | .ldu _ _ _ _ => 6
  | .st _ _ _ _ => 6
  | .ldq _ _ _ => 10
  | .stq _ _ _ => 10
  | .pref _ _ => 13
  | .amo _ _ _ _ _ _ _ => 9
  | .cas _ _ _ _ _ _ => 12
  | .lda _ _ _ _ _ => 6
  | .str _ _ _ _ _ => 6
  | .fence _ => 30
  | .barInit _ _ => 22
  | .barArv _ _ => 22
  | .barDrp _ _ => 22
  | .barWait _ _ => 22
  | .tkpush _ => 29
  | .tkpop _ _ => 24
  | .watch _ _ _ => 17
  | .amsg _ _ => 24
  | .qset _ _ _ => 23
  | .qseti _ _ _ => 10
  | .qmov _ _ => 26
  | .issue _ => 29
  | .issuew _ => 29
  | .enq _ _ => 24
  | .take _ => 27
  | .done _ => 27
  | .join _ _ => 22
  | .cancel _ => 27
  | .csrr _ _ => 11
  | .csrw _ _ _ => 6
  | .csrs _ _ _ => 6
  | .csrc _ _ _ => 6
  | .trap _ => 16
  | .sysret => 32
  | .exit _ => 27
  | .bkpt _ => 16
  | .yield => 32
  | _ => 0

/-- The bits of each slot op that the table fixes: mask and value (13_encodings.md R288, 03_fabric.md R63). -/
def slotFixed (op : Nat) : BitVec 32 × BitVec 32 :=
  match op with
  | 0x01 => (0xFE000000, 0x02000000)
  | 0x02 => (0xFE000000, 0x04000000)
  | 0x03 => (0xFE000000, 0x06000000)
  | 0x04 => (0xFE000000, 0x08000000)
  | 0x05 => (0xFE000000, 0x0A000000)
  | 0x06 => (0xFE000000, 0x0C000000)
  | 0x07 => (0xFE1E0000, 0x0E1E0000)
  | 0x08 => (0xFE1E0000, 0x101E0000)
  | 0x09 => (0xFE000000, 0x12000000)
  | 0x0A => (0xFE000000, 0x14000000)
  | 0x0B => (0xFE0001CF, 0x16000000)
  | 0x0C => (0xFE0001CF, 0x18000000)
  | 0x0D => (0xFE0001CF, 0x1A000000)
  | 0x0E => (0xFE0001CF, 0x1C000000)
  | 0x0F => (0xFE0001CF, 0x1E000000)
  | 0x10 => (0xFE0001CF, 0x20000000)
  | 0x11 => (0xFE1E0000, 0x221E0000)
  | 0x12 => (0xFE1E000C, 0x241E0000)
  | 0x13 => (0xFE0001CF, 0x26000000)
  | 0x14 => (0xFE1E01C3, 0x281E0000)
  | 0x15 => (0xFE1E0000, 0x2A1E0000)
  | 0x16 => (0xFE1E0000, 0x2C1E0000)
  | 0x17 => (0xFE1E0000, 0x2E1E0000)
  | 0x18 => (0xFE1E0000, 0x301E0000)
  | 0x19 => (0xFE1E0000, 0x321E0000)
  | 0x1A => (0xFE1E0000, 0x341E0000)
  | 0x1B => (0xFE1E0000, 0x361E0000)
  | 0x1C => (0xFE000000, 0x38000000)
  | 0x1D => (0xFE000000, 0x3A000000)
  | 0x1E => (0xFE1E01CF, 0x3C1E0000)
  | 0x1F => (0xFE1E01CC, 0x3E1E0000)
  | 0x20 => (0xFE000010, 0x40000000)
  | 0x21 => (0xFE0001CE, 0x42000000)
  | 0x22 => (0xFE1E01CC, 0x441E0000)
  | 0x30 => (0xFE1E000F, 0x601E0000)
  | 0x31 => (0xFE1E0007, 0x621E0000)
  | 0x32 => (0xFE00003F, 0x64000000)
  | 0x33 => (0xFE00003F, 0x66000000)
  | 0x34 => (0xFE00003F, 0x68000000)
  | 0x35 => (0xFE00003F, 0x6A000000)
  | 0x36 => (0xFE1E003F, 0x6C1E0000)
  | 0x37 => (0xFE1E0037, 0x6E1E0000)
  | 0x38 => (0xFE00003F, 0x70000000)
  | 0x39 => (0xFE1E003F, 0x721E0000)
  | 0x3A => (0xFE1E003F, 0x741E0000)
  | 0x3B => (0xFE1E0038, 0x761E0000)
  | 0x40 => (0xFE01E00E, 0x8001E000)
  | 0x41 => (0xFE000008, 0x82000000)
  | 0x42 => (0xFE00000D, 0x84000000)
  | 0x43 => (0xFE1FE03E, 0x861FE000)
  | 0x44 => (0xFE1E018C, 0x881E0000)
  | 0x45 => (0xFE0001BC, 0x8A000000)
  | 0x46 => (0xFE00003F, 0x8C000000)
  | 0x50 => (0xFE0000C0, 0xA0000000)
  | 0x51 => (0xFE0001FF, 0xA2000000)
  | 0x52 => (0xFE0001FE, 0xA4000000)
  | 0x53 => (0xFE1E01FC, 0xA61E0000)
  | 0x54 => (0xFE1E01FF, 0xA81E0000)
  | 0x55 => (0xFE1E01FF, 0xAA1E0000)
  | 0x56 => (0xFE1E01FE, 0xAC1E0000)
  | 0x57 => (0xFE0001FE, 0xAE000000)
  | 0x58 => (0xFE0001FE, 0xB0000000)
  | 0x59 => (0xFE1E01F0, 0xB21E0000)
  | 0x5A => (0xFE1E01FC, 0xB41E0000)
  | 0x5B => (0xFE1E01FF, 0xB61E0000)
  | 0x60 => (0xFE1E01FE, 0xC01E0000)
  | 0x61 => (0xFE0001FF, 0xC2000000)
  | 0x62 => (0xFE0001FF, 0xC4000000)
  | 0x63 => (0xFE1E01FF, 0xC61E0000)
  | _ => (0, 0)

/-- Which agent reads a word that the table lists: the reading with the most fixed bits, a thread's before a slot's
before an assayer's when they are equal (the model's choice: log 4). -/
inductive Reading where
  | thread | slot | assayer
  deriving DecidableEq, Repr

/-- The bits that the table fixes for the slot reading of a word, 0 if it is no slot word of the table. -/
def slotBits (w : BitVec 32) : Nat :=
  let (mask, value) := slotFixed (w.extractLsb' 25 7).toNat
  if mask ≠ 0 ∧ w &&& mask = value then popCount 32 mask.toNat else 0

/-- The bits that the table fixes for the assayer reading of a word. -/
def assayerBits (w : BitVec 32) : Nat :=
  match decodeAssayer w with
  | .ayMsg _ _ => 22
  | .ayRet _ => 27
  | .ayBudget _ => 27
  | .assayerRiscvInstruction _ => 0
  | _ => 17

def threadBits (w : BitVec 32) : Nat :=
  match decodeThread w with
  | .ok i => threadFixedBits i
  | .error _ => 0

def reading (w : BitVec 32) : Option (Reading × Instr) :=
  let t := threadBits w
  let s := slotBits w
  let a := assayerBits w
  if t = 0 ∧ s = 0 ∧ a = 0 then none
  else if s ≤ t ∧ a ≤ t then (decodeThread w).toOption.map (fun i => (.thread, i))
  else if a ≤ s then (decodeSlot w).toOption.map (fun i => (.slot, i))
  else some (.assayer, decodeAssayer w)

/-- The instruction of a word of the opcode table: 32 bits, or a 128-bit stream command. -/
def decodeTableWord (nbits w : Nat) : Option Instr :=
  if nbits = 32 then (reading (BitVec.ofNat 32 w)).map (fun r => r.2)
  else if nbits = 128 then (decodeCmd (BitVec.ofNat 128 w)).toOption
  else none

end Sys2Proof
end

