-- ==== Sys2Proof/Machine/Map.lean ====
section
/-!
DEFINITION. Reading and writing a sparse table in its one canonical form.
-/
namespace Sys2Proof

/-- The value at key `k`; an unlisted key reads `d`. -/
def Map.get {β : Type} (d : β) : Map β → Nat → β
  | [], _ => d
  | (a, v) :: t, k => if a = k then v else Map.get d t k

/-- Lists the value `v` at key `k`, at its sorted place. -/
def Map.put {β : Type} : Map β → Nat → β → Map β
  | [], k, v => [(k, v)]
  | (a, w) :: t, k, v =>
    if a = k then (k, v) :: t
    else if k < a then (k, v) :: (a, w) :: t
    else (a, w) :: Map.put t k v

/-- Removes every entry of key `k`. -/
def Map.del {β : Type} (m : Map β) (k : Nat) : Map β :=
  m.filter (fun e => !(e.1 == k))

/-- Writes `v` at key `k`; writing the default removes the entry. -/
def Map.set {β : Type} [DecidableEq β] (d : β) (m : Map β) (k : Nat) (v : β) : Map β :=
  if v = d then Map.del m k else Map.put m k v

/-- Changes the value at key `k`. -/
def Map.modify {β : Type} [DecidableEq β] (d : β) (m : Map β) (k : Nat) (f : β → β) : Map β :=
  Map.set d m k (f (Map.get d m k))

/-- The keys of a table rise strictly. -/
def Map.sorted {β : Type} : Map β → Bool
  | [] => true
  | [_] => true
  | a :: b :: t => decide (a.1 < b.1) && Map.sorted (b :: t)

/-- The canonical form: keys strictly rising, no entry equal to the default. -/
def Map.wf {β : Type} [DecidableEq β] (d : β) (m : Map β) : Bool :=
  Map.sorted m && m.all (fun e => !(e.2 == d))

end Sys2Proof
end

