-- ==== Sys2Proof/Machine/Ops.lean ====
section
/-!
DEFINITION. The named operations over the state: registers, memory, translation, access control, fault records,
taking a trap and returning from one, and the ends of tasks (06_memory.md, 10_faults_modes.md, 14_system.md R302 to R304).
-/
namespace Sys2Proof.Machine

open Sys2Proof

/-- What a meaning answers. -/
abbrev Res := Host.Outcome State Fault Refusal

/-! ### Access to the tables -/

def State.thread (s : State) (k : Nat) : Thread := Map.get {} s.threads k
def State.setThread (s : State) (k : Nat) (t : Thread) : State := { s with threads := Map.set {} s.threads k t }
def State.modThread (s : State) (k : Nat) (f : Thread → Thread) : State := s.setThread k (f (s.thread k))
def State.core (s : State) (k : Nat) : Core := Map.get {} s.cores k
def State.setCore (s : State) (k : Nat) (c : Core) : State := { s with cores := Map.set {} s.cores k c }
def State.modCore (s : State) (k : Nat) (f : Core → Core) : State := s.setCore k (f (s.core k))
def State.tile (s : State) (k : Nat) : Tile := Map.get {} s.tiles k
def State.setTile (s : State) (k : Nat) (t : Tile) : State := { s with tiles := Map.set {} s.tiles k t }
def State.modTile (s : State) (k : Nat) (f : Tile → Tile) : State := s.setTile k (f (s.tile k))
def State.port (s : State) (k : Nat) : Port := Map.get {} s.ports k
def State.setPort (s : State) (k : Nat) (p : Port) : State := { s with ports := Map.set {} s.ports k p }
def State.modPort (s : State) (k : Nat) (f : Port → Port) : State := s.setPort k (f (s.port k))
def State.slice (s : State) (i : Nat) : Slice := Map.get {} s.slices i
def State.setSlice (s : State) (i : Nat) (c : Slice) : State := { s with slices := Map.set {} s.slices i c }
def State.modSlice (s : State) (i : Nat) (f : Slice → Slice) : State := s.setSlice i (f (s.slice i))
def State.hart (s : State) (h : Nat) : Hart := Map.get {} s.harts h
def State.setHart (s : State) (h : Nat) (c : Hart) : State := { s with harts := Map.set {} s.harts h c }
def State.foreman (s : State) (d : Nat) : Foreman := Map.get {} s.foremen d
def State.setForeman (s : State) (d : Nat) (f : Foreman) : State := { s with foremen := Map.set {} s.foremen d f }
def State.modForeman (s : State) (d : Nat) (g : Foreman → Foreman) : State := s.setForeman d (g (s.foreman d))

/-- The number of core k within its die, its die, and its master ID, which is CTID[8:0] (01_device.md R17, 14_system.md R301). -/
def coreDie (k : Nat) : Nat := k / 96
def coreNum (k : Nat) : Nat := k % 96
def coreMaster (k : Nat) : Nat := 128 * coreDie k + coreNum k

/-- Tile (y, x) of core k, and stream n of core k. -/
def tileKey (k y x : Nat) : Nat := 384 * k + 24 * y + x
def portKey (k n : Nat) : Nat := 32 * k + n

/-- Region j of core k (02_execution_model.md R29). -/
def State.region (s : State) (k j : Nat) : Option Region := Map.get none (s.core k).regions j
def State.setRegion (s : State) (k j : Nat) (r : Option Region) : State :=
  s.modCore k (fun c => { c with regions := Map.set none c.regions j r })
/-- The resident context in slot c of a region. -/
def Region.ctx (r : Region) (c : Nat) : Option Ctx := Map.get none r.ctxs c
def Region.setCtx (r : Region) (c : Nat) (x : Option Ctx) : Region := { r with ctxs := Map.set none r.ctxs c x }
def Region.holds (r : Region) (y x : Nat) : Bool := decide (r.y0 ≤ y ∧ y ≤ r.y1 ∧ r.x0 ≤ x ∧ x ≤ r.x1)

/-- The border tile of stream n, and the direction toward the AG tile: 0 N, 1 E, 2 S, 3 W (01_device.md Table 1.2). -/
def agSite (n : Nat) : Nat × Nat × Nat :=
  if n < 12 then (0, 2 * n, 0) else if n < 24 then (15, 2 * (n - 12), 2)
  else if n < 28 then (4 * (n - 24), 0, 3) else (4 * (n - 28), 23, 1)

/-- The number of the region of core k that holds tile (y, x). -/
def State.regionAt (s : State) (k y x : Nat) : Option Nat :=
  (List.range 4).find? (fun j => match s.region k j with | some r => r.holds y x | none => false)

/-- The region that owns stream n (02_execution_model.md R30). -/
def State.regionOfStream (s : State) (k n : Nat) : Option Nat :=
  let (y, x, _) := agSite n
  s.regionAt k y x

/-! ### Fault codes (10_faults_modes.md Table 10.4) -/

abbrev Code := BitVec 8
def fcILLEGAL : Code := 0x01
def fcPRIV : Code := 0x02
def fcALIGN : Code := 0x03
def fcXLATE : Code := 0x04
def fcPROT : Code := 0x05
def fcDEEP : Code := 0x06
def fcACCESS : Code := 0x07
def fcCMD : Code := 0x08
def fcCFG : Code := 0x09
def fcTOKEN : Code := 0x0A
def fcDIGIT : Code := 0x0B
def fcFRAME : Code := 0x0C
def fcTAG : Code := 0x0D
def fcBARRIER : Code := 0x0E
def fcHOLD : Code := 0x0F
def fcWATCHDOG : Code := 0x10
def fcECC : Code := 0x11
def fcHANDLER : Code := 0x12
def fcTASK : Code := 0x13
def fcLINK : Code := 0x14
def fcBKPT : Code := 0x15
def fcTRAPI : Code := 0x16
def fcSEAM : Code := 0x17
def fcQUEUE : Code := 0x18

/-- The codes whose EVAL is the faulting VA (10_faults_modes.md R220). -/
def evalIsVa (c : Code) : Bool := c ∈ [fcALIGN, fcXLATE, fcPROT, fcDEEP, fcACCESS, fcECC, fcHANDLER, fcLINK]

/-! ### Memory bytes and poison -/

def readByte (s : State) (pa : Nat) : Byte := Map.get 0 s.mem pa

/-- n bytes from pa on. -/
def readMem (s : State) (pa n : Nat) : List Byte := (List.range n).map (fun i => readByte s (pa + i))

def readNat (s : State) (pa n : Nat) : Nat := ofBytes (readMem s pa n)

/-- Writes the bytes whose mask is set, from pa on. -/
def writeCellsM (m : Map Byte) (pa : Nat) : List (Option Byte) → Map Byte
  | [] => m
  | none :: t => writeCellsM m (pa + 1) t
  | some b :: t => writeCellsM (Map.set 0 m pa b) (pa + 1) t

/-- The 8-byte units of which every byte is written (10_faults_modes.md R236). -/
def unitsCovered (pa : Nat) (cells : List (Option Byte)) : List Nat :=
  let last := pa + cells.length
  ((List.range (cells.length / 8 + 2)).map (fun i => pa / 8 + i)).filter (fun u =>
    decide (pa ≤ 8 * u ∧ 8 * u + 8 ≤ last) &&
      (List.range 8).all (fun i => ((cells[8 * u + i - pa]?).getD none).isSome))

/-- A write: bytes into memory, and the poison of every unit that it covers whole is cleared (R236). -/
def writeCells (s : State) (pa : Nat) (cells : List (Option Byte)) : State :=
  { s with mem := writeCellsM s.mem pa cells
           poison := (unitsCovered pa cells).foldl (fun p u => Map.set false p u false) s.poison }

def writeMem (s : State) (pa : Nat) (bytes : List Byte) : State := writeCells s pa (bytes.map some)

/-- Writes n bytes of a number, little-endian (00_scope.md R2). -/
def writeNat (s : State) (pa n v : Nat) : State := writeMem s pa (toBytes n v)

/-- Some unit of the n bytes from pa on is poisoned (R236). -/
def poisoned (s : State) (pa n : Nat) : Bool :=
  (List.range (n / 8 + 2)).any (fun i => decide (8 * (pa / 8 + i) < pa + n) && Map.get false s.poison (pa / 8 + i))

/-! ### The physical map (06_memory.md R131 to R134) -/

/-- Where an access goes. -/
inductive Target where
  | slice (i : Nat)
  | scratch (core lsa : Nat)
  | host
  | adit (entry off : Nat)
  | regs
  | none
  deriving DecidableEq, Repr

def scratchBase : Nat := 0x10000000000
def regsBase : Nat := 0x20000000000
def aditBase : Nat := 0x400000000000
def hostBase : Nat := 0x800000000000
def remoteBase : Nat := 0x1000000000000

/-- Home slice of a stack address, as 64 * die + h (06_memory.md R132). -/
def homeSlice (pa : Nat) : Nat :=
  64 * (pa / 2 ^ 37) +
    (nfield pa 12 7 ^^^ nfield pa 18 13 ^^^ nfield pa 24 19 ^^^ nfield pa 30 25)

/-- Set of a line within its slice (R132). -/
def homeSet (pa : Nat) : Nat := nfield pa 23 13

/-- The core and LSA of a scratch physical address (R133, R134). -/
def scratchAt (pa : Nat) : Nat × Nat :=
  let off := pa - scratchBase
  (96 * (off / 0x40000000) + nfield off 29 23, nfield off 22 0)

/-- The target of a physical address (Table 6.1). -/
def target (pa : Nat) : Target :=
  if pa < 0x8000000000 then .slice (homeSlice pa)
  else if scratchBase ≤ pa ∧ pa < scratchBase + 0x100000000 then .scratch (scratchAt pa).1 (scratchAt pa).2
  else if regsBase ≤ pa ∧ pa < regsBase + 0x100000000 then .regs
  else if aditBase ≤ pa ∧ pa < hostBase then .adit ((pa - aditBase) / 2 ^ 40) (pa % 2 ^ 40)
  else if hostBase ≤ pa ∧ pa < remoteBase then .host
  else .none

/-- The scratch window of every ASID; bits [63:56] of an address in it are not looked at (R134, R212; log 7). -/
def inWindow (va : Nat) : Bool := decide (0xFFFFFFC0000000 ≤ va % 2 ^ 56)

/-- The tile of a memory-tile index, (y, x) (R133). -/
def memTileSite (idx : Nat) : Nat × Nat :=
  let y := idx / 12
  (y, 2 * (idx % 12) + (if y % 2 = 0 then 1 else 0))

/-- The scratch physical address of byte off of the memory tile (y, x) of core k. -/
def tileMem (k y x off : Nat) : Nat :=
  scratchBase + coreDie k * 0x40000000 + coreNum k * 0x800000 + (12 * y + x / 2) * 0x8000 + off

/-- Kind of access (10_faults_modes.md R215). -/
inductive Kind where
  | read | write | fetch | atomic
  deriving DecidableEq, Repr

/-- The permission bits AT X W R that a kind needs. -/
def Kind.needs : Kind → BitVec 4
  | .read => 1 | .write => 2 | .fetch => 4 | .atomic => 11

/-- Whether permission bits grant a kind (10_faults_modes.md R215, 14_system.md R303). -/
def grants (perm : BitVec 4) (kd : Kind) : Bool := perm &&& kd.needs == kd.needs

/-- KIND of a denial (14_system.md Table 14.4). -/
def Kind.denial : Kind → BitVec 2
  | .read => 0 | .write => 1 | .fetch => 2 | .atomic => 3

/-! ### Access tables and denial logs (14_system.md R301 to R304) -/

/-- Numbers of the access-table targets: slices 0 to 255, cores 256 to 639, base dies 640 to 647, host window 648,
Adit ports 649 to 664, foremen 665 to 668. -/
def tgtCore (k : Nat) : Nat := 256 + k
def tgtBase (j : Nat) : Nat := 640 + j
def tgtHost : Nat := 648
def tgtAdit (n : Nat) : Nat := 649 + n
def tgtForeman (d : Nat) : Nat := 665 + d

/-- A window as reset leaves it: master 1008 may do everything, every other entry is 0 (R304). -/
def resetWindow (id w : Nat) : Window :=
  if id = 1008 ∧ w = 0 then { base := 0, last := 2 ^ 41 - 1, perm := 15, en := true, push := false } else {}

def accessKey (t id w : Nat) : Nat := (1024 * t + id) * 4 + w

def State.window (s : State) (t id w : Nat) : Window :=
  (Map.get none s.access (accessKey t id w)).getD (resetWindow id w)

def State.setWindow (s : State) (t id w : Nat) (x : Window) : State :=
  { s with access := Map.set none s.access (accessKey t id w) (if x = resetWindow id w then none else some x) }

/-- One enabled window covers every byte and grants the kind (R303). -/
def permitted (s : State) (t id addr n : Nat) (kd : Kind) : Bool :=
  (List.range 4).any (fun w =>
    let x := s.window t id w
    x.en && decide (x.base ≤ addr / 128 ∧ (addr + n - 1) / 128 ≤ x.last) && grants x.perm kd)

/-- A denial is logged at its target, and vector 1 is raised (R304, Table 14.5). -/
def deny (s : State) (t id addr : Nat) (kd : BitVec 2) : State :=
  let d : Denial := Map.get {} s.denials t
  { s with
    denials := Map.set {} s.denials t
      { count := if d.count = BitVec.allOnes 32 then d.count else d.count + 1, kind := kd,
        master := BitVec.ofNat 10 id, addr := BitVec.ofNat 48 addr }
    head := { s.head with msix := s.head.msix ++ [1] } }

/-! ### ASID descriptors and rings (10_faults_modes.md R212, R213) -/

def descAddr (s : State) (asid : BitVec 16) : Nat := s.head.asidBase + 128 * asid.toNat
def descWord (s : State) (asid : BitVec 16) (off n : Nat) : Nat := readNat s (descAddr s asid + off) n
def descValid (s : State) (asid : BitVec 16) : Bool := decide (descWord s asid 0 1 % 2 = 1)

/-- Byte offsets of a ring in the descriptor: base, write counter, read counter, bit of SIZES, entry size, flag bit. -/
structure RingAt where
  base : Nat
  wr : Nat
  rd : Nat
  size : Nat
  entry : Nat

def ringLog : RingAt := ⟨8, 16, 20, 0, 32⟩
def ringDone : RingAt := ⟨40, 48, 52, 16, 16⟩
def ringFault : RingAt := ⟨56, 64, 68, 24, 64⟩

def ringSize (s : State) (asid : BitVec 16) (r : RingAt) : Nat :=
  2 ^ nfield (descWord s asid 72 4) (r.size + 4) r.size

def ringFull (s : State) (asid : BitVec 16) (r : RingAt) : Bool :=
  decide ((descWord s asid r.wr 4 + 2 ^ 32 - descWord s asid r.rd 4) % 2 ^ 32 = ringSize s asid r)

/-- Where the next entry of a ring goes. -/
def ringSlot (s : State) (asid : BitVec 16) (r : RingAt) : Nat :=
  descWord s asid r.base 8 + r.entry * (descWord s asid r.wr 4 % ringSize s asid r)

/-! ### Places -/

/-- The port an Adit request takes: PA[12:7] modulo the ports set in its module's mask; none where that port is dead, so
that the request's flit fails, or where the mask has no live port at all (14_system.md R306). -/
def aditPort (s : State) (module pa : Nat) : Option Nat :=
  let mask := Map.get 0 s.head.routes module
  let ports := (List.range 16).filter mask.getLsbD
  (if ports.isEmpty then none else ports[nfield pa 12 7 % ports.length]?).filter (fun n => !s.head.deadPorts.getLsbD n)

/-- Where an access is performed: its key in memory, or the fault that its target raises (06_memory.md R131, R133 to R135,
14_system.md R303, R306, R307). -/
structure Place where
  key : Nat
  home : Nat
  deriving DecidableEq, Repr

/-- Homes as numbers: slice i as i, the memory tiles of die d as 300 + d, the host as 1,000, module m as 2,000 + m. -/
def homeTile : Nat := 300
def isTileHome (home : Nat) : Bool := decide (homeTile ≤ home ∧ home < 1000)
def homeHost : Nat := 1000
def homeModule (m : Nat) : Nat := 2000 + m

/-- The place of a physical address, as far as the originator can tell before the access leaves it (R415): unassigned
and control-register addresses and absent cores, tiles and aperture entries raise ACCESS, a dead route LINK. -/
def placeOf (s : State) (pa : Nat) : Except Code Place :=
  match target pa with
  | .slice i => .ok ⟨pa, i⟩
  | .scratch k lsa => if coreNum k < 96 ∧ nfield lsa 22 15 < 192 ∧ k < 384 then .ok ⟨pa, homeTile + coreDie k⟩ else .error fcACCESS
  | .host => .ok ⟨pa, homeHost⟩
  | .adit e off =>
    let x := Map.get 0 s.head.apertures e
    if x.getLsbD 0 = false then .error fcACCESS
    else
      let m := field x 27 16
      if (aditPort s m pa).isNone then .error fcLINK
      else .ok ⟨remoteBase * (m + 1) + field x 39 32 * 2 ^ 40 + off, homeModule m⟩
  | .regs => .error fcACCESS
  | .none => .error fcACCESS

/-! ### Translation (10_faults_modes.md R214 to R217) -/

/-- The result of a translation. -/
inductive Xl where
  | ok (pa : Nat) (seam : Bool)
  | bad (code : Code)
  deriving DecidableEq, Repr

def pteBad (e : Nat) : Bool :=
  decide (e % 2 = 0 ∨ e / 2 % 2 = 1 ∨ nfield e 15 9 ≠ 0 ∨ nfield e 63 48 ≠ 0) ||
    (decide (nfield e 6 6 = 0) && decide (nfield e 5 2 ≠ 0 ∨ nfield e 8 7 ≠ 0))

def ptePerm (e : Nat) : BitVec 4 := BitVec.ofNat 4 (nfield e 5 2)

/-- A leaf found for a VA: the PTE, and the physical address it gives. -/
structure Leaf where
  e : Nat
  pteAt : Nat
  pa : Nat
  small : Bool
  deriving DecidableEq, Repr

/-- A PTE at a physical address: one that no walker reaches raises ACCESS, a poisoned one ECC (R215, R236, 06_memory.md
R131). Answers its place in memory and its value. -/
def readPte (s : State) (pa : Nat) : Except Code (Nat × Nat) :=
  match target pa with
  | .scratch _ _ => .error fcACCESS
  | _ => match placeOf s pa with
    | .error c => .error c
    | .ok p => if poisoned s p.key 8 then .error fcECC else .ok (p.key, readNat s p.key 8)

/-- The addresses of the PTEs of a page: of level 1 for a descriptor's root, of levels 2 and 3 under the PTE above. -/
def pteAt1 (s : State) (asid : BitVec 16) (va : Nat) : Nat := nfield (descWord s asid 0 8) 47 17 * 2 ^ 17 + 8 * nfield va 55 42
def pteAt2 (e1 va : Nat) : Nat := nfield e1 47 16 * 2 ^ 16 + 8 * nfield va 41 29
def pteAt3 (e2 va : Nat) : Nat := nfield e2 47 16 * 2 ^ 16 + 8 * nfield va 28 16

/-- The walk down to a leaf, before permissions and TIER are looked at (R215). -/
def walkLeaf (s : State) (asid : BitVec 16) (va : Nat) : Except Code Leaf :=
  if 2 ^ 56 ≤ va ∨ descValid s asid = false then .error fcXLATE else
  match readPte s (pteAt1 s asid va) with
  | .error c => .error c
  | .ok (_, e1) =>
    if pteBad e1 ∨ nfield e1 6 6 = 1 then .error fcXLATE else
    match readPte s (pteAt2 e1 va) with
    | .error c => .error c
    | .ok (a2, e2) =>
      if pteBad e2 then .error fcXLATE
      else if nfield e2 6 6 = 1 then
        if nfield e2 7 7 = 1 ∨ nfield e2 28 16 ≠ 0 then .error fcXLATE
        else .ok ⟨e2, a2, nfield e2 47 29 * 2 ^ 29 + va % 2 ^ 29, false⟩
      else match readPte s (pteAt3 e2 va) with
        | .error c => .error c
        | .ok (a3, e3) =>
          if pteBad e3 ∨ nfield e3 6 6 = 0 then .error fcXLATE
          else .ok ⟨e3, a3, nfield e3 47 16 * 2 ^ 16 + va % 2 ^ 16, true⟩

/-- The addresses of the PTEs that a walk reads, as far as it comes. -/
def walkPtes (s : State) (asid : BitVec 16) (va : Nat) : List Nat :=
  if descValid s asid = false then [] else
  let a1 := pteAt1 s asid va
  match readPte s a1 with
  | .error _ => [a1]
  | .ok (_, e1) =>
    if pteBad e1 ∨ nfield e1 6 6 = 1 then [a1] else
    let a2 := pteAt2 e1 va
    match readPte s a2 with
    | .error _ => [a1, a2]
    | .ok (_, e2) => if pteBad e2 ∨ nfield e2 6 6 = 1 then [a1, a2] else [a1, a2, pteAt3 e2 va]

/-- What a walk reads: the descriptor and the PTEs (06_memory.md R137). -/
def walkReads (s : State) (asid : BitVec 16) (va : Nat) : List Nat :=
  if 2 ^ 56 ≤ va then [] else descAddr s asid :: walkPtes s asid va

/-- translate of R215 without a cache. -/
def walk (s : State) (asid : BitVec 16) (va : Nat) (kd : Kind) : Except Code Leaf :=
  match walkLeaf s asid va with
  | .error c => .error c
  | .ok l =>
    if grants (ptePerm l.e) kd = false then .error fcPROT
    else if nfield l.e 7 7 = 1 then .error fcDEEP
    else .ok l

/-- Posts a deep-tier fetch of the page of va, or joins the one in progress (06_memory.md R147). -/
def postFetch (s : State) (asid : BitVec 16) (va : Nat) : State :=
  let page := va / 65536 * 65536
  if s.fetches.any (fun f => decide (f.asid = asid ∧ f.page = page)) then s
  else match walkLeaf s asid va with
    | .ok l => { s with fetches := s.fetches ++ [{ asid, page, port := nfield l.e 47 46, index := nfield l.e 45 16 }] }
    | .error _ => s

/-- The translation caches: one per core egress, per assayer and per base die, with their sizes (R216). -/
def cacheCore (k : Nat) : Nat := k
def cacheAssayer (i : Nat) : Nat := 1000 + i
def cacheBase (j : Nat) : Nat := 2000 + j
def cacheSize (c : Nat) : Nat := if c < 1000 then 256 else if c < 2000 then 64 else 1024

def cacheHit (s : State) (c : Nat) (asid : BitVec 16) (va : Nat) : Option TEntry :=
  (Map.get [] s.tcaches c).find? (fun e => decide (e.asid = asid ∧ e.page = va / 65536))

/-- Fills a cache; a full one loses an entry that the spec does not name (R217). -/
def cacheFill (s : State) (c : Nat) (e : TEntry) : State :=
  let l := Map.get [] s.tcaches c
  let l := if l.length < cacheSize c then l else l.eraseIdx (Config.cacheVictim s.tick % l.length)
  { s with tcaches := Map.set [] s.tcaches c (l ++ [e]) }

/-- A translation through cache c. With `post`, a DEEP fault posts its fetch (R215, R216). -/
def translate (s : State) (c : Nat) (asid : BitVec 16) (va : Nat) (kd : Kind) (post : Bool) : State × Xl :=
  if 2 ^ 56 ≤ va then (s, .bad fcXLATE) else
  match cacheHit s c asid va with
  | some e =>
    if grants (BitVec.ofNat 4 (field e.perm 5 2)) kd then (s, .ok (e.frame * 65536 + va % 65536) (e.perm.getLsbD 8))
    else (s, .bad fcPROT)
  | none =>
    match walk s asid va kd with
    | .ok l => (cacheFill s c ⟨asid, va / 65536, l.pa / 65536, BitVec.ofNat 9 l.e⟩, .ok l.pa (decide (nfield l.e 8 8 = 1)))
    | .error x => (if x = fcDEEP ∧ post then postFetch s asid va else s, .bad x)

/-- Drops every cached translation of a page (R217). -/
def shootdown (s : State) (asid : BitVec 16) (va : Nat) : State :=
  { s with tcaches := (s.tcaches.map (fun (k, l) =>
      (k, l.filter (fun e => decide (¬ (e.asid = asid ∧ e.page = va / 65536)))))).filter (fun e => e.2 != []) }

/-! ### Checks at the target -/

/-- Some resident context of the tile runs a FIFO or line buffer over one of the bytes (06_memory.md R135). -/
def inStreamRange (s : State) (k y x off n : Nat) : Bool :=
  (List.range 4).any (fun j => match s.region k j with
    | none => false
    | some r => r.holds y x && r.ctxs.any (fun e => match e.2 with
      | none => false
      | some c =>
        let w := (Map.get {} c.tiles (24 * y + x)).cfg
        let base := 1024 * field w 31 27
        let mode := field w 20 19
        decide ((mode = 1 ∨ mode = 2) ∧ off < base + 1024 * field w 26 21 ∧ base < off + n)))

/-- Translation, or the scratch window, for an agent of core k: the physical address (R212, R134). A physical scratch
address is reached only by the headframe and the host (Table 6.1). -/
def locate (s : State) (k : Nat) (asid : BitVec 16) (va : Nat) (kd : Kind) (post : Bool) : State × Except Code (Nat × Bool) :=
  if inWindow va then
    let csa := va % 2 ^ 30
    if nfield csa 29 23 < 96 then (s, .ok (scratchBase + coreDie k * 0x40000000 + csa, false)) else (s, .error fcACCESS)
  else
    match translate s (cacheCore k) asid va kd post with
    | (s, .bad c) => (s, .error c)
    | (s, .ok pa seam) =>
      match target pa with
      | .scratch _ _ => (s, .error fcACCESS)
      | _ => (s, .ok (pa, seam))

/-- The check of an access by its target's access table, and of FIFO and line-buffer ranges at a memory tile: none is
refused, or the code with the denial logged (R303, R304, R135). -/
def targetCheck (s : State) (master pa n : Nat) (kd : Kind) : State × Option Code :=
  match target pa with
  | .slice i =>
    if permitted s i master pa n kd then (s, none) else (deny s i master pa kd.denial, some fcACCESS)
  | .scratch k lsa =>
    if permitted s (tgtCore k) master lsa n kd then
      let (y, x) := memTileSite (nfield lsa 22 15)
      if inStreamRange s k y x (nfield lsa 14 0) n then (s, some fcACCESS) else (s, none)
    else (deny s (tgtCore k) master lsa kd.denial, some fcACCESS)
  | .host =>
    if permitted s tgtHost master pa n kd then (s, none) else (deny s tgtHost master pa kd.denial, some fcACCESS)
  | .adit e _ =>
    (match aditPort s (field (Map.get 0 s.head.apertures e) 27 16) pa with
     | some p => if permitted s (tgtAdit p) master pa n kd then (s, none) else (deny s (tgtAdit p) master pa kd.denial, some fcACCESS)
     | none => (s, none))
  | _ => (s, none)

/-! ### The mesh (01_device.md R13, 06_memory.md R139) -/

/-- The die that a message at one die goes to next on its way to another; 4 is the pithead die. -/
def meshNext (at_ to_ : Nat) : Nat :=
  if to_ = 4 then (if at_ % 2 = 1 then at_ - 1 else 4)
  else if at_ = 4 then to_ / 2 * 2
  else if at_ % 2 ≠ to_ % 2 then at_ / 2 * 2 + to_ % 2
  else at_ % 2 + to_ / 2 * 2

/-- The dies that a message passes, after the one it starts from, in at most fuel edges. -/
def meshPath : Nat → Nat → Nat → List Nat
  | 0, _, _ => []
  | fuel + 1, at_, to_ => if at_ = to_ then [] else meshNext at_ to_ :: meshPath fuel (meshNext at_ to_) to_

/-- The edges, each by its lower and its higher end: 0 to 3 between compute dies (R13), 4 and 5 at the pithead die. -/
def edgeOf (a b : Nat) : Nat :=
  let p := (Nat.min a b, Nat.max a b)
  if p = (0, 1) then 0 else if p = (2, 3) then 1 else if p = (0, 2) then 2 else if p = (1, 3) then 3 else if p = (0, 4) then 4 else 5

/-- The edges of the route from one die to another. -/
def meshEdges (from_ to_ : Nat) : List Nat :=
  let p := meshPath 3 from_ to_
  ((from_ :: p).zip p).map (fun e => edgeOf e.1 e.2)

/-- The die of a home: the host and other modules lie beyond the pithead die. -/
def homeDie (home : Nat) : Nat := if isTileHome home then home - homeTile else if home < 256 then home / 64 else 4

/-- The die of an agent by its master ID (14_system.md Table 14.2). -/
def masterDie (m : Nat) : Nat :=
  if m < 512 then m / 128 else if m < 768 then (m - 512) / 64 else if m < 776 then m - 768 else if m < 784 then (m - 776) / 2 else 4

/-! ### Requests on their way (07_consistency.md R151, R155) -/

/-- The edges that a request of core k to a home crosses. -/
def reqEdges (k home : Nat) : List Nat := meshEdges (coreDie k) (homeDie home)

/-- A request of core k to a home crosses a UCIe edge or leaves the module. -/
def homeLeaves (k home : Nat) : Bool := decide (256 ≤ home ∨ home / 64 ≠ coreDie k)

/-- The request has passed the point of Table 7.2 that lies before its home: its die's UCIe egress, or for the host and
other modules the pithead port. -/
def Req.passed (r : Req) (home : Nat) : Bool :=
  if 1000 ≤ home then decide ((reqEdges r.core home).length < r.hops) else decide (0 < r.hops)

/-- The write of r is performed at scope sc: 0 CORE, 1 CLUSTER, 2 DEVICE, 3 SYSTEM (Table 7.2). -/
def performedAt (home : Nat) (r : Req) (sc : Nat) : Bool :=
  if r.outcome.isSome then true
  else if sc = 0 then r.left
  else if 1000 ≤ home then decide (sc ≤ 2) && r.passed home
  else decide (sc = 1) && homeLeaves r.core home && r.passed home

def reqHome (s : State) (r : Req) : Nat :=
  match placeOf s r.pa with | .ok p => p.home | .error _ => homeTile + coreDie r.core

/-- Every earlier access of the thread of core k is performed at the scope (R155). -/
def released (s : State) (k sc : Nat) : Bool :=
  (s.thread k).loads.isEmpty && s.egress.all (fun r => decide (r.core ≠ k ∨ r.sid.isSome) || performedAt (reqHome s r) r sc)

/-- An earlier request stands between core k and a home: its own to the same home, or one of its die that has passed
the same point on the way there (R151). -/
def behind (s : State) (k home : Nat) : Bool :=
  s.egress.any (fun r => decide (r.outcome = none) && decide (reqHome s r = home) &&
    ((decide (r.core = k) && r.left) || (r.passed home && (decide (1000 ≤ home) || decide (coreDie r.core = coreDie k)))))

/-- An access already translated with a page, or to a frame, is not performed: a store on its way, an open line, or a held
line, an outstanding load, a write of a SELTOPK (10_faults_modes.md R217, 07_consistency.md R169). Other reads and atomics are performed where they
are translated. -/
def translatedTo (s : State) (p : BitVec 16 → Nat → Nat → Bool) : Bool :=
  s.threads.any (fun e => e.2.loads.any (fun l => p l.asid l.va l.pa)) ||
  s.egress.any (fun r => r.outcome.isNone && p r.asid r.va r.pa) ||
  s.cores.any (fun e => e.2.queues.any (fun q => q.2.any (fun c => c.sent.any (fun w => p c.asid w.2.1 w.2.2.1)))) ||
  s.ports.any (fun e => e.2.lines.any (fun l => p l.asid l.va l.pa) ||
    e.2.hold.any (fun h => match h with | .line l => p l.asid l.va l.pa | _ => false))

/-! ### Thread registers -/

def rg (s : State) (k : Nat) (r : BitVec 5) : Word := if r = 0 then 0 else Map.get 0 (s.thread k).g r.toNat
def wg (s : State) (k : Nat) (r : BitVec 5) (v : Word) : State :=
  if r = 0 then s else s.modThread k (fun t => { t with g := Map.set 0 t.g r.toNat v })
def rp (s : State) (k : Nat) (r : BitVec 3) : Bool := if r = 0 then true else (s.thread k).p.getLsbD r.toNat
def wp (s : State) (k : Nat) (r : BitVec 3) (v : Bool) : State :=
  if r = 0 then s else s.modThread k (fun t =>
    { t with p := if v then t.p ||| (1#8 <<< r.toNat) else t.p &&& ~~~(1#8 <<< r.toNat) })
def rq (s : State) (k : Nat) (r : BitVec 3) : QWord := Map.get 0 (s.thread k).q r.toNat
def wq (s : State) (k : Nat) (r : BitVec 3) (v : QWord) : State :=
  s.modThread k (fun t => { t with q := Map.set 0 t.q r.toNat v })

def pcOf (s : State) (k : Nat) : Word := (s.thread k).pc

/-- STATUS.PRIV (10_faults_modes.md Table 10.5). -/
def isPriv (s : State) (k : Nat) : Bool := (s.thread k).status.getLsbD 0
def inTrap (s : State) (k : Nat) : Bool := (s.thread k).status.getLsbD 7

/-- The instruction retires and pc := target; in user mode with STATUS.STEP = 1 a BKPT trap is due (R235). -/
def retireTo (s : State) (k : Nat) (target : Word) : State :=
  s.modThread k (fun t => { t with
    pc := target, stepDue := !t.status.getLsbD 0 && t.status.getLsbD 6
    stall := none, taking := false, awaits := none, watching := none, joining := none })

/-- The instruction retires and the next one follows it. -/
def retire (s : State) (k : Nat) : State := retireTo s k (pcOf s k + 4)

/-- The instruction runs on a control thread; any other agent refuses it. -/
def onThread (s : State) (f : Nat → Res) : Res :=
  match s.self with
  | .thread k => f k
  | _ => .refused .wrongAgent

/-! ### The idle state, tasks that end, and traps -/

/-- The idle state at IDLEPC (10_faults_modes.md R222, 11_scheduling.md R257). -/
def idleThread (f : Foreman) (t : Thread) : Thread :=
  { throtLast := t.throtLast, throtPend := t.throtPend, run := .running,
    pc := BitVec.ofNat 64 f.idlePc, tvec := BitVec.ofNat 64 f.trapPc, status := 1 }

def goIdle (s : State) (k : Nat) : State :=
  s.modThread k (idleThread (s.foreman (coreDie k)))

/-- A core command changed by f where p holds of it. -/
def modCmds (s : State) (k : Nat) (p : QCmd → Bool) (f : QCmd → QCmd) : State :=
  s.modCore k (fun c => { c with queues := c.queues.map (fun (q, l) => (q, l.map (fun x => if p x then f x else x))) })

/-- Uncore cycles since cold reset: 1.3 per ns (01_device.md R22; log 30). -/
def uncoreCycles (s : State) : Nat := 13 * s.time / 10

/-- The bucket as it stands now (12_power.md R270). -/
def bucketNow (s : State) (m : Meter) : Nat := Nat.min (m.b + m.rate * (uncoreCycles s - m.at_)) (m.burst * 1300)

/-- The ceilings and BURST of a core's ports go back to reset; the buckets hold what they held, up to the cap (R279). -/
def resetCeilings (s : State) (k : Nat) : State :=
  s.modCore k (fun c => { c with
    meters := (c.meters.map (fun (n, m) =>
      (n, { m with ceil := 0, burst := 8, b := Nat.min (bucketNow s m) 10400, at_ := uncoreCycles s }))).filter (fun e => e.2 != {}) })

/-- Nothing keeps a page whose release is pending: no pin, and no fetch of it (09_attention.md R202). -/
def pageLoose (s : State) (asid : BitVec 16) (page : Nat) : Bool :=
  !s.pins.any (fun p => decide (p.1 = asid ∧ p.2.1 = page)) && !s.fetches.any (fun f => decide (f.asid = asid ∧ f.page = page))

/-- A page is released at present: its pins have fallen and its PTE has still to be cleared, or its shootdown is not
complete (09_attention.md R202, 10_faults_modes.md R217). A command whose close drops the last pin waits for it. -/
def releasesDue (s : State) : Bool := s.releasing.any (fun x => x.cleared || pageLoose s x.asid x.page)

/-- The release of a page is pending (09_attention.md R201, R202). -/
def releasePending (s : State) (asid : BitVec 16) (page : Nat) : Bool :=
  s.releasing.any (fun x => decide (x.asid = asid ∧ x.page = page))

/-- The pins of a holder fall (17_ref_m_r.md R388). -/
def dropPins (s : State) (h : Holder) : State := { s with pins := s.pins.filter (fun p => decide (p.2.2 ≠ h)) }

/-- The dirty-range record of a store stream that closes, on its way to the log of its ASID (R218, Table 10.3). -/
def dirtyRecord (s : State) (k n : Nat) (p : Port) : State :=
  let bytes := toBytes 2 p.asid.toNat ++ toBytes 1 n ++ toBytes 1 (!p.written).toNat ++ toBytes 2 (coreMaster k) ++ toBytes 2 0
    ++ toBytes 8 (if p.written then p.low else 0) ++ toBytes 8 (if p.written then p.high else 0)
    ++ toBytes 4 p.segNo ++ toBytes 4 0
  { s with records := s.records ++ [{ core := k, asid := p.asid, dirty := bytes, time := s.time }] }

/-- Dirty-range records of core k are not yet in their log: the command that closes a stream waits for its own (R218). -/
def dirtyLeft (s : State) (k : Nat) : Bool := s.records.any (fun e => decide (e.core = k) && e.fault.isNone)

/-- The physical address of the first page of an area. -/
def areaPa (s : State) (asid : BitVec 16) (va : Nat) : Option Nat :=
  match walkLeaf s asid va with | .ok l => some l.pa | .error _ => none

/-- A queued SCLOSE of the stream finds the port idle and retires at once: it meets no check of its binding (R341). -/
def idleCloses (s : State) (k n : Nat) : State :=
  modCmds s k (fun q => decide (q.phase = .queued ∧ q.word.toNat / 2 ^ 120 = 6) && decide ((cmdFields q.word).sid.toNat = n)) (fun q => { q with headed := true })

/-- The streams that stand in a frozen context's area close (R341, 11_scheduling.md R261 step 3). -/
def closeSaved (s : State) (k : Nat) (x : Ctx) : State :=
  match (areaPa s x.saveAsid x.save).bind (fun pa => (Map.get none s.saves pa).map (fun a => (pa, a))) with
  | none => s
  | some (pa, a) =>
    let s := a.ports.foldl (fun s e =>
      let s := if e.2.entry || e.2.shut then s else dirtyRecord s k e.1 e.2
      let ids := (e.2.past ++ e.2.prog.toList ++ e.2.redo).map (·.cmdId)
      let s := modCmds s k (fun q => ids.contains q.id) (fun q => { q with phase := .done (if q.progress = 6 then 0 else fcTASK) })
      idleCloses (dropPins s (.stream e.2.id)) k e.1) s
    -- the segment counts of the entry streams among them, for the comparison of R32
    let counts := (a.ports.filter (fun e => e.2.entry && !e.2.shut && decide (e.2.bind < 4))).map (fun e => (e.1, e.2.segNo))
    { s with saves := Map.set none s.saves pa (some { a with ports := [], ctx := { a.ctx with closed := a.ctx.closed ++ counts } }) }

/-- The streams, queued commands and frozen contexts of the task that core k's thread holds are stopped (11_scheduling.md R261 steps 1 to 3):
ports close once their segments in flight have completed, queued commands retire with TASK, frozen contexts go. -/
def stopWork (s : State) (k : Nat) : State :=
  let s := (List.range 32).foldl (fun s n =>
    let p := s.port (portKey k n)
    if p.isOpen then s.setPort (portKey k n) { p with closing := some (p.closing.getD fcTASK) } else s) s
  let s := modCmds s k (fun c => decide (c.phase = .queued ∨ c.phase = .ready)) (fun c => { c with phase := .done fcTASK })
  let mine (m : Member) : Bool := decide (m.core = k)
  let s := { s with colls := s.colls.map (fun c => if c.members.any mine then { c with code := some (c.code.getD fcTASK) } else c) }
  (List.range 4).foldl (fun s j =>
    match s.region k j with
    | none => s
    | some r => (List.range 4).foldl (fun s c =>
        match r.ctx c with
        | some x => if x.frozen ∧ x.task = (s.thread k).task then
            let s := dropPins (closeSaved s k x) (.area k j c)
            match s.region k j with
            | some r =>
              let r := r.setCtx c none
              s.setRegion k j (if r.ctxs.isEmpty then none else some r)
            | none => s
          else s
        | none => s) s) s

/-- Whether any command or stream of core k is still at work, or a record of its still on its way to a ring. -/
def workLeft (s : State) (k : Nat) : Bool :=
  s.records.any (fun e => decide (e.core = k)) ||
  (s.core k).queues.any (fun e => !e.2.isEmpty) || (List.range 32).any (fun n => (s.port (portKey k n)).isOpen)

/-- The end of core k's task reaches its foreman as a message, its FIFOs are emptied, what still stands in its queues
signals nothing any more, its pins and ceilings fall (11_scheduling.md R251, 19_ref_t_z.md R425, 17_ref_m_r.md R388, 12_power.md R279), and the thread takes the idle state. -/
def endTask (s : State) (k : Nat) (how : EndKind) (code : Code) : State :=
  match (s.thread k).task with
  | none => goIdle s k
  | some p =>
    let d := coreDie k
    let s := s.modForeman d (fun f => { f with inbox := f.inbox ++ [.ended p how code] })
    let s := modCmds s k (fun c => c.byForeman.isNone) (fun c => { c with orphan := true })
    let s := s.modCore k (fun c => { c with fifos := [] })
    let s := dropPins (resetCeilings s k) (.task d p)
    goIdle s k

/-- stop_thread (10_faults_modes.md R220): the task ends FAILED with the code and its work is stopped; a thread without
a task is parked until warm reset. -/
def stopThread (s : State) (k : Nat) (code : Code) : State :=
  match (s.thread k).task with
  | none => s.modThread k (fun t => { t with run := .parked })
  | some _ => endTask (stopWork s k) k .failed code

/-- The image of ECAUSE (10_faults_modes.md Table 10.6). -/
def ecauseImage (code : Code) (async more step final : Bool) (region queue stream frec : Nat) : Word :=
  BitVec.ofNat 64 (code.toNat + 2 ^ 8 * async.toNat + 2 ^ 9 * more.toNat + 2 ^ 10 * step.toNat + 2 ^ 11 * final.toNat +
    2 ^ 12 * (region % 4) + 2 ^ 14 * (queue % 8) + 2 ^ 17 * (stream % 32) + 2 ^ 32 * (frec % 2 ^ 32))

/-- STATUS after a trap: PPRIV := PRIV, PRIV := 1, PAIE := AIE, AIE := 0, INTRAP := 1; STEP stays (R220). -/
def trapStatus (st : Word) : Word :=
  (st &&& 0x40) ||| 0x81 ||| (if st.getLsbD 0 then 2 else 0) ||| (if st.getLsbD 3 then 0x10 else 0)

/-- Takes a trap: EPC, ECAUSE and EVAL are written, STATUS changes, and pc := TVEC with bits [1:0] cleared (R220). -/
def takeTrap (s : State) (k : Nat) (epc ecause eval : Word) : State :=
  s.modThread k (fun t => { t with
    epc, ecause, eval, status := trapStatus t.status, pc := t.tvec &&& ~~~(3 : Word), stepDue := false
    stall := none, taking := false, awaits := none, watching := none, joining := none })

/-- A synchronous fault of the instruction at pc: a trap with EPC = pc, no fault record and no queue; within a trap
handler the thread is stopped (R220). -/
def raise (s : State) (k : Nat) (code : Code) (val : Word) : State :=
  if inTrap s k then stopThread s k code
  else takeTrap s k (pcOf s k) (ecauseImage code false false false false 0 7 0 0xFFFFFFFF) val

/-- STATUS after SYSRET: PRIV := PPRIV, AIE := PAIE, INTRAP := 0 (18_ref_s.md R417). -/
def sysretStatus (st : Word) : Word :=
  (st &&& 0x52) ||| (if st.getLsbD 1 then 1 else 0) ||| (if st.getLsbD 4 then 8 else 0)

/-- The return from a trap (R417). -/
def returnFromTrap (s : State) (k : Nat) : State :=
  s.modThread k (fun t => { t with status := sysretStatus t.status, pc := t.epc &&& ~~~(3 : Word), stepDue := false, stall := none })

/-- EVAL of a fault (R220). -/
def FRec.eval (r : FRec) : Word := if evalIsVa r.code then r.va else 0

/-- The ECAUSE image of a fault, with its FREC (Table 10.6). -/
def FRec.image (r : FRec) (frec : Nat) : Word := ecauseImage r.code r.async false r.step r.final r.region r.queue r.stream frec

/-- The bytes of a fault record, its index and TIME at the fault given (Table 10.7). -/
def FRec.bytes (r : FRec) (frec time : Nat) : List Byte :=
  toBytes 8 (r.image frec).toNat ++ toBytes 8 r.eval.toNat ++ toBytes 8 r.ipc.toNat
    ++ (List.range 4).flatMap (fun i => toBytes 4 (r.iter.getD i 0))
    ++ toBytes 4 r.seg ++ toBytes 2 (coreMaster r.core) ++ toBytes 2 0 ++ toBytes 8 time ++ toBytes 8 r.save

/-- A fault record is on its way to the ring of its ASID, and what follows once it stands there (R220, R223). -/
def putRecord (s : State) (r : FRec) (after : After) : State :=
  { s with records := s.records ++ [{ core := r.core, asid := r.asid, fault := some r, time := s.time, after }] }

/-- An asynchronous fault of the thread of core k: recorded in the ring, and then pending for the thread (R220). -/
def pendFault (s : State) (r : FRec) : State := putRecord s r (.pend (s.thread r.core).task)

/-- A trap of core k's thread waits for its record. -/
def trapDue (s : State) (k : Nat) : Bool :=
  s.records.any (fun e => decide (e.core = k) && (match e.after with | .trap _ => true | _ => false))

/-- A recorded fault reaches the thread: pending while fewer than 16 are, and lost to it beyond (R220). -/
def pendImage (s : State) (r : FRec) (frec : Nat) : State :=
  s.modThread r.core (fun t =>
    if t.pend.length < 16 then { t with pend := t.pend ++ [⟨r.image frec, r.eval⟩] } else { t with more := true })

/-- What follows a record: FREC is its index, or all ones where none was written (R220, R231, R235). -/
def afterRecord (s : State) (r : FRec) (frec : Nat) : After → State
  | .nothing => s
  | .pend task => if (s.thread r.core).task = task then pendImage s r frec else s
  | .trap epc =>
    if inTrap s r.core && !r.async then stopThread s r.core r.code
    else takeTrap s r.core epc (r.image frec) r.eval

/-- Delivers the oldest pending fault as a trap at an instruction boundary, with STEP when a single step ended there
(R220, R235). -/
def deliverAsync (s : State) (k : Nat) (step : Bool) : State :=
  match (s.thread k).pend with
  | [] => s
  | f :: rest =>
    let more := (s.thread k).more
    let img := f.ecause ||| (if more then 0x200 else 0) ||| (if step then 0x400 else 0)
    takeTrap (s.modThread k (fun t => { t with pend := rest, more := false })) k (pcOf s k) img f.eval

/-! ### Bit strings of registers and blocks -/

/-- Bytes lo to lo + n - 1 of a block. -/
def blk (b : BitVec 512) (lo n : Nat) : Nat := b.toNat / 256 ^ lo % 256 ^ n

end Sys2Proof.Machine
end

