-- ==== Sys2Proof/Machine/Cache.lean ====
section
/-!
DEFINITION. The L2 slices: lookup, replacement, the steps of a miss with their events, and messages
(06_memory.md R136, R137, R140, 08_assayers.md R174 to R178, R185, R187). A line is named by its physical address / 128;
the bytes of a line stand in the one memory, the slice holds its tags.
-/
namespace Sys2Proof.Machine

open Sys2Proof

/-! ### Sets, ways and the tree (R136) -/

def setOf (line : Nat) : Nat := homeSet (128 * line)

def State.cset (s : State) (i set : Nat) : CacheSet := Map.get {} (s.slice i).sets set
def State.setCset (s : State) (i set : Nat) (c : CacheSet) : State :=
  s.modSlice i (fun x => { x with sets := Map.set {} x.sets set c })
def State.way (s : State) (i set w : Nat) : Option Way := Map.get none (s.cset i set).ways w
def State.setWay (s : State) (i set w : Nat) (x : Option Way) : State :=
  let c := s.cset i set
  s.setCset i set { c with ways := Map.set none c.ways w x }

/-- The way that holds a line. -/
def wayOf (s : State) (i line : Nat) : Option Nat :=
  (List.range 16).find? (fun w => match s.way i (setOf line) w with | some x => decide (x.line = line) | none => false)

/-- The tree points away from way w on the whole path to it (R136). -/
def treeTouch (tree : BitVec 15) (w : Nat) : BitVec 15 :=
  ((List.range 4).foldl (fun (acc : Nat × BitVec 15) d =>
    let right := (w >>> (3 - d)) % 2 = 1
    let b : BitVec 15 := 1 <<< acc.1
    (2 * acc.1 + (if right then 2 else 1), if right then acc.2 &&& ~~~b else acc.2 ||| b)) (0, tree)).2

/-- The way reached by following the tree's bits from the root. -/
def treeChoice (tree : BitVec 15) : Nat :=
  ((List.range 4).foldl (fun (acc : Nat × Nat) _ =>
    let right := tree.getLsbD acc.1
    (2 * acc.1 + (if right then 2 else 1), 2 * acc.2 + right.toNat)) (0, 0)).2

def touchWay (s : State) (i set w : Nat) : State :=
  let c := s.cset i set
  s.setCset i set { c with tree := treeTouch c.tree w }

/-- A handler's hooked line, or a locked line, stands in the way (R136, R180). -/
def wayHeld (s : State) (i set w : Nat) : Bool :=
  (match s.way i set w with | some x => x.locked.isSome | none => false) ||
  (List.range 4).any (fun c => match (s.hart (4 * i + c)).ev with
    | some e => decide (setOf e.line = set ∧ e.way = w)
    | none => false)

/-- The way is reserved for a miss in progress. -/
def wayReserved (s : State) (i set w : Nat) : Bool :=
  (s.slice i).misses.any (fun m => decide (setOf m.line = set ∧ m.way = w ∧ m.stage ≠ .faulted))

/-- The victim of an allocation (R136). -/
def victimOf (s : State) (i set : Nat) : Option Nat :=
  let free (w : Nat) : Bool := !(wayHeld s i set w || wayReserved s i set w)
  match (List.range 16).find? (fun w => free w && (s.way i set w).isNone) with
  | some w => some w
  | none =>
    let c := treeChoice (s.cset i set).tree
    ((List.range 16).map (fun d => (c + d) % 16)).find? free

/-- A handler other than h holds or has locked the line (R166). -/
def lineHeld (s : State) (i line : Nat) : Bool :=
  (match wayOf s i line with
   | some w => (match s.way i (setOf line) w with | some x => x.locked.isSome | none => false)
   | none => false) ||
  (List.range 4).any (fun c => match (s.hart (4 * i + c)).ev with
    | some e => decide (e.line = line)
    | none => false)

/-! ### Handler-table entries (R174 to R176) -/

def State.entryWord (s : State) (i n w : Nat) : BitVec 64 := Map.get 0 (s.slice i).table (16 * n + w)
def State.setEntryWord (s : State) (i n w : Nat) (v : BitVec 64) : State :=
  s.modSlice i (fun x => { x with table := Map.set 0 x.table (16 * n + w) v })

def entryValid (s : State) (i n : Nat) : Bool := (s.entryWord i n 0).getLsbD 0
def entryStrict (s : State) (i n : Nat) : Bool := (s.entryWord i n 0).getLsbD 1
def entryAsid (s : State) (i n : Nat) : BitVec 16 := (s.entryWord i n 0).extractLsb' 16 16
/-- The entry is valid and has hook 0 MISS, 1 FILL, 2 EVICT or 3 MSG enabled. -/
def entryHook (s : State) (i n hook : Nat) : Bool :=
  decide (n < 16) && entryValid s i n && (s.entryWord i n 0).getLsbD (2 + hook)

/-- A VA lies in a used range of the entry (Table 8.2). -/
def inRanges (s : State) (i n va : Nat) : Bool :=
  (List.range 4).any (fun r =>
    let w := s.entryWord i n (4 + r)
    decide (field w 63 24 ≤ va / 65536 ∧ va / 65536 < field w 63 24 + field w 23 0))

/-- The valid entry whose ASID and ranges match (R176). -/
def entryFor (s : State) (i : Nat) (asid : BitVec 16) (va : Nat) : Option Nat :=
  (List.range 16).find? (fun n => entryValid s i n && decide (entryAsid s i n = asid) && inRanges s i n va)

/-- Adds 1 to a saturating half of entry word 8: OVERFLOWS in [63:32], ABORTS in [31:0]. -/
def bumpEntry (s : State) (i n : Nat) (high : Bool) : State :=
  let w := s.entryWord i n 8
  let o := field w 63 32
  let a := field w 31 0
  let up (x : Nat) : Nat := if x = 2 ^ 32 - 1 then x else x + 1
  s.setEntryWord i n 8 (BitVec.ofNat 64 (if high then up o * 2 ^ 32 + a else o * 2 ^ 32 + up a))

/-! ### The steps of a miss (R177) -/

def Miss.from (m : Miss) (o : Origin) : Bool :=
  decide (m.okind = o.okind ∧ m.master = o.master ∧ m.asid = o.asid ∧ m.va / 128 = o.va / 128) && !m.pref

def setMiss (s : State) (i line : Nat) (f : Miss → Miss) : State :=
  s.modSlice i (fun x => { x with misses := x.misses.map (fun m => if m.line = line ∧ m.stage ≠ .faulted then f m else m) })

def dropMiss (s : State) (i line : Nat) : State :=
  s.modSlice i (fun x => { x with misses := x.misses.filter (fun m => decide (¬ (m.line = line ∧ m.stage ≠ .faulted))) })

/-- Queues an event, or answers false when 32 stand in the queue; then OVERFLOWS rises (R185). -/
def queueEvent (s : State) (i : Nat) (e : SliceEv) : State × Bool :=
  if (s.slice i).events.length < 32 then (s.modSlice i (fun x => { x with events := x.events ++ [e] }), true)
  else (bumpEntry s i e.entry true, false)

def missEv (m : Miss) (hook : Nat) : SliceEv :=
  { hook, entry := m.tag, line := m.line, way := m.way, va := m.va / 128 * 128, asid := m.asid, okind := m.okind, master := m.master }

/-- The access of a miss ends with HANDLER; a PREF's just ends (R187, 17_ref_m_r.md R390). -/
def missFault (s : State) (i : Nat) (m : Miss) : State :=
  if m.pref then dropMiss s i m.line else setMiss s i m.line (fun m => { m with stage := .faulted })

/-- Step 5: the FILL event of a line that is now present, or the end of the miss. -/
def missFill (s : State) (i : Nat) (m : Miss) : State :=
  if !m.quiet && entryHook s i m.tag 1 then
    let (s, room) := queueEvent s i (missEv m 1)
    if room then setMiss s i m.line (fun m => { m with stage := .fill })
    else if entryStrict s i m.tag then missFault s i m
    else dropMiss s i m.line
  else dropMiss s i m.line

/-- The line is present on the reserved way. -/
def missInstall (s : State) (i : Nat) (m : Miss) : State :=
  missFill (s.setWay i (setOf m.line) m.way (some { line := m.line, tag := m.tag })) i m

/-- Free miss registers of the 256: a fetch and a write-back hold one each, a line's fetch and write-back one (06_memory.md R140). -/
def freeRegs (s : State) (i : Nat) : Nat :=
  let x := s.slice i
  256 - ((x.misses.filter (fun m => decide (m.stage = .fetch))).length +
    (x.writebacks.filter (fun l => !x.misses.any (fun m => decide (m.line = l ∧ m.stage = .fetch)))).length)

/-- An older miss waits for a miss register (R140). -/
def olderWaits (s : State) (i : Nat) (m : Miss) : Bool :=
  ((s.slice i).misses.takeWhile (fun x => decide (x.line ≠ m.line))).any (fun x => decide (x.stage = .await ∨ x.stage = .room))

/-- Step 4: fetch from the stack, once a miss register is free and no older miss waits for one; a store of the whole line
reads nothing (R136, R140). -/
def missFetch (s : State) (i : Nat) (m : Miss) : State :=
  if m.full then missInstall s i m
  else if m.line ∉ (s.slice i).writebacks ∧ (freeRegs s i = 0 ∨ olderWaits s i m) then setMiss s i m.line (fun m => { m with stage := .await })
  else setMiss s i m.line (fun m => { m with stage := .fetch })

/-- Step 3: the MISS event, by default nothing. -/
def missHook (s : State) (i : Nat) (m : Miss) : State :=
  if !m.quiet && entryHook s i m.tag 0 then
    let (s, room) := queueEvent s i (missEv m 0)
    if room then setMiss s i m.line (fun m => { m with stage := .miss })
    else if entryStrict s i m.tag then missFault s i m
    else missFetch s i m
  else missFetch s i m

/-- A line that leaves a way is written back if it is dirty: its bytes stand in memory already, and the write-back holds a
miss register until it ends (R140). -/
def writeBack (s : State) (i : Nat) (w : Option Way) : State :=
  match w with
  | some x => if x.dirty then s.modSlice i (fun c => { c with writebacks := c.writebacks ++ [x.line] }) else s
  | none => s

/-- The victim's way is emptied and becomes the way used (R136); a dirty victim first waits for a miss register (R140). -/
def missEvict (s : State) (i : Nat) (m : Miss) : State :=
  let v := s.way i (setOf m.line) m.way
  if v.any (·.dirty) ∧ (freeRegs s i = 0 ∨ olderWaits s i m) then setMiss s i m.line (fun m => { m with stage := .room })
  else missHook (touchWay ((writeBack s i v).setWay i (setOf m.line) m.way none) i (setOf m.line) m.way) i m

/-- Steps 2 to 5 of an access that misses: a victim is chosen, and its EVICT event is raised or it goes at once. -/
def startMiss (s : State) (i line : Nat) (o : Origin) : State :=
  match victimOf s i (setOf line) with
  | none => s
  | some w =>
    let m : Miss := { line, way := w, stage := .evict, okind := o.okind, master := o.master, asid := o.asid, va := o.va,
                      tag := (entryFor s i o.asid o.va).getD 16, quiet := o.quiet, pref := o.pref, full := o.full, hart := o.hart }
    let s := s.modSlice i (fun x => { x with misses := x.misses ++ [m] })
    match s.way i (setOf line) w with
    | some v =>
      if !o.quiet && entryHook s i v.tag 2 then
        let (s, room) := queueEvent s i
          { hook := 2, entry := v.tag, line := v.line, way := w, va := 2 ^ 64 - 1, asid := 0, okind := 7, master := 0 }
        if room then s else missEvict s i m
      else missEvict s i m
    | none => missEvict s i m

/-- A miss of the line is in progress. -/
def missing (s : State) (i line : Nat) : Bool := (s.slice i).misses.any (fun m => decide (m.line = line ∧ m.stage ≠ .faulted))

/-- The accesses that wait, from the oldest on: one starts when its set has a way and no older one of the set waits, and
misses that wait for a miss register take theirs (R136, R140). -/
def admitList (i : Nat) : List (Nat × Origin) → State → List Nat → State
  | [], s, _ => s
  | (line, o) :: rest, s, sets =>
    let drop (s : State) : State := s.modSlice i (fun x => { x with waiting := x.waiting.filter (fun e => decide (e ≠ (line, o))) })
    if missing s i line || (wayOf s i line).isSome then admitList i rest (drop s) sets
    else if sets.contains (setOf line) || (victimOf s i (setOf line)).isNone then admitList i rest s (setOf line :: sets)
    else admitList i rest (startMiss (drop s) i line o) sets

def admitWaiting (s : State) (i : Nat) : State :=
  let s := (s.slice i).misses.foldl (fun s m => match m.stage with
    | .await => missFetch s i m
    | .room => missEvict s i m
    | _ => s) s
  admitList i (s.slice i).waiting s []

/-- An access whose line is absent starts its miss, or waits in its place (R136). -/
def joinMiss (s : State) (i line : Nat) (o : Origin) : State :=
  if (victimOf s i (setOf line)).isNone || (s.slice i).waiting.any (fun e => decide (setOf e.1 = setOf line)) then
    if (s.slice i).waiting.contains (line, o) then s
    else s.modSlice i (fun x => { x with waiting := x.waiting ++ [(line, o)] })
  else startMiss s i line o

/-- The miss of an access to an absent line: ahead of it stands the fill of a MSG that waits for the line, if there is one,
and that raises no event (08_assayers.md R178). -/
def originFor (s : State) (i line : Nat) (o : Origin) : Origin :=
  match (s.slice i).events.find? (fun e => decide (e.hook = 3 ∧ e.line = line)) with
  | some e => { okind := e.okind, master := e.master, asid := e.asid, va := e.va, quiet := true }
  | none => o

/-- How an access to a line stands: it may be performed, it waits, or it faults. -/
inductive LineAns where
  | ready | wait | fault
  deriving DecidableEq, Repr

/-! ### Requests that stand at a slice (R136, R137, 02_execution_model.md R52, 14_system.md R303) -/

def Inside.is (e : Inside) (line : Nat) (o : Origin) : Bool := decide (e.line = line ∧ e.who = o)

/-- The core that a control thread's master ID names. -/
def masterCore (m : Nat) : Nat := 96 * (m / 128) + m % 128

/-- A request waits at the slice; `met` says that it has met its line absent. -/
def letIn (s : State) (i line : Nat) (o : Origin) (met : Bool) : State :=
  s.modSlice i (fun x =>
    if x.inside.any (·.is line o) then { x with inside := x.inside.map (fun e => if e.is line o then { e with met := e.met || met } else e) }
    else { x with inside := x.inside ++ [{ line, who := o, at_ := s.time, pc := (s.thread (masterCore o.master)).pc, met }] })

def letOut (s : State) (i line : Nat) (o : Origin) : State :=
  s.modSlice i (fun x => { x with inside := x.inside.filter (fun e => !e.is line o) })

/-- Another control thread waits for the line and came first, or in the same ns from a core of lower number (R52). -/
def elder (s : State) (i line : Nat) (o : Origin) : Bool :=
  let l := (s.slice i).inside
  let mine := ((l.find? (·.is line o)).map (·.at_)).getD s.time
  l.any (fun e =>
    let t := s.thread (masterCore e.who.master)
    decide (e.line = line ∧ e.who.okind = 0 ∧ e.who.master ≠ o.master ∧ t.pc = e.pc ∧ t.run = .running ∧
      (e.at_ < mine ∨ (e.at_ = mine ∧ e.who.master < o.master)))) && decide (o.okind = 0)

/-- An allocating access to a home line (R136, R137, R177). Only a hit is performed; a miss is started or waited for. The
access for which the line was allocated, or which has waited for the fill, does not touch the tree again. -/
def lineAccess (s : State) (i line : Nat) (o : Origin) : State × LineAns :=
  if (s.slice i).misses.any (fun m => decide (m.line = line ∧ m.stage = .faulted) && m.from o) then
    (letOut (s.modSlice i (fun x => { x with misses := x.misses.filter (fun m =>
      !(decide (m.line = line ∧ m.stage = .faulted) && m.from o)) })) i line o, .fault)
  else
    let s := admitWaiting s i
    if lineHeld s i line || missing s i line || elder s i line o then (letIn s i line o (missing s i line), .wait)
    else match wayOf s i line with
      | some w =>
        let met := (s.slice i).inside.any (fun e => e.is line o && e.met)
        (letOut (if met then s else touchWay s i (setOf line) w) i line o, .ready)
      | none =>
        let s := joinMiss s i line (originFor s i line o)
        -- a store of the whole line is there at once
        match wayOf s i line with
        | some _ => if missing s i line then (letIn s i line o true, .wait) else (letOut s i line o, .ready)
        | none => (letIn s i line o true, .wait)

/-- A line of the slice is written. -/
def markDirty (s : State) (i line : Nat) : State :=
  match wayOf s i line with
  | some w => (match s.way i (setOf line) w with
    | some x => s.setWay i (setOf line) w (some { x with dirty := true })
    | none => s)
  | none => s

/-- What follows when an event has ended: `fault` says that the originating access faults with HANDLER (R177, R183, R187). -/
def eventDone (s : State) (i : Nat) (e : SliceEv) (victim : Nat) (fault : Bool) : State :=
  match e.hook with
  | 0 =>
    (match (s.slice i).misses.find? (fun m => decide (m.line = e.line ∧ m.stage = .miss)) with
     | none => s
     | some m =>
       if fault then missFault s i m
       else match s.way i (setOf m.line) m.way with
         | some x => if x.line = m.line then missFill s i m else missFetch s i m
         | none => missFetch s i m)
  | 1 =>
    (match (s.slice i).misses.find? (fun m => decide (m.line = e.line ∧ m.stage = .fill)) with
     | none => s
     | some m => if fault then missFault s i m else dropMiss s i m.line)
  | 2 =>
    -- the way named last is reserved for the miss
    (match (s.slice i).misses.find? (fun m => decide (setOf m.line = setOf e.line ∧ m.way = victim ∧ m.stage = .evict)) with
     | none => s
     | some m => missEvict s i m)
  | _ => s

/-- A MSG event for a line: dropped and counted when no entry matches, dropped when the queue is full (R178, R185). -/
def sendMsg (s : State) (i : Nat) (asid : BitVec 16) (va line okind master : Nat) (payload : QWord) : State :=
  match (List.range 16).find? (fun n =>
      entryHook s i n 3 && decide (entryAsid s i n = asid) && inRanges s i n va) with
  | none => s.modSlice i (fun x => { x with unmatched := x.unmatched + 1 })
  | some n => (queueEvent s i
      { hook := 3, entry := n, line, way := 0, va := va / 128 * 128, asid, okind, master, payload }).1

/-! ### One access at its home -/

/-- The state of an access that is about to be performed. -/
inductive Acc where
  /-- It may be performed now, at this memory key. -/
  | ready (s : State) (key : Nat)
  /-- It waits: its line is held, missing, or earlier requests stand before it. -/
  | wait (s : State)
  | fault (s : State) (code : Code)

/-- The Adit port that a request to an aperture leaves by (14_system.md R306, R307). -/
def portOf (s : State) (pa : Nat) : Option Nat :=
  match target pa with
  | .adit e _ => aditPort s (field (Map.get 0 s.head.apertures e) 27 16) pa
  | _ => none

/-- What a message that crosses the mesh in one step between two dies, and by the port of an aperture, meets there: a flit
that has failed its last retransmission charges LINK to what it carries, and one that gets through has not failed
(10_faults_modes.md R236, R139). -/
def crossFrom (s : State) (from_ to_ pa : Nat) : State × Bool :=
  let l := meshEdges from_ to_ ++ meshEdges to_ from_
  let s := match portOf s pa with
    | some k => { s with head := { s.head with retries := Map.set 0 s.head.retries k 0 } }
    | none => s
  ({ s with resent := l.foldl (fun m e => Map.set 0 m e 0) s.resent }, l.any (fun e => decide (7 ≤ Map.get 0 s.resent e)))

/-- An access on its way to a home and back. -/
def crossMesh (s : State) (master home pa : Nat) : State × Bool := crossFrom s (masterDie master) (homeDie home) pa

/-- The request stands at its slice: it has crossed the mesh and been checked (14_system.md R303). -/
def insideAt (s : State) (pa : Nat) (o : Origin) : Bool :=
  match target pa with | .slice i => (s.slice i).inside.any (·.is (pa / 128) o) | _ => false

/-- The target's check of a request, once, when it arrives (R303). -/
def checkOnce (s : State) (pa n : Nat) (kd : Kind) (o : Origin) : State × Option Code :=
  if insideAt s pa o then (s, none) else targetCheck s o.master pa n kd

/-- Where the request is performed, once it has been let in: the line of the slice, and poison for a kind that reads (R131,
R137, R177, 10_faults_modes.md R236). -/
def atHome (s : State) (key pa n : Nat) (kd : Kind) (o : Origin) : Acc :=
  let reads := decide (kd ≠ .write)
  match target pa with
  | .slice i =>
    (match lineAccess s i (pa / 128) o with
     | (s, .fault) => .fault s fcHANDLER
     | (s, .wait) => .wait s
     | (s, .ready) => if reads && poisoned s pa n then .fault s fcECC else .ready s key)
  | .scratch _ _ => if reads && poisoned s key n then .fault s fcECC else .ready s key
  | _ =>
    if Config.remoteAnswer s.tick = 1 then .fault s fcLINK
    else if Config.remoteAnswer s.tick = 2 ∧ hostBase > pa then .fault s fcACCESS
    else if reads && poisoned s key n then .fault s fcECC else .ready s key

/-- At the home of a physical address, for an agent with a master ID: absent targets, the target's check, and the access
there (R131, R135, R137, R177, 14_system.md R303). -/
def reachHome (s : State) (pa n : Nat) (kd : Kind) (o : Origin) : Acc :=
  match placeOf s pa with
  | .error c => .fault s c
  | .ok p =>
    match checkOnce s pa n kd o with
    | (s, some c) => .fault s c
    | (s, none) => atHome s p.key pa n kd o

/-- The way to a home and the access there, in one step. -/
def reach (s : State) (pa n : Nat) (kd : Kind) (o : Origin) : Acc :=
  match placeOf s pa with
  | .error c => .fault s c
  | .ok p =>
    if insideAt s pa o then atHome s p.key pa n kd o
    else match crossMesh s o.master p.home pa with
    | (s, true) => .fault s fcLINK
    | (s, false) => reachHome s pa n kd o

/-- A request by physical address, of an agent that has no ASID and no VA for it: no entry of a handler table matches it, so
it raises no event of its own (08_assayers.md R176, Table 8.4; log 125). -/
def rawOrigin (okind master : Nat) : Origin := { okind, master, asid := 0, va := 2 ^ 64 - 1 }

/-- The hardware's own requests: foremen, rings, deep-tier service, headframe (originator 7, as EVICT gives it). -/
def ownOrigin (master : Nat) : Origin := rawOrigin 7 master

/-- Several accesses of an agent that are performed together once each of them may be; the key is the first one's. -/
def reachAll (o : Origin) : List (Nat × Nat × Kind) → State → Acc
  | [], s => .ready s 0
  | (pa, n, kd) :: rest, s =>
    match reach s pa n kd o with
    | .ready s key =>
      (match reachAll o rest s with
       | .ready s _ => .ready s key
       | .wait s => .wait (match target pa with | .slice i => letIn s i (pa / 128) o true | _ => s)
       | .fault s c => .fault s c)
    | r => r

/-- The instruction caches that hold the line lose it before a store to it is performed (R138). -/
def dropFetched (s : State) (line : Nat) : State :=
  { s with cores := s.cores.map (fun (k, c) => (k, { c with icache := c.icache.filter (fun l => decide (l ≠ line)) })) }

/-- A write at its home: the bytes land, and the line of a slice is dirty. -/
def perform (s : State) (key : Nat) (cells : List (Option Byte)) : State :=
  match target key with
  | .slice i => markDirty (writeCells (dropFetched s (key / 128)) key cells) i (key / 128)
  | _ => writeCells s key cells

/-! ### Translations that wait (07_consistency.md R166, R169) -/

/-- A handler holds the line of a stack address. -/
def paHeld (s : State) (pa : Nat) : Bool := match target pa with | .slice i => lineHeld s i (pa / 128) | _ => false

/-- A translation through cache c stalls: a MIGRATE or the deep-tier service moves the page, or a handler holds a line that
the walk reads. -/
def stalls (s : State) (c : Nat) (asid : BitVec 16) (va : Nat) : Bool :=
  s.blocked.contains (asid, va / 65536 * 65536) ||
  s.fetches.any (fun f => f.stalled && decide (f.asid = asid ∧ f.page = va / 65536 * 65536)) ||
  ((cacheHit s c asid va).isNone && (walkReads s asid va).any (paHeld s))

/-! ### The walk of a translation (10_faults_modes.md R215, R216) -/

/-- The die of the walker that fills a cache, and the master ID that it presents: a slice's walker is no master of Table 14.2
and meets no access table (log 126). -/
def walkerDie (c : Nat) : Nat := if c < 1000 then coreDie c else if c < 2000 then (c - 1000) / 64 else (c - 2000) / 2
def walkerMaster (c : Nat) : Option Nat := if c < 2000 then none else some (776 + (c - 2000))

/-- One access of a translation service, at its home slice; an address that no walker reaches is the walk's own fault. -/
def walkAccess (s : State) (c pa n : Nat) (kd : Kind) (full : Bool) : Acc :=
  let o := { ownOrigin ((walkerMaster c).getD (1024 + c)) with full }
  match placeOf s pa with
  | .error _ => .ready s 0
  | .ok p =>
    if insideAt s pa o then atHome s p.key pa n kd o
    else match crossFrom s (walkerDie c) (homeDie p.home) pa with
      | (s, true) => .fault s fcLINK
      | (s, false) =>
        match (if (walkerMaster c).isSome then targetCheck s o.master pa n kd else (s, none)) with
        | (s, some x) => .fault s x
        | (s, none) => atHome s p.key pa n kd o

/-- Accesses of a translation service that are performed together once each may be: address, bytes, kind, and whether a whole
line is written. -/
def walkAll (c : Nat) : List (Nat × Nat × Kind × Bool) → State → Acc
  | [], s => .ready s 0
  | (pa, n, kd, full) :: rest, s =>
    match walkAccess s c pa n kd full with
    | .ready s _ =>
      (match walkAll c rest s with
       | .wait s => .wait (match target pa with
           | .slice i => letIn s i (pa / 128) { ownOrigin ((walkerMaster c).getD (1024 + c)) with full } true
           | _ => s)
       | r => r)
    | r => r

/-- The reads of a walk. -/
def walkReadAll (c : Nat) (l : List Nat) (s : State) : Acc := walkAll c (l.map (fun pa => (pa, 8, .read, false))) s

/-- Before a translation through cache c: it waits while it stalls, and a miss of the cache makes the walker read the PTEs at
their homes (R215, R216, 07_consistency.md R166, R169). -/
def walkFor (s : State) (c : Nat) (asid : BitVec 16) (va : Nat) : Acc :=
  if stalls s c asid va then .wait s
  else if (cacheHit s c asid va).isSome then .ready s 0
  else walkReadAll c (walkReads s asid va) s

/-- The translation service that handles a page stands at the home slice of its PTE (17_ref_m_r.md R380; its own accesses are
those of that slice's walker, log 126). -/
def serviceOf (s : State) (asid : BitVec 16) (page : Nat) : Nat :=
  match (walkPtes s asid page).getLast? with | some pa => cacheAssayer (homeSlice pa) | none => cacheAssayer 0

/-- The translation service reads the PTEs of a page. -/
def pteRead (s : State) (asid : BitVec 16) (page : Nat) : Acc := walkReadAll (serviceOf s asid page) (walkReads s asid page) s

/-- The PTEs of several pages. -/
def pagesRead (asid : BitVec 16) : List Nat → State → Acc
  | [], s => .ready s 0
  | page :: rest, s => match pteRead s asid page with | .ready s _ => pagesRead asid rest s | r => r

/-! ### Rings (10_faults_modes.md R213) -/

/-- The accesses of a ring's next entry: its counter at the descriptor's home, and the entry where there is room. -/
def ringReach (s : State) (o : Origin) (asid : BitVec 16) (r : RingAt) : Acc :=
  if descValid s asid = false then .ready s 0
  else reachAll o ((descAddr s asid + r.wr, 4, .atomic) ::
    (if ringFull s asid r then [] else [(ringSlot s asid r, r.entry, .write)])) s

/-- Appends an entry to a ring that has room; answers the counter value of the entry (R213). -/
def ringPut (s : State) (asid : BitVec 16) (r : RingAt) (bytes : List Byte) : State × Nat :=
  let n := descWord s asid r.wr 4
  let s := perform s (ringSlot s asid r) (bytes.map some)
  (perform s (descAddr s asid + r.wr) ((toBytes 4 ((n + 1) % 2 ^ 32)).map some), n)

/-- Sets a bit of the descriptor's FLAGS. -/
def descFlag (s : State) (asid : BitVec 16) (bit : Nat) : State :=
  perform s (descAddr s asid + 76) ((toBytes 4 (descWord s asid 76 4 ||| 2 ^ bit)).map some)

def RingEntry.ring (e : RingEntry) : RingAt := if e.fault.isSome then ringFault else ringLog

/-- An entry that has found no place: a full ring sets its flag, FLOST or LOST; where no descriptor is valid, or the write is
refused, nothing is written (R218, R223; log 127). -/
def dropEntry (s : State) (e : RingEntry) (full : Bool) : State :=
  let s := if full then descFlag s e.asid (if e.fault.isSome then 1 else 0) else s
  match e.fault with
  | some r => afterRecord s r 0xFFFFFFFF e.after
  | none => s

/-- An entry is written, and what follows it happens (R213, R218, R220, R223). -/
def writeEntry (s : State) (e : RingEntry) : State :=
  if descValid s e.asid = false then dropEntry s e false
  else if ringFull s e.asid e.ring then dropEntry s e true
  else match e.fault with
    | some r =>
      let (s, n) := ringPut s e.asid ringFault (r.bytes (descWord s e.asid ringFault.wr 4) e.time)
      afterRecord s r n e.after
    | none => (ringPut s e.asid ringLog e.dirty).1

/-- An earlier request of core k stands before a physical address's home (07_consistency.md R151). -/
def behindAt (s : State) (k pa : Nat) : Bool := match placeOf s pa with | .ok p => behind s k p.home | .error _ => false

/-- The oldest entry of core k that is on its way to a ring gets there, after the core's earlier requests to the same homes
(R213, 07_consistency.md R151, R166). -/
def postRecord (s : State) (k : Nat) : State :=
  match s.records.findIdx? (fun e => decide (e.core = k)), s.records.find? (fun e => decide (e.core = k)) with
  | some n, some e =>
    if descValid s e.asid && (behindAt s k (descAddr s e.asid) || behindAt s k (ringSlot s e.asid e.ring)) then s
    else match ringReach s (ownOrigin (coreMaster k)) e.asid e.ring with
      | .wait s => s
      | .fault s _ => dropEntry { s with records := s.records.eraseIdx n } e false
      | .ready s _ => writeEntry { s with records := s.records.eraseIdx n } e
  | _, _ => s

/-- Whether a handler of an entry runs, or an event for it is queued (08_assayers.md Table 8.2 BUSY). -/
def entryBusy (s : State) (i n : Nat) : Bool :=
  (s.slice i).events.any (fun e => decide (e.entry = n)) ||
  (List.range 4).any (fun c => match (s.hart (4 * i + c)).ev with | some e => decide (e.entry = n) | none => false)

end Sys2Proof.Machine
end

