-- ==== Sys2Proof/Machine/Float.lean ====
section
/-!
DEFINITION. Number formats, rounding and the arithmetic of 04_formats.md (R83 to R106): exact values, one rounding at the end.
-/
namespace Sys2Proof.Float

/-- The five sticky flags of a firing: [4] INV, [3] DZ, [2] OVF, [1] UNF, [0] INX (04_formats.md Table 4.10). -/
abbrev Fl := BitVec 5
def fINV : Fl := 16
def fDZ : Fl := 8
def fOVF : Fl := 4
def fUNF : Fl := 2
def fINX : Fl := 1

/-- An exact value: NaN (signalling or not), infinity, or (-1)^neg * m * 2^e. -/
inductive Val where
  | nan (signalling : Bool)
  | inf (neg : Bool)
  | fin (neg : Bool) (m : Nat) (e : Int)
  deriving DecidableEq, Repr

/-- A binary format (04_formats.md Table 4.1). -/
structure Fmt where
  bits : Nat
  ew : Nat
  fw : Nat
  bias : Nat
  /-- Exponent all ones is infinity or NaN. -/
  ieee : Bool
  /-- Canonical NaN code, if the format has one. -/
  nan : Option Nat
  /-- Code of the largest finite value. -/
  maxCode : Nat
  /-- It has infinities. -/
  hasInf : Bool
  deriving DecidableEq, Repr

def fp32 : Fmt := ⟨32, 8, 23, 127, true, some 0x7FC00000, 0x7F7FFFFF, true⟩
def bf16 : Fmt := ⟨16, 8, 7, 127, true, some 0x7FC0, 0x7F7F, true⟩
def fp16 : Fmt := ⟨16, 5, 10, 15, true, some 0x7E00, 0x7BFF, true⟩
def e5m2 : Fmt := ⟨8, 5, 2, 15, true, some 0x7E, 0x7B, true⟩
def e4m3 : Fmt := ⟨8, 4, 3, 7, false, some 0x7F, 0x7E, false⟩
def e2m1 : Fmt := ⟨4, 2, 1, 1, false, none, 0x7, false⟩

/-- The value of a code (04_formats.md R83). -/
def decode (f : Fmt) (code : Nat) : Val :=
  let c := code % 2 ^ f.bits
  let s := decide (2 ^ (f.bits - 1) ≤ c)
  let ex := (c >>> f.fw) % 2 ^ f.ew
  let fr := c % 2 ^ f.fw
  if f.ieee && ex == 2 ^ f.ew - 1 then
    (if fr = 0 then .inf s else .nan (decide (fr < 2 ^ (f.fw - 1))))
  else if !f.ieee && f.nan == some (c % 2 ^ (f.bits - 1)) then .nan false
  else if ex = 0 then .fin s fr (1 - (f.bias : Int) - f.fw)
  else .fin s (2 ^ f.fw + fr) ((ex : Int) - f.bias - f.fw)

/-- E8M0 (04_formats.md Table 4.1): the exponent of the scale, none for NaN. -/
def e8m0 (c : Nat) : Option Int := if c % 256 = 255 then none else some ((c % 256 : Nat) - 127)

/-- Rounding modes (04_formats.md Table 4.4). -/
inductive Mode where
  | rne | rtz | rdn | rup
  | sr (u : Nat)
  deriving DecidableEq, Repr

/-- The mode of an RND field. -/
def mode (r : Nat) : Mode :=
  if r % 4 = 0 then .rne else if r % 4 = 1 then .rtz else if r % 4 = 2 then .rdn else .rup

/-- floor(log2(num/den)) of a positive fraction. -/
def flog2 (num den : Nat) : Int :=
  let d : Int := (Nat.log2 num : Int) - Nat.log2 den
  -- 2^d * den ≤ num ?
  if (if 0 ≤ d then decide (2 ^ d.toNat * den ≤ num) else decide (den ≤ num * 2 ^ (-d).toNat)) then d else d - 1

/-- num/den divided by 2^u: quotient, and the remainder over its divisor. -/
def scaleDiv (num den : Nat) (u : Int) : Nat × Nat × Nat :=
  let n := if 0 ≤ u then num else num * 2 ^ (-u).toNat
  let d := if 0 ≤ u then den * 2 ^ u.toNat else den
  (n / d, n % d, d)

/-- Whether a magnitude between lo and hi rounds to hi: rem/d is the fraction, odd says whether lo's last bit is 1. -/
def roundUp (m : Mode) (neg odd : Bool) (rem d : Nat) : Bool :=
  match m with
  | .rne => decide (d < 2 * rem) || (decide (2 * rem = d) && odd)
  | .rtz => false
  | .rdn => neg
  | .rup => !neg
  | .sr u => decide (2 ^ 16 ≤ 2 ^ 16 * rem / d + u)

/-- Rounds (-1)^neg * num/den, nonzero, to a binary format (04_formats.md R89, R91, R84). UNF follows R89: an inexact
result whose delivered magnitude is below the smallest normal (log 107). -/
def round (f : Fmt) (m : Mode) (neg : Bool) (num den : Nat) : Nat × Fl :=
  let sgn := if neg then 2 ^ (f.bits - 1) else 0
  let emin : Int := 1 - (f.bias : Int)
  let e := flog2 num den
  let e1 := if e < emin then emin else e
  let (q, rem, d) := scaleDiv num den (e1 - f.fw)
  let up := decide (rem ≠ 0) && roundUp m neg (decide (q % 2 = 1)) rem d
  let q' := if up then q + 1 else q
  let inexact := decide (rem ≠ 0)
  -- the magnitude is q' * 2^(e1 - fw), with q' ≤ 2^(fw+1); its code is formed by addition, so a carry moves to the next binade
  let code : Int := if q' < 2 ^ f.fw then (q' : Int)
    else (e1 + f.bias) * 2 ^ f.fw + ((q' : Int) - 2 ^ f.fw)
  -- R89: the delivered magnitude is below the smallest normal
  let tiny : Bool := decide (q' < 2 ^ f.fw)
  if (f.maxCode : Int) < code then
    -- Table 4.5
    let toInf := f.ieee && f.bits != 8 &&
      (match m with | .rne => true | .sr _ => true | .rtz => false | .rdn => neg | .rup => !neg)
    ((if toInf then (2 ^ f.ew - 1) * 2 ^ f.fw else f.maxCode) + sgn, fOVF ||| fINX)
  else
    (code.toNat + sgn, if inexact then (if tiny then fUNF ||| fINX else fINX) else 0)

/-- Numerator and denominator of m * 2^e. -/
def frac (m : Nat) (e : Int) : Nat × Nat :=
  if 0 ≤ e then (m * 2 ^ e.toNat, 1) else (m, 2 ^ (-e).toNat)

/-- The canonical NaN, or for a format without NaN its +0 with INV (Table 4.5). -/
def nanCode (f : Fmt) : Nat × Fl := match f.nan with | some c => (c, 0) | none => (0, fINV)

/-- Converts an exact value to a binary format (04_formats.md R89 to R91). -/
def ofVal (f : Fmt) (m : Mode) : Val → Nat × Fl
  | .nan s => let (c, fl) := nanCode f; (c, if s then fl ||| fINV else fl)
  | .inf n =>
    let sgn := if n then 2 ^ (f.bits - 1) else 0
    if f.hasInf then ((2 ^ f.ew - 1) * 2 ^ f.fw + sgn, 0) else (f.maxCode + sgn, fOVF)
  | .fin n 0 _ => (if n then 2 ^ (f.bits - 1) else 0, 0)
  | .fin n mm e => let (a, b) := frac mm e; round f m n a b

def Val.isNan : Val → Bool | .nan _ => true | _ => false
def Val.sig : Val → Bool | .nan s => s | _ => false
def Val.isZero : Val → Bool | .fin _ 0 _ => true | _ => false
def Val.negative : Val → Bool | .nan _ => false | .inf n => n | .fin n _ _ => n
def Val.neg : Val → Val | .nan s => .nan s | .inf n => .inf (!n) | .fin n m e => .fin (!n) m e
def Val.abs : Val → Val | .nan s => .nan s | .inf _ => .inf false | .fin _ m e => .fin false m e

/-- The signed integer m of (-1)^neg * m * 2^e, for two values brought to one exponent. -/
def align (n1 : Bool) (m1 : Nat) (e1 : Int) (n2 : Bool) (m2 : Nat) (e2 : Int) : Int × Int × Int :=
  let e := if e1 ≤ e2 then e1 else e2
  let a : Int := (m1 * 2 ^ (e1 - e).toNat : Nat)
  let b : Int := (m2 * 2 ^ (e2 - e).toNat : Nat)
  (if n1 then -a else a, if n2 then -b else b, e)

/-- The exact sum of two finite values; an exact zero is -0 only when both are -0, or under RDN on cancellation (IEEE 754). -/
def addFin (m : Mode) (n1 : Bool) (m1 : Nat) (e1 : Int) (n2 : Bool) (m2 : Nat) (e2 : Int) : Val :=
  let (a, b, e) := align n1 m1 e1 n2 m2 e2
  let s := a + b
  if s = 0 then
    .fin (if m1 = 0 ∧ m2 = 0 then (if n1 = n2 then n1 else decide (m = .rdn)) else decide (m = .rdn)) 0 0
  else .fin (decide (s < 0)) s.natAbs e

/-- x + y (IEEE 754-2019): the value before rounding, and INV. -/
def addV (m : Mode) : Val → Val → Val × Fl
  | .nan s, .nan t => (.nan false, if s || t then fINV else 0)
  | .nan s, _ => (.nan false, if s then fINV else 0)
  | _, .nan s => (.nan false, if s then fINV else 0)
  | .inf a, .inf b => if a = b then (.inf a, 0) else (.nan false, fINV)
  | .inf a, _ => (.inf a, 0)
  | _, .inf b => (.inf b, 0)
  | .fin a m1 e1, .fin b m2 e2 => (addFin m a m1 e1 b m2 e2, 0)

/-- x * y, exact. -/
def mulV : Val → Val → Val × Fl
  | .nan s, .nan t => (.nan false, if s || t then fINV else 0)
  | .nan s, _ => (.nan false, if s then fINV else 0)
  | _, .nan s => (.nan false, if s then fINV else 0)
  | .inf a, .inf b => (.inf (a != b), 0)
  | .inf a, .fin b m _ => if m = 0 then (.nan false, fINV) else (.inf (a != b), 0)
  | .fin a m _, .inf b => if m = 0 then (.nan false, fINV) else (.inf (a != b), 0)
  | .fin a m1 e1, .fin b m2 e2 => (.fin (a != b) (m1 * m2) (e1 + e2), 0)

/-- x * y + z, exact; infinity times zero is NaN with INV whatever z is (04_formats.md R84). -/
def fmaV (m : Mode) (x y z : Val) : Val × Fl :=
  let (p, f1) := mulV x y
  let (r, f2) := addV m p z
  (r, f1 ||| f2)

/-- Rounds a value with the flags that came with it. -/
def fin (f : Fmt) (m : Mode) (r : Val × Fl) : Nat × Fl :=
  let (c, fl) := ofVal f m r.1
  (c, fl ||| r.2)

def add (f : Fmt) (m : Mode) (x y : Nat) : Nat × Fl := fin f m (addV m (decode f x) (decode f y))
def sub (f : Fmt) (m : Mode) (x y : Nat) : Nat × Fl := fin f m (addV m (decode f x) (decode f y).neg)
def mul (f : Fmt) (m : Mode) (x y : Nat) : Nat × Fl := fin f m (mulV (decode f x) (decode f y))
def fma (f : Fmt) (m : Mode) (x y z : Nat) : Nat × Fl := fin f m (fmaV m (decode f x) (decode f y) (decode f z))

/-- Order of two values that are not NaN: -1, 0, 1; zeros are equal. -/
def cmpV : Val → Val → Int
  | .inf a, .inf b => if a = b then 0 else if a then -1 else 1
  | .inf a, _ => if a then -1 else 1
  | _, .inf b => if b then 1 else -1
  | .fin n1 m1 e1, .fin n2 m2 e2 =>
    let (a, b, _) := align n1 m1 e1 n2 m2 e2
    if a < b then -1 else if b < a then 1 else 0
  | _, _ => 0

/-- Minimum or maximum: NaN if either is NaN, -0 below +0 (19_ref_t_z.md R430). Codes of the format. -/
def minmax (f : Fmt) (wantMax : Bool) (x y : Nat) : Nat × Fl :=
  let a := decode f x
  let b := decode f y
  if a.isNan || b.isNan then ((nanCode f).1, if a.sig || b.sig then fINV else 0)
  else
    let c := cmpV a b
    let less := if c = 0 then decide (a.negative ∧ ¬ b.negative) else decide (c < 0)
    (if less = wantMax then y else x, 0)

/-- Rounds an exact value to an integer (04_formats.md R89). -/
def toIntR (m : Mode) (n : Bool) (mm : Nat) (e : Int) : Int × Bool :=
  let (num, den) := frac mm e
  let q := num / den
  let rem := num % den
  let q' := if decide (rem ≠ 0) && roundUp m n (decide (q % 2 = 1)) rem den then q + 1 else q
  (if n then -(q' : Int) else q', decide (rem ≠ 0))

/-- Floating to integer lo..hi (Table 4.5). -/
def toInt (lo hi : Int) (m : Mode) : Val → Int × Fl
  | .nan _ => (0, fINV)
  | .inf n => (if n then lo else hi, fINV)
  | .fin n mm e =>
    let (i, inx) := toIntR m n mm e
    if i < lo then (lo, fINV) else if hi < i then (hi, fINV) else (i, if inx then fINX else 0)

/-- An integer as an exact value. -/
def ofInt (i : Int) : Val := .fin (decide (i < 0)) i.natAbs 0

/-- The integer nearest to a finite value, ties to even. -/
def roundHalfEven (n : Bool) (mm : Nat) (e : Int) : Int := (toIntR .rne n mm e).1

/-! ### TAP8 (04_formats.md R85, R86) -/

/-- The magnitude of TAP8 code c (0 to 127), in units of 2^-15. -/
def tap8Mag (c : Nat) : Nat :=
  if c % 128 = 0 then 0 else
    let c := c % 128
    let k := Nat.log2 c
    if k = 0 then 1 else
      let w := (k + 1) / 2
      let f := k - w
      let ec := (c >>> f) % 2 ^ w
      let fr := c % 2 ^ f
      let low : Int := if k = 5 then -8 else if k = 4 then -10 else if k = 3 then -12 else if k = 2 then -13 else -14
      let high : Int := if k = 5 then 4 else if k = 4 then 8 else if k = 3 then 10 else if k = 2 then 12 else 13
      let e : Int := if k = 6 then (ec : Int) - 4
        else if ec < 2 ^ (w - 1) then low + ec else high + ec - 2 ^ (w - 1)
      -- 2^e * (1 + fr / 2^f) in units of 2^-15
      (2 ^ f + fr) * 2 ^ (e + 15 - f).toNat

/-- The value of a TAP8 byte. -/
def tap8 (b : Nat) : Val :=
  if b % 256 = 0x80 then .nan false
  else .fin (decide (128 ≤ b % 256)) (tap8Mag b) (-15)

/-- The greatest code magnitude at most num/den (units 2^-15), and the least one above it. -/
def tap8Near (num den : Nat) : Nat × Option Nat :=
  (List.range 128).foldl (fun (acc : Nat × Option Nat) c =>
    let v := tap8Mag c
    let lo := if v * den ≤ num ∧ tap8Mag acc.1 < v then c else acc.1
    let hi := if num < v * den then
        (match acc.2 with
         | some h => if v < tap8Mag h then some c else some h
         | none => some c)
      else acc.2
    (lo, hi)) (0, none)

/-- Converts an exact value to TAP8 (04_formats.md R86, R89, Table 4.5). -/
def toTap8 (m : Mode) : Val → Nat × Fl
  | .nan s => (0x80, if s then fINV else 0)
  | .inf n => (if n then 0x83 else 0x03, fOVF)
  | .fin n mm e =>
    let (num, den) := frac mm (e + 15)
    let (lo, hi?) := tap8Near num den
    let sgn := if n then 128 else 0
    match hi? with
    | none =>
      -- at or above 8,192, the largest magnitude
      if num = tap8Mag 3 * den then (3 + sgn, 0) else (3 + sgn, fOVF ||| fINX)
    | some hi =>
      let l := tap8Mag lo
      let h := tap8Mag hi
      let rem := num - l * den
      let d := (h - l) * den
      if rem = 0 then (if lo = 0 then 0 else lo + sgn, 0)
      else
        let up := match m with
          | .rne => decide (d < 2 * rem) || (decide (2 * rem = d) && (decide (lo % 2 = 1 ∨ hi % 2 = 0)))
          | .rtz => false
          | .rdn => n
          | .rup => !n
          | .sr u => decide (2 ^ 16 ≤ 2 ^ 16 * rem / d + u)
        let c := if up then hi else lo
        (if c = 0 then 0 else c + sgn, if c = 0 then fUNF ||| fINX else fINX)

/-! ### Correctly rounded reciprocal and reciprocal square root (04_formats.md R103, Table 4.9) -/

def rcp (f : Fmt) (x : Nat) : Nat × Fl :=
  match decode f x with
  | .nan s => ((nanCode f).1, if s then fINV else 0)
  | .inf n => (if n then 2 ^ (f.bits - 1) else 0, 0)
  | .fin n 0 _ => ((2 ^ f.ew - 1) * 2 ^ f.fw + (if n then 2 ^ (f.bits - 1) else 0), fDZ)
  | .fin n m e => let (a, b) := frac m e; round f .rne n b a

/-- Integer square root: the greatest r with r * r ≤ n, by bits. -/
def isqrt (n : Nat) : Nat :=
  (List.range (Nat.log2 n / 2 + 1)).foldr (fun i r => if (r + 2 ^ i) * (r + 2 ^ i) ≤ n then r + 2 ^ i else r) 0

/-- Rounds sqrt(num/den) by RNE: the root scaled by 2^80 and cut, with a sticky bit that keeps it off every midpoint. -/
def roundSqrt (f : Fmt) (num den : Nat) : Nat × Fl :=
  -- sqrt(num/den) * 2^80 = sqrt(num * 2^160 / den)
  let big := num * 2 ^ 600 / den
  let r := isqrt big
  let exact := decide (r * r = big ∧ num * 2 ^ 600 % den = 0)
  round f .rne false (2 * r + (if exact then 0 else 1)) (2 ^ 301)

def rsq (f : Fmt) (x : Nat) : Nat × Fl :=
  match decode f x with
  | .nan s => ((nanCode f).1, if s then fINV else 0)
  | .inf n => if n then ((nanCode f).1, fINV) else (0, 0)
  | .fin n 0 _ => ((2 ^ f.ew - 1) * 2 ^ f.fw + (if n then 2 ^ (f.bits - 1) else 0), fDZ)
  | .fin n m e => if n then ((nanCode f).1, fINV) else let (a, b) := frac m e; roundSqrt f b a

/-! ### Special functions (04_formats.md R100 to R102) -/

/-- Accumulates flags over a chain of FP32 operations. -/
def fmaS (acc : Nat × Fl) (y z : Nat) : Nat × Fl :=
  let (r, fl) := fma fp32 .rne acc.1 y z
  (r, fl ||| acc.2)

/-- The FP32 nearest to num/10^k (04_formats.md R100). -/
def dec (neg : Bool) (num k : Nat) : Nat := (round fp32 .rne neg num (10 ^ k)).1

def cS1 := dec false 31415927 7
def cS3 := dec true 51677128 7
def cS5 := dec false 25501640 7
def cS7 := dec true 59926453 8
def cS9 := dec false 82145887 9
def cC2 := dec true 49348022 7
def cC4 := dec false 40587121 7
def cC6 := dec true 13352628 7
def cC8 := dec false 23533063 8
def cC10 := dec true 25806891 9
def cE1 := dec false 69314718 8
def cE2 := dec false 24022651 8
def cE3 := dec false 55504109 9
def cE4 := dec false 96181291 10
def cE5 := dec false 13333558 10
def cE6 := dec false 15403530 11
def cE7 := dec false 15252734 12

def one32 : Nat := 0x3F800000

/-- VSINPI and VCOSPI in FP32 (04_formats.md R101). -/
def sincospi (cosine : Bool) (x : Nat) : Nat × Fl :=
  match decode fp32 x with
  | .nan _ => (0x7FC00000, fINV)
  | .inf _ => (0x7FC00000, fINV)
  | .fin n m e =>
    let k := roundHalfEven n m (e + 1)
    let (tv, _) := addV .rne (.fin n m e) (.fin (decide (0 < k)) k.natAbs (-1))
    -- t keeps the sign of a zero x
    let t := match tv with
      | .fin _ 0 _ => if m = 0 then (if n then 0x80000000 else 0) else (ofVal fp32 .rne tv).1
      | _ => (ofVal fp32 .rne tv).1
    let q := (k % 4).toNat
    let (z, f0) := mul fp32 .rne t t
    let ps := fmaS (fmaS (fmaS (fmaS (cS9, f0) z cS7) z cS5) z cS3) z cS1
    let (sn, f1) := mul fp32 .rne t ps.1
    let pc := fmaS (fmaS (fmaS (fmaS (cC10, ps.2 ||| f1) z cC8) z cC6) z cC4) z cC2
    let cs := fmaS pc z one32
    let flip (v : Nat) : Nat := v ^^^ 0x80000000
    let r := if cosine then
        (if q = 0 then cs.1 else if q = 1 then flip sn else if q = 2 then flip cs.1 else sn)
      else
        (if q = 0 then sn else if q = 1 then cs.1 else if q = 2 then flip sn else flip cs.1)
    (r, cs.2)

/-- exp2 in FP32 (04_formats.md R102). -/
def exp2 (x : Nat) : Nat × Fl :=
  match decode fp32 x with
  | .nan _ => (0x7FC00000, fINV)
  | .inf n => (if n then 0 else 0x7F800000, 0)
  | .fin n m e =>
    -- beyond 2^12 in magnitude the scaled result over- or underflows alike: the scale is clamped there
    let k := roundHalfEven n m e
    let fv := (addV .rne (.fin n m e) (.fin (decide (0 < k)) k.natAbs 0)).1
    let fr := (ofVal fp32 .rne fv).1
    let p := fmaS (fmaS (fmaS (fmaS (fmaS (fmaS (cE7, 0) fr cE6) fr cE5) fr cE4) fr cE3) fr cE2) fr cE1
    let ee := fmaS p fr one32
    match decode fp32 ee.1 with
    | .fin n2 m2 e2 =>
      let (r, fl) := ofVal fp32 .rne (.fin n2 m2 (e2 + clampI (-2000) 2000 k))
      (r, fl ||| ee.2)
    | _ => (ee.1, ee.2)

/-! ### The Cleow counter generator (04_formats.md R106) -/

def genRound (x k : BitVec 32) : BitVec 32 :=
  let y := (x ^^^ k) * 0x9E3779B1#32
  y ^^^ (y >>> 16)

def gen (c : BitVec 32) (key : BitVec 64) : BitVec 32 :=
  let k0 := key.extractLsb' 0 32
  let k1 := key.extractLsb' 32 32
  genRound (genRound (genRound c k0) k1) (k0 ^^^ 0x85EBCA77#32)

/-! ### Sums of the dot-product block (04_formats.md R96, R97) -/

/-- The largest floor(log2 |p|) over the nonzero products (m, e). -/
def maxLog (ps : List (Bool × Nat × Int)) : Option Int :=
  ps.foldl (fun acc (_, m, e) =>
    if m = 0 then acc else
      let l : Int := (Nat.log2 m : Int) + e
      match acc with
      | none => some l
      | some a => some (if a < l then l else a)) none

/-- trunc_toward_zero(p * 2^k) and whether it is exact. -/
def truncScale (n : Bool) (m : Nat) (e k : Int) : Int × Bool :=
  let s := e + k
  let q : Nat := if 0 ≤ s then m * 2 ^ s.toNat else m / 2 ^ (-s).toNat
  let ex := if 0 ≤ s then true else decide (m % 2 ^ (-s).toNat = 0)
  (if n then -(q : Int) else q, ex)

/-- The finite group sum g of R96, in FP32. -/
def groupSum (ps : List (Bool × Nat × Int)) : Nat × Fl :=
  match maxLog ps with
  | none => (0, 0)
  | some emax =>
    let ts := ps.map (fun (n, m, e) => truncScale n m e (36 - emax))
    let sum := ts.foldl (fun (a : Int) t => a + t.1) 0
    let cut := ts.any (fun t => !t.2)
    let (g, fl) := ofVal fp32 .rne (.fin (decide (sum < 0)) sum.natAbs (emax - 36))
    (g, if cut then fl ||| fINX else fl)

/-- group_add of R96 for element values and scale exponents (none is a NaN scale). -/
def groupAdd (acc : Nat) (abs : List (Val × Val)) (sa sb : Option Int) : Nat × Fl :=
  let prods := abs.map (fun (a, b) => (mulV a b).1)
  let posInf := prods.any (fun p => decide (p = .inf false))
  let negInf := prods.any (fun p => decide (p = .inf true))
  match sa, sb with
  | some ka, some kb =>
    if prods.any Val.isNan || (posInf && negInf) then (0x7FC00000, fINV)
    else if posInf then add fp32 .rne acc 0x7F800000
    else if negInf then add fp32 .rne acc 0xFF800000
    else
      let ps := prods.map (fun p => match p with
        | .fin n m e => (n, m, e + ka + kb)
        | _ => (false, 0, 0))
      let (g, f1) := groupSum ps
      let (r, f2) := add fp32 .rne acc g
      (r, f1 ||| f2)
  | _, _ => (0x7FC00000, fINV)

/-- An integer group added to an INT32 lane, saturating (04_formats.md R97). -/
def groupAddInt (acc : Nat) (abs : List (Int × Int)) : Nat × Fl :=
  let s := sextN acc 32 + abs.foldl (fun (a : Int) p => a + p.1 * p.2) 0
  let c := clampI (-2 ^ 31) (2 ^ 31 - 1) s
  ((wrap 32 c).toNat, if c = s then 0 else fOVF)

end Sys2Proof.Float
end

