-- ==== Sys2Proof/Machine/Flags.lean ====
section
/-!
DEFINITION. Conditions, and the sticky flags of a region (15_ref_a_c.md Table 15.4, 04_formats.md R104).
-/
namespace Sys2Proof.Machine

open Sys2Proof

/-- The conditions of Table 15.4; codes 10 to 15 raise ILLEGAL and are not asked for. -/
def holds (c : BitVec 4) (a b : Word) : Bool :=
  match c.toNat with
  | 0 => a == b
  | 1 => a != b
  | 2 => a.slt b
  | 3 => b.sle a
  | 4 => a.ult b
  | 5 => b.ule a
  | 6 => a.sle b
  | 7 => b.slt a
  | 8 => a.ule b
  | 9 => b.ult a
  | _ => false

/-- imm14 of CMPI: zero-extended for the unsigned conditions, otherwise sign-extended (15_ref_a_c.md R336). -/
def cmpImm (c : BitVec 4) (i : BitVec 14) : Word :=
  if c = 4 ∨ c = 5 ∨ c = 8 ∨ c = 9 then i.zeroExtend 64 else sextW i

/-- Region j's flags of FLAGS, INX in bit 0 up to INV in bit 4 (04_formats.md Table 4.10). -/
def regionFlags (flags : Word) (j : Nat) : BitVec 5 := flags.extractLsb' (8 * j) 5

/-- FLAGS with region j's flags set to f. -/
def withRegionFlags (flags : Word) (j : Nat) (f : BitVec 5) : Word :=
  (flags &&& ~~~((0x1F : Word) <<< (8 * j))) ||| (f.zeroExtend 64 <<< (8 * j))

/-- Flags raised in region j of core k are set and stay (R104). -/
def raiseFlags (s : State) (k j : Nat) (f : BitVec 5) : State :=
  if f = 0 then s else s.modCore k (fun c => { c with flags := c.flags ||| (f.zeroExtend 64 <<< (8 * j)) })

/-- The bits of FLAGS that exist. -/
def flagsMask : Word := 0x1F1F1F1F

end Sys2Proof.Machine
end

