-- ==== Sys2Proof/Machine/Operands.lean ====
section
/-!
DEFINITION. The operand forms of the control thread: checked words, effective addresses, branch targets, and reads,
writes and atomics at an address (13_encodings.md Table 13.1, 15_ref_a_c.md R315, R319, 16_ref_d_l.md R366, 18_ref_s.md R415).
-/
namespace Sys2Proof.Machine

open Sys2Proof

/-- The instruction's own word, as EVAL holds it for ILLEGAL and PRIV (10_faults_modes.md R220). -/
def wordOf (i : Instr) : Word := ((encodeThread i).getD 0).zeroExtend 64

/-- An instruction of a control thread; a field beyond its limits raises ILLEGAL at issue (15_ref_a_c.md R315). -/
def threadOp (i : Instr) (s : State) (f : Nat → Res) : Res :=
  onThread s (fun k => if threadOk i then f k else .next (raise s k fcILLEGAL (wordOf i)))

/-- gd := v and the next instruction follows. -/
def setG (s : State) (k : Nat) (d : BitVec 5) (v : Word) : Res := .next (retire (wg s k d v) k)

/-- An F-R form: gd := f ga gb. -/
def aluRR (s : State) (d a b : BitVec 5) (f : Word → Word → Word) : Res :=
  onThread s (fun k => setG s k d (f (rg s k a) (rg s k b)))

/-- A form with one register: gd := f ga. -/
def aluR (s : State) (d a : BitVec 5) (f : Word → Word) : Res :=
  onThread s (fun k => setG s k d (f (rg s k a)))

/-- pc as its 56-bit value extended with zeros (15_ref_a_c.md R318). -/
def pc56 (s : State) (k : Nat) : Word := pcOf s k &&& 0xFFFFFFFFFFFFFF

/-- The target of a label: pc + 4 × the signed word offset (R315). -/
def labelOf {n : Nat} (s : State) (k : Nat) (o : BitVec n) : Word := pcOf s k + 4 * sextW o

/-- ga + sext(off). -/
def ea {n : Nat} (s : State) (k : Nat) (a : BitVec 5) (o : BitVec n) : Word := rg s k a + sextW o

/-- Bytes of a size code (13_encodings.md Table 13.4). -/
def sizeOf2 (z : BitVec 2) : Nat := 2 ^ z.toNat
/-- Bytes of an atomic's size: code 2 is 4 and code 3 is 8; z is the low bit of the code (15_ref_a_c.md R319). -/
def amoSize (z : BitVec 1) : Nat := if z = 0 then 4 else 8

/-- The thread waits in its instruction (02_execution_model.md R47, 11_scheduling.md R265). -/
def waitAt (s : State) (k : Nat) (edge : Bool) : Res :=
  .next (s.modThread k (fun t => { t with stall := some ⟨edge, false, 0, none⟩ }))

/-- A stall that a throttle notice ends: a pending notice ends it as it begins, the instruction retires with no effect,
and a form with a result gets the notice's code in gd (R265). -/
def noticeCode (reason : BitVec 2) : Word := 0x8000000000000100 + reason.zeroExtend 64

def endByNotice (s : State) (k : Nat) (d : BitVec 5) (reason : BitVec 2) : State :=
  retire (wg (s.modThread k (fun t => { t with throtLast := reason })) k d (noticeCode reason)) k

def stallAt (s : State) (k : Nat) (edge : Bool) (d : BitVec 5) (taking : Bool) : Res :=
  let t := s.thread k
  if t.throtPend ≠ 0 then
    .next (endByNotice (s.modThread k (fun t => { t with throtPend := 0 })) k d t.throtPend)
  else .next (s.modThread k (fun t => { t with stall := some ⟨edge, true, d, none⟩, taking }))

/-- Before a translation of core k's thread: it stalls, its walk waits or faults, or it may be made (10_faults_modes.md R215,
07_consistency.md R169); the scratch window needs none. -/
def threadWalk (s : State) (k : Nat) (va : Word) : Acc :=
  if inWindow va.toNat then .ready s 0 else walkFor s (cacheCore k) (s.thread k).asid va.toNat

/-- Who a control-thread access comes from (08_assayers.md Table 8.4). -/
def threadOrigin (s : State) (k : Nat) (va : Word) : Origin :=
  { okind := 0, master := coreMaster k, asid := (s.thread k).asid, va := va.toNat }

/-- A store of the thread to one of the bytes has not left the core, or a load of one of them is outstanding: accesses to
overlapping bytes are performed in program order (07_consistency.md R154). -/
def ownAhead (s : State) (k pa n : Nat) : Bool :=
  s.egress.any (fun r => decide (r.core = k ∧ r.left = false ∧ r.pa < pa + n ∧ pa < r.pa + r.cells.length)) ||
  (s.thread k).loads.any (fun l => decide (l.pa < pa + n ∧ pa < l.pa + l.n))

/-- An access of a thread that its home answers before the instruction retires: alignment, translation, the earlier
requests on the same way, the target's checks, and then `f` at the place; every fault is synchronous with EVAL the
address (16_ref_d_l.md R366, 15_ref_a_c.md R319). -/
def accessAt (s : State) (k : Nat) (va : Word) (n : Nat) (kd : Kind) (f : State → Nat → Res) : Res :=
  if va.toNat % n ≠ 0 then .next (raise s k fcALIGN va) else
  match threadWalk s k va with
  | .wait s => waitAt s k false
  | .fault s c => .next (raise s k c va)
  | .ready s _ =>
    match locate s k (s.thread k).asid va.toNat kd true with
    | (s, .error c) => .next (raise s k c va)
    | (s, .ok (pa, _)) =>
      match placeOf s pa with
      | .error c => .next (raise s k c va)
      | .ok p =>
        if behind s k p.home || ownAhead s k pa n then waitAt s k false else
        match reach s pa n kd (threadOrigin s k va) with
        | .fault s c => .next (raise s k c va)
        | .wait s => waitAt s k false
        | .ready s key => f s key

/-- The low 8n bits of v, sign- or zero-extended. -/
def sextBytes (n : Nat) (v : Nat) : Word := wrap 64 (sextN v (8 * n))
def zextBytes (n : Nat) (v : Nat) : Word := BitVec.ofNat 64 (v % 2 ^ (8 * n))

/-- n bytes of a value as store cells. -/
def cellsOf (n v : Nat) : List (Option Byte) := (toBytes n v).map some

/-- A store of the thread is refused: an asynchronous fault with the store's address and PC (18_ref_s.md R415). -/
def storeRefused (s : State) (k : Nat) (va : Word) (c : Code) : Res :=
  .next (retire (pendFault s { core := k, asid := (s.thread k).asid, code := c, va, ipc := pcOf s k }) k)

/-- A store, which leaves the core after the instruction (07_consistency.md R164): alignment, translation and absent targets
fault synchronously; then the write is on its way, except that a write to scratch is performed, or refused, at its memory
tile at once, and that an Adit write with no usable port is refused with LINK (18_ref_s.md R415, 07_consistency.md R151). -/
def storeAt (s : State) (k : Nat) (va : Word) (n : Nat) (cells : List (Option Byte)) : Res :=
  if va.toNat % n ≠ 0 then .next (raise s k fcALIGN va) else
  match threadWalk s k va with
  | .wait s => waitAt s k false
  | .fault s c => .next (raise s k c va)
  | .ready s _ =>
    match locate s k (s.thread k).asid va.toNat .write true with
    | (s, .error c) => .next (raise s k c va)
    | (s, .ok (pa, _)) =>
      match placeOf s pa with
      | .error c => if c = fcLINK then storeRefused s k va c else .next (raise s k c va)
      | .ok p =>
        if ownAhead s k pa n && (isTileHome p.home || (s.thread k).loads.any (fun l => decide (l.pa < pa + n ∧ pa < l.pa + l.n))) then waitAt s k false
        else if isTileHome p.home then
          (match reach s pa n .write (threadOrigin s k va) with
           | .ready s key => .next (retire (perform s key cells) k)
           | .wait s => waitAt s k false
           | .fault s c => storeRefused s k va c)
        else
          let r : Req := { id := s.nextId, core := k, sid := none, cmdId := none, asid := (s.thread k).asid,
                           va := va.toNat, pa, cells, pc := pcOf s k, left := false }
          .next (retire { s with egress := s.egress ++ [r], nextId := s.nextId + 1 } k)

/-- A release at a scope: `f` once every earlier access of the thread is performed there (07_consistency.md R155). -/
def releaseAt (s : State) (k sc : Nat) (f : Res) : Res := if released s k sc then f else waitAt s k false

end Sys2Proof.Machine
end

