-- ==== Sys2Proof/Machine/Alu.lean ====
section
/-!
DEFINITION. The register instructions of the control thread (15_ref_a_c.md R316, R317, R318, R327, R336,
16_ref_d_l.md R348, R367, 17_ref_m_r.md R377, R378, R385, R386, R391, 18_ref_s.md R395, R400, 19_ref_t_z.md R438).
-/
namespace Sys2Proof.Machine

open Sys2Proof

/-- The signed quotient, rounded toward zero; a divisor of 0 gives all ones (04_formats.md Table 4.6). -/
def quotS (a b : Word) : Word := if b = 0 then BitVec.allOnes 64 else wrap 64 (Int.tdiv a.toInt b.toInt)
def quotU (a b : Word) : Word := if b = 0 then BitVec.allOnes 64 else BitVec.ofNat 64 (a.toNat / b.toNat)
/-- The remainder; a divisor of 0 gives the dividend (Table 4.6). -/
def remS (a b : Word) : Word := if b = 0 then a else wrap 64 (Int.tmod a.toInt b.toInt)
def remU (a b : Word) : Word := if b = 0 then a else BitVec.ofNat 64 (a.toNat % b.toNat)

def execAdd (d a b : BitVec 5) (s : State) : Res := aluRR s d a b (fun x y => x + y)
def execSub (d a b : BitVec 5) (s : State) : Res := aluRR s d a b (fun x y => x - y)
def execMul (d a b : BitVec 5) (s : State) : Res := aluRR s d a b (fun x y => x * y)
def execMulh (d a b : BitVec 5) (s : State) : Res :=
  aluRR s d a b (fun x y => wrap 64 (Int.fdiv (x.toInt * y.toInt) (2 ^ 64)))
def execDiv (d a b : BitVec 5) (s : State) : Res := aluRR s d a b quotS
def execDivu (d a b : BitVec 5) (s : State) : Res := aluRR s d a b quotU
def execRem (d a b : BitVec 5) (s : State) : Res := aluRR s d a b remS
def execRemu (d a b : BitVec 5) (s : State) : Res := aluRR s d a b remU
def execAnd (d a b : BitVec 5) (s : State) : Res := aluRR s d a b (fun x y => x &&& y)
def execOr (d a b : BitVec 5) (s : State) : Res := aluRR s d a b (fun x y => x ||| y)
def execXor (d a b : BitVec 5) (s : State) : Res := aluRR s d a b (fun x y => x ^^^ y)
/-- Shifts by gb[5:0] (18_ref_s.md R395). -/
def execShl (d a b : BitVec 5) (s : State) : Res := aluRR s d a b (fun x y => x <<< (y.toNat % 64))
def execShr (d a b : BitVec 5) (s : State) : Res := aluRR s d a b (fun x y => x >>> (y.toNat % 64))
def execSar (d a b : BitVec 5) (s : State) : Res := aluRR s d a b (fun x y => x.sshiftRight (y.toNat % 64))
def execMin (d a b : BitVec 5) (s : State) : Res := aluRR s d a b (fun x y => if x.sle y then x else y)
def execMax (d a b : BitVec 5) (s : State) : Res := aluRR s d a b (fun x y => if x.sle y then y else x)
def execMinu (d a b : BitVec 5) (s : State) : Res := aluRR s d a b (fun x y => if x.ule y then x else y)
def execMaxu (d a b : BitVec 5) (s : State) : Res := aluRR s d a b (fun x y => if x.ule y then y else x)
def execClz (d a : BitVec 5) (s : State) : Res := aluR s d a (fun x => BitVec.ofNat 64 (leadZeros 64 x.toNat))
def execPopc (d a : BitVec 5) (s : State) : Res := aluR s d a (fun x => BitVec.ofNat 64 (popCount 64 x.toNat))
/-- Width code 0, 1 or 2 keeps the low 8, 16 or 32 bits (18_ref_s.md Table 18.1). -/
def execSext (d a w : BitVec 5) (s : State) : Res :=
  threadOp (.sext d a w) s (fun k => setG s k d (sextBytes (2 ^ w.toNat) (rg s k a).toNat))
def execZext (d a w : BitVec 5) (s : State) : Res :=
  threadOp (.zext d a w) s (fun k => setG s k d (zextBytes (2 ^ w.toNat) (rg s k a).toNat))
/-- The counter generator of 04_formats.md R106 on ga[31:0] with key gb. -/
def execRandk (d a b : BitVec 5) (s : State) : Res :=
  aluRR s d a b (fun x y => (Float.gen (x.extractLsb' 0 32) y).zeroExtend 64)
def execNop (s : State) : Res := onThread s (fun k => .next (retire s k))

def execAddi (d a : BitVec 5) (i : BitVec 16) (s : State) : Res := aluR s d a (fun x => x + sextW i)
def execAndi (d a : BitVec 5) (i : BitVec 16) (s : State) : Res := aluR s d a (fun x => x &&& i.zeroExtend 64)
def execOri (d a : BitVec 5) (i : BitVec 16) (s : State) : Res := aluR s d a (fun x => x ||| i.zeroExtend 64)
def execXori (d a : BitVec 5) (i : BitVec 16) (s : State) : Res := aluR s d a (fun x => x ^^^ i.zeroExtend 64)
def execShli (d a : BitVec 5) (n : BitVec 6) (s : State) : Res := aluR s d a (fun x => x <<< n.toNat)
def execShri (d a : BitVec 5) (n : BitVec 6) (s : State) : Res := aluR s d a (fun x => x >>> n.toNat)
def execSari (d a : BitVec 5) (n : BitVec 6) (s : State) : Res := aluR s d a (fun x => x.sshiftRight n.toNat)

/-- Bits [lo + w - 1 : lo] of x replaced by the low w bits of v. -/
def insertBits (x v : Word) (lo w : Nat) : Word :=
  let m : Word := BitVec.ofNat 64 (2 ^ w - 1) <<< lo
  (x &&& ~~~m) ||| ((v <<< lo) &&& m)

/-- gd[16h+15:16h] := imm16 (16_ref_d_l.md R367). -/
def execLih (d : BitVec 5) (h : BitVec 2) (i : BitVec 16) (s : State) : Res :=
  aluR s d d (fun x => insertBits x (i.zeroExtend 64) (16 * h.toNat) 16)
def execAddpc (d : BitVec 5) (o : BitVec 21) (s : State) : Res :=
  onThread s (fun k => setG s k d (pc56 s k + 4 * sextW o))
def execMadd (d a b c : BitVec 5) (s : State) : Res :=
  onThread s (fun k => setG s k d (rg s k a * rg s k b + rg s k c))
/-- f := ga[pos+width-1:pos], extended; the field holds width - 1 (15_ref_a_c.md R327). -/
def execBitf (d a : BitVec 5) (g : BitVec 1) (p w : BitVec 6) (s : State) : Res :=
  threadOp (.bitf d a g p w) s (fun k =>
    let f := (rg s k a).toNat / 2 ^ p.toNat % 2 ^ (w.toNat + 1)
    setG s k d (if g = 1 then wrap 64 (sextN f (w.toNat + 1)) else BitVec.ofNat 64 f))
def execBiti (d a : BitVec 5) (p w : BitVec 6) (s : State) : Res :=
  threadOp (.biti d a p w) s (fun k => setG s k d (insertBits (rg s k d) (rg s k a) p.toNat (w.toNat + 1)))

def execCmpCc (p : BitVec 3) (a b : BitVec 5) (c : BitVec 4) (s : State) : Res :=
  threadOp (.cmpCc p a b c) s (fun k => .next (retire (wp s k p (holds c (rg s k a) (rg s k b))) k))
def execCmpiCc (p : BitVec 3) (a : BitVec 5) (c : BitVec 4) (i : BitVec 14) (s : State) : Res :=
  threadOp (.cmpiCc p a c i) s (fun k => .next (retire (wp s k p (holds c (rg s k a) (cmpImm c i))) k))
def execPand (d a b : BitVec 3) (s : State) : Res := onThread s (fun k => .next (retire (wp s k d (rp s k a && rp s k b)) k))
def execPor (d a b : BitVec 3) (s : State) : Res := onThread s (fun k => .next (retire (wp s k d (rp s k a || rp s k b)) k))
def execPnot (d a : BitVec 3) (s : State) : Res := onThread s (fun k => .next (retire (wp s k d (!rp s k a)) k))
def execSel (d a b : BitVec 5) (p : BitVec 3) (s : State) : Res :=
  onThread s (fun k => setG s k d (if rp s k p then rg s k a else rg s k b))

/-- qd[64h+63:64h] := ga (17_ref_m_r.md Table 17.7). -/
def setHalf (q : QWord) (h : BitVec 1) (v : Word) : QWord :=
  if h = 0 then q.extractLsb' 64 64 ++ v else v ++ q.extractLsb' 0 64
/-- qd[16c+15:16c] := imm16. -/
def setChunk (q : QWord) (c : BitVec 3) (v : BitVec 16) : QWord :=
  (q &&& ~~~((0xFFFF : QWord) <<< (16 * c.toNat))) ||| (v.zeroExtend 128 <<< (16 * c.toNat))
def execQset (q : BitVec 3) (a : BitVec 5) (h : BitVec 1) (s : State) : Res :=
  onThread s (fun k => .next (retire (wq s k q (setHalf (rq s k q) h (rg s k a))) k))
def execQseti (q c : BitVec 3) (i : BitVec 16) (s : State) : Res :=
  onThread s (fun k => .next (retire (wq s k q (setChunk (rq s k q) c i)) k))
def execQmov (d g : BitVec 3) (s : State) : Res := onThread s (fun k => .next (retire (wq s k d (rq s k g)) k))

end Sys2Proof.Machine
end

