-- ==== Sys2Proof/Machine/RiscV.lean ====
section
/-!
DEFINITION. The RISC-V part of an assayer: RV32I with M, C, Zicsr, Zba and Zbb as the RISC-V unprivileged specification
defines them, which 08_assayers.md R170 names (log 50).
-/
namespace Sys2Proof.Machine

open Sys2Proof

/-! ### Words from fields -/

def rvI (imm rs1 f3 rd op : Nat) : BitVec 32 := BitVec.ofNat 32 (imm % 4096 * 2 ^ 20 + rs1 * 2 ^ 15 + f3 * 2 ^ 12 + rd * 2 ^ 7 + op)
def rvR (f7 rs2 rs1 f3 rd op : Nat) : BitVec 32 := rvI (f7 * 32 + rs2) rs1 f3 rd op
def rvS (imm rs2 rs1 f3 : Nat) : BitVec 32 := rvR (imm / 32) rs2 rs1 f3 (imm % 32) 0x23
def rvB (imm rs2 rs1 f3 : Nat) : BitVec 32 :=
  rvR (nfield imm 12 12 * 64 + nfield imm 10 5) rs2 rs1 f3 (nfield imm 4 1 * 2 + nfield imm 11 11) 0x63
def rvJ (imm rd : Nat) : BitVec 32 :=
  BitVec.ofNat 32 ((nfield imm 20 20 * 2 ^ 19 + nfield imm 10 1 * 2 ^ 9 + nfield imm 11 11 * 2 ^ 8 + nfield imm 19 12) * 2 ^ 12 + rd * 2 ^ 7 + 0x6F)

/-- The low n bits of v sign-extended, as bits modulo 2^21. -/
def sx21 (v n : Nat) : Nat := (sextN v n + 2 ^ 21).toNat % 2 ^ 21

/-- The word that a 16-bit instruction of the C extension stands for in RV32; none where it is undefined or needs F or D,
and for C.EBREAK. -/
def expandC (h : BitVec 16) : Option (BitVec 32) :=
  let b (hi lo : Nat) : Nat := field h hi lo
  let rd' := 8 + b 4 2
  let rs1' := 8 + b 9 7
  let rd := b 11 7
  let rs2 := b 6 2
  let imm6 := sx21 (b 12 12 * 32 + b 6 2) 6
  let jimm := sx21 (b 12 12 * 2048 + b 8 8 * 1024 + b 10 9 * 256 + b 6 6 * 128 + b 7 7 * 64 + b 2 2 * 32 + b 11 11 * 16 + b 5 3 * 2) 12
  let bimm := sx21 (b 12 12 * 256 + b 6 5 * 64 + b 2 2 * 32 + b 11 10 * 8 + b 4 3 * 2) 9
  match b 1 0, b 15 13 with
  | 0, 0 =>
    let u := b 10 7 * 64 + b 12 11 * 16 + b 5 5 * 8 + b 6 6 * 4
    if u = 0 then none else some (rvI u 2 0 rd' 0x13)
  | 0, 2 => some (rvI (b 5 5 * 64 + b 12 10 * 8 + b 6 6 * 4) rs1' 2 rd' 0x03)
  | 0, 6 => some (rvS (b 5 5 * 64 + b 12 10 * 8 + b 6 6 * 4) rd' rs1' 2)
  | 1, 0 => some (rvI imm6 rd 0 rd 0x13)
  | 1, 1 => some (rvJ jimm 1)
  | 1, 2 => some (rvI imm6 0 0 rd 0x13)
  | 1, 3 =>
    if rd = 2 then
      let n := sx21 (b 12 12 * 512 + b 4 3 * 128 + b 5 5 * 64 + b 2 2 * 32 + b 6 6 * 16) 10
      if n = 0 then none else some (rvI n 2 0 2 0x13)
    else if imm6 = 0 then none
    else some (BitVec.ofNat 32 (imm6 % 2 ^ 20 * 2 ^ 12 + rd * 2 ^ 7 + 0x37))
  | 1, 4 =>
    (match b 11 10 with
     | 0 => if b 12 12 = 1 then none else some (rvR 0 rs2 rs1' 5 rs1' 0x13)
     | 1 => if b 12 12 = 1 then none else some (rvR 0x20 rs2 rs1' 5 rs1' 0x13)
     | 2 => some (rvI imm6 rs1' 7 rs1' 0x13)
     | _ =>
       if b 12 12 = 1 then none else
       match b 6 5 with
       | 0 => some (rvR 0x20 rd' rs1' 0 rs1' 0x33)
       | 1 => some (rvR 0 rd' rs1' 4 rs1' 0x33)
       | 2 => some (rvR 0 rd' rs1' 6 rs1' 0x33)
       | _ => some (rvR 0 rd' rs1' 7 rs1' 0x33))
  | 1, 5 => some (rvJ jimm 0)
  | 1, 6 => some (rvB bimm 0 rs1' 0)
  | 1, 7 => some (rvB bimm 0 rs1' 1)
  | 2, 0 => if b 12 12 = 1 then none else some (rvR 0 rs2 rd 1 rd 0x13)
  | 2, 2 => if rd = 0 then none else some (rvI (b 3 2 * 64 + b 12 12 * 32 + b 6 4 * 4) 2 2 rd 0x03)
  | 2, 4 =>
    if b 12 12 = 0 then
      (if rs2 = 0 then (if rd = 0 then none else some (rvI 0 rd 0 0 0x67)) else some (rvR 0 rs2 0 0 rd 0x33))
    else
      (if rs2 = 0 then (if rd = 0 then none else some (rvI 0 rd 0 1 0x67)) else some (rvR 0 rs2 rd 0 rd 0x33))
  | 2, 6 => some (rvS (b 8 7 * 64 + b 12 9 * 4) rs2 2 2)
  | _, _ => none

/-! ### Arithmetic -/

def mulHigh (a b : Int) : BitVec 32 := wrap 32 (Int.fdiv (a * b) (2 ^ 32))
def rvDiv (a b : BitVec 32) : BitVec 32 := if b = 0 then BitVec.allOnes 32 else wrap 32 (Int.tdiv a.toInt b.toInt)
def rvRem (a b : BitVec 32) : BitVec 32 := if b = 0 then a else wrap 32 (Int.tmod a.toInt b.toInt)
def rvDivu (a b : BitVec 32) : BitVec 32 := if b = 0 then BitVec.allOnes 32 else a / b
def rvRemu (a b : BitVec 32) : BitVec 32 := if b = 0 then a else a % b

/-- ORC.B and REV8 (Zbb). -/
def orcB (a : BitVec 32) : BitVec 32 :=
  BitVec.ofNat 32 (ofBytes ((toBytes 4 a.toNat).map (fun x => if x = 0 then 0 else 0xFF)))
def rev8 (a : BitVec 32) : BitVec 32 := BitVec.ofNat 32 (ofBytes (toBytes 4 a.toNat).reverse)

/-- The register forms, by funct7 and funct3: the result and the cycles of Table 8.6's note (08_assayers.md R182). -/
def rvOp (f7 f3 rs2 : Nat) (a b : BitVec 32) : Option (BitVec 32 × Nat) :=
  let n := b.toNat % 32
  match f7, f3 with
  | 0x00, 0 => some (a + b, 1)
  | 0x20, 0 => some (a - b, 1)
  | 0x00, 1 => some (a <<< n, 1)
  | 0x00, 2 => some (if a.slt b then 1 else 0, 1)
  | 0x00, 3 => some (if a.ult b then 1 else 0, 1)
  | 0x00, 4 => some (a ^^^ b, 1)
  | 0x00, 5 => some (a >>> n, 1)
  | 0x20, 5 => some (a.sshiftRight n, 1)
  | 0x00, 6 => some (a ||| b, 1)
  | 0x00, 7 => some (a &&& b, 1)
  | 0x01, 0 => some (a * b, 3)
  | 0x01, 1 => some (mulHigh a.toInt b.toInt, 3)
  | 0x01, 2 => some (mulHigh a.toInt b.toNat, 3)
  | 0x01, 3 => some (mulHigh a.toNat b.toNat, 3)
  | 0x01, 4 => some (rvDiv a b, 18)
  | 0x01, 5 => some (rvDivu a b, 18)
  | 0x01, 6 => some (rvRem a b, 18)
  | 0x01, 7 => some (rvRemu a b, 18)
  | 0x10, 2 => some ((a <<< 1) + b, 1)
  | 0x10, 4 => some ((a <<< 2) + b, 1)
  | 0x10, 6 => some ((a <<< 3) + b, 1)
  | 0x20, 4 => some (~~~(a ^^^ b), 1)
  | 0x20, 6 => some (a ||| ~~~b, 1)
  | 0x20, 7 => some (a &&& ~~~b, 1)
  | 0x05, 4 => some (if a.slt b then a else b, 1)
  | 0x05, 5 => some (if a.ult b then a else b, 1)
  | 0x05, 6 => some (if a.slt b then b else a, 1)
  | 0x05, 7 => some (if a.ult b then b else a, 1)
  | 0x30, 1 => some (a.rotateLeft n, 1)
  | 0x30, 5 => some (a.rotateRight n, 1)
  | 0x04, 4 => if rs2 = 0 then some (a &&& 0xFFFF, 1) else none
  | _, _ => none

/-- The immediate forms, by funct3, with funct7 and the rs2 field of the word. -/
def rvOpImm (f3 f7 n : Nat) (imm a : BitVec 32) : Option (BitVec 32) :=
  match f3 with
  | 0 => some (a + imm)
  | 2 => some (if a.slt imm then 1 else 0)
  | 3 => some (if a.ult imm then 1 else 0)
  | 4 => some (a ^^^ imm)
  | 6 => some (a ||| imm)
  | 7 => some (a &&& imm)
  | 1 =>
    if f7 = 0 then some (a <<< n)
    else if f7 = 0x30 then
      (match n with
       | 0 => some (BitVec.ofNat 32 (leadZeros 32 a.toNat))
       | 1 => some (BitVec.ofNat 32 (trailZeros 32 a.toNat))
       | 2 => some (BitVec.ofNat 32 (popCount 32 a.toNat))
       | 4 => some ((a.extractLsb' 0 8).signExtend 32)
       | 5 => some ((a.extractLsb' 0 16).signExtend 32)
       | _ => none)
    else none
  | _ =>
    if f7 = 0 then some (a >>> n)
    else if f7 = 0x20 then some (a.sshiftRight n)
    else if f7 = 0x30 then some (a.rotateRight n)
    else if f7 = 0x14 ∧ n = 7 then some (orcB a)
    else if f7 = 0x34 ∧ n = 24 then some (rev8 a)
    else none

/-- The branch conditions by funct3; 2 and 3 are undefined. -/
def rvTaken (f3 : Nat) (a b : BitVec 32) : Option Bool :=
  match f3 with
  | 0 => some (decide (a = b))
  | 1 => some (decide (a ≠ b))
  | 4 => some (a.slt b)
  | 5 => some (!a.slt b)
  | 6 => some (a.ult b)
  | 7 => some (!a.ult b)
  | _ => none

/-! ### One instruction -/

/-- What an instruction does: a value for a register (0: none), the next pc and its cycles; a load; a store; or an abort
for an undefined word (`ill`) or a CSR access that is not permitted (`csr`). -/
inductive RvAct where
  | alu (rd : Nat) (v : BitVec 32) (pc : BitVec 32) (cyc : Nat)
  | load (rd : Nat) (addr : BitVec 32) (n : Nat) (signed : Bool)
  | store (addr : BitVec 32) (n : Nat) (v : BitVec 32)
  | readCsr (rd csr : Nat)
  | ill
  | csr
  deriving DecidableEq, Repr

/-- The 32-bit word w of len bytes at pc, over the registers x. -/
def rvAct (w pc : BitVec 32) (len : Nat) (x : Nat → BitVec 32) : RvAct :=
  let rd := field w 11 7
  let f3 := field w 14 12
  let f7 := field w 31 25
  let rs2 := field w 24 20
  let a := x (field w 19 15)
  let b := x rs2
  let immI : BitVec 32 := (w.extractLsb' 20 12).signExtend 32
  let next := pc + BitVec.ofNat 32 len
  match field w 6 0 with
  | 0x37 => .alu rd (w &&& 0xFFFFF000) next 1
  | 0x17 => .alu rd (pc + (w &&& 0xFFFFF000)) next 1
  | 0x6F =>
    .alu rd next (pc + ((w.extractLsb' 31 1 ++ w.extractLsb' 12 8 ++ w.extractLsb' 20 1 ++ w.extractLsb' 21 10 ++ 0#1 : BitVec 21).signExtend 32)) 1
  | 0x67 => if f3 = 0 then .alu rd next ((a + immI) &&& ~~~1) 1 else .ill
  | 0x63 =>
    (match rvTaken f3 a b with
     | some t =>
       let o : BitVec 32 := (w.extractLsb' 31 1 ++ w.extractLsb' 7 1 ++ w.extractLsb' 25 6 ++ w.extractLsb' 8 4 ++ 0#1 : BitVec 13).signExtend 32
       .alu 0 0 (if t then pc + o else next) 1
     | none => .ill)
  | 0x03 =>
    (match f3 with
     | 0 => .load rd (a + immI) 1 true
     | 1 => .load rd (a + immI) 2 true
     | 2 => .load rd (a + immI) 4 true
     | 4 => .load rd (a + immI) 1 false
     | 5 => .load rd (a + immI) 2 false
     | _ => .ill)
  | 0x23 =>
    let o : BitVec 32 := (w.extractLsb' 25 7 ++ w.extractLsb' 7 5 : BitVec 12).signExtend 32
    if f3 < 3 then .store (a + o) (2 ^ f3) b else .ill
  | 0x13 => (match rvOpImm f3 f7 rs2 immI a with | some v => .alu rd v next 1 | none => .ill)
  | 0x33 => (match rvOp f7 f3 rs2 a b with | some (v, c) => .alu rd v next c | none => .ill)
  | 0x0F => if f3 = 0 then .alu 0 0 next 1 else .ill
  | 0x73 =>
    if f3 = 0 ∨ f3 = 4 then .ill
    else if f3 ∈ [2, 3, 6, 7] ∧ field w 19 15 = 0 ∧ field w 31 20 ∈ [0xC00, 0xC01, 0xC02, 0xC80, 0xC81, 0xC82]
    then .readCsr rd (field w 31 20) else .csr
  | _ => .ill

/-- The word that an assayer executes and its length: a word whose low two bits are not 11 is a 16-bit one (C). -/
def rvWord (w : BitVec 32) : Option (BitVec 32) × Nat :=
  if field w 1 0 = 3 then (some w, 4) else (expandC (w.extractLsb' 0 16), 2)

/-- What the fetched word does. -/
def rvRun (w pc : BitVec 32) (x : Nat → BitVec 32) : RvAct :=
  match rvWord w with
  | (some v, n) => rvAct v pc n x
  | (none, _) => .ill

end Sys2Proof.Machine
end

