-- ==== Sys2Proof/Machine/Meter.lean ====
section
/-!
DEFINITION. Voltage and frequency regions, injection meters, the power controller, the canary and the trip
(12_power.md R266 to R275).
-/
namespace Sys2Proof.Machine

open Sys2Proof

/-- The column of VCUT 1, 2 or 3 (12_power.md R266). -/
def cutColumn (v : BitVec 2) : Nat := 6 * v.toNat

/-- The voltage and frequency region of tile (y, x) of a core (R266). -/
def vfNumber (c : Core) (y x : Nat) : Nat :=
  (if c.hcut ∧ 8 ≤ y then 2 else 0) + (if c.vcut ≠ 0 ∧ cutColumn c.vcut ≤ x then 1 else 0)

/-- Regions that the cuts form. -/
def vfExists (c : Core) (j : Nat) : Bool :=
  (decide (j % 2 = 0) || decide (c.vcut ≠ 0)) && (decide (j / 2 = 0) || c.hcut) && decide (j < 4)

def Core.vfRegion (c : Core) (j : Nat) : VfRegion := Map.get {} c.vf j
def Core.setVf (c : Core) (j : Nat) (v : VfRegion) : Core := { c with vf := Map.set {} c.vf j v }

/-- The clock of a region in MHz (R268). -/
def VfRegion.mhz (v : VfRegion) : Nat := 400 + 50 * v.fstep

/-- Vmin(f) in mV (R268). -/
def vmin (mhz : Nat) : Nat := if mhz ≤ 1000 then 500 else 500 + 10 * ((mhz - 1000 + 59) / 60)

/-- FRAC of a region (R271). -/
def fracOf (s : State) (k j : Nat) : Nat :=
  let v := (s.core k).vfRegion j
  if v.tripped then 0 else Nat.min s.head.phiCap v.phiCan

/-- The voltage and frequency region of stream n's border tile. -/
def vfOfStream (s : State) (k n : Nat) : Nat :=
  let (y, x, _) := agSite n
  vfNumber (s.core k) y x

def Core.meter (c : Core) (n : Nat) : Meter := Map.get {} c.meters n
def Core.setMeter (c : Core) (n : Nat) (m : Meter) : Core := { c with meters := Map.set {} c.meters n m }

/-- The target rate of a port in tokens per us (R271). -/
def targetRate (s : State) (k n : Nat) : Nat :=
  let j := vfOfStream s k n
  let r := fracOf s k j * ((s.core k).vfRegion j).mhz / 255
  let ceil := ((s.core k).meter n).ceil
  if ceil = 0 then r else Nat.min r ceil

/-- The bucket brought up to now, so that a rate or burst may change. -/
def settleMeter (s : State) (k n : Nat) : State :=
  s.modCore k (fun c => let m := c.meter n; c.setMeter n { m with b := bucketNow s m, at_ := uncoreCycles s })

/-- The applied rate falls to a target below it (R271). -/
def lowerRate (s : State) (k n : Nat) : State :=
  let t := targetRate s k n
  if t < ((s.core k).meter n).rate then
    (settleMeter s k n).modCore k (fun c => c.setMeter n { c.meter n with rate := t })
  else s

def lowerRates (s : State) (k : Nat) : State := (List.range 32).foldl (fun s n => lowerRate s k n) s

/-- The applied rate rises toward its target by at most floor(PMAX / 32) (R271). -/
def raiseRate (s : State) (k n : Nat) : State :=
  let t := targetRate s k n
  let r := ((s.core k).meter n).rate
  let step := ((s.core k).vfRegion (vfOfStream s k n)).mhz / 32
  if r < t then (settleMeter s k n).modCore k (fun c => c.setMeter n { c.meter n with rate := Nat.min t (r + step) })
  else s

/-- A notice of the same or a higher reason reached core k in the last 1 ms (R275). -/
def notedLately (s : State) (k : Nat) (reason : BitVec 2) : Bool :=
  (List.range 4).any (fun r => decide (reason.toNat ≤ r) && (Map.get none (s.core k).notices r).any (fun t => decide (s.time - t ≤ 1000000)))

/-- A notice is due to core k unless one of the same or a higher reason reached it in the last 1 ms. -/
def noteFall (s : State) (k : Nat) (reason : BitVec 2) : State :=
  if notedLately s k reason then s else s.modCore k (fun c => { c with noticeDue := c.noticeDue ++ [reason] })

/-- What follows a fall of a core's FRAC. -/
def fracFell (s : State) (k : Nat) (reason : BitVec 2) : State := lowerRates (noteFall s k reason) k

/-- phi-cap changes for the whole module. -/
def setPhiCap (s : State) (v : Nat) : State :=
  let before := s
  let s := { s with head := { s.head with phiCap := v } }
  if v < before.head.phiCap then
    (List.range 384).foldl (fun s k =>
      if (List.range 4).any (fun j => vfExists (s.core k) j && decide (fracOf s k j < fracOf before k j)) then fracFell s k 1
      else s) s
  else s

/-- A measurement every 10 us; P1 is the average of the last 100, in mW (R272; log 31). -/
def execPowerMeasurement (mw : Nat) (s : State) : Res :=
  match s.self with
  | .module =>
    let l := (mw :: s.head.power).take 100
    let p1 := l.sum / l.length
    let s := { s with head := { s.head with power := l } }
    .next (if 4500000 < p1 then setPhiCap s (Nat.max 8 (s.head.phiCap - 16))
      else if p1 < 4400000 then setPhiCap s (Nat.min 255 (s.head.phiCap + 8))
      else s)
  | _ => .refused .wrongAgent

def execCurrentEstimate (ma : Nat) (s : State) : Res :=
  match s.self with
  | .module => .next (if 8800000 < ma then setPhiCap s (Nat.max 8 (3 * s.head.phiCap / 4)) else s)
  | _ => .refused .wrongAgent

/-- The step of an AG tile's meter each microsecond. -/
def execRateRamp (s : State) : Res :=
  match s.self with
  | .ag k n => .next (raiseRate s k n)
  | _ => .refused .wrongAgent

/-- The canary weight of a temperature in quarter degrees: exp2((T - 85) / 10) in units of 2^-16 (R273). -/
def canaryWeight (q : Int) : Nat :=
  let x := if q = 340 then 0 else (Float.round Float.fp32 .rne (decide (q < 340)) (q - 340).natAbs 40).1
  match Float.decode Float.fp32 (Float.exp2 x).1 with
  | .fin _ m e => Nat.min (2 ^ 32 - 1) (if e + 16 ≥ 0 then m * 2 ^ (e + 16).toNat else m / 2 ^ (-(e + 16)).toNat)
  | _ => 2 ^ 32 - 1

/-- A sample of region j's canary (R273), and the end of a trip after ten samples of 100 C or less (R274). -/
def execCanarySample (j : BitVec 2) (q : Int) (s : State) : Res :=
  match s.self with
  | .core k =>
    if vfExists (s.core k) j.toNat = false then .next s else
    let v := (s.core k).vfRegion j.toNat
    let h := (canaryWeight q :: v.history).take 100000
    let d := h.sum
    let cool := if q ≤ 400 then v.cool + 1 else 0
    let phi := if 100000 * 65536 < d then Nat.max 8 (v.phiCan - 16)
      else if d < 95000 * 65536 then Nat.min 255 (v.phiCan + 4) else v.phiCan
    let before := fracOf s k j.toNat
    let s := s.modCore k (fun c => c.setVf j.toNat { v with history := h, cool, phiCan := phi })
    .next (if fracOf s k j.toNat < before then fracFell s k 2 else s)
  | _ => .refused .wrongAgent

/-- Region cycles that have passed in the n steps from a on. -/
def regionCyclesFrom (k j a : Nat) : Nat → Nat
  | 0 => 0
  | n + 1 => regionCyclesFrom k j a n + Config.regionCycles k j (a + n)

/-- A fabric region with an entry AG tile in a tripped voltage and frequency region: its watchdog stands still (R274). -/
def watchStill (s : State) (k i : Nat) : Bool :=
  match s.region k i with
  | none => false
  | some r => (r.active.bind r.ctx : Option Ctx).any (fun x => x.edges.any (fun e =>
      decide (e.role % 2 = 1) && ((s.core k).vfRegion (vfOfStream s k e.sid)).tripped))

/-- The watchdog's count of a region as it stands (10_faults_modes.md R237). -/
def watchCount (s : State) (k i : Nat) : Nat :=
  match s.region k i with
  | none => 0
  | some r => r.idle + if watchStill s k i then 0 else regionCyclesFrom k i r.moved (s.tick - r.moved)

/-- A change of the tripped regions: the watchdog's counts are taken as they stood, and start or stop with it. -/
def changeTrips (s : State) (k : Nat) (f : State → State) : State :=
  let n := (List.range 4).map (watchCount s k)
  n.zipIdx.foldl (fun s e => match s.region k e.2 with
    | some r => s.setRegion k e.2 (some { r with idle := e.1, moved := s.tick })
    | none => s) (f s)

/-- A sensor at 110.0 C or more trips its region (R274). -/
def execTrip (j : BitVec 2) (q : Int) (s : State) : Res :=
  match s.self with
  | .core k =>
    let v := (s.core k).vfRegion j.toNat
    if vfExists (s.core k) j.toNat = false ∨ q < 440 ∨ v.tripped then .next s else
    let s := changeTrips s k (fun s => s.modCore k (fun c => c.setVf j.toNat { v with tripped := true, cool := 0 }))
    let s := (List.range 32).foldl (fun s n =>
      if vfOfStream s k n = j.toNat then
        s.modCore k (fun c => c.setMeter n { c.meter n with b := 0, at_ := uncoreCycles s }) else s) s
    .next (fracFell s k 3)
  | _ => .refused .wrongAgent

def execTripEnd (j : BitVec 2) (s : State) : Res :=
  match s.self with
  | .core k =>
    let v := (s.core k).vfRegion j.toNat
    .next (if v.tripped ∧ 10 ≤ v.cool then
        changeTrips s k (fun s => s.modCore k (fun c => c.setVf j.toNat { v with tripped := false, cool := 0 }))
      else s)
  | _ => .refused .wrongAgent

/-- A due notice reaches the core's thread, unless one of the same or a higher reason has reached it in the meantime: it ends
a stall that a notice ends, or stays pending (11_scheduling.md R265). -/
def execThrottleNotice (reason : BitVec 2) (s : State) : Res :=
  match s.self with
  | .core k =>
    if reason ∉ (s.core k).noticeDue then .next s else
    let late := notedLately s k reason
    let s := s.modCore k (fun c => { c with noticeDue := c.noticeDue.erase reason })
    if late then .next s else
    let s := s.modCore k (fun c => { c with notices := Map.set none c.notices reason.toNat (some s.time) })
    let t := s.thread k
    .next (match t.stall with
      | some ⟨_, true, d, _⟩ => if (s.core k).bound.isSome ∧ t.taking then
          s.modThread k (fun t => { t with throtPend := if t.throtPend < reason then reason else t.throtPend })
        else endByNotice s k d reason
      | _ => s.modThread k (fun t => { t with throtPend := if t.throtPend < reason then reason else t.throtPend }))
  | _ => .refused .wrongAgent

end Sys2Proof.Machine
end

