-- ==== Sys2Proof/Machine/Slices.lean ====
section
/-!
DEFINITION. The events of a slice and the handlers they start and end: dispatch, the state at a handler's entry, the end
by ay.ret and by an abort (08_assayers.md R174, R177 to R180, R184 to R187).
-/
namespace Sys2Proof.Machine

open Sys2Proof

/-! ### Windows (Table 8.2, 14_system.md Table 14.1) -/

/-- The control-register block of slice i. -/
def sliceBlock (i : Nat) : Nat := regsBase + i / 64 * 0x10000000 + i % 64 * 0x100000
/-- The physical address of byte a of IMEM and of DMEM. -/
def imemAt (i a : Nat) : Nat := sliceBlock i + 0x10000 + a
def dmemAt (i a : Nat) : Nat := sliceBlock i + 0x20000 + a

/-- The windows of entry n as [first byte, byte after the last). -/
def imemWin (s : State) (i n : Nat) : Nat × Nat :=
  let w := s.entryWord i n 1
  (1024 * field w 4 0, 1024 * (field w 4 0 + field w 10 5))
def dmemWin (s : State) (i n : Nat) : Nat × Nat :=
  let w := s.entryWord i n 1
  (256 * field w 16 11, 256 * (field w 16 11 + field w 23 17))

/-- The n bytes from a on lie in a window. -/
def inWin (w : Nat × Nat) (a n : Nat) : Bool := decide (w.1 ≤ a ∧ a + n ≤ w.2)

/-- Entry offset and budget of a hook: 0 MISS, 1 FILL, 2 EVICT, 3 MSG. -/
def hookPc (s : State) (i n hook : Nat) : Nat := field (s.entryWord i n 2) (16 * hook + 15) (16 * hook)
def hookBudget (s : State) (i n hook : Nat) : Nat := field (s.entryWord i n 3) (16 * hook + 15) (16 * hook)

/-- The master ID of the assayer of slice i (14_system.md Table 14.2). -/
def assayerMaster (i : Nat) : Nat := 512 + i

/-! ### Starting a handler (R179) -/

/-- A handle: set and way (R181). -/
def handleOf (e : SliceEv) : Nat := 16 * setOf e.line + e.way

/-- The hook record of Table 8.4. -/
def hookRecord (e : SliceEv) : List Byte :=
  toBytes 8 e.va ++ toBytes 4 (e.hook % 16 + 16 * (e.okind % 16) + 256 * (e.master % 1024)) ++ toBytes 4 (handleOf e)
    ++ toBytes 16 e.payload.toNat

/-- The registers of Table 8.3; every other register reads 0. -/
def hookRegs (s : State) (i c : Nat) (e : SliceEv) : Map (BitVec 32) :=
  let d := dmemWin s i e.entry
  [(10, handleOf e), (11, d.2 - 128 + 32 * c), (12, e.hook), (13, d.1), (14, d.2 - d.1)].foldl
    (fun m (r, v) => Map.set 0 m r (BitVec.ofNat 32 v)) []

/-- The handler of an event starts in context c of slice i. -/
def startHandler (s : State) (i c : Nat) (e : SliceEv) : State :=
  let rec_ := dmemAt i ((dmemWin s i e.entry).2 - 128 + 32 * c)
  (writeMem s rec_ (hookRecord e)).setHart (4 * i + c)
    { x := hookRegs s i c e, pc := BitVec.ofNat 32 ((imemWin s i e.entry).1 + hookPc s i e.entry e.hook), ev := some e, victim := e.way }

/-- The contexts of slice i that run nothing. -/
def idleHarts (s : State) (i : Nat) : List Nat := (List.range 4).filter (fun c => (s.hart (4 * i + c)).ev.isNone)

/-- An idle context takes event k out of the queue; which of several is not said. -/
def dispatchAt (s : State) (i k : Nat) (e : SliceEv) : State :=
  let l := idleHarts s i
  match l[Config.idleContext s.tick % Nat.max 1 l.length]? with
  | none => s
  | some c => startHandler (s.modSlice i (fun x => { x with events := x.events.eraseIdx k })) i c e

/-- A MSG event waits in the queue for its line: a miss of the line is in progress and the line is not there yet (R178). The
events of that miss pass it. -/
def msgWaits (s : State) (i : Nat) (e : SliceEv) : Bool :=
  decide (e.hook = 3) && (s.slice i).misses.any (fun m => decide (m.line = e.line ∧ m.stage ≠ .faulted ∧ m.stage ≠ .fill))

/-- The line stands on a way that another line's miss is about to empty, and no EVICT event of its own is queued that would
run behind this one: a substituted victim, or one that waits for a miss register (06_memory.md R136, R180). -/
def leavingWay (s : State) (i : Nat) (e : SliceEv) : Bool :=
  match wayOf s i e.line with
  | none => false
  | some w => decide (e.hook = 3) &&
    (s.slice i).misses.any (fun m => decide (m.line ≠ e.line ∧ setOf m.line = setOf e.line ∧ m.way = w ∧ (m.stage = .evict ∨ m.stage = .room))) &&
    !(s.slice i).events.any (fun f => decide (f.hook = 2 ∧ f.line = e.line))

/-- The event at place k of the queue of slice i may be dispatched: no event of its line stands before it, but for a MSG that
waits for the line, and no handler holds its line (R185). -/
def dispatchable (s : State) (i k : Nat) (e : SliceEv) : Bool :=
  !((s.slice i).events.take k).any (fun f => decide (f.line = e.line) && !msgWaits s i f) && !lineHeld s i e.line && !msgWaits s i e &&
    !leavingWay s i e

/-- A MSG event runs once its line is present; an absent line is first allocated and filled, with no event, and waits for a way
of its set in its place (R136, R177, R178). -/
def msgOrigin (e : SliceEv) : Origin := { okind := e.okind, master := e.master, asid := e.asid, va := e.va, quiet := true }
def dispatchMsg (s : State) (i k : Nat) (e : SliceEv) : State :=
  match wayOf s i e.line with
  | some w => dispatchAt s i k { e with way := w }
  | none => joinMiss s i e.line (msgOrigin e)

/-- The turn of an event leads somewhere: a context takes it, or the fill of a MSG starts. -/
def eventDue (s : State) (i k : Nat) (e : SliceEv) : Bool :=
  dispatchable s i k e && (if e.hook = 3 ∧ (wayOf s i e.line).isNone then !(s.slice i).waiting.contains (e.line, msgOrigin e)
    else !(idleHarts s i).isEmpty)

/-- The step of a slice that dispatches the event at place k, if it is of the hook. -/
def eventStep (hook k : Nat) (s : State) : Res :=
  match s.self with
  | .slice i =>
    (match (s.slice i).events[k]? with
     | some e =>
       if e.hook = hook ∧ dispatchable s i k e then .next (if hook = 3 then dispatchMsg s i k e else dispatchAt s i k e)
       else .next s
     | none => .next s)
  | _ => .refused .wrongAgent

def execMissEvent (k : Nat) (s : State) : Res := eventStep 0 k s
def execFillEvent (k : Nat) (s : State) : Res := eventStep 1 k s
def execEvictEvent (k : Nat) (s : State) : Res := eventStep 2 k s
def execMsgEvent (k : Nat) (s : State) : Res := eventStep 3 k s

/-! ### The end of a handler (R180, R186, R187) -/

/-- Every line that a context has locked is released. -/
def releaseLocks (s : State) (h : Nat) : State :=
  s.modSlice (h / 4) (fun x => { x with sets := x.sets.map (fun (a, c) =>
    (a, { c with ways := c.ways.map (fun (b, w) => (b, w.map (fun y =>
      if y.locked = some h then { y with locked := none, lockW := false } else y))) })) })

/-- The fetches that a context's handler has begun by ay.fill may complete from now on (15_ref_a_c.md R323). -/
def letFills (s : State) (h : Nat) : State :=
  { s with slices := s.slices.map (fun (i, x) => (i, { x with
      misses := x.misses.map (fun m => if m.hart = some h then { m with hart := none } else m)
      waiting := x.waiting.map (fun e => if e.2.hart = some h then (e.1, { e.2 with hart := none }) else e) })) }

/-- The handler in context h ends: its lines are released, its event is followed up, and what waited for a way goes on. -/
def endHandler (s : State) (h : Nat) (e : SliceEv) (fault : Bool) : State :=
  let v := (s.hart h).victim
  admitWaiting (eventDone (letFills ((releaseLocks s h).setHart h {}) h) (h / 4) e v fault) (h / 4)

/-- Abort causes (Table 8.5). -/
def acBUDGET : Nat := 0
def acILL : Nat := 1
def acWIN : Nat := 2
def acMIS : Nat := 3
def acCSR : Nat := 4
def acRET : Nat := 5
def acARG : Nat := 6

/-- The handler in context h is aborted: ABORTS rises, LASTPC, LASTCAUSE and LASTHOOK are recorded, and the event takes its
default action, or faults its originator under STRICT (R186, R187). -/
def abortHandler (s : State) (h : Nat) (cause : Nat) : State :=
  match (s.hart h).ev with
  | none => s
  | some e =>
    let i := h / 4
    let n := e.entry
    let off := ((s.hart h).pc.toNat - (imemWin s i n).1) % 65536
    let strict := entryStrict s i n && decide (e.hook ≤ 1)
    let s := (bumpEntry s i n false).setEntryWord i n 9 (BitVec.ofNat 64 (off * 2 ^ 16 + cause % 16 * 16 + e.hook % 16))
    endHandler s h e strict

end Sys2Proof.Machine
end

