-- ==== Sys2Proof/Machine/LoadStore.lean ====
section
/-!
DEFINITION. Loads, stores, atomics, fences, barrier objects, token FIFOs, WATCH and AMSG of the control thread
(15_ref_a_c.md R319 to R326, R332, 16_ref_d_l.md R354, R365, R366, 17_ref_m_r.md R390, 18_ref_s.md R414, R415,
19_ref_t_z.md R424, R437).
-/
namespace Sys2Proof.Machine

open Sys2Proof

/-- A load of n bytes at an address, the value handed to `f`. -/
def loadAt (s : State) (k : Nat) (va : Word) (n : Nat) (f : State → Nat → Res) : Res :=
  accessAt s k va n .read (fun s key => f s (readNat s key n))

def execLd (d a : BitVec 5) (z : BitVec 2) (o : BitVec 14) (s : State) : Res :=
  onThread s (fun k => loadAt s k (ea s k a o) (sizeOf2 z) (fun s v => setG s k d (sextBytes (sizeOf2 z) v)))
def execLdu (d a : BitVec 5) (z : BitVec 2) (o : BitVec 14) (s : State) : Res :=
  onThread s (fun k => loadAt s k (ea s k a o) (sizeOf2 z) (fun s v => setG s k d (zextBytes (sizeOf2 z) v)))
def execLdq (q : BitVec 3) (a : BitVec 5) (o : BitVec 14) (s : State) : Res :=
  onThread s (fun k => loadAt s k (ea s k a o) 16 (fun s v => .next (retire (wq s k q (BitVec.ofNat 128 v)) k)))
/-- The acquire needs no more: the load is performed before the next instruction (07_consistency.md R155). -/
def execLda (d a : BitVec 5) (z _sc : BitVec 2) (o : BitVec 12) (s : State) : Res :=
  onThread s (fun k => loadAt s k (ea s k a o) (sizeOf2 z) (fun s v => setG s k d (sextBytes (sizeOf2 z) v)))
def execSt (g a : BitVec 5) (z : BitVec 2) (o : BitVec 14) (s : State) : Res :=
  onThread s (fun k => storeAt s k (ea s k a o) (sizeOf2 z) (cellsOf (sizeOf2 z) (rg s k g).toNat))
def execStq (q : BitVec 3) (a : BitVec 5) (o : BitVec 14) (s : State) : Res :=
  onThread s (fun k => storeAt s k (ea s k a o) 16 (cellsOf 16 (rq s k q).toNat))
def execStr (g a : BitVec 5) (z sc : BitVec 2) (o : BitVec 12) (s : State) : Res :=
  onThread s (fun k => releaseAt s k sc.toNat
    (storeAt s k (ea s k a o) (sizeOf2 z) (cellsOf (sizeOf2 z) (rg s k g).toNat)))

/-- The PREFs of core k that are in progress at the slices, those that wait for a way among them. -/
def prefsBusy (s : State) (k : Nat) : Nat :=
  (s.slices.map (fun e => (e.2.misses.filter (fun m => m.pref && decide (m.master = coreMaster k))).length +
    (e.2.waiting.filter (fun w => w.2.pref && decide (w.2.master = coreMaster k))).length)).sum

/-- PREF allocates an absent stack line at its home slice, or does nothing (17_ref_m_r.md R390). -/
def prefetch (s : State) (k : Nat) (va : Word) : State :=
  match translate s (cacheCore k) (s.thread k).asid va.toNat .read false with
  | (s, .bad _) => s
  | (s, .ok pa _) =>
    match target pa with
    | .slice i =>
      if permitted s i (coreMaster k) (pa / 128 * 128) 128 .read = false ∨ (wayOf s i (pa / 128)).isSome ∨
          (s.slice i).misses.any (fun m => decide (m.line = pa / 128)) then s
      else joinMiss s i (pa / 128) { threadOrigin s k (BitVec.ofNat 64 (128 * (va.toNat / 128))) with pref := true }
    | _ => s

def execPref (a : BitVec 5) (o : BitVec 14) (s : State) : Res :=
  onThread s (fun k =>
    let va := ea s k a o
    if 16 ≤ prefsBusy s k ∨ inWindow va.toNat then .next (retire s k) else
    match threadWalk s k va with
    | .wait s => waitAt s k false
    | .fault s _ => .next (retire s k)
    | .ready s _ => .next (retire (prefetch s k va) k))

/-! ### Atomics -/

/-- The new value of an AMO, from the old value and gb, both of n bytes (15_ref_a_c.md R319, 13_encodings.md Table 13.4). -/
def amoNew (op : BitVec 3) (n old b : Nat) : Nat :=
  match op.toNat with
  | 0 => b
  | 1 => (old + b) % 2 ^ (8 * n)
  | 2 => Nat.land old b
  | 3 => Nat.lor old b
  | 4 => Nat.xor old b
  | 5 => if sextN old (8 * n) ≤ sextN b (8 * n) then old else b
  | 6 => if sextN old (8 * n) ≤ sextN b (8 * n) then b else old
  | _ => if old ≤ b then b else old

/-- An order field that includes a release: rel or acqrel (Table 13.4). -/
def orderReleases (r : BitVec 2) : Bool := r.getLsbD 1

/-- The release, if the order asks for one, and then the atomic at its home. -/
def atomicAt (s : State) (k : Nat) (sc : BitVec 2) (r : BitVec 2) (va : Word) (n : Nat) (f : State → Nat → Res) : Res :=
  if orderReleases r && !released s k sc.toNat then waitAt s k false else accessAt s k va n .atomic f

def execAmo (d a b : BitVec 5) (p : BitVec 3) (sc : BitVec 2) (z : BitVec 1) (r : BitVec 2) (s : State) : Res :=
  onThread s (fun k =>
    let n := amoSize z
    atomicAt s k sc r (rg s k a) n (fun s key =>
      let old := readNat s key n
      let bn := (rg s k b).toNat % 2 ^ (8 * n)
      let s := perform s key (cellsOf n (amoNew p n old bn))
      setG s k d (if p = 7 then zextBytes n old else sextBytes n old)))

def execCas (d a b : BitVec 5) (sc : BitVec 2) (z : BitVec 1) (r : BitVec 2) (s : State) : Res :=
  onThread s (fun k =>
    let n := amoSize z
    atomicAt s k sc r (rg s k a) n (fun s key =>
      let old := readNat s key n
      let s := if old = (rg s k d).toNat % 2 ^ (8 * n) then perform s key (cellsOf n (rg s k b).toNat) else s
      setG s k d (sextBytes n old)))

/-- A full barrier; fetched but unexecuted words are discarded (16_ref_d_l.md R354). -/
def execFence (sc : BitVec 2) (s : State) : Res :=
  onThread s (fun k => releaseAt s k sc.toNat
    (.next (retire (s.modThread k (fun t => { t with fetched := [] })) k)))

/-! ### Barrier objects (15_ref_a_c.md R324, R325) -/

/-- PHASE, EXPECT and ARRIVED of the object at a place. -/
structure BarObj where
  phase : Nat
  expect : Nat
  arrived : Nat
  deriving DecidableEq, Repr

def readBar (s : State) (key : Nat) : BarObj := ⟨readNat s key 8, readNat s (key + 8) 4, readNat s (key + 12) 4⟩
def barCells (b : BarObj) : List (Option Byte) :=
  (toBytes 8 b.phase ++ toBytes 4 b.expect ++ toBytes 4 b.arrived).map some

/-- ARRIVED = EXPECT completes the phase. -/
def barSettle (b : BarObj) : BarObj :=
  if b.arrived = b.expect then { b with arrived := 0, phase := (b.phase + 1) % 2 ^ 64 } else b

/-- ARV or DRP: BARRIER, or the object after it and the phase written to gd. -/
def barArrive (b : BarObj) (d : Word) (drop : Bool) : Option (BarObj × Word) :=
  if b.expect = 0 ∨ d.toNat ≠ b.phase then none
  else if drop then some (barSettle { b with expect := b.expect - 1 }, BitVec.allOnes 64)
  else some (barSettle { b with arrived := b.arrived + 1 }, BitVec.ofNat 64 (b.phase + 1))

/-- A releasing form on the object at ga. -/
def barAt (s : State) (k : Nat) (a : BitVec 5) (f : State → Nat → Res) : Res :=
  releaseAt s k 2 (accessAt s k (rg s k a) 16 .atomic f)

def execBarInit (a b : BitVec 5) (s : State) : Res :=
  onThread s (fun k => barAt s k a (fun s key =>
    let v := (rg s k b).toNat
    if v = 0 ∨ 2 ^ 32 ≤ v then .next (raise s k fcBARRIER 0)
    else .next (retire (perform s key (barCells ⟨0, v, 0⟩)) k)))

def barArriveAt (s : State) (k : Nat) (d : BitVec 5) (key : Nat) (drop : Bool) : Res :=
  match barArrive (readBar s key) (rg s k d) drop with
  | none => .next (raise s k fcBARRIER 0)
  | some (b, v) => setG (perform s key (barCells b)) k d v

def execBarArv (d a : BitVec 5) (s : State) : Res :=
  onThread s (fun k => barAt s k a (fun s key => barArriveAt s k d key false))
def execBarDrp (d a : BitVec 5) (s : State) : Res :=
  onThread s (fun k => barAt s k a (fun s key => barArriveAt s k d key true))
/-- Waits until the object's phase is not behind gb. -/
def execBarWait (a b : BitVec 5) (s : State) : Res :=
  onThread s (fun k => accessAt s k (rg s k a) 16 .atomic (fun s key =>
    if 2 ^ 63 ≤ ((readBar s key).phase + 2 ^ 64 - (rg s k b).toNat) % 2 ^ 64 then waitAt s k true
    else .next (retire s k)))

/-! ### Token FIFOs (02_execution_model.md R46 to R48) -/

def fifo (s : State) (k n : Nat) : List (BitVec 8) := Map.get [] (s.core k).fifos n
def setFifo (s : State) (k n : Nat) (l : List (BitVec 8)) : State :=
  s.modCore k (fun c => { c with fifos := Map.set [] c.fifos n l })
/-- A FIFO holds at most 15 entries. -/
def fifoFull (s : State) (k n : Nat) : Bool := decide (15 ≤ (fifo s k n).length)
def fifoPush (s : State) (k n : Nat) (e : BitVec 8) : State := setFifo s k n (fifo s k n ++ [e])

/-! ### WATCH and AMSG -/

/-- WATCH: returns the 8 bytes when they differ from gb, otherwise waits; it rereads at its next turn, in an aperture at
the next poll. -/
def watchAt (s : State) (k : Nat) (d a b : BitVec 5) : Res :=
  loadAt s k (rg s k a) 8 (fun s v =>
    if BitVec.ofNat 64 v ≠ rg s k b then setG s k d (BitVec.ofNat 64 v)
    else .next (s.modThread k (fun t => { t with stall := some ⟨true, false, 0, none⟩ })))

/-- The address of a WATCH translates to an aperture. -/
def watchesAperture (s : State) (k : Nat) (a : BitVec 5) : Bool :=
  match (locate s k (s.thread k).asid (rg s k a).toNat .read false).2 with
  | .ok (pa, _) => (match target pa with | .adit _ _ => true | _ => false)
  | .error _ => false

def execWatch (d a b : BitVec 5) (s : State) : Res :=
  onThread s (fun k =>
    if (s.thread k).watching.isSome then .next s
    else match watchAt s k d a b with
      | .next t =>
        if (t.thread k).stall = some ⟨true, false, 0, none⟩ ∧ watchesAperture s k a then
          .next (t.modThread k (fun x => { x with watching := some (d, a, b) }))
        else .next t
      | r => r)

/-- Every 2 us a WATCH on an aperture rereads its 8 bytes (R437). -/
def execApertureWatchPoll (s : State) : Res :=
  onThread s (fun k => match (s.thread k).watching with
    | none => .next s
    | some (d, a, b) => watchAt s k d a b)

/-- AMSG: the release, the checks, and the event at the home slice (15_ref_a_c.md R321). -/
def execAmsg (a : BitVec 5) (b : BitVec 3) (s : State) : Res :=
  onThread s (fun k => releaseAt s k 2
    (let va := rg s k a
     if va.toNat % 128 ≠ 0 then .next (raise s k fcALIGN va) else
     match threadWalk s k va with
     | .wait s => waitAt s k false
     | .fault s c => .next (raise s k c va)
     | .ready s _ =>
       match locate s k (s.thread k).asid va.toNat .read true with
       | (s, .error c) => .next (raise s k c va)
       | (s, .ok (pa, _)) =>
         match target pa with
         | .slice i =>
           (match crossMesh s (coreMaster k) i pa with
            | (s, true) => .next (raise s k fcLINK va)
            | (s, false) =>
              match targetCheck s (coreMaster k) pa 128 .read with
              | (s, some c) => .next (raise s k c va)
              | (s, none) =>
                .next (retire (sendMsg s i (s.thread k).asid va.toNat (pa / 128) 0 (coreMaster k) (rq s k b)) k))
         | _ => .next (raise s k fcACCESS va)))

end Sys2Proof.Machine
end

