-- ==== Sys2Proof/Machine/Commands.lean ====
section
/-!
DEFINITION. Issuing a stream command, the engine queues, faults of commands, and their retirement
(02_execution_model.md R30, R45, R46, 10_faults_modes.md R220, R231, 16_ref_d_l.md R359, R360); the order of a cycle at a token
FIFO, TKPUSH and TKPOP (02_execution_model.md R48, 19_ref_t_z.md R424); the METER commands (12_power.md R269, R277 to R279).
-/
namespace Sys2Proof.Machine

open Sys2Proof

/-- The opcode of a command word (13_encodings.md R285). -/
def cmdOpcode (w : QWord) : Nat := field w 127 120

/-- The queue of an opcode: 0 SQ, 1 KQ, 2 HQ, 3 LQ, 4 OQ, 5 PQ (02_execution_model.md Table 2.4). -/
def queueOf (op : Nat) : Nat :=
  if op ≤ 9 then 0 else if op < 0x20 ∨ op = 0x40 then 1 else if op < 0x28 then 2 else if op < 0x30 then 3
  else if op < 0x38 then 4 else 5

/-- The commands that name a stream (R30). -/
def namesStream (op : Nat) : Bool := decide (op ≤ 9 ∧ op ≠ 7)
/-- The context commands and METER, to which the second check of R30 does not apply (15_ref_a_c.md R333). -/
def isContextCmd (op : Nat) : Bool := decide (0x10 ≤ op ∧ op < 0x20 ∨ op = 0x40)

def queueCmds (s : State) (k q : Nat) : List QCmd := Map.get [] (s.core k).queues q
def setQueue (s : State) (k q : Nat) (l : List QCmd) : State :=
  s.modCore k (fun c => { c with queues := Map.set [] c.queues q l })

/-- The command with an identity, in any queue of core k. -/
def findCmd (s : State) (k id : Nat) : Option QCmd :=
  ((List.range 6).flatMap (queueCmds s k)).find? (fun c => decide (c.id = id))

def setPhase (s : State) (k id : Nat) (p : Phase) : State := modCmds s k (fun c => decide (c.id = id)) (fun c => { c with phase := p })

/-- The contexts to which a command is bound, each with its region: one that names a stream to a slot of the region that owns
the stream, any other to those that it found at the head of its queue (R30). -/
def boundCtxs (s : State) (k : Nat) (q : QCmd) : List (Nat × Ctx) :=
  let c := cmdFields q.word
  let op := cmdOpcode q.word
  let at_ (j : Nat) : Option (Nat × Ctx) := ((s.region k j).bind (fun r => r.ctx c.bind.toNat)).map (fun x => (j, x))
  if isContextCmd op ∨ c.bind = 7 then []
  else if namesStream op then ((s.regionOfStream k c.sid.toNat).bind at_).toList
  else q.boundTo.filterMap (fun e => (at_ e.1).bind (fun x => if x.2.id = e.2 then some x else none))

/-- The code of a final fault that has stopped a load to which the command is bound (10_faults_modes.md R226). -/
def stoppedBy (s : State) (k : Nat) (q : QCmd) : Option Code := (boundCtxs s k q).findSome? (fun e => e.2.final)

/-- A command's effects are over, with a code; one that is bound to a stopped load retires with that load's code (R226). -/
def endCmd (s : State) (k id : Nat) (code : Code) : State :=
  let stop := (findCmd s k id).bind (stoppedBy s k)
  setPhase s k id (.done (if code = 0 then stop.getD 0 else code))

/-- The context slot of a region holds a resident context. -/
def residentIn (s : State) (k j slot : Nat) : Bool :=
  match s.region k j with | some r => (r.ctx slot).isSome | none => false

/-- The second check of R30, on the bound context slot; METER and the context commands do not meet it. -/
def bindOk (s : State) (k : Nat) (c : Cmd) (op : Nat) : Bool :=
  if isContextCmd op then true
  else if namesStream op then
    match s.regionOfStream k c.sid.toNat with
    | none => false
    | some j => c.bind == 7 || residentIn s k j c.bind.toNat
  else c.bind == 7 || (List.range 4).any (fun j => residentIn s k j c.bind.toNat)

/-- An ISSUE behaves as ISSUEW: its command is bound to a PRECISE context, or names a stream of a region whose context is
PRECISE (10_faults_modes.md R231). -/
def isPrecise (s : State) (k : Nat) (c : Cmd) (op : Nat) : Bool :=
  let ctxPrecise (j slot : Nat) : Bool := match s.region k j with
    | some r => (match r.ctx slot with | some x => x.mode.getLsbD 1 | none => false)
    | none => false
  if isContextCmd op then false
  else if namesStream op then
    match s.regionOfStream k c.sid.toNat with
    | none => false
    | some j =>
      if c.bind = 7 then (match s.region k j with
        | some r => (match r.active with | some a => ctxPrecise j a | none => false)
        | none => false)
      else ctxPrecise j c.bind.toNat
  else (List.range 4).any (fun j => ctxPrecise j c.bind.toNat)

/-- The command needs PRIV (12_power.md Table 12.3, 17_ref_m_r.md R380). -/
def cmdPrivileged : Instr → Bool
  | .meterPoint _ => true
  | .meterCut _ => true
  | .migrate _ => true
  | _ => false

/-- A queue of core k has room for n more commands (R45). -/
def queueRoom (s : State) (k q n : Nat) : Bool := decide ((queueCmds s k q).length + n ≤ 16)

/-- Appends a command to its queue. -/
def enqueueCmd (s : State) (k : Nat) (c : QCmd) : State :=
  let q := queueOf (cmdOpcode c.word)
  setQueue s k q (queueCmds s k q ++ [c])

/-- The check of ISSUE: none, or the code (16_ref_d_l.md R359 step 2). -/
def issueFault (s : State) (k : Nat) (w : QWord) : Option Code :=
  match decodeCmd w with
  | .error _ => some fcCMD
  | .ok i =>
    let c := cmdFields w
    if cmdOk i = false then some fcCMD
    else if cmdPrivileged i ∧ isPriv s k = false then some fcPRIV
    else if namesStream (cmdOpcode w) ∧ (s.regionOfStream k c.sid.toNat).isNone then some fcCMD
    else none

/-- ISSUE and ISSUEW: the checks, room in the queue, and for ISSUEW, or under PRECISE, the wait for retirement. -/
def issue (i : Instr) (q : BitVec 3) (wait : Bool) (s : State) : Res :=
  onThread s (fun k =>
    match (s.thread k).awaits with
    | some id => if (findCmd s k id).isSome || trapDue s k then .next s else .next (retire s k)
    | none =>
      let w := rq s k q
      match issueFault s k w with
      | some c => .next (raise s k c (if c = fcPRIV then wordOf i else 0))
      | none =>
        let qn := queueOf (cmdOpcode w)
        if queueRoom s k qn 1 = false then stallAt s k false 0 false
        else
          let precise := isPrecise s k (cmdFields w) (cmdOpcode w)
          let c : QCmd := { id := s.nextId, word := w, asid := (s.thread k).asid, ipc := pcOf s k, priv := isPriv s k,
                            waited := wait || precise, precise }
          let s := { enqueueCmd s k c with nextId := s.nextId + 1 }
          if wait || precise then .next (s.modThread k (fun t => { t with awaits := some c.id, stall := some ⟨false, false, 0, none⟩ }))
          else .next (retire s k))

def execIssue (q : BitVec 3) (s : State) : Res := issue (.issue q) q false s
def execIssuew (q : BitVec 3) (s : State) : Res := issue (.issuew q) q true s

/-! ### Faults of commands -/

/-- The foreman's CLOAD has failed: its task ends FAILED, at once, or, if the thread has taken it, once it has been stopped as
an abandoned task is (11_scheduling.md R246, R261). -/
def foremanCmdFailed (s : State) (k p : Nat) (code : Code) : State :=
  if (s.thread k).task = some p then
    stopWork (s.modForeman (coreDie k) (fun f => { f with pool := f.pool.map (fun (n, e) =>
      (n, if n = p then e.map (fun t => { t with doomed := true, doomCode := some (t.doomCode.getD code) }) else e)) })) k
  else
    let s := s.modCore k (fun c => { c with bound := if c.bound = some p then none else c.bound })
    let s := modCmds s k (fun c => decide (c.byForeman = some p ∧ (c.phase = .queued ∨ c.phase = .ready))) (fun c => { c with phase := .done fcTASK })
    s.modForeman (coreDie k) (fun f => { f with inbox := f.inbox ++ [.ended p .failed code] })

/-- Delivers a fault charged to a command or to a segment of its stream: a record, and then a pending fault or, while a
PRECISE ISSUE waits for it, a synchronous trap of the ISSUE; once its task has ended, a record alone (R220, R231,
11_scheduling.md R246). -/
def deliverFault (s : State) (k : Nat) (c : QCmd) (r : FRec) : State :=
  match c.byForeman with
  | some p => foremanCmdFailed (putRecord s r .nothing) k p r.code
  | none =>
    if c.precise ∧ (s.thread k).awaits = some c.id then putRecord s { r with async := false } (.trap c.ipc)
    else if c.orphan then putRecord s r .nothing
    else pendFault s r

/-- A command ends with a fault of its own: FINAL is 1 (log 22), REGION 0 (log 128). -/
def faultCmd (s : State) (k q : Nat) (c : QCmd) (code : Code) (va : Nat) : State :=
  let f := cmdFields c.word
  let r : FRec := { core := k, asid := c.asid, code, final := true, queue := q, va := BitVec.ofNat 64 va,
                    stream := if namesStream (cmdOpcode c.word) then f.sid.toNat else 0, ipc := c.ipc }
  deliverFault (endCmd s k c.id code) k c r

/-! ### Handing a command to its engine -/

/-- The command may leave its queue: every earlier one has left it; in KQ, every earlier one is done (R45, R333). -/
def mayIssue (s : State) (k q pos : Nat) : Bool :=
  ((queueCmds s k q).take pos).all (fun c => match c.phase with
    | .done _ => true
    | .started => decide (q ≠ 1) && !c.holds
    | _ => false)

/-- SCLOSE and CRETIRE, whose closes write records and drop pins. -/
def closes (op : Nat) : Bool := decide (op = 0x06 ∨ op = 0x12)

/-- A dirty-range record of the core is not yet performed, or the release of a page whose last pin has fallen is not yet
complete: the command that closed the stream waits (10_faults_modes.md R217, R218, 09_attention.md R202). -/
def closing (s : State) (k : Nat) : Bool := dirtyLeft s k || releasesDue s

/-! ### The order of a cycle at a token FIFO (R48)

Two that may act on one FIFO at once stand in one cycle: SQ, KQ, HQ, LQ, OQ, PQ and then the thread, numbers 0 to 6. -/

/-- A command of queue q pops FIFO n on its next turn (R46). -/
def popDue (s : State) (k n q : Nat) : Bool :=
  (queueCmds s k q).zipIdx.any (fun e => mayIssue s k q e.2 && decide (e.1.phase = .queued) && (cmdFields e.1.word).waitEn &&
    decide ((cmdFields e.1.word).waitF.toNat = n))

/-- The head of queue q retires on its next turn with a push to FIFO n. -/
def pushDue (s : State) (k n q : Nat) : Bool :=
  match queueCmds s k q with
  | [] => false
  | c :: _ => match c.phase with
    | .done _ => (cmdFields c.word).sigEn && !c.orphan && decide ((cmdFields c.word).sigF.toNat = n) &&
        !(decide (closes (cmdOpcode c.word)) && closing s k)
    | _ => false

/-- One of lower number than `me` pops, or pushes to, FIFO n first. -/
def popAhead (s : State) (k n me : Nat) : Bool := (List.range me).any (popDue s k n)
def pushAhead (s : State) (k n me : Nat) : Bool := (List.range me).any (pushDue s k n)

def execTkpush (n : BitVec 3) (s : State) : Res :=
  onThread s (fun k => releaseAt s k 2
    (if fifoFull s k n.toNat || pushAhead s k n.toNat 6 then stallAt s k true 0 false else .next (retire (fifoPush s k n.toNat 0) k)))
def execTkpop (d : BitVec 5) (n : BitVec 3) (s : State) : Res :=
  onThread s (fun k => match fifo s k n.toNat with
    | [] => stallAt s k true d false
    | e :: rest => if popAhead s k n.toNat 6 then stallAt s k true d false else setG (setFifo s k n.toNat rest) k d (e.zeroExtend 64))

/-- A command is about to go to its engine: one that names no stream is bound to the contexts that its slot holds now (R30,
16_ref_d_l.md R359). -/
def comeToHead (s : State) (k : Nat) (c : QCmd) : State × QCmd :=
  let b := (cmdFields c.word).bind
  let l := if b = 7 then [] else (List.range 4).filterMap (fun j => ((s.region k j).bind (fun r => r.ctx b.toNat)).bind (fun x => if x.copyOf.isNone then some (j, x.id) else none))
  let c := { c with headed := true, boundTo := l }
  (modCmds s k (fun q => decide (q.id = c.id)) (fun q => { q with headed := true, boundTo := l }), c)

/-- The turn of the command at a place of a queue: its wait FIFO is popped, its binding checked, and its engine runs `f`
(R46, R30; 16_ref_d_l.md R359, 20_prog_rope_merge.md: a command that waits does not come to the check). -/
def onQueue (s : State) (i : Instr) (f : State → Nat → QCmd → Res) : Res :=
  match s.self with
  | .queue k q pos =>
    match (queueCmds s k q)[pos]? with
    | none => .next s
    | some c =>
      if decodeCmd c.word |>.toOption |> (· ≠ some i) then .next s else
      let go (s : State) (c : QCmd) : Res :=
        match stoppedBy s k c with
        | some code => .next (endCmd s k c.id code)
        | none => f (setPhase s k c.id .ready) k { c with phase := .ready }
      let goBound (s : State) : Res :=
        if c.headed then go s c
        else if bindOk s k (cmdFields c.word) (cmdOpcode c.word) = false then .next (faultCmd s k q c fcCMD 0)
        else
          let (s, c) := comeToHead s k c
          go s c
      match c.phase with
      | .done _ => .next s
      | .started => f s k c
      | .ready => if mayIssue s k q pos then go s c else .next s
      | .queued =>
        if mayIssue s k q pos = false then .next s
        else if (cmdFields c.word).waitEn then
          (match fifo s k (cmdFields c.word).waitF.toNat with
           | [] => .next s
           | e :: rest =>
             if popAhead s k (cmdFields c.word).waitF.toNat q then .next s else
             let s := setFifo s k (cmdFields c.word).waitF.toNat rest
             if e = 0 then goBound s else .next (endCmd s k c.id e))
        else goBound s
  | _ => .refused .wrongAgent

/-- The head of a queue retires, in order, once its effects are over; it pushes its code to its signal FIFO (R45 to R48). -/
def execCommandRetire (s : State) : Res :=
  match s.self with
  | .queue k q _ =>
    match queueCmds s k q with
    | [] => .next s
    | c :: rest =>
      match c.phase with
      | .done code =>
        if closes (cmdOpcode c.word) ∧ closing s k then .next s else
        let f := cmdFields c.word
        let t := s.thread k
        -- a thread that steps learns of it at its next boundary
        let tell (s : State) : State :=
          if code = 0 ∧ t.status.getLsbD 6 ∧ c.orphan = false ∧ c.byForeman.isNone ∧ c.waited = false then
            s.modThread k (fun t => { t with finished := some (t.finished.getD (q, if namesStream (cmdOpcode c.word) then f.sid.toNat else 0, c.ipc)) })
          else s
        if f.sigEn ∧ c.orphan = false then
          if fifoFull s k f.sigF.toNat || pushAhead s k f.sigF.toNat q then .next s
          else .next (tell (fifoPush (setQueue s k q rest) k f.sigF.toNat code))
        else .next (tell (setQueue s k q rest))
      | _ => .next s
  | _ => .refused .wrongAgent

/-! ### METER (R277 to R279) -/

/-- A ceiling and a burst for one port; a BURST of 0 keeps it. -/
def setCeil (s : State) (k n ceil burst : Nat) : State :=
  let s := settleMeter s k n
  let s := s.modCore k (fun c =>
    let m := c.meter n
    let b := if burst = 0 then m.burst else burst
    c.setMeter n { m with ceil, burst := b, b := Nat.min m.b (b * 1300) })
  lowerRate s k n

def execMeterCeil (c : Cmd) (s : State) : Res :=
  onQueue s (.meterCeil c) (fun s k q =>
    .next (endCmd (setCeil s k c.sid.toNat (field c.ops 10 0) (field c.ops 17 11)) k q.id 0))

def execMeterCeilall (c : Cmd) (s : State) : Res :=
  onQueue s (.meterCeilall c) (fun s k q =>
    .next (endCmd ((List.range 32).foldl (fun s n => setCeil s k n (field c.ops 10 0) (field c.ops 17 11)) s) k q.id 0))

/-- A region's operating point as it is once its clock has switched. -/
def setFstep (s : State) (k j fstep : Nat) : State :=
  lowerRates (s.modCore k (fun c => c.setVf j { c.vfRegion j with fstep })) k

/-- POINT: a rise slews the voltage first, a fall switches the clock first; the command retires when the slew is over (R269). -/
def execMeterPoint (c : Cmd) (s : State) : Res :=
  onQueue s (.meterPoint c) (fun s k q =>
    let j := field c.ops 1 0
    let fstep := field c.ops 6 2
    let mv := field c.ops 16 7
    if q.phase = .started then .next s
    else if vfExists (s.core k) j = false ∨ 24 < fstep ∨ mv % 10 ≠ 0 ∨ mv < vmin (400 + 50 * fstep) ∨ 750 < mv then
      .next (faultCmd s k 1 q fcCMD 0)
    else
      let v := (s.core k).vfRegion j
      let s := if fstep < v.fstep then setFstep s k j fstep else s
      let s := s.modCore k (fun c => c.setVf j { c.vfRegion j with slew := some (q.id, fstep, mv) })
      .next (setPhase s k q.id .started))

/-- A slew ends: the voltage is the new one, a rise in frequency switches now, and the METER is done (R269). -/
def execVoltageSlewDone (j : BitVec 2) (s : State) : Res :=
  match s.self with
  | .core k =>
    match ((s.core k).vfRegion j.toNat).slew with
    | none => .next s
    | some (id, fstep, mv) =>
      let s := setFstep s k j.toNat fstep
      .next (endCmd (s.modCore k (fun c => c.setVf j.toNat { c.vfRegion j.toNat with mv, slew := none })) k id 0)
  | _ => .refused .wrongAgent

/-- CUT: with no resident context on the core, the cuts change and every region takes region 0's operating point (R267, R268). -/
def execMeterCut (c : Cmd) (s : State) : Res :=
  onQueue s (.meterCut c) (fun s k q =>
    if (List.range 4).any (fun j => (List.range 4).any (fun x => residentIn s k j x)) then .next (faultCmd s k 1 q fcCFG 0)
    else
      let v := (s.core k).vfRegion 0
      let s := s.modCore k (fun x =>
        let x := { x with vcut := BitVec.ofNat 2 (field c.ops 1 0), hcut := decide (field c.ops 2 2 = 1) }
        (List.range 4).foldl (fun x j => x.setVf j
          (if vfExists x j then { x.vfRegion j with fstep := v.fstep, mv := v.mv } else {})) x)
      .next (endCmd (lowerRates s k) k q.id 0))

end Sys2Proof.Machine
end

