-- ==== Sys2Proof/Machine/Fabric.lean ====
section
/-!
DEFINITION. The fabric: a tile's turn, its links and their credits, operands, the firing of a slot, faults charged to a
segment and what they discard or freeze (02_execution_model.md R33 to R38, 03_fabric.md R53 to R65, R77, R453,
10_faults_modes.md R223 to R227).
-/
namespace Sys2Proof.Machine

open Sys2Proof

/-! ### Token kinds (03_fabric.md Table 3.2) -/

abbrev kWORD : BitVec 4 := 0
abbrev kDIGIT : BitVec 4 := 1
abbrev kSOT : BitVec 4 := 2
abbrev kEOT : BitVec 4 := 3
abbrev kNULL : BitVec 4 := 4
abbrev kKILL : BitVec 4 := 5
abbrev kORDER : BitVec 4 := 6
abbrev kRECONF : BitVec 4 := 7
abbrev kSBARTOK : BitVec 4 := 8
abbrev kMARK : BitVec 4 := 9

def Token.isControl (t : Token) : Bool := t.kind ∈ [kSOT, kEOT, kORDER, kRECONF, kSBARTOK, kMARK]
def Token.isData (t : Token) : Bool := t.kind ∈ [kWORD, kDIGIT, kNULL]

/-! ### Sites -/

/-- Where a slot fires: core, tile, slot, region, and the context that the tile has switched to (R38, R40). -/
structure Site where
  k : Nat
  y : Nat
  x : Nat
  n : Nat
  j : Nat
  c : Nat
  reg : Region
  ctx : Ctx

/-- The tile's own number within the core: 24 y + x. -/
def Site.t (st : Site) : Nat := 24 * st.y + st.x
def Site.key (st : Site) : Nat := tileKey st.k st.y st.x
/-- What the context holds at this tile. -/
def Site.cfg (st : Site) : TileCfg := Map.get {} st.ctx.tiles st.t
/-- IMM of the configuration word (Table 3.9). -/
def Site.imm (st : Site) : BitVec 16 := st.cfg.cfg.extractLsb' 16 16

/-- The original's content where a copy's tiles stand (02_execution_model.md R50). -/
def Ctx.movedTo (c : Ctx) (p : Copy) : Ctx :=
  let y (v : Nat) : Nat := v + p.y0 - p.homeY
  let x (v : Nat) : Nat := v + p.x0 - p.homeX
  { c with copyOf := some p
           chans := c.chans.map (fun h => if h.fromAg then h else { h with y := y h.y, x := x h.x })
           tiles := c.tiles.map (fun e => (24 * y (e.1 / 24) + x (e.1 % 24), e.2)) }

/-- The tile of the original that a tile of the context is a copy of. -/
def Ctx.home (c : Ctx) (y x : Nat) : Nat × Nat :=
  match c.copyOf with | some p => (y + p.homeY - p.y0, x + p.homeX - p.x0) | none => (y, x)

/-- The site of tile (y, x) with slot n, while its region's clock runs (10_faults_modes.md R227). A copy's site belongs to
the original: its region, slot and segments are the original's (R50, R239), and so is the region whose FLAGS its firings
raise (04_formats.md R104; DESIGN CHOICE; log 133). -/
def siteOf (s : State) (k y x n : Nat) : Option Site :=
  match s.regionAt k y x with
  | none => none
  | some j => match s.region k j with
    | none => none
    | some r =>
      let c := (s.tile (tileKey k y x)).ctx
      if r.stopped.isSome then none
      else match r.ctx c with
        | some x' =>
          if x'.frozen then none
          else match x'.copyOf with
            | none => some ⟨k, y, x, n, j, c, r, x'⟩
            | some p =>
              match s.region k p.region with
              | none => none
              | some r0 => if r0.stopped.isSome then none else match r0.ctx c with
                | some x0 => if x0.frozen then none else some ⟨k, y, x, n, p.region, c, r, x0.movedTo p⟩
                | none => none
        | none => none

/-- A memory tile: y + x odd (01_device.md R19). -/
def isMemTile (y x : Nat) : Bool := decide ((y + x) % 2 = 1)

def slotWord (st : Site) (n : Nat) : BitVec 32 := Map.get 0 st.cfg.ops n
def wordOf' (st : Site) : BitVec 32 := slotWord st st.n
def opOf (w : BitVec 32) : Nat := field w 31 25

/-- The tile runs in systolic mode: slot 0 is its only slot, and it sends W on to E within the rectangle (R81). -/
def isSystolic (st : Site) : Bool := !isMemTile st.y st.x && st.cfg.cfg.getLsbD 1

/-- The tile lies in the load's systolic rectangle, relative coordinates (dy, dx) and size. -/
def inRect (st : Site) (y x : Nat) : Bool :=
  match st.ctx.sys with
  | some (y0, x0, y1, x1) => decide (st.reg.y0 + y0 ≤ y ∧ y ≤ st.reg.y0 + y1 ∧ st.reg.x0 + x0 ≤ x ∧ x ≤ st.reg.x0 + x1)
  | none => false

/-- The next tile of this tile's array to the east lies within the rectangle. -/
def forwardsEast (st : Site) : Bool := inRect st st.y (st.x + 2)

/-- The mode of a memory tile's range: 0 tile store, 1 FIFO, 2 line buffer, 3 frames; 4 for an empty context (R72, R292). -/
def rangeMode (cfg : BitVec 32) : Nat := if field cfg 26 21 = 0 then 4 else field cfg 20 19

/-- A memory tile that runs in FIFO mode, and is no pass stage (R74, R80). -/
def isFifo (st : Site) : Bool := isMemTile st.y st.x && rangeMode st.cfg.cfg == 1 && !inRect st st.y st.x
def isLineBuffer (st : Site) : Bool := isMemTile st.y st.x && rangeMode st.cfg.cfg == 2 && !inRect st st.y st.x
def isFrames (st : Site) : Bool := isMemTile st.y st.x && rangeMode st.cfg.cfg == 3 && !inRect st st.y st.x

def opposite (d : Nat) : Nat := (d + 2) % 4

/-- The neighbour of a tile in direction d: 0 N, 1 E, 2 S, 3 W; none at the fabric's border. -/
def neighbour (y x d : Nat) : Option (Nat × Nat) :=
  match d with
  | 0 => if y = 0 then none else some (y - 1, x)
  | 1 => if 23 ≤ x then none else some (y, x + 1)
  | 2 => if 15 ≤ y then none else some (y + 1, x)
  | _ => if x = 0 then none else some (y, x - 1)

/-- The original's tile that this one is or copies, by 24 y + x. -/
def Site.homeT (st : Site) : Nat := 24 * (st.ctx.home st.y st.x).1 + (st.ctx.home st.y st.x).2

/-- The stream whose AG tile stands beyond direction d of a border tile (01_device.md Table 1.2). -/
def streamAt (y x d : Nat) : Option Nat := (List.range 32).find? (fun n => decide (agSite n = (y, x, d)))

/-- The AG tile of the original beyond direction d of a tile: all traffic of a copy passes through it (R50). -/
def Ctx.agBeyond (c : Ctx) (y x d : Nat) : Option Nat :=
  let h := c.home y x
  match neighbour h.1 h.2 d with | none => streamAt h.1 h.2 d | some _ => none

/-- The tile of the fabric beyond direction d. -/
def Ctx.tileBeyond (c : Ctx) (y x d : Nat) : Option (Nat × Nat) :=
  if (c.agBeyond y x d).isSome then none else neighbour y x d

/-! ### Links (R58, R60, R453) -/

/-- The channel record that leaves tile (y, x) in direction d. -/
def Ctx.chanOut (c : Ctx) (y x d : Nat) : Option Chan :=
  c.chans.find? (fun h => decide (h.y = y ∧ h.x = x ∧ h.dir = d) && !h.fromAg && !h.inn)

/-- A record of the context brings tokens into tile (y, x) from direction d: a channel of the neighbour, of an entry AG
tile, or the incoming half of a channel between regions. -/
def Ctx.chanIn (c : Ctx) (y x d : Nat) : Option Chan :=
  match c.agBeyond y x d with
  | some n => c.chans.find? (fun h => h.fromAg && decide (h.sid = n))
  | none =>
    match neighbour y x d with
    | some (y', x') =>
      c.chans.find? (fun h =>
        (decide (h.y = y' ∧ h.x = x' ∧ h.dir = opposite d) && !h.fromAg && !h.inn) ||
        (decide (h.y = y ∧ h.x = x ∧ h.dir = d) && h.xr && h.inn))
    | none => none

/-- A link with an elastic buffer: across a voltage and frequency cut, or between two regions (R60). -/
def elastic (s : State) (k y x y' x' : Nat) : Bool :=
  decide (s.regionAt k y x ≠ s.regionAt k y' x' ∨ vfNumber (s.core k) y x ≠ vfNumber (s.core k) y' x')

def inputOf (s : State) (key d : Nat) : List (Nat × Token) := Map.get [] (s.tile key).inp d
def setInput (s : State) (key d : Nat) (l : List (Nat × Token)) : State :=
  s.modTile key (fun t => { t with inp := Map.set [] t.inp d l })

/-- The range of the context a tile has switched to, and how it runs. -/
def rangeOf (s : State) (key c : Nat) : RangeSt := Map.get {} (s.tile key).ranges c
def modRange (s : State) (key c : Nat) (f : RangeSt → RangeSt) : State :=
  s.modTile key (fun t => { t with ranges := Map.modify {} t.ranges c f })

/-- The DEPTH of a FIFO tile, and its free entries (R74). -/
def fifoDepth (cfg : BitVec 32) : Nat := field cfg 18 10
def fifoFree (s : State) (st : Site) : Nat :=
  fifoDepth st.cfg.cfg - ((rangeOf s st.key st.c).fifo.length + (rangeOf s st.key st.c).out.length)

/-- The 560 bits of a token (R53, Table 3.1). -/
def Token.bits (t : Token) : Nat :=
  t.payload.toNat + 2 ^ 512 * t.valid.toNat + 2 ^ 528 * t.kind.toNat + 2 ^ 532 * t.slot.toNat + 2 ^ 536 * t.tag.toNat + 2 ^ 548 * t.frame.toNat

/-- A token stands in the bytes of its tile's range: 72 bytes, at place i (Table 3.12, 00_scope.md R2; log 108). -/
def tokenToBytes (s : State) (st : Site) (i : Nat) (t : Token) : State :=
  writeNat s (tileMem st.k st.y st.x (1024 * field st.cfg.cfg 31 27 + 72 * i)) 72 t.bits

/-- A FIFO tile takes a token that arrives from direction d (R74). -/
def fifoTake (s : State) (st : Site) (d : Nat) (t : Token) : State :=
  let i := (rangeOf s st.key st.c).nw
  modRange (tokenToBytes s st (i % fifoDepth st.cfg.cfg) t) st.key st.c (fun r => { r with fifo := r.fifo ++ [(d, t)], nw := i + 1 })

/-- The link at direction d joins two regions (R60, R453); where a copy stands for a border tile, an AG tile is beyond it. -/
def crossing (s : State) (k y x d : Nat) : Bool :=
  match neighbour y x d with
  | some (y', x') => (s.regionAt k y' x').isSome && decide (s.regionAt k y' x' ≠ s.regionAt k y x) &&
      (siteOf s k y x 0).all (fun st => (st.ctx.agBeyond y x d).isNone)
  | none => false

/-- The tokens that a slot of the tile may take from direction d, oldest first: those of the input FIFO, or in FIFO mode the
one released. Those of a link between regions stand in its elastic buffer until the context declares the incoming half
(R58, R74, R453). -/
def standing (s : State) (st : Site) (d : Nat) : List (Nat × Token) :=
  if isFifo st then (rangeOf s st.key st.c).out.filterMap (fun e => if e.1 = d then some (0, e.2) else none)
  else if crossing s st.k st.y st.x d && !st.ctx.chans.any (fun h => decide (h.y = st.y ∧ h.x = st.x ∧ h.dir = d) && h.xr && h.inn) then []
  else inputOf s st.key d

/-- The active contexts of two regions declare the two halves of the link from (y, x) in direction d (R453). -/
def halvesDeclared (s : State) (k y x d y' x' : Nat) : Bool :=
  match s.regionAt k y x, s.regionAt k y' x' with
  | some j, some j' =>
    (match s.region k j, s.region k j' with
     | some r, some r' =>
       (match (r.active.bind r.ctx : Option Ctx), (r'.active.bind r'.ctx : Option Ctx) with
        | some c, some c' =>
          (match c.chanOut y x d with | some h => h.xr | none => false) &&
          c'.chans.any (fun h => decide (h.y = y' ∧ h.x = x' ∧ h.dir = opposite d) && h.xr && h.inn)
        | _, _ => false)
     | _, _ => false)
  | _, _ => false

/-- The copy that holds segment n of a cloned load: 0 is the original (02_execution_model.md R50). -/
def copyOfSeg (c : Ctx) (n : Nat) : Nat := if n < c.splitFrom then 0 else (n - c.splitFrom) % (c.clones.length + 1)

/-- The number of the copy that a site belongs to. -/
def Site.copyNo (s : State) (st : Site) : Nat :=
  match st.ctx.copyOf with
  | none => 0
  | some _ => match s.regionAt st.k st.y st.x with
    | some j => st.ctx.clones.findIdx (fun i => decide (i = j)) + 1
    | none => 0

/-- The ORDMERGE at an exit stream takes tokens from this site now: it holds the segment that is due (R50). -/
def merging (s : State) (st : Site) (n : Nat) : Bool :=
  st.ctx.clones.isEmpty || decide (copyOfSeg st.ctx (Map.get 0 st.ctx.merges n) = st.copyNo s)

/-- The credits that a tile holds for direction d (R58, R60, R74, R453). Into a FIFO tile of its own region they are the free
entries, across a cut between voltage and frequency regions too: R60's elastic buffer adds none there (DESIGN CHOICE; log 132). -/
def credits (s : State) (k y x d : Nat) : Nat :=
  let here := siteOf s k y x 0
  let ag : Option Nat := match here with | some st => st.ctx.agBeyond y x d | none => streamAt y x d
  match ag, neighbour y x d with
  | some n, _ => if here.all (fun st => merging s st n) then 4 - (s.port (portKey k n)).inp.length else 0
  | none, none => 0
  | none, some (y', x') =>
    let used := (inputOf s (tileKey k y' x') (opposite d)).length
    if s.regionAt k y x = s.regionAt k y' x' then
      (match siteOf s k y' x' 0 with
       | none => 0
       | some st =>
         if isFifo st then fifoFree s st
         else (if elastic s k y x y' x' then 8 else 4) - used)
    else if halvesDeclared s k y x d y' x' then 8 - used else 0

/-- Puts a token into an input FIFO; a FIFO tile takes it into its range, unless it comes over a link between regions, in
whose elastic buffer it stands first (R58, R74, R453). -/
def deliver (s : State) (k y x d : Nat) (t : Token) : State :=
  let key := tileKey k y x
  let direct : State := s.modTile key (fun ti =>
    { ti with inp := Map.set [] ti.inp d (Map.get [] ti.inp d ++ [(ti.arrivals, t)]), arrivals := ti.arrivals + 1 })
  match siteOf s k y x 0 with
  | some st =>
    if isFifo st && !crossing s k y x d then fifoTake s st d t else direct
  | none => direct

/-- Segment number of an SOT or EOT (Table 3.3). -/
def Token.number (t : Token) : Nat := nfield t.payload.toNat 31 0

/-- A segment of the context in slot c of region j, changed by f. -/
def modCtx (s : State) (k j c : Nat) (f : Ctx → Ctx) : State :=
  match s.region k j with
  | none => s
  | some r => match r.ctx c with
    | none => s
    | some x => s.setRegion k j (some (r.setCtx c (some (f x))))

def modSeg (s : State) (k j c n : Nat) (f : Seg → Seg) : State :=
  modCtx s k j c (fun x => { x with segs := x.segs.map (fun g => if g.n = n then f g else g) })

/-- A path end of the load has consumed the EOT of segment n (R33). -/
def endReached (s : State) (k j c n e : Nat) : State :=
  modSeg s k j c n (fun g => if g.ended.contains e then g else { g with ended := g.ended ++ [e] })

/-- The ops with rates of their own: DENC, DDEC and what a line buffer emits (R75, 05_online_arithmetic.md R128, R129). -/
def ownRates (st : Site) : Bool := isLineBuffer st || opOf (wordOf' st) == 0x30 || opOf (wordOf' st) == 0x31

/-- The production of the slot on an output, and its consumption on an input: 1 where the channel declares no rate (R36). -/
def rateOut (st : Site) (d : Nat) : Nat :=
  match st.ctx.chanOut st.y st.x d with | some h => if h.rated ∧ (h.p = 0 ∨ !ownRates st) then h.p else 1 | none => 1
def rateIn (st : Site) (d : Nat) : Nat :=
  match st.ctx.chanIn st.y st.x d with
  | some h => if h.rated ∧ (h.p = 0 ∨ !ownRates st) then h.c else 1
  | none => 1

/-- A token has crossed a link of the region, or an access has completed (10_faults_modes.md R237). -/
def stirred (s : State) (k j : Nat) : State :=
  match s.region k j with
  | some r => s.setRegion k j (some { r with moved := s.tick, idle := 0 })
  | none => s

/-- The number of the link that leaves a tile in direction d, among the links whose failed flits State.resent counts: 0 to
5 are the mesh edges (10_faults_modes.md R236; log 131). The links from entry AG tiles follow those of the tiles. -/
def linkNo (key d : Nat) : Nat := 6 + 4 * key + d
def linkOfAg (key : Nat) : Nat := linkNo (tileKey 384 0 0) key

/-- The flit that goes over a link next has failed its last retransmission; it has gone. -/
def linkDown (s : State) (l : Nat) : Bool := decide (7 ≤ Map.get 0 s.resent l)
def linkSent (s : State) (l : Nat) : State := { s with resent := Map.set 0 s.resent l 0 }

/-- Puts a token on the link in direction d: to the neighbour's FIFO or to the AG tile. -/
def sendOne (s : State) (st : Site) (d : Nat) (t : Token) : State :=
  let s := linkSent (stirred s st.k st.j) (linkNo st.key d)
  match st.ctx.agBeyond st.y st.x d with
  | some n =>
    let s := s.modPort (portKey st.k n) (fun p => { p with inp := p.inp ++ [t] })
    -- past an EOT the ORDMERGE of a cloned load takes the next segment
    if t.kind = kEOT ∧ st.ctx.clones ≠ [] then
      modCtx s st.k st.j st.c (fun x => { x with merges := Map.set 0 x.merges n (t.number + 1) })
    else s
  | none =>
    match neighbour st.y st.x d with
    | some (y', x') =>
      let s := deliver s st.k y' x' (opposite d) t
      if t.kind = kEOT ∧ st.reg.holds y' x' = false then
        endReached s st.k st.j st.c t.number (10000 + 4 * st.homeT + d)
      else s
    | none => s

/-- Sends a firing's token in direction d. Where the output declares p = 0 no data token leaves, and where it declares p
above 1 so many leave: what the ones after the first hold no rule states (R36; log 109). -/
def sendFrom (s : State) (st : Site) (d : Nat) (t : Token) : State :=
  if t.isData = false then sendOne s st d t
  else match rateOut st d with
    | 0 => s
    | p + 1 => (List.range p).foldl (fun s i => sendOne s st d
        { t with payload := maskLanes t.valid (Config.rateLanes s.tick i) }) (sendOne s st d t)

/-- The directions of a destination field (Table 3.6). -/
def dirsOf (d : Nat) : List Nat :=
  if d < 4 then [d] else if d = 12 then [0, 2] else if d = 13 then [1, 3] else if d = 14 then [0, 1, 2, 3] else []

/-- The directions to which tokens of earlier firings have still to leave: nothing overtakes them (R65, R128). -/
def waitingDirs (s : State) (st : Site) : List Nat := (s.tile st.key).outbox.flatMap (fun e => dirsOf e.1)

/-- A destination can take a firing's m tokens now, or as many as its outputs declare (R36, R58). -/
def hasRoom (s : State) (st : Site) (d m : Nat) : Bool :=
  (dirsOf d).all (fun e => !(waitingDirs s st).contains e && decide (m * rateOut st e ≤ credits s st.k st.y st.x e))

/-- A firing's result: to each direction of the destination, into a register, or dropped (Table 3.6, R56, R428). -/
def emit (s : State) (st : Site) (d : Nat) (t : Token) : State :=
  if 4 ≤ d ∧ d ≤ 11 then
    (if t.kind = kNULL then s
     else s.modTile st.key (fun ti => { ti with a := Map.set 0 ti.a (d - 4) (maskLanes t.valid t.payload) }))
  else (dirsOf d).foldl (fun s e => sendFrom s st e t) s

/-! ### State of a slot -/

def slotKey (c n : Nat) : Nat := 16 * c + n
def slotSt (s : State) (st : Site) : SlotSt := Map.get {} (s.tile st.key).slots (slotKey st.c st.n)
def setSlotSt (s : State) (st : Site) (v : SlotSt) : State :=
  s.modTile st.key (fun t => { t with slots := Map.set {} t.slots (slotKey st.c st.n) v })

/-! ### Faults charged to a segment (10_faults_modes.md R220, R223 to R227) -/

/-- The programs that the streams of region j run, with their stream IDs. -/
def regionPorts (s : State) (k j : Nat) : List Nat :=
  (List.range 32).filter (fun n => decide (s.regionOfStream k n = some j) && (s.port (portKey k n)).isOpen)

/-- A program of the context in slot c of region j: bound to it, or unbound while it is the active context (R30, R394). -/
def servesCtx (s : State) (k j c : Nat) (p : Port) : Bool :=
  decide (p.bind = c) || (decide (p.bind = 7) && (match s.region k j with | some r => decide (r.active = some c) | none => false))

/-- What a program noted at the SOT of segment n: the segment, its own segment count, and the ORDERs absorbed. -/
def markOf (p : Prog) (n : Nat) : Option (Nat × Nat × Nat) := p.marks.find? (fun m => decide (m.1 = n))

/-! ### The loops of an affine block (13_encodings.md Table 13.7, 02_execution_model.md R31, 10_faults_modes.md R234) -/

def blkBound (b : BitVec 512) (l : Nat) : Nat := blk b (8 + 8 * l) 4
def blkStride (b : BitVec 512) (l : Nat) : Int := sextN (blk b (12 + 8 * l) 4) 32
/-- SEGLVL. -/
def blkSeg (b : BitVec 512) : Nat := blk b 40 1 / 4 % 4

/-- Whether some level in the list has bound 0; the product of the bounds of the levels. -/
def zeroIn (b : BitVec 512) (ls : List Nat) : Bool := ls.any (fun l => blkBound b l == 0)
def boundsOf (b : BitVec 512) (ls : List Nat) : Nat := ls.foldl (fun n l => n * blkBound b l) 1

/-- Levels inside the segment level, and outside it. -/
def innerLevels (b : BitVec 512) : List Nat := (List.range 4).filter (fun l => decide (l < blkSeg b))
def outerLevels (b : BitVec 512) : List Nat := (List.range 4).filter (fun l => decide (blkSeg b < l))

/-- Elements of each segment, and segments of the program (R31, R234). -/
def affineElems (b : BitVec 512) : Nat :=
  if zeroIn b (List.range 4) then 0 else boundsOf b (innerLevels b)
def affineSegs (b : BitVec 512) : Nat :=
  if zeroIn b (outerLevels b) then 1 else boundsOf b (outerLevels b) * Nat.max 1 (blkBound b (blkSeg b))

/-- The counters of element i of the program's segment m. -/
def counters (b : BitVec 512) (m i : Nat) : List Nat :=
  ((List.range 4).foldl (fun (acc : Nat × Nat × List Nat) l =>
    let n := Nat.max 1 (blkBound b l)
    if l < blkSeg b then (acc.1 / n, acc.2.1, acc.2.2 ++ [acc.1 % n]) else (acc.1, acc.2.1 / n, acc.2.2 ++ [acc.2.1 % n]))
    (i, m, [])).2.2

/-- The address that the loops visit, formed exactly (R234). -/
def affineAddr (b : BitVec 512) (cs : List Nat) : Int :=
  (List.range 4).foldl (fun a l => a + blkStride b l * (cs.getD l 0 : Nat)) (blk b 0 8 : Nat)

/-- The command with an identity, or one that has gone. -/
def cmdOf (s : State) (k id : Nat) : Option QCmd := findCmd s k id

/-- The load's entry stream of lowest ID, which a fault record names unless it comes from a stream's own access (R223). -/
def firstEntry (s : State) (k j c : Nat) : Option Nat :=
  (regionPorts s k j).find? (fun n => let p := s.port (portKey k n); p.entry && servesCtx s k j c p)

/-- The loop counters of a program at the first element of its segment m (R199, R223, 18_ref_s.md R405). -/
def segCounters (g : Prog) (m : Nat) : List Nat :=
  match g.kind with
  | .load | .push | .store => counters g.block m 0
  | .kvadmit => [0, if blk g.block 10 1 / 8 % 4 = 1 then m else 0, 0, 0]
  | .gather | .scatter => [m * blk g.block 28 4, 0, 0, 0]

/-- The program of a port that a segment belongs to: the one that noted it at its SOT, finished or not. -/
def Port.progOf (p : Port) (seg : Nat) : Option Prog :=
  match (p.past ++ p.prog.toList ++ p.redo).find? (fun g => (markOf g seg).isSome) with
  | some g => some g
  | none => p.prog

/-- The command of a program of the load that the thread's PRECISE ISSUE waits for (10_faults_modes.md R231). -/
def awaitedCmd (s : State) (k j c : Nat) : Option QCmd :=
  ((s.thread k).awaits.bind (findCmd s k)).bind (fun q =>
    let f := cmdFields q.word
    if q.precise ∧ namesStream (cmdOpcode q.word) ∧ s.regionOfStream k f.sid.toNat = some j ∧ (f.bind.toNat = c ∨ f.bind = 7)
    then some q else none)

/-- The command that a fault of a segment is charged to: the program of its stream, or the one that a PRECISE ISSUE waits
for, to whose segments it belongs as well. -/
def segCmd (s : State) (k j c : Nat) (f : SegFault) : Option QCmd :=
  let n := f.stream.getD ((firstEntry s k j c).getD 0)
  match awaitedCmd s k j c with
  | some q => some q
  | none => (((s.port (portKey k n)).progOf f.seg).map (·.cmdId)).bind (cmdOf s k)

def segRecord (s : State) (k j c : Nat) (f : SegFault) (final : Bool) (save : Nat) : FRec :=
  let n := f.stream.getD ((firstEntry s k j c).getD 0)
  let prog := (s.port (portKey k n)).progOf f.seg
  let asid := match s.region k j with | some r => (match r.ctx c with | some x => x.asid | none => 0) | none => 0
  let iter := match f.stream, prog with
    | none, some g => (match markOf g f.seg with | some m => segCounters g m.2.1 | none => [0, 0, 0, 0])
    | _, _ => f.iter
  { core := k, asid, code := f.code, final, region := j, queue := 0, stream := n, va := BitVec.ofNat 64 f.va,
    ipc := match awaitedCmd s k j c, prog with | some q, _ => q.ipc | none, some g => g.ipc | none, none => 0, iter, seg := f.seg, save }

/-- Delivers a fault of a segment to the thread, or to its waiting PRECISE ISSUE; FINAL says that the load has stopped for
good (10_faults_modes.md Table 10.6). -/
def deliverSeg (s : State) (k j c : Nat) (f : SegFault) (final : Bool) (save : Nat) : State :=
  let r := segRecord s k j c f final save
  match segCmd s k j c f with
  | some q => deliverFault s k q r
  | none => pendFault s r

/-- Every token of segment n or later of context c leaves a tile, and what returns to its state at n's SOT does (R225,
16_ref_d_l.md R356). A frame tile passes an SOT only while it has no operand to send. -/
def purgeTile (c n : Nat) (t : Tile) : Tile :=
  let snapOf (m : Nat) : Option Snap := (t.snaps.find? (fun e => decide (e.1 = 4 * m + c))).map (·.2)
  let snap := snapOf n
  let keep (x : Token) : Bool := decide (x.seg < n)
  let t := { t with
    outbox := t.outbox.filter (fun e => keep e.2.2)
    inp := (t.inp.map (fun (d, l) => (d, l.filter (fun e => keep e.2)))).filter (fun e => e.2 != [])
    kill := (t.kill.map (fun (d, l) => (d, l.filter keep))).filter (fun e => e.2 != [])
    fch := t.fch.filter (fun e => keep e.tok)
    ranges := Map.modify {} t.ranges c (fun r => { r with
      fifo := r.fifo.filter (fun e => keep e.2), out := r.out.filter (fun e => keep e.2)
      nw := r.nw - (r.fifo.countP (fun e => !keep e.2) + r.out.countP (fun e => !keep e.2)), lines := r.lines.filter keep })
    snaps := t.snaps.filter (fun e => decide (¬ (e.1 % 4 = c ∧ n ≤ e.1 / 4))) }
  match snap with
  | none => t
  | some v => { t with
      slots := v.slots.foldl (fun m e => match e.2 with | some q => Map.set {} m e.1 q | none => m) t.slots
      ranges := Map.modify {} t.ranges c (fun r =>
        let r := match v.writer with | some (a, b, m) => { r with nw := a, wp := b, fills := m } | none => r
        let r := match v.reader with | some (a, b, m) => { r with ne := a, rp := b, empties := m } | none => r
        match v.frames with | some (m, _) => { r with frames := m, sending := none } | none => r)
      sr := match v.sr with | some q => Map.set 0 t.sr c q | none => t.sr
      lutff := v.lutff.getD t.lutff }

/-- The tags of a tile's frames at the SOT of segment n, of earlier segments; none where the SOT has not passed it. -/
def tagsAt (c n : Nat) (t : Tile) : List (Nat × Nat) :=
  match (t.snaps.find? (fun e => decide (e.1 = 4 * n + c))).bind (·.2.frames) with
  | some v => v.2.filter (fun e => decide (e.2 < n))
  | none => []

/-- A program as it stood at its segment count m, outside a segment. -/
def Prog.rewound (g : Prog) (m n : Nat) : Prog :=
  { g with segsDone := m, pos := 0, sub := 0, inSeg := false, toks := 0, sbDue := false, fetched := [], side := [], parts := []
           marks := g.marks.filter (fun e => decide (e.1 < n)) }

/-- A port forgets segment n and later ones: tokens, held lines, pending accesses; its programs return to n's SOT (R225). -/
def purgePort (n : Nat) (p : Port) : Port :=
  let p := { p with
    inp := p.inp.filter (fun t => decide (t.seg < n))
    lines := p.lines.filter (fun l => decide (l.seg < n))
    hold := p.hold.filter (fun h => match h with | .line l => decide (l.seg < n) | .order _ _ g => decide (g < n) | .scatter _ _ g => decide (g < n)) }
  let all := p.past ++ p.prog.toList ++ p.redo
  match all.findIdx? (fun g => (markOf g n).isSome) with
  | none => p
  | some i =>
    let g := all.getD i { kind := .load, cmdId := 0, asid := 0, bind := 0, ipc := 0, block := 0 }
    let m := (markOf g n).getD (n, 0, 0)
    { p with segNo := n, orders := m.2.2, past := all.take i, prog := some (g.rewound m.2.1 n)
             redo := (all.drop (i + 1)).map (fun h => h.rewound 0 n) }

/-- The tiles of a region. -/
def Region.sites (r : Region) : List (Nat × Nat) :=
  (List.range (r.y1 + 1 - r.y0)).flatMap (fun a => (List.range (r.x1 + 1 - r.x0)).map (fun b => (r.y0 + a, r.x0 + b)))

/-- The tiles of a load, those of its copies included (R50). -/
def loadSites (s : State) (k j c : Nat) : List (Nat × Nat) :=
  match s.region k j with
  | none => []
  | some r => r.sites ++ (match r.ctx c with
    | some x => x.clones.flatMap (fun i => match s.region k i with | some q => q.sites | none => [])
    | none => [])

/-- Discards segment n and every later one of the load in slot c of region j (R225). -/
def discard (s : State) (k j c n : Nat) : State :=
  match s.region k j with
  | none => s
  | some r =>
    let sites := (loadSites s k j c).filter (fun (y, x) => decide ((s.tile (tileKey k y x)).ctx = c))
    -- a tag that a segment now discarded had released is in use again (16_ref_d_l.md R356)
    let back := sites.flatMap (fun (y, x) => tagsAt c n (s.tile (tileKey k y x)))
    let s := sites.foldl (fun s (y, x) => s.modTile (tileKey k y x) (purgeTile c n)) s
    let ports := (List.range 32).filter (fun i => decide (s.regionOfStream k i = some j) &&
      (let p := s.port (portKey k i)
       if p.isOpen then servesCtx s k j c p || (!p.entry && decide (r.active = some c)) else decide (r.active = some c)))
    let s := { s with barriers := s.barriers.filter (fun b =>
      !(decide (b.core = k ∧ b.region = j ∧ n ≤ b.seg) && b.cmdId.isNone)) }
    let s := ports.foldl (fun s i => s.modPort (portKey k i) (purgePort n)) s
    let s := { s with egress := s.egress.filter (fun q =>
      !(decide (q.core = k ∧ n ≤ q.seg) && q.outcome.isNone && (match q.sid with | some i => ports.contains i | none => false))) }
    modCtx s k j c (fun x => { x with
      segs := (x.segs.filter (fun g => decide (g.n < n)))
      merges := x.merges.foldl (fun m e => Map.set 0 m e.1 (Nat.min e.2 n)) []
      tags := (let l := x.tags.filter (fun e => decide (e.2 < n)); l ++ back.filter (fun e => !l.any (fun g => g.1 == e.1))) })

/-- A final fault stops a load: its bound commands retire with the code, its streams close, and unbound programs pause
where the segment began (R226). -/
def stopLoad (s : State) (k j c : Nat) (code : Code) : State :=
  let s := modCtx s k j c (fun x => { x with final := some code })
  let s := modCmds s k (fun q =>
    decide ((cmdFields q.word).bind.toNat = c ∧ (q.phase = .queued ∨ q.phase = .ready)) &&
      (boundCtxs s k q).any (fun e => decide (e.1 = j)))
    (fun q => { q with phase := .done code })
  (regionPorts s k j).foldl (fun s i =>
    s.modPort (portKey k i) (fun p => if p.bind = c then { p with closing := some code } else p)) s

/-- A fault charged to a segment. Under FREEZE the region's clock stops; one that comes while a CSAVE stops it sets PENDING
and is not delivered (15_ref_a_c.md R342). Under REPLAY the segment and every later one are
discarded; DEEP waits for its page, ECC, HANDLER and LINK re-run at most three times, every other fault is final (R225 to R227). -/
def segFault (s : State) (k j c : Nat) (f : SegFault) : State :=
  match s.region k j with
  | none => s
  | some r => match r.ctx c with
    | none => s
    | some x =>
      if x.frozen then s
      else if x.mode.getLsbD 0 then
        let x := { x with pending := f.stream.isSome, firstBy := f.stream }
        match r.stopped with
        | some (_, some _) => s
        | some (_, none) => if f.stream.isSome then s.setRegion k j (some (r.setCtx c (some x))) else s
        | none => s.setRegion k j (some ({ r with stopped := some (c, some f) }.setCtx c (some x)))
      else
        let soft := decide (f.code = fcECC ∨ f.code = fcHANDLER ∨ f.code = fcLINK)
        let n := Map.get 0 x.reruns f.seg
        let again := decide (f.code = fcDEEP) || (soft && decide (n < 3))
        if again then
          let asid := x.asid
          let s := putRecord s (segRecord s k j c f false 0) .nothing
          let s := discard s k j c f.seg
          modCtx s k j c (fun x => { x with
            reruns := if soft then Map.set 0 x.reruns f.seg (n + 1) else x.reruns
            rerun := some { seg := f.seg, fault := f, waits := if f.code = fcDEEP then some (asid, f.va / 65536 * 65536) else none } })
        else
          let s := deliverSeg s k j c f true 0
          stopLoad (discard s k j c f.seg) k j c f.code

/-- A fault that a tile raises against a segment. -/
def tileFault (s : State) (st : Site) (code : Code) (seg : Nat) : State := segFault s st.k st.j st.c { code, seg }

/-- A link of the directions has failed for what would cross it now: LINK is charged to its segment (10_faults_modes.md
R236). -/
def linkFault (s : State) (st : Site) (dirs : List Nat) (seg : Nat) : Option State :=
  (dirs.find? (fun d => linkDown s (linkNo st.key d))).map (fun d => tileFault (linkSent s (linkNo st.key d)) st fcLINK seg)

/-! ### Operands -/

/-- How IMM is read: 0 FP32, 1 as it is, 2 sign-extended to the lane, 3 sign-extended over two lanes (R66, 19_ref_t_z.md R427). -/
def immLanes (how : Nat) (imm : BitVec 16) : Lanes :=
  match how with
  | 0 => ofLanes (fun _ => imm.zeroExtend 32 <<< 16)
  | 1 => ofLanes (fun _ => imm.zeroExtend 32)
  | 2 => ofLanes (fun _ => imm.signExtend 32)
  | _ => ofLanes (fun i => if i % 2 = 0 then imm.signExtend 32 else (if imm.msb then 0xFFFFFFFF else 0))

/-- What a slot reads from an accumulator: each lane after some of the group additions that firings may still be making
(R69, log 110). -/
def seenAcc (s : State) (key acc : Nat) : Lanes :=
  let t := s.tile key
  let now := Map.get 0 t.m acc
  match t.partials.filter (fun e => decide (e.acc = acc)) with
  | [] => now
  | l => ofLanes (fun i => lane (match l[Config.groupsSeen s.tick i]? with | some e => e.value | none => now) i)

/-- An accumulator takes the value that a firing gives it; the firing adds its groups one after the other, so that it held
each of the values `steps` before, the first of them its old one (R69). -/
def addAcc (s : State) (key acc : Nat) (steps : List Lanes) (v : Lanes) : State :=
  s.modTile key (fun t => { t with m := Map.set 0 t.m acc v, partials := t.partials ++ steps.map (fun x => { acc, age := 0, value := x }) })

/-- A firing of the tile: what accumulated six firings ago is complete (Table 3.10: a latency of 6 cycles, and one firing a
cycle at most). -/
def aged (s : State) (key : Nat) : State :=
  if (s.tile key).partials = [] then s
  else s.modTile key (fun t => { t with partials := (t.partials.filter (fun e => decide (e.age < 4))).map (fun e => { e with age := e.age + 1 }) })

/-- A source that is no FIFO and no frame: a register, IMM or an accumulator; every lane is valid (R428). -/
def localOperand (s : State) (st : Site) (how : Nat) (acc : Nat) (v : BitVec 4) : Token :=
  let t := s.tile st.key
  let pay : Lanes :=
    if v.toNat < 12 then Map.get 0 t.a (v.toNat - 4) else if v = 13 then immLanes how st.imm else seenAcc s st.key acc
  { kind := kWORD, valid := 0xFFFF, payload := pay }

/-- A token is for the slot: it names it, or the tile runs in systolic mode, which executes slot 0 only (R38, R81). -/
def namesSlot (st : Site) (t : Token) : Bool := isSystolic st || decide (t.slot.toNat = st.n)

/-- The oldest token of an input, if it is for this slot (R38). -/
def headFor (s : State) (st : Site) (d : Nat) : Option (Nat × Token) :=
  match standing s st d with
  | (n, t) :: _ => if namesSlot st t then some (n, t) else none
  | [] => none

/-- The first n tokens of an input, if there are so many, all of them data tokens for this slot (R36). -/
def dataFor (s : State) (st : Site) (d n : Nat) : Option (List Token) :=
  let l := ((standing s st d).take n).map (·.2)
  if l.length = n ∧ l.all (fun t => namesSlot st t && !t.isControl) then some l else none

def popInput (s : State) (st : Site) (d : Nat) : State :=
  if isFifo st then modRange s st.key st.c (fun r => { r with out := [] })
  else setInput s st.key d ((inputOf s st.key d).drop 1)

/-- The input direction whose head came first among those that name this slot with a data token. -/
def firstArrived (s : State) (st : Site) (ok : Token → Bool) : Option Nat :=
  ((List.range 4).filterMap (fun d => match headFor s st d with
    | some (n, t) => if ok t then some (n, d) else none
    | none => none)).foldl (fun (acc : Option (Nat × Nat)) e =>
      match acc with | some a => if e.1 < a.1 then some e else acc | none => some e) none |>.map (·.2)

/-- The frame operands of a node that has them all: FCNT of one frame, in order (R77). -/
def frameOperands (s : State) (st : Site) (cnt : Nat) : Option (List Token) :=
  match (s.tile st.key).fch.find? (fun e => decide (e.node = st.n)) with
  | none => none
  | some e =>
    let l := (s.tile st.key).fch.filter (fun g => decide (g.node = st.n ∧ g.dir = e.dir ∧ g.tok.tag = e.tok.tag))
    if cnt ≤ l.length then some ((l.take cnt).map (·.tok)) else none

/-- Removes the first cnt operands of the invocation of this node that stands first. -/
def dropFrame (s : State) (st : Site) (tag : BitVec 12) (cnt : Nat) : State :=
  s.modTile st.key (fun t => { t with fch := (t.fch.foldl (fun (acc : Nat × List FrameOp) g =>
    if acc.1 < cnt ∧ g.node = st.n ∧ g.tok.tag = tag then (acc.1 + 1, acc.2) else (acc.1, acc.2 ++ [g])) (0, [])).2 })

/-- What a slot takes when it fires: the state without the tokens taken, the tokens taken from FIFOs and frames, its
operands in the order of its sources, and whether a trigger token was taken. -/
structure Taken where
  s : State
  toks : List Token
  opnds : List Token
  trigger : Bool := false

/-- The token that is the operand, of those that one firing consumes from an input: where they are several no rule says
which (R36; log 109). -/
def operandOf (s : State) (l : List Token) : Token :=
  if l.length ≤ 1 then l.headD { kind := kWORD } else l.getD (Config.rateChoice s.tick % l.length) {}

/-- Gathers the operands of the used sources: as many data tokens from each FIFO named as the slot consumes there, the frame
operands, registers, IMM and accumulators; a slot with no FIFO and no frame source takes a trigger token (R36, R38, R63,
R77, R347). -/
def gather (s : State) (st : Site) (srcs : List (BitVec 4)) (how acc : Nat) : Option Taken :=
  let dirs := ((srcs.filter (fun v => decide (v.toNat < 4))).map (·.toNat)).dedup
  let cnt := (srcs.filter (fun v => decide (v = 12))).length
  let heads := dirs.map (fun d => (d, dataFor s st d (rateIn st d)))
  let frames := if cnt = 0 then some [] else frameOperands s st cnt
  match frames with
  | none => none
  | some fr =>
    if heads.any (fun h => h.2.isNone) then none else
    let taken := heads.flatMap (fun h => h.2.getD [])
    let s1 := dirs.foldl (fun s d => (List.range (rateIn st d)).foldl (fun s _ => popInput s st d) s) s
    let s2 := match fr with | [] => s1 | t :: _ => dropFrame s1 st t.tag cnt
    let opnds := (srcs.foldl (fun (a : Nat × List Token) v =>
      if v.toNat < 4 then (a.1, a.2 ++ [operandOf s (((heads.find? (fun h => decide (h.1 = v.toNat))).bind (·.2)).getD [])])
      else if v = 12 then (a.1 + 1, a.2 ++ [fr.getD a.1 {}])
      else (a.1, a.2 ++ [localOperand s st how acc v])) (0, [])).2
    if dirs.isEmpty ∧ cnt = 0 then
      match firstArrived s st (fun t => !t.isControl) with
      | none => none
      | some d =>
        let t := ((headFor s st d).map (·.2)).getD {}
        some ⟨popInput s st d, [t], opnds, true⟩
    else some ⟨s2, taken ++ fr, opnds, false⟩

/-! ### Firing -/

/-- What an op does with the operands of a firing: a fault against the segment, or a state and tokens for destinations. -/
abbrev Fired := Except Code (State × List (Nat × Token))

/-- How an op takes its inputs. -/
structure Takes where
  srcs : List (BitVec 4)
  how : Nat := 0
  acc : Nat := 0
  /-- Destinations, with the room each needs. -/
  dests : List (Nat × Nat)
  /-- The next slot of the slot word. -/
  next : BitVec 4
  /-- The op has a behaviour of its own for NULL, and passes DIGIT tokens (R56, R57). -/
  nullOk : Bool := false
  digitOk : Bool := false

/-- The instruction runs at a tile; any other agent refuses it. A tile whose region's clock stands, or that lies in no
active context, does nothing. -/
def onTile (s : State) (f : Site → Res) : Res :=
  match s.self with
  | .tile k y x n => (match siteOf s k y x n with | some st => f st | none => .next s)
  | _ => .refused .wrongAgent

/-- The number of the segment of the tokens taken. -/
def segOf (l : List Token) : Nat := l.foldl (fun m t => Nat.max m t.seg) 0

/-- The firing of a slot (R36 to R38, R54, R56, R57): not eligible, nothing happens; tokens of kinds 10 to 15 raise TOKEN;
a NULL is passed on in place of a result; otherwise the op acts, and its results leave with the segment's number. A link
that fails for one of them charges LINK (10_faults_modes.md R236). -/
def fireAt (s : State) (st : Site) (t : Takes) (act : Taken → Fired) : Res :=
  if t.dests.any (fun d => !hasRoom s st d.1 d.2) then .next s else
  match gather s st t.srcs t.how t.acc with
  | none => .next s
  | some k =>
    let seg := segOf k.toks
    let k := { k with s := aged k.s st.key }
    let send (s' : State) (outs : List (Nat × Token)) : State :=
      match linkFault s st (outs.flatMap (fun o => dirsOf o.1)) seg with
      | some s => s
      | none => outs.foldl (fun s o => emit s st o.1 { o.2 with seg }) s'
    if k.toks.any (fun x => !x.isData) then .next (tileFault s st fcTOKEN seg)
    else if !t.digitOk && !k.trigger && k.toks.any (fun x => x.kind == kDIGIT) then .next (tileFault s st fcTOKEN seg)
    else if !t.nullOk && k.toks.any (fun x => x.kind == kNULL) then
      .next (send k.s (t.dests.map (fun d => (d.1, { kind := kNULL, slot := t.next, tag := Config.resultTag s.tick }))))
    else match act k with
      | .error c => .next (tileFault s st c seg)
      | .ok (s', outs) => .next (send s' outs)

/-- A new result token: no frame offset, the next slot of the slot word, a tag that no rule states (R355). -/
def resultTok (s : State) (f : Slot) (valid : BitVec 16) (pay : Lanes) : Token :=
  { kind := kWORD, slot := f.n, tag := Config.resultTag s.tick, valid, payload := maskLanes valid pay }

end Sys2Proof.Machine
end

