-- ==== Sys2Proof/Machine/Engine.lean ====
section
/-!
DEFINITION. Accesses of engines, one line a turn: the hoist engines, the configuration loader and the AG tiles through the
core egress, the base-die engines by probes (06_memory.md R142, R144 to R146, 07_consistency.md R149, 14_system.md R301;
log 16, log 21).
-/
namespace Sys2Proof.Machine

open Sys2Proof

/-- An engine: its core, the master ID it presents, its translation cache, its originator code (08_assayers.md Table 8.4),
and, for a base-die engine, the stack whose access table it consults first; such an engine probes and allocates nothing. -/
structure Eng where
  core : Nat
  master : Nat
  cache : Nat
  okind : Nat
  base : Option Nat := none
  /-- Its commands cannot name the scratch window (06_memory.md R134). -/
  noWindow : Bool := false

def streamEng (k : Nat) : Eng := ⟨k, coreMaster k, cacheCore k, 1, none, false⟩
def hoistEng (k : Nat) : Eng := ⟨k, coreMaster k, cacheCore k, 2, none, false⟩
def loaderEng (k : Nat) : Eng := ⟨k, coreMaster k, cacheCore k, 3, none, true⟩
/-- An indirect stream engine of stack j, and a sluice engine, at work for core k. -/
def baseEng (k j : Nat) : Eng := ⟨k, 776 + j, cacheBase j, 1, some j, false⟩
def sluiceEng (k j : Nat) : Eng := { baseEng k j with noWindow := true }

/-- What an engine's access comes to. -/
inductive Got (α : Type) where
  | ok (s : State) (x : α)
  | wait (s : State)
  | fault (s : State) (code : Code) (va : Nat)

/-- Translation for an engine, or the scratch window of its core's cluster, which only the commands of streams and of the
hoist engines may name (06_memory.md R134; log 40). -/
def engLocate (s : State) (e : Eng) (asid : BitVec 16) (va : Nat) (kd : Kind) : State × Except Code (Nat × Bool) :=
  if e.noWindow && inWindow va then (s, .error fcACCESS)
  else if e.base.isNone || inWindow va then locate s e.core asid va kd true
  else match translate s e.cache asid va kd true with
    | (s, .bad c) => (s, .error c)
    | (s, .ok pa seam) =>
      (match target pa with
       | .scratch _ _ => (s, .error fcACCESS)
       | _ => (s, .ok (pa, seam)))

/-- Before an engine's translation of an address: it may wait, and its walker reads the PTEs (10_faults_modes.md R215,
07_consistency.md R166, R169). -/
def engWalk (s : State) (e : Eng) (asid : BitVec 16) (va : Nat) : Acc :=
  if inWindow va then .ready s 0 else walkFor s e.cache asid va

/-- A probe of a base-die engine: the issuing master's entry in the engine's own table, the target's check of master
776 + j, and a wait while a handler holds the line; nothing is allocated (R144, 14_system.md R301). -/
def probeReach (s : State) (e : Eng) (j pa n : Nat) (kd : Kind) : Acc :=
  match placeOf s pa with
  | .error c => .fault s c
  | .ok p =>
    if permitted s (tgtBase j) (coreMaster e.core) pa n kd = false then
      .fault (deny s (tgtBase j) (coreMaster e.core) pa kd.denial) fcACCESS
    else match targetCheck s e.master pa n kd with
      | (s, some c) => .fault s c
      | (s, none) =>
        let held := match target pa with | .slice i => lineHeld s i (pa / 128) | _ => false
        if held then .wait s
        else
        match crossMesh s e.master p.home pa with
        | (s, true) => .fault s fcLINK
        | (s, false) =>
        if homeHost ≤ p.home ∧ Config.remoteAnswer s.tick = 1 then .fault s fcLINK
        else if homeHost < p.home ∧ Config.remoteAnswer s.tick = 2 then .fault s fcACCESS
        else if kd ≠ Kind.write ∧ poisoned s p.key n then .fault s fcECC
        else .ready s p.key

/-- One access within a line: its key in memory. -/
def engReach (s : State) (e : Eng) (asid : BitVec 16) (va n : Nat) (kd : Kind) : Got Nat :=
  match engWalk s e asid va with
  | .wait s => .wait s
  | .fault s c => .fault s c va
  | .ready s _ =>
  match engLocate s e asid va kd with
  | (s, .error c) => .fault s c va
  | (s, .ok (pa, _)) =>
    match placeOf s pa with
    | .error c => .fault s c va
    | .ok p =>
      match (match e.base with
        | some j => probeReach s e j pa n kd
        | none =>
          if behind s e.core p.home then .wait s
          else reach s pa n kd { okind := e.okind, master := e.master, asid, va,
                                 full := (kd == Kind.write) && n == 128 }) with
      | .ready s key => .ok s key
      | .wait s => .wait s
      | .fault s c => .fault s c va

/-- The bytes of one access: a 128-byte line of a slice, a 64-byte chunk of a memory tile (R135, 07_consistency.md R149). -/
def unitOf (va : Nat) : Nat := if inWindow va then 64 else 128

/-- The pieces of a byte range that lie within one access each, in ascending order; `fuel` bounds their number. -/
def pieces : Nat → Nat → Nat → List (Nat × Nat)
  | 0, _, _ => []
  | fuel + 1, va, n =>
    if n = 0 then [] else
    let m := Nat.min n (unitOf va - va % unitOf va)
    (va, m) :: pieces fuel (va + m) (n - m)

def linesOf (va n : Nat) : List (Nat × Nat) := pieces (n / 64 + 2) va n

/-! ### A command's reads and writes, one line a turn in no defined order (07_consistency.md R149; log 16) -/

/-- The command changed by f, in whatever queue it stands. -/
def modCmd (s : State) (k id : Nat) (f : QCmd → QCmd) : State := modCmds s k (fun c => decide (c.id = id)) f

/-- The pieces of some ranges, numbered. -/
def numbered (ranges : List (Nat × Nat)) : List ((Nat × Nat) × Nat) := (ranges.flatMap (fun r => linesOf r.1 r.2)).zipIdx

/-- What the command has read of its i-th read: each piece's bytes by its number. -/
def QCmd.piece (c : QCmd) (i m : Nat) : Option (List Byte) :=
  (c.parts.find? (fun x => decide (x.1 = i ∧ x.2.1 = m))).map (·.2.2)

/-- The i-th read of a command, over some ranges: complete, its bytes; else one more piece of it is read and kept with the
command, so that nothing is read twice (13_encodings.md R286); with `inOrder`, the pieces are read in ascending order. -/
def readPart (s : State) (k : Nat) (c : QCmd) (e : Eng) (i : Nat) (ranges : List (Nat × Nat)) (inOrder : Bool := false) : Got (List Byte) :=
  let left := (numbered ranges).filter (fun p => (c.piece i p.2).isNone)
  match left[if inOrder then 0 else Config.pieceOrder s.tick % left.length]? with
  | none => .ok s ((numbered ranges).flatMap (fun p => (c.piece i p.2).getD []))
  | some ((va, n), m) =>
    match engReach s e c.asid va n .read with
    | .ok s key => .wait (modCmd s k c.id (fun c => { c with parts := c.parts ++ [(i, m, readMem s key n)] }))
    | .wait s => .wait s
    | .fault s code va => .fault s code va

/-- The i-th write of a command, over some ranges: complete, or one more piece of it is written. -/
def writePart (s : State) (k : Nat) (c : QCmd) (e : Eng) (i : Nat) (ranges : List (Nat × Nat)) (bytes : List Byte) : Got Unit :=
  let left := (numbered ranges).filter (fun p => !c.puts.contains (i, p.2))
  match left[Config.pieceOrder s.tick % left.length]? with
  | none => .ok s ()
  | some ((va, n), m) =>
    let off := (((numbered ranges).take m).map (fun p => p.1.2)).sum
    match engReach s e c.asid va n .write with
    | .ok s key =>
      .wait (modCmd (perform s key (((bytes.drop off).take n).map some)) k c.id (fun c => { c with puts := c.puts ++ [(i, m)] }))
    | .wait s => .wait s
    | .fault s code va => .fault s code va

/-! ### Accesses of an agent that acts in one turn -/

/-- Reads pieces in order. -/
def engReadAll (e : Eng) (asid : BitVec 16) : List (Nat × Nat) → State → List Byte → Got (List Byte)
  | [], s, acc => .ok s acc
  | (va, n) :: rest, s, acc =>
    match engReach s e asid va n .read with
    | .ok s key => engReadAll e asid rest s (acc ++ readMem s key n)
    | .wait s => .wait s
    | .fault s c va => .fault s c va

def engRead (s : State) (e : Eng) (asid : BitVec 16) (va n : Nat) : Got (List Byte) := engReadAll e asid (linesOf va n) s []

/-- Translation and the checks of every target for the pieces of a range, made in order and nothing accessed. -/
def engChecks (e : Eng) (asid : BitVec 16) (kd : Kind) : List (Nat × Nat) → State → Got Unit
  | [], s => .ok s ()
  | (va, n) :: rest, s =>
    match engWalk s e asid va with
    | .wait s => .wait s
    | .fault s c => .fault s c va
    | .ready s _ =>
    match engLocate s e asid va kd with
    | (s, .error c) => .fault s c va
    | (s, .ok (pa, _)) =>
      match placeOf s pa with
      | .error c => .fault s c va
      | .ok _ =>
        let own : State × Bool := match e.base with
          | some j => if permitted s (tgtBase j) (coreMaster e.core) pa n kd then (s, true) else (deny s (tgtBase j) (coreMaster e.core) pa kd.denial, false)
          | none => (s, true)
        if own.2 = false then .fault own.1 fcACCESS va else
        match targetCheck own.1 e.master pa n kd with
        | (s, some c) => .fault s c va
        | (s, none) => engChecks e asid kd rest s

/-- A 64-byte parameter block read at once. -/
def engBlock (s : State) (e : Eng) (asid : BitVec 16) (va : Nat) : Got (BitVec 512) :=
  match engRead s e asid va 64 with
  | .ok s l => .ok s (BitVec.ofNat 512 (ofBytes l))
  | .wait s => .wait s
  | .fault s c va => .fault s c va

/-- Bytes lo to hi - 1 of a block are 0. -/
def blkZero (b : BitVec 512) (lo hi : Nat) : Bool := blk b lo (hi - lo) == 0

/-- The 64-byte parameter block of a command, its read 0 (13_encodings.md R286). -/
def blockPart (s : State) (k : Nat) (c : QCmd) (e : Eng) : Got (BitVec 512) :=
  match readPart s k c e 0 [(field (cmdFields c.word).ops 55 0, 64)] with
  | .ok s l => .ok s (BitVec.ofNat 512 (ofBytes l))
  | .wait s => .wait s
  | .fault s code va => .fault s code va

/-- A command that has read its block goes on with `f`; a fault of the read ends it (R286). -/
def withBlock (s : State) (k q : Nat) (c : QCmd) (e : Eng) (f : State → BitVec 512 → State) : Res :=
  match blockPart s k c e with
  | .ok s b => .next (f s b)
  | .wait s => .next s
  | .fault s code va => .next (faultCmd s k q c code va)

end Sys2Proof.Machine
end

