-- ==== Sys2Proof/Machine/Streams.lean ====
section
/-!
DEFINITION. Stream ports: segments in flight, ownership, coalescing and hold buffers, barriers, the requests that leave
the core egress, and closing a port (02_execution_model.md R31 to R33, 03_fabric.md R79, 07_consistency.md R151, R157 to R162,
10_faults_modes.md R218, R224 to R226, 18_ref_s.md R392 to R397).
-/
namespace Sys2Proof.Machine

open Sys2Proof

/-! ### Segments in flight (02_execution_model.md R33) -/

/-- The segment of the load that a program has open: the last one it noted. -/
def Prog.open_ (g : Prog) : Nat := match g.marks.getLast? with | some m => m.1 | none => 0

/-- The load segment that holds element i of an indirect program. -/
def Prog.segOfElem (g : Prog) (i : Nat) : Nat :=
  let e := blk g.block 28 4
  match g.marks.find? (fun m => decide (m.2.1 = if e = 0 then 0 else i / e)) with | some m => m.1 | none => g.open_

/-- Stores of a segment that stream n has not performed, or under REPLAY not released. -/
def storesLeft (s : State) (k n seg : Nat) (replay : Bool) : Bool :=
  let p := s.port (portKey k n)
  p.lines.any (fun l => decide (l.seg = seg)) ||
  p.hold.any (fun h => match h with
    | .line l => decide (l.seg = seg)
    | .order _ _ g => decide (g = seg)
    | .scatter _ _ g => decide (g = seg)) ||
  (!replay && s.egress.any (fun r => decide (r.core = k ∧ r.sid = some n ∧ r.seg = seg) && r.outcome.isNone)) ||
  (!replay && !p.entry && (match p.prog with | some g => g.fetched.any (fun e => decide (g.segOfElem e.1 = seg)) | none => false))

/-- Firings on the segment's tokens are still to come: tokens of a firing that have not left a tile, frame operands on their
way, an invocation whose operands are being sent (R33). -/
def firingsLeft (s : State) (k j c : Nat) (x : Ctx) (n : Nat) : Bool :=
  (loadSites s k j c).any (fun (y, x') =>
    let t := s.tile (tileKey k y x')
    t.fch.any (fun e => decide (e.tok.seg = n)) || t.outbox.any (fun e => decide (e.2.2.seg = n)) ||
      (match (Map.get {} t.ranges c).sending with
       | some (tag, _) => x.tags.any (fun e => decide (e = (tag, n)))
       | none => false))

/-- A segment of the load has ceased to be in flight. -/
def segSettled (s : State) (k j c : Nat) (x : Ctx) (g : Seg) : Bool :=
  !g.sent.isEmpty && x.ends.all (fun e => g.ended.contains e) && !firingsLeft s k j c x g.n &&
    (List.range 32).all (fun n => !(decide (s.regionOfStream k n = some j) && storesLeft s k n g.n (!x.mode.getLsbD 0)))

/-- The segments in flight of the load in slot c of region j. -/
def liveSegs (s : State) (k j c : Nat) : List Seg :=
  match s.region k j with
  | some r => (match r.ctx c with | some x => x.segs.filter (fun g => !segSettled s k j c x g) | none => [])
  | none => []

/-- A port without its stream: what the fabric and other agents have on the way to it stays. -/
def Port.idled (p : Port) : Port := { inp := p.inp, orders := p.orders, arriving := p.arriving }

/-- Segments that have ceased leave the load with their re-run counts, and finished programs that no rewind can reach leave their ports; a shut
port that keeps none is idle. -/
def dropSettled (s : State) (k j c : Nat) : State :=
  let l := liveSegs s k j c
  let again := match s.region k j with | some r => (match (r.ctx c).bind (·.rerun) with | some u => [u.seg] | none => []) | none => []
  let low := (l.map (·.n) ++ again).foldl Nat.min (2 ^ 64)
  let s := modCtx s k j c (fun x => { x with
    segs := l, reruns := x.reruns.filter (fun e => x.segs.all (fun g => decide (g.n ≠ e.1)) || l.any (fun g => decide (g.n = e.1))) })
  (regionPorts s k j).foldl (fun s n =>
    let p := s.port (portKey k n)
    if servesCtx s k j c p then
      let p : Port := { p with
        past := p.past.filter (fun g => g.marks.any (fun m => decide (low ≤ m.1)))
        prog := p.prog.map (fun g => { g with marks := g.marks.filter (fun m =>
          decide (low ≤ m.1) || (g.inSeg && decide (m.1 = g.open_))) }) }
      s.setPort (portKey k n) (if p.shut && p.past.isEmpty && p.prog.isNone && p.redo.isEmpty then p.idled else p)
    else s) s

/-- The segments of the load that stream n serves are looked at, as `dropSettled` does. -/
def settlePort (s : State) (k n : Nat) : State :=
  match s.regionOfStream k n with
  | none => s
  | some j => match (if (s.port (portKey k n)).bind < 4 then some (s.port (portKey k n)).bind else (s.region k j).bind (·.active)) with
    | some c => dropSettled s k j c
    | none => s

/-- Nothing of the load in slot c of region j is in flight, nor waits for its re-run. -/
def quiet (s : State) (k j c : Nat) : Bool :=
  (liveSegs s k j c).isEmpty && (match s.region k j with | some r => ((r.ctx c).bind (·.rerun)).isNone | none => true)

/-- A segment boundary of a region: nothing of its active context is in flight. -/
def atBoundary (s : State) (k j : Nat) : Bool :=
  match s.region k j with
  | some r => (match r.active with | some c => quiet s k j c | none => true)
  | none => true

/-! ### The AG tile's place in a load -/

/-- Where an AG tile works: core, stream, region, context slot. -/
structure AgSite where
  k : Nat
  n : Nat
  j : Nat
  c : Nat
  reg : Region
  ctx : Ctx

def Ctx.edge (x : Ctx) (n : Nat) : Option Edge := x.edges.find? (fun e => decide (e.sid = n))
/-- ROLE of an edge record: bit 0 entry, bit 1 exit (13_encodings.md Table 13.13). -/
def Edge.may (e : Edge) (entry : Bool) : Bool := (BitVec.ofNat 2 e.role).getLsbD (if entry then 0 else 1)

/-- The active context of the region that owns stream n, while its clock runs. After a CRESTORE the tile waits until the
faulting stream's access has been the first (10_faults_modes.md R229). -/
def agSiteOf (s : State) (k n : Nat) : Option AgSite :=
  match s.regionOfStream k n with
  | none => none
  | some j => match s.region k j with
    | none => none
    | some r =>
      if r.stopped.isSome then none else
      match r.active with
      | none => none
      | some c => match r.ctx c with
        | none => none
        | some x => if x.frozen || x.firstBy.any (fun m => decide (m ≠ n) && (s.port (portKey k m)).isOpen) then none else some ⟨k, n, j, c, r, x⟩

/-- The site of a port's running program: its bound context must be the active one (R394). -/
def progSite (s : State) (k n : Nat) : Option AgSite :=
  let p := s.port (portKey k n)
  match agSiteOf s k n with
  | some a => if p.bind = 7 ∨ p.bind = a.c then some a else none
  | none => none

/-- A turn of a stream has made an access: an entry tile has read, a store line has left an exit tile, or an element of a
scatter has been written. -/
def accessMade (p p' : Port) : Bool :=
  let got (q : Port) : Nat × Nat := match q.prog with | some g => (g.fetched.length, g.parts.length) | none => (0, 0)
  if p.entry then decide ((got p).1 < (got p').1 ∨ (got p).2 ≠ (got p').2)
  else decide (p'.lines.length < p.lines.length ∨ (got p').1 < (got p).1)

/-- The turn of the stream whose access comes first after a CRESTORE: once it has made the access and the region runs, the
others go on (10_faults_modes.md R229). -/
def firstDone (s s' : State) (k n : Nat) : State :=
  match s.regionOfStream k n with
  | none => s'
  | some j => match s'.region k j with
    | none => s'
    | some r => match r.active.bind (fun c => (r.ctx c).map (fun x => (c, x))) with
      | some (c, x) =>
        if x.firstBy = some n ∧ r.stopped.isNone ∧ accessMade (s.port (portKey k n)) (s'.port (portKey k n)) then
          modCtx s' k j c (fun x => { x with firstBy := none })
        else s'
      | none => s'

/-- A fault that stream n raises at an element: charged to the segment (R223, R406). -/
def agFault (s : State) (a : AgSite) (code : Code) (seg va : Nat) (iter : List Nat) : State :=
  segFault s a.k a.j a.c { code, seg, stream := some a.n, va, iter }

/-! ### Owned ranges (07_consistency.md R160, R161) -/

inductive Own where
  | yes | held | no
  deriving DecidableEq, Repr

/-- What an access of stream n at an address meets. -/
def ownOf (x : Ctx) (n va : Nat) : Own :=
  match x.ranges.find? (fun r => decide (r.base ≤ va ∧ va < r.base + r.len)) with
  | none => .yes
  | some r => if r.owner = n then .yes else if r.succ = some n then .held else .no

/-- Owner and successor change places. -/
def Owned.swap (r : Owned) : Owned :=
  match r.succ with | some t => { r with owner := t, succ := some r.owner } | none => r

/-- A hand-over by the i-th ORDER, at the tile of stream n: every range that n owns, whose successor the mask names too, and
that this ORDER has not handed to n itself (R161). -/
def swapOwned (s : State) (k j c n i : Nat) (mask : BitVec 32) : State :=
  modCtx s k j c (fun x => { x with ranges := x.ranges.map (fun r =>
    if decide (r.owner = n ∧ r.handed ≠ some i) && mask.getLsbD n && (match r.succ with | some t => mask.getLsbD t | none => false)
    then { r.swap with handed := some i } else r) })

/-! ### Lines (03_fabric.md R79, 10_faults_modes.md R224) -/

/-- A write of the stream that is performed widens its dirty range (R218). -/
def widenDirty (s : State) (k n va : Nat) (cells : List (Option Byte)) : State :=
  let at_ := (List.range cells.length).filter (fun i => ((cells[i]?).getD none).isSome)
  match at_.head?, at_.getLast? with
  | some a, some b =>
    s.modPort (portKey k n) (fun p => { p with
      low := if p.written then Nat.min p.low (va + a) else va + a
      high := if p.written then Nat.max p.high (va + b) else va + b, written := true })
  | _, _ => s

/-- An access of stream n has completed (10_faults_modes.md R237). -/
def stirredBy (s : State) (k n : Nat) : State :=
  match s.regionOfStream k n with | some j => stirred s k j | none => s

/-- The load that stream n's stores belong to runs under REPLAY (10_faults_modes.md R238). -/
def replayAt (s : State) (k n : Nat) : Bool :=
  match s.regionOfStream k n with
  | none => true
  | some j => match s.region k j with
    | none => true
    | some r =>
      let p := s.port (portKey k n)
      let c := if p.isOpen ∧ p.bind < 4 then some p.bind else r.active
      match c.bind r.ctx with
      | some x => !x.mode.getLsbD 0
      | none => true

/-- The 64-byte chunk of a line request that a memory tile takes next: its offset, and the line without it (R135). -/
def nextChunk (stamp : Nat) (l : LineReq) : Nat × LineReq :=
  let has (o : Nat) : Bool := ((l.cells.drop o).take 64).any (·.isSome)
  let o := if !has 64 then 0 else if !has 0 then 64 else 64 * (Config.pieceOrder stamp % 2)
  (o, { l with cells := if o = 0 then List.replicate 64 none ++ l.cells.drop 64 else l.cells.take 64 ++ List.replicate 64 none })

/-- A line request leaves the AG tile: on its way to its home, or performed at a memory tile, one 64-byte chunk at once. A
refusal there is charged to its segment (R135, R219, 07_consistency.md R149). Answers what of it is still to leave: under
FREEZE a refused access stands until the context runs again. -/
def sendLine (s : State) (k n : Nat) (l : LineReq) : State × Option LineReq :=
  match placeOf s l.pa with
  | .ok p =>
    if isTileHome p.home then
      -- the stream's earlier lines are performed first (07_consistency.md R157)
      if s.egress.any (fun r => decide (r.core = k ∧ r.sid = some n) && r.outcome.isNone) then (s, some l) else
      let (o, l') := nextChunk s.tick l
      (match reach s (l.pa + o) 64 Kind.write { okind := 1, master := coreMaster k, asid := l.asid, va := l.va } with
       | .ready s key =>
         let cells := (l.cells.drop o).take 64
         (stirredBy (widenDirty (perform s key cells) k n (l.va + o) cells) k n, if l'.cells.any (·.isSome) then some l' else none)
       | .wait s => (s, some l)
       | .fault s c =>
         let kept := if replayAt s k n then none else some l
         match agSiteOf s k n with
         | some a => (agFault s a c l.seg l.va l.iter, kept)
         | none => (s, kept))
    else
      ({ s with nextId := s.nextId + 1, egress := s.egress ++
        [{ id := s.nextId, core := k, sid := some n, cmdId := some l.cmdId, asid := l.asid, va := l.va, pa := l.pa,
           cells := l.cells, pc := l.ipc, seg := l.seg, iter := l.iter }] }, none)
  | .error _ => (s, none)

/-- An AG tile holds at most 32 store lines outstanding (06_memory.md Table 6.3). -/
def linesFull (s : State) (k n : Nat) : Bool := decide (32 ≤ (s.egress.filter (fun r => decide (r.core = k ∧ r.sid = some n))).length)

/-- The oldest open line is flushed: into the hold buffer under REPLAY, else out as soon as the tile may issue it (R79). -/
def flushOne (s : State) (k n : Nat) : State :=
  let p := s.port (portKey k n)
  match p.lines with
  | [] => s
  | l :: rest =>
    if replayAt s k n then s.setPort (portKey k n) { p with lines := rest, hold := p.hold ++ [.line l] }
    else if linesFull s k n then s
    else
      let (s, left) := sendLine (s.setPort (portKey k n) { p with lines := rest }) k n l
      s.modPort (portKey k n) (fun p => { p with lines := (left.map (fun l => { l with due := true })).toList ++ p.lines })

/-- Lines are flushed in the order of their first accesses, those that are complete or whose time is over, or all of them, as
far as they leave: a tile at its limit, or a line of which a chunk still stands, keeps the rest. -/
def flushDue (k n : Nat) (all : Bool) : Nat → State → State
  | 0, s => s
  | m + 1, s => match (s.port (portKey k n)).lines with
    | l :: _ =>
      if l.due || all then
        let s' := flushOne s k n
        if (s'.port (portKey k n)).lines.head?.any (fun h => decide (h.va = l.va ∧ h.seg = l.seg)) then s' else flushDue k n all m s'
      else s
    | [] => s

/-- The open lines are flushed; whoever acts on it waits until none is left. -/
def flushLines (s : State) (k n : Nat) : State := flushDue k n true (s.port (portKey k n)).lines.length s

/-- Puts the cells of a second access over those of a line. -/
def mergeCells : List (Option Byte) → List (Option Byte) → List (Option Byte)
  | a :: as, b :: bs => (match b with | some x => some x | none => a) :: mergeCells as bs
  | [], bs => bs
  | as, [] => as

/-- The cells of a line with bytes placed at an offset. -/
def lineCells (off : Nat) (bytes : List Byte) : List (Option Byte) :=
  (List.range 128).map (fun i => if off ≤ i then bytes[i - off]? else none)

/-- A store access joins its open line, or opens one, the oldest of eight leaving first; a line that is complete is flushed. -/
def joinLine (s : State) (k n va pa : Nat) (bytes : List Byte) (l0 : LineReq) : State :=
  let base := va / 128 * 128
  let cells := lineCells (va % 128) bytes
  let p : Port := s.port (portKey k n)
  let s : State :=
    match p.lines.find? (fun l => decide (l.va = base ∧ l.seg = l0.seg ∧ l.due = false)) with
    | some _ => s.setPort (portKey k n) { p with lines := p.lines.map (fun l =>
        if l.va = base ∧ l.seg = l0.seg ∧ l.due = false then { l with cells := mergeCells l.cells cells } else l) }
    | none =>
      let s := if 8 ≤ p.lines.length then flushOne s k n else s
      s.modPort (portKey k n) (fun p => { p with lines := p.lines ++ [{ l0 with va := base, pa := pa / 128 * 128, cells }] })
  let s := s.modPort (portKey k n) (fun p => { p with lines := p.lines.map (fun l =>
    if l.cells.all (·.isSome) then { l with due := true } else l) })
  flushDue k n false 8 s

/-- The exit streams of the load that an ORDER mask names. -/
def orderExits (s : State) (k n : Nat) (mask : BitVec 32) : List Nat :=
  match agSiteOf s k n with
  | none => []
  | some a => (List.range 32).filter (fun m => mask.getLsbD m &&
      (match a.ctx.edge m with | some e => e.may false && !((s.port (portKey k m)).isOpen && (s.port (portKey k m)).entry) | none => false))

/-- Released elements of a scatter of the stream are still to be written. -/
def scattering (s : State) (k n : Nat) : Bool :=
  let p := s.port (portKey k n)
  !p.entry && (match p.prog with | some g => !g.fetched.isEmpty | none => false)

/-- Under REPLAY the segment's EOTs have reached every path end of the load, so that no fault discards it any more: "No agent
ever reads a store of a discarded segment" (R162; log 136). -/
def segOver (s : State) (k n seg : Nat) : Bool :=
  match s.regionOfStream k n with
  | none => true
  | some j =>
    let p := s.port (portKey k n)
    match (if p.isOpen ∧ p.bind < 4 then some p.bind else (s.region k j).bind (·.active)) with
    | none => true
    | some c => match (s.region k j).bind (fun r => r.ctx c) with
      | none => true
      | some x => x.segs.all (fun g => decide (g.n ≠ seg) ||
          (x.ends.all (fun e => g.ended.contains e) && !firingsLeft s k j c x seg))

/-- Every other participant has released its lines before its k-th ORDER, and what the streams scatter before it is written
(R162). -/
def orderReady (s : State) (k n inst : Nat) (mask : BitVec 32) : Bool :=
  (orderExits s k n mask).all (fun m => !scattering s k m && (decide (m = n) ||
    match (s.port (portKey k m)).hold.findIdx? (fun h => match h with | .order i _ _ => decide (i = inst) | _ => false) with
     | some 0 => true
     | some _ => false
     | none => true))

/-- Releases the entries at the front of a hold buffer whose segments have ended, in stream order; `fuel` bounds
their number (R162, R224). -/
def drainHold (k n : Nat) : Nat → State → State
  | 0, s => s
  | fuel + 1, s =>
    let p := s.port (portKey k n)
    match p.hold with
    | .line l :: rest =>
      if l.seg < p.rel ∧ segOver s k n l.seg ∧ linesFull s k n = false then
        (match sendLine (s.setPort (portKey k n) { p with hold := rest }) k n l with
         | (s, none) => drainHold k n fuel s
         | (s, some l) => s.modPort (portKey k n) (fun p => { p with hold := .line l :: p.hold }))
      else s
    | .order i mask g :: rest =>
      if g < p.rel ∧ segOver s k n g ∧ orderReady s k n i mask then
        let s := s.setPort (portKey k n) { p with hold := rest }
        drainHold k n fuel (match agSiteOf s k n with | some a => swapOwned s k a.j a.c n i mask | none => s)
      else s
    | .scatter i bytes g :: rest =>
      if g < p.rel ∧ segOver s k n g then
        drainHold k n fuel (s.setPort (portKey k n) { p with hold := rest
                                                             prog := p.prog.map (fun q => { q with fetched := q.fetched ++ [(i, bytes)] }) })
      else s
    | [] => s

def drain (s : State) (k n : Nat) : State := drainHold k n (s.port (portKey k n)).hold.length s

/-- Bytes of the hold buffer's 64 KiB that are used: 128 for a line, and the bytes of a scatter's elements (R224, R405). -/
def holdUsed (p : Port) : Nat :=
  (p.hold.map (fun h => match h with | .line _ => 128 | .order _ _ _ => 0 | .scatter _ b _ => b.length)).sum

/-- A coalescing line that nothing has joined for 16 cycles is flushed, after those that were opened before it (R79). -/
def execCoalesceTimeout (i : Nat) (s : State) : Res :=
  match s.self with
  | .ag k n =>
    let p := s.port (portKey k n)
    (match p.lines[i]?, agSiteOf s k n with
     | some l, some _ =>
       .next (firstDone s (flushDue k n false 8 (s.setPort (portKey k n) { p with lines := p.lines.set i { l with due := true } })) k n)
     | _, _ => .next s)
  | _ => .refused .wrongAgent

/-! ### Requests on their way (07_consistency.md R151) -/

/-- An earlier request of the list holds back request i: the same core and home, or, once both have passed the same
point, the same die's or the module's way. Where it would be performed next, an earlier one of its stream holds it back to
whatever home that goes (R157). -/
def heldBack (s : State) (i : Nat) (r : Req) : Bool :=
  let h := reqHome s r
  let last := decide (¬ (r.hops < (reqEdges r.core h).length ∨ (1000 ≤ h ∧ r.hops = (reqEdges r.core h).length)))
  (s.egress.take i).any (fun q => q.outcome.isNone && last && r.sid.isSome && decide (q.core = r.core ∧ q.sid = r.sid)) ||
  (s.egress.take i).any (fun q => q.outcome.isNone && decide (reqHome s q = h) &&
    ((decide (q.core = r.core) && q.left) || (q.passed h && r.passed h && (decide (1000 ≤ h) || decide (coreDie q.core = coreDie r.core)))))

/-- An older store of the thread to one of the same bytes has not left the core (R154). -/
def olderStore (s : State) (i : Nat) (r : Req) : Bool :=
  (s.egress.take i).any (fun q => decide (q.core = r.core ∧ q.left = false ∧ q.pa < r.pa + r.cells.length ∧ r.pa < q.pa + q.cells.length))

/-- A request makes its next step: it leaves the core, crosses the edges of its route one by one, passes the pithead port,
and then its home performs or refuses it. At the core egress, at its die's UCIe egress and at the pithead port it takes its
place in that point's order (R13, R137, R151, 14_system.md R303). -/
def moveReq (s : State) (i : Nat) (r : Req) : State :=
  let h := reqHome s r
  let n := (reqEdges r.core h).length
  if r.left = false then
    if olderStore s i r then s else { s with egress := s.egress.eraseIdx i ++ [{ r with left := true }] }
  else if heldBack s i r then s
  else if r.hops < n ∨ (1000 ≤ h ∧ r.hops = n) then
    let r' := { r with hops := r.hops + 1, resent := 0 }
    if r.hops = 0 ∨ r.hops = n then { s with egress := s.egress.eraseIdx i ++ [r'] } else { s with egress := s.egress.set i r' }
  else
    let setOut (s : State) (c : Code) : State :=
      { s with egress := s.egress.map (fun q => if q.id = r.id then { q with outcome := some c } else q) }
    let o : Origin := { okind := if r.sid.isSome then 1 else 0, master := coreMaster r.core, asid := r.asid, va := r.va,
                        full := r.cells.length == 128 && r.cells.all (·.isSome) }
    match reachHome s r.pa r.cells.length .write o with
    | .wait s => s
    | .fault s c => setOut s c
    | .ready s key =>
      let s := setOut (perform s key r.cells) 0
      match r.sid with
      | some n => stirredBy (widenDirty s r.core n r.va r.cells) r.core n
      | none => s

/-- A home slice serves a request; the pithead's ports serve those for the host and for other modules. -/
def execL2Access (i : Nat) (s : State) : Res :=
  let go (ok : Nat → Bool) : Res :=
    match s.egress[i]? with
    | none => .next s
    | some r => if ok (reqHome s r) && r.outcome.isNone then .next (moveReq s i r) else .next s
  match s.self with
  | .slice h => go (fun x => decide (x = h))
  | .module => go (fun x => decide (256 ≤ x))
  | _ => .refused .wrongAgent

/-- A stack read ends and its line is installed, that of an ay.fill once its handler has ended (15_ref_a_c.md R323), or a
write-back ends; the miss register is free for what waits (06_memory.md R140). -/
def execL2FillComplete (line : Nat) (s : State) : Res :=
  match s.self with
  | .slice i =>
    let s' := s.modSlice i (fun x => { x with writebacks := x.writebacks.filter (fun l => decide (l ≠ line)) })
    (match (s.slice i).misses.find? (fun m => decide (m.line = line ∧ m.stage = .fetch ∧ m.hart = none)) with
     | some m => .next (admitWaiting (missInstall s' i m) i)
     | none => .next (admitWaiting s' i))
  | _ => .refused .wrongAgent

/-- A completion reaches its core; a refusal is delivered as an asynchronous fault of the store, or charged to the
stream's segment (10_faults_modes.md R220, 18_ref_s.md R415). -/
def replyReq (s : State) (i : Nat) (r : Req) (code : Code) : State :=
  let s := { s with egress := s.egress.eraseIdx i }
  if code = 0 then s else
  match r.sid with
  | none => pendFault s { core := r.core, asid := r.asid, code, va := BitVec.ofNat 64 r.va, ipc := r.pc }
  | some n =>
    match s.regionOfStream r.core n with
    | none => s
    | some j =>
      let p := s.port (portKey r.core n)
      let c := if p.bind < 4 then p.bind else ((s.region r.core j).bind (·.active)).getD 0
      -- under FREEZE the access stands until the context runs again
      let s := if replayAt s r.core n then s else s.modPort (portKey r.core n) (fun p => { p with lines :=
        { va := r.va, pa := r.pa, cells := r.cells, seg := r.seg, cmdId := r.cmdId.getD 0, asid := r.asid, ipc := r.pc, iter := r.iter, due := true } :: p.lines })
      segFault s r.core j c { code, seg := r.seg, stream := some n, va := r.va, iter := r.iter }

/-- A completion on its way to the core crosses the next edge of its own route, and then reaches it (06_memory.md R139). -/
def execAccessReply (i : Nat) (s : State) : Res :=
  match s.self with
  | .core k =>
    (match s.egress[i]? with
     | some r => (match r.outcome with
       | some c =>
         if r.core ≠ k then .next s
         else if r.back < (meshEdges (homeDie (reqHome s r)) (coreDie k)).length then
           .next { s with egress := s.egress.set i { r with back := r.back + 1, resent := 0 } }
         else .next (replyReq s i r c)
       | none => .next s)
     | none => .next s)
  | _ => .refused .wrongAgent

/-- The stream has stores that are not performed, or not answered. -/
def streamBusy (s : State) (k n : Nat) : Bool :=
  let p := s.port (portKey k n)
  !p.lines.isEmpty || !p.hold.isEmpty || s.egress.any (fun r => decide (r.core = k ∧ r.sid = some n)) || scattering s k n

/-! ### The copies of a cloned load (02_execution_model.md R50, 11_scheduling.md R255) -/

/-- A tile forgets what a context kept in it: slot states, its range's pointers, SR count and rewind states. -/
def clearCtx (c : Nat) (t : Tile) : Tile :=
  { t with slots := t.slots.filter (fun e => decide (e.1 / 16 ≠ c)), ranges := Map.set {} t.ranges c {}
           sr := Map.set 0 t.sr c 0, snaps := t.snaps.filter (fun e => decide (e.1 % 4 ≠ c)) }

/-- The link into tile (y, x) from direction d comes from another region. -/
def crossLink (s : State) (k j y x d : Nat) : Bool :=
  match neighbour y x d with
  | some (y', x') => decide (s.regionAt k y' x' ≠ some j)
  | none => false

/-- A tile of region j without an active context: its FIFOs and channels are empty, but for those of links from other regions,
whose tokens stay in their elastic buffers (03_fabric.md R453). -/
def emptyTile (s : State) (k j y x : Nat) (t : Tile) : Tile :=
  { t with ctx := 4, inp := t.inp.filter (fun e => crossLink s k j y x e.1), kill := t.kill.filter (fun e => crossLink s k j y x e.1)
           fch := [], outbox := [], due := [], reconfs := 0, partials := [] }

/-- The segment that no entry stream of the load has begun. -/
def nextSegment (s : State) (k j c : Nat) : Nat :=
  ((regionPorts s k j).map (fun n => let p := s.port (portKey k n)
    if p.entry && servesCtx s k j c p then p.segNo + (p.prog.any (·.inSeg)).toNat else 0)).foldl Nat.max 0

/-- The copy in slot c of region i leaves; a region with no context is dissolved. -/
def dropCopy (s : State) (k i c : Nat) : State :=
  match s.region k i with
  | none => s
  | some r =>
    let s := r.sites.foldl (fun s (y, x) => s.modTile (tileKey k y x) (fun t => clearCtx c (emptyTile s k i y x t))) s
    let r := { r.setCtx c none with active := none }
    s.setRegion k i (if r.ctxs.isEmpty then none else some r)

/-- All copies but the first few leave, drained; from the next segment on the SPLIT deals them out anew. -/
def dropCopies (s : State) (k j c keep : Nat) : State :=
  match (s.region k j).bind (fun r => r.ctx c) with
  | none => s
  | some x =>
    let b := nextSegment s k j c
    modCtx ((x.clones.drop keep).foldl (fun s i => dropCopy s k i c) s) k j c
      (fun x => { x with clones := x.clones.take keep, splitFrom := b, merges := [], lowWindows := 0, copyDue := false })

/-- The foreman removes a copy at the load's next boundary (R255). -/
def removalDue (x : Ctx) : Bool := !x.clones.isEmpty && decide (2 ≤ x.lowWindows)

/-! ### The commands of a stream in SQ -/

/-- The SQ commands that name stream n. -/
def sqOf (s : State) (k n : Nat) : List QCmd :=
  (queueCmds s k 0).filter (fun c => namesStream (cmdOpcode c.word) && decide ((cmdFields c.word).sid.toNat = n))

def isProgram (c : QCmd) : Bool := decide (cmdOpcode c.word ∈ [1, 2, 3, 4, 5])

def isDone (c : QCmd) : Bool := match c.phase with | .done _ => true | _ => false

/-- The commands that stand before an identity in SQ. -/
def sqBefore (s : State) (k id : Nat) : List QCmd := (queueCmds s k 0).takeWhile (fun c => decide (c.id ≠ id))

def setProgress (s : State) (k id v : Nat) : State := modCmds s k (fun c => decide (c.id = id)) (fun c => { c with progress := v })

/-! ### Closing a port (R397, R341, 11_scheduling.md R261) -/

/-- The segment counts of a load's entry streams differ (02_execution_model.md R32): none until the last of them has
closed; then whether they agree, and the least. -/
def segCounts (s : State) (k j c : Nat) : Option (Bool × Nat) :=
  match s.region k j with
  | none => none
  | some r => match r.ctx c with
    | none => none
    | some x =>
      let entries := (x.edges.filter (fun e => decide (e.role = 1))).map (·.sid)
      let stillOpen := (List.range 32).any (fun n => let p := s.port (portKey k n)
        p.isOpen && !p.shut && p.entry && decide (p.bind = c) && decide (s.regionOfStream k n = some j))
      if stillOpen || !entries.all (fun n => x.closed.any (fun e => decide (e.1 = n))) then none
      else
        let l := x.closed.map (·.2)
        let m := l.foldl Nat.min (l.headD 0)
        some (l.all (fun v => decide (v = m)), m)

/-- Segments that a stream has completed since it opened (R413). -/
def segsComplete (s : State) (k n : Nat) : Nat :=
  let p := s.port (portKey k n)
  if p.entry then p.segNo
  else
    let inLines : List Nat := p.lines.map (fun l => l.seg)
    -- elements of a scatter that the hold buffer has released and the engine has still to write
    let left : List Nat := match p.prog with | some g => g.fetched.map (fun e => g.segOfElem e.1) | none => []
    let inHold : List Nat := p.hold.map (fun h => match h with | .line l => l.seg | .order _ _ g => g | .scatter _ _ g => g)
    let out : List Nat := (s.egress.filter (fun r => decide (r.core = k ∧ r.sid = some n))).map (fun r => r.seg)
    let now : List Nat := match p.prog with | some g => if g.inSeg then [g.open_] else [] | none => []
    p.segNo - ((inLines ++ inHold ++ out ++ left).dedup.filter (fun g => !now.contains g)).length

/-- A stream closes: its record is written, its commands end, and, for a bound entry stream, its count is noted (R218,
R397). Programs that had nothing left end with 0; one that stands at its tile behind an SCLOSE opens the stream anew. -/
def noteClosed (s : State) (k n : Nat) (code : Code) (bySclose : Bool := false) : State :=
  let p := s.port (portKey k n)
  if p.shut then s else
  let s := if p.entry then s else dirtyRecord s k n p
  let s := modCmds s k (fun c => decide (c.phase = .started) && namesStream (cmdOpcode c.word) &&
      decide ((cmdFields c.word).sid.toNat = n ∧ cmdOpcode c.word ≠ 6 ∧ cmdOpcode c.word ≠ 8 ∧ c.progress < 4) &&
      !(bySclose && isProgram c && decide (c.progress = 0)))
    (fun c => { c with phase := .done (if isProgram c then (if c.progress = 2 then 0 else code)
      else if cmdOpcode c.word = 9 ∧ field (cmdFields c.word).ops 31 0 ≤ segsComplete s k n then 0 else if code = 0 then fcCMD else code) })
  if p.entry ∧ p.bind < 4 then
    (match s.regionOfStream k n with
     | some j => modCtx s k j p.bind (fun x => { x with closed := x.closed.filter (fun e => decide (e.1 ≠ n)) ++ [(n, p.segNo)] })
     | none => s)
  else s

/-- The stream closes, its pins fall and the port becomes idle (R201, R397). -/
def idlePort (s : State) (k n : Nat) (code : Code) (bySclose : Bool := false) : State :=
  dropPins ((noteClosed s k n code bySclose).modPort (portKey k n) Port.idled) (.stream (s.port (portKey k n)).id)

/-- An SCLOSE closes its stream: the port becomes idle, or is shut while segments in flight may still run again (R397,
10_faults_modes.md R225; log 101). -/
def closeStream (s : State) (k n : Nat) : State :=
  let s := settlePort s k n
  if (s.port (portKey k n)).past.isEmpty then idlePort s k n 0 true
  else dropPins ((noteClosed s k n 0 true).modPort (portKey k n) (fun p => { p with shut := true })) (.stream (s.port (portKey k n)).id)

/-- The comparison of R32 after an entry stream has closed: a mismatch is a final CFG of the load, charged to the first
segment that a stream lacks (R225, R226), and delivered to the closing command's ISSUE where that one waits for it (R231);
answers the code that the closing command, which stands in queue q, retires with. -/
def compareCounts (s : State) (k j c n : Nat) (by_ : Option (Nat × QCmd)) : State × Code :=
  match segCounts s k j c with
  | none => (s, 0)
  | some (same, m) =>
    let s := modCtx s k j c (fun x => { x with closed := [] })
    if same then (s, 0)
    else
      let r : FRec := { core := k, asid := (match s.region k j with | some r => (match r.ctx c with | some x => x.asid | none => 0) | none => 0),
                        code := fcCFG, final := true, region := j, queue := (by_.map (·.1)).getD 0, stream := n, seg := m
                        ipc := (by_.map (·.2.ipc)).getD 0 }
      let s := match by_ with | some (_, q) => deliverFault s k q r | none => pendFault s r
      (stopLoad (discard s k j c m) k j c fcCFG, fcCFG)

/-- A port that abandonment, DONE or a final fault is closing becomes idle once its load has nothing in flight and its
stores are performed (R226, 11_scheduling.md R261). -/
def closeIfDue (s : State) (k n : Nat) : Option State :=
  let p := s.port (portKey k n)
  match p.closing, s.regionOfStream k n with
  | some code, some j =>
    let c := if p.bind < 4 then some p.bind else (s.region k j).bind (·.active)
    let busy := match c with | some c => !quiet s k j c | none => false
    if busy then none
    else if streamBusy s k n then
      (if p.lines.isEmpty ∧ (drain s k n).port (portKey k n) = p then none else some (drain (flushLines s k n) k n))
    else
      let s := idlePort s k n code
      some (if p.entry ∧ p.bind < 4 then (compareCounts s k j p.bind n none).1 else s)
  | _, _ => none

/-! ### Barriers (07_consistency.md R159) -/

/-- A live barrier instance holds the port. -/
def portHeld (s : State) (p : Port) : Bool := p.heldBy.any (fun b => s.barriers.any (fun x => decide (x.id = b)))

/-- An SBAR or an SOWN that stands before a command in SQ holds it before its first access (R396, R411). -/
def heldByEarlier (s : State) (k n id : Nat) : Bool :=
  (sqBefore s k id).any (fun c => !isDone c &&
    (let f := cmdFields c.word
     (decide (cmdOpcode c.word = 7) && (BitVec.ofNat 32 f.ops.toNat).getLsbD n) ||
     (decide (cmdOpcode c.word = 8) &&
       (match s.regionOfStream k f.sid.toNat with
        | some j => (match s.region k j with
          | some r => (match r.ctx f.bind.toNat with
            | some x => x.ranges.any (fun w => decide (w.base = field f.ops 55 0 ∧ w.owner = n))
            | none => false)
          | none => false)
        | none => false))))

/-- The instance of a token barrier, made when its first participant reaches it. -/
def findBarrier (s : State) (k j key : Nat) (order : Bool) (mask : BitVec 32) : Option Barrier :=
  s.barriers.find? (fun b => decide (b.core = k ∧ b.region = j ∧ b.key = key ∧ b.mask = mask) && (b.order == order) && b.cmdId.isNone)

def addBarrier (s : State) (b : Barrier) : State :=
  { s with barriers := s.barriers ++ [{ b with id := s.nextId }], nextId := s.nextId + 1 }

/-- Stream n reaches its point of a token barrier and is held there. -/
def reachPoint (s : State) (k j n key seg : Nat) (order : Bool) (mask : BitVec 32) (scope : BitVec 2) : State :=
  let s := if (findBarrier s k j key order mask).isSome then s
    else addBarrier s { id := 0, core := k, region := j, mask, reached := 0, scope, cmdId := none, key, order, seg }
  match findBarrier s k j key order mask with
  | none => s
  | some b =>
    let s : State := { s with barriers := s.barriers.map (fun x => if x.id = b.id then { x with reached := x.reached ||| (1 <<< n) } else x) }
    s.modPort (portKey k n) (fun p => { p with heldBy := p.heldBy ++ [b.id] })

/-- An entry stream's point between segments key and key + 1 is reached: it is idle, or has emitted the EOT. -/
def entryPast (p : Port) (key : Nat) : Bool := !p.isOpen || p.shut || decide (key < p.segNo)

/-- Every access before the points is performed, writes at the scope (R159, R162). -/
def barrierComplete (s : State) (b : Barrier) : Bool :=
  match b.cmdId with
  | some id =>
    (sqBefore s b.core id).all (fun c => isDone c || !(namesStream (cmdOpcode c.word) && isProgram c &&
      b.mask.getLsbD (cmdFields c.word).sid.toNat))
  | none =>
    (List.range 32).all (fun n => !b.mask.getLsbD n ||
      (let p := s.port (portKey b.core n)
       if b.reached.getLsbD n then
         !(!b.order && (scattering s b.core n || p.hold.any (fun h => (match h with
             | .line l => decide (l.seg ≤ b.seg) | .order _ _ _ => false | .scatter _ _ g => decide (g ≤ b.seg))))) &&
         !(b.order && !replayAt s b.core n && scattering s b.core n) &&
         (b.order || s.egress.all (fun r => decide (r.core ≠ b.core ∨ r.sid ≠ some n) || performedAt (reqHome s r) r b.scope.toNat))
       else if p.isOpen && p.entry then b.order || entryPast p b.key
       else !(match (s.region b.core b.region).bind (fun r => r.active.bind r.ctx) with
         | some x => (match x.edge n with | some e => e.may false | none => false)
         | none => false)))

def execStreamBarrierResume (k : Nat) (s : State) : Res :=
  match s.self with
  | .core c =>
    (match s.barriers.find? (fun b => decide (b.id = k ∧ b.core = c)) with
     | none => .next s
     | some b =>
       if barrierComplete s b then
         let s := { s with barriers := s.barriers.filter (fun x => decide (x.id ≠ k)) }
         .next (match b.cmdId with | some id => endCmd s c id 0 | none => s)
       else .next s)
  | _ => .refused .wrongAgent

end Sys2Proof.Machine
end

