-- ==== Sys2Proof/Machine/Tasks.lean ====
section
/-!
DEFINITION. Task records, jobs, keys and the pool of a foreman, and the task instructions of the control thread
(11_scheduling.md R244 to R252, R256 to R261, 15_ref_a_c.md R331, 16_ref_d_l.md R349, R351, R353, R362, 19_ref_t_z.md R420).
-/
namespace Sys2Proof.Machine

open Sys2Proof

/-! ### Fields (Tables 11.1 to 11.3) -/

def recType (r : QWord) : Nat := field r 11 0
def recPrio (r : QWord) : Nat := field r 13 12
def recValid (r : QWord) : Bool := r.getLsbD 14
def recKeep (r : QWord) : Bool := r.getLsbD 15
def recX (r : QWord) : Nat := field r 31 16
def recY (r : QWord) : Nat := field r 47 32
def recZ (r : QWord) : Nat := field r 63 48
def recJob (r : QWord) : BitVec 16 := r.extractLsb' 64 16
def recWait (r : QWord) : Nat := field r 95 80
def recSig (r : QWord) : Nat := field r 111 96

def jobIndex (j : BitVec 16) : Nat := field j 7 0
def jobCluster (j : BitVec 16) : Nat := field j 9 8
def jobGen (j : BitVec 16) : BitVec 6 := j.extractLsb' 10 6

/-- Word w of intake descriptor q; its fields. -/
def Foreman.descWord (f : Foreman) (q w : Nat) : BitVec 64 := Map.get 0 f.desc (4 * q + w)
def Foreman.setDesc (f : Foreman) (q w : Nat) (v : BitVec 64) : Foreman := { f with desc := Map.set 0 f.desc (4 * q + w) v }
def Foreman.enabled (f : Foreman) (q : Nat) : Bool := (f.descWord q 3).getLsbD 0
def Foreman.queueAsid (f : Foreman) (q : Nat) : BitVec 16 := (f.descWord q 3).extractLsb' 16 16
def Foreman.prioMax (f : Foreman) (q : Nat) : Nat := field (f.descWord q 3) 7 6
/-- Word w of task-type entry t. -/
def Foreman.typeWord (f : Foreman) (t w : Nat) : BitVec 64 := Map.get 0 f.types (8 * t + w)
def Foreman.setType (f : Foreman) (t w : Nat) (v : BitVec 64) : Foreman := { f with types := Map.set 0 f.types (8 * t + w) v }
def Foreman.typeValid (f : Foreman) (t : Nat) : Bool := decide (t < 1024) && (f.typeWord t 6).getLsbD 0
def Foreman.typeAsid (f : Foreman) (t : Nat) : BitVec 16 := (f.typeWord t 4).extractLsb' 48 16

def Foreman.job (f : Foreman) (i : Nat) : Job := Map.get {} f.jobs i
def Foreman.setJob (f : Foreman) (i : Nat) (j : Job) : Foreman := { f with jobs := Map.set {} f.jobs i j }
def Foreman.key (f : Foreman) (i : Nat) : Key := Map.get {} f.keys i
def Foreman.setKey (f : Foreman) (i : Nat) (k : Key) : Foreman := { f with keys := Map.set {} f.keys i k }
def Foreman.entry (f : Foreman) (p : Nat) : Option Task := Map.get none f.pool p
def Foreman.setEntry (f : Foreman) (p : Nat) (t : Option Task) : Foreman := { f with pool := Map.set none f.pool p t }
/-- The pool holds up to 1,024 tasks (R252). -/
def Foreman.full (f : Foreman) : Bool := decide (1024 ≤ f.pool.length)
def Foreman.freeEntry (f : Foreman) : Option Nat := (List.range 1024).find? (fun p => (f.entry p).isNone)

/-! ### Checks of a record (R245) -/

/-- The rules on reserved bits and keys that a record alone shows. -/
def recordFormOk (r : QWord) : Bool := field r 127 112 == 0 && decide (recWait r < 4096) && decide (recSig r < 4096)

/-- The key is free, or in use under this ASID (R250). -/
def keyOk (f : Foreman) (n : Nat) (asid : BitVec 16) : Bool :=
  let k := f.key n
  decide (n = 0) || (decide (k.c = 0 ∧ k.x = 0) && k.waiters.isEmpty) || decide (k.asid = some asid)

/-- The job names no entry that is OPEN with another generation or ASID, and its count may rise (R245, R249). -/
def jobOk (s : State) (j : BitVec 16) (asid : BitVec 16) : Bool :=
  let e := (s.foreman (jobCluster j)).job (jobIndex j)
  decide (j = 0) || !e.isOpen || (decide (e.gen = jobGen j ∧ e.asid = asid) && decide (e.count < 2 ^ 32 - 1))

def recordOk (s : State) (d : Nat) (r : QWord) (asid : BitVec 16) (ownJob : Bool) : Bool :=
  let f := s.foreman d
  recordFormOk r && f.typeValid (recType r) && decide (f.typeAsid (recType r) = asid) &&
    keyOk f (recWait r) asid && keyOk f (recSig r) asid && (!ownJob || jobOk s (recJob r) asid)

/-! ### Jobs (R248, R249) -/

def modJob (s : State) (j : BitVec 16) (f : Job → Job) : State :=
  s.modForeman (jobCluster j) (fun m => m.setJob (jobIndex j) (f (m.job (jobIndex j))))

/-- Raises a job's count; an IDLE entry is opened with the ID's GEN and the ASID. -/
def raiseJob (s : State) (j : BitVec 16) (asid : BitVec 16) : State :=
  if j = 0 then s else
  modJob s j (fun e =>
    let e := if e.isOpen then e else { isOpen := true, gen := jobGen j, asid }
    { e with count := e.count + 1 })

/-- What an end adds to a job's status (Table 11.5). -/
def Job.addEnd (e : Job) (how : EndKind) (code : Code) : Job :=
  match how with
  | .completed => e
  | .failed => { e with failed := Nat.min (e.failed + 1) (2 ^ 32 - 1), first := if e.first = 0 then code else e.first }
  | .cancelled => { e with anyCancel := true }

/-- The status word of JOIN (R258). -/
def Job.status (e : Job) : Word :=
  BitVec.ofNat 64 (e.first.toNat + 2 ^ 8 * e.anyCancel.toNat + 2 ^ 16 * e.failed)

/-! ### Keys (R250) -/

def bumpKey (f : Foreman) (n : Nat) (completed : Bool) : Foreman :=
  if n = 0 then f else
  let k := f.key n
  if completed then (if k.c = 65535 then { f with keyOvf := true } else f.setKey n { k with c := k.c + 1 })
  else (if k.x = 65535 then { f with keyOvf := true } else f.setKey n { k with x := k.x + 1 })

/-- The oldest waiters of a key consume its counts: X first, which cancels them, then C, which makes them ready. -/
def settleKey (time : Nat) : Nat → Foreman → Nat → Foreman
  | 0, f, _ => f
  | n + 1, f, i =>
    let k := f.key i
    match k.waiters with
    | [] => f
    | p :: rest =>
      if 0 < k.x then
        settleKey time n { f.setKey i { k with x := k.x - 1, waiters := rest } with inbox := f.inbox ++ [.ended p .cancelled 0] } i
      else if 0 < k.c then
        let f := f.setKey i { k with c := k.c - 1, waiters := rest }
        settleKey time n (match f.entry p with
          | some t => { f.setEntry p (some { t with state := .ready, readyAt := time, order := f.nextOrder }) with nextOrder := f.nextOrder + 1 }
          | none => f) i
      else f

def settle (time : Nat) (f : Foreman) (i : Nat) : Foreman := settleKey time ((f.key i).waiters.length) f i

/-- A key with nothing counted and no waiter takes the ASID of the task that names it. -/
def claimKey (f : Foreman) (n : Nat) (asid : BitVec 16) : Foreman :=
  if n = 0 then f else
  let k := f.key n
  if k.c = 0 ∧ k.x = 0 ∧ k.waiters.isEmpty then f.setKey n { k with asid := some asid } else f

/-! ### Taking a record into the pool -/

/-- The module number, and whether an origin is this module. -/
def ownModule (s : State) : Nat := s.head.moduleNo.toNat
def isOwn (s : State) (origin : Nat) : Bool := decide (origin % 4096 = ownModule s)

/-- A message leaves for another module. -/
def sendAdit (s : State) (module : Nat) (m : AditMsg) : State := { s with sent := s.sent ++ [(module, m)] }

/-- A message to the foreman of die d, from die `from_` (4 is the pithead die), on the route of R13; one that fails its last
retransmission is lost (06_memory.md R139, 10_faults_modes.md R236; log 141). -/
def tell (s : State) (from_ d : Nat) (m : Msg) : State :=
  match crossFrom s from_ d 0 with
  | (s, true) => s
  | (s, false) => s.modForeman d (fun f => { f with inbox := f.inbox ++ [m] })

/-- A message to another module, over the pithead die. -/
def tellModule (s : State) (from_ module : Nat) (m : AditMsg) : State :=
  match crossFrom s from_ 4 0 with
  | (s, true) => s
  | (s, false) => sendAdit s module m

/-- A rejected record changes no key (R245; Table 11.5 counts one that was counted as FAILED: log 129). REJECTS rises, modulo
2^32 (log 130). A job open for it takes TASK, and is lowered if it was counted; a job of another module, whose ENQ has
counted the record, learns of it over Adit (R245, R249, R251). -/
def rejectRecord (s : State) (d q : Nat) (r : QWord) (asid : BitVec 16) (origin : Nat) (counted : Bool) : State :=
  let s := s.modForeman d (fun f =>
    let w := f.descWord q 3
    f.setDesc q 3 (BitVec.ofNat 64 ((field w 63 32 + 1) % 2 ^ 32 * 2 ^ 32 + field w 31 0)))
  let j := recJob r
  let e := (s.foreman (jobCluster j)).job (jobIndex j)
  if j = 0 then s
  else if !isOwn s origin then tellModule s d (origin % 4096) (.decrement j .failed fcTASK)
  else if e.isOpen ∧ e.gen = jobGen j ∧ e.asid = asid then
    modJob s j (fun e => { e.addEnd .failed fcTASK with count := if counted then e.count - 1 else e.count })
  else s

/-- A record that has been counted enters the pool of foreman d: waiting on its key or ready, or, when its job is being
cancelled or its queue is not enabled, it ends CANCELLED (R250, R259, R262). -/
def admitRecord (s : State) (d q : Nat) (r : QWord) (asid : BitVec 16) (origin : Nat) (fromEnq : Bool) : State :=
  let f := s.foreman d
  match f.freeEntry with
  | none => s
  | some p =>
    let prio := Nat.min (recPrio r) (f.prioMax q)
    let t : Task := { record := r, queue := q, origin, state := .waiting, prio, readyAt := s.time, order := f.nextOrder }
    let f := claimKey (claimKey f (recSig r) asid) (recWait r) asid
    let f := { f.setEntry p (some t) with nextOrder := f.nextOrder + 1 }
    let cancelling := isOwn s origin && decide (recJob r ≠ 0) &&
      ((s.foreman (jobCluster (recJob r))).job (jobIndex (recJob r))).cancelling
    if cancelling ∨ (fromEnq ∧ f.enabled q = false) then
      s.setForeman d { f with inbox := f.inbox ++ [.ended p .cancelled 0] }
    else
      s.setForeman d (if recWait r = 0 then f.setEntry p (some { t with state := .ready })
        else
          let k := f.key (recWait r)
          settle s.time (f.setKey (recWait r) { k with waiters := k.waiters ++ [p] }) (recWait r))

/-! ### JOIN and CANCEL -/

/-- The QUEUE condition of JOIN and CANCEL (Table 11.6). -/
def jobDenied (s : State) (k : Nat) (j : BitVec 16) : Bool :=
  let e := (s.foreman (jobCluster j)).job (jobIndex j)
  decide (j = 0) || (e.isOpen && decide (e.gen = jobGen j ∧ e.asid ≠ (s.thread k).asid ∧ (s.thread k).asid ≠ 0))

/-- The job ID in ga. -/
def jobArg (s : State) (k : Nat) (a : BitVec 5) : BitVec 16 := (rg s k a).extractLsb' 0 16

/-- Every other thread that waits on the job returns the same word (R258, R362). -/
def releaseJoins (s : State) (me : Nat) (j : BitVec 16) (v : Word) : State :=
  (List.range 384).foldl (fun s k =>
    match (s.thread k).joining, (s.thread k).stall with
    | some x, some st => if x = j ∧ k ≠ me then retire (wg s k st.d v) k else s
    | _, _ => s) s

def execJoin (d a : BitVec 5) (s : State) : Res :=
  onThread s (fun k =>
    let j := jobArg s k a
    if jobDenied s k j then .next (raise s k fcQUEUE 0) else
    let e := (s.foreman (jobCluster j)).job (jobIndex j)
    if e.isOpen = false ∨ e.gen ≠ jobGen j then setG s k d 0x13
    else if e.count = 0 then
      let s := (modJob s j (fun _ => {})).modForeman (jobCluster j) (fun f => { f with sentTo := f.sentTo.filter (fun e => decide (e.1 ≠ j)) })
      setG (releaseJoins s k j e.status) k d e.status
    else
      stallAt (s.modThread k (fun t => { t with joining := some j })) k true d false)

/-- The home sets CANCELLING and sends the cancel to the module's four foremen and to every module that has received an ENQ
of the job (R259, 15_ref_a_c.md R331). -/
def sendCancel (s : State) (j : BitVec 16) : State :=
  let e := (s.foreman (jobCluster j)).job (jobIndex j)
  if e.isOpen ∧ e.gen = jobGen j then
    let s := modJob s j (fun e => { e with cancelling := true })
    let s := (List.range 4).foldl (fun s d => tell s (jobCluster j) d (.cancel j (ownModule s))) s
    ((s.foreman (jobCluster j)).sentTo.filter (fun e => decide (e.1 = j))).foldl (fun s e =>
      tellModule s (jobCluster j) e.2 (.cancel j (ownModule s))) s
  else s

/-- The thread's own task is abandoned at the next boundary if it belongs to the cancelled job (R261, 15_ref_a_c.md R331). -/
def abandonOwn (s : State) (k : Nat) (j : BitVec 16) : State :=
  let d := coreDie k
  match (s.thread k).task.bind (fun p => ((s.foreman d).entry p).map (fun t => (p, t))) with
  | none => s
  | some (p, t) =>
    if isOwn s t.origin ∧ recJob t.record = j ∧ ((s.foreman (jobCluster j)).job (jobIndex j)).cancelling then
      stopWork (s.modForeman d (fun f => f.setEntry p (some { t with doomed := true }))) k
    else s

/-- A message of core k to the foreman of die e, on the route of R13 (06_memory.md R139, 10_faults_modes.md R236). -/
def toForeman (s : State) (k e : Nat) : State × Bool := crossFrom s (coreDie k) e 0

def execCancel (a : BitVec 5) (s : State) : Res :=
  onThread s (fun k =>
    let j := jobArg s k a
    if jobDenied s k j then .next (raise s k fcQUEUE 0) else
    match toForeman s k (jobCluster j) with
    | (s, true) => .next (raise s k fcLINK (Config.evalWithoutVa s.tick))
    | (s, false) => .next (retire (abandonOwn (sendCancel s j) k j) k))

/-! ### ENQ -/

/-- The destination in ga (13_encodings.md R283). -/
structure EnqDest where
  queue : Nat
  cluster : Nat
  module : Nat
  remote : Bool
  ok : Bool

def enqDest (v : Word) : EnqDest :=
  { queue := field v 7 0, cluster := field v 15 8, module := field v 27 16, remote := v.getLsbD 28,
    ok := decide (field v 7 0 ≤ 15 ∧ field v 15 8 ≤ 3 ∧ field v 63 29 = 0) }

/-- The line that holds descriptor q of foreman d, in the control-register space (14_system.md Table 14.1). -/
def descLine (d q : Nat) : Nat := regsBase + d * 0x10000000 + 0x4000000 + 32 * q / 128 * 128

/-- Step 6 at a foreman of this module: the record is taken under the queue it names, or rejected (R243, R245). -/
def deliverRecord (s : State) (d q : Nat) (r : QWord) (asid : BitVec 16) (origin : Nat) : State :=
  let r := r ||| (1#128 <<< 14)
  if recordOk s d r asid false then admitRecord s d q r asid origin true
  else rejectRecord s d q r asid origin true

/-- The rules of R245 on reserved bits, keys and JOB, as they stand at the sender: a key's use shows at a foreman of its own
module (R260). -/
def senderOk (s : State) (t : EnqDest) (r : QWord) (asid : BitVec 16) : Bool :=
  recordFormOk r && jobOk s (recJob r) asid &&
    (t.remote || (keyOk (s.foreman t.cluster) (recWait r) asid && keyOk (s.foreman t.cluster) (recSig r) asid))

/-- TIME at which the thread first asked the foreman of die d for an entry of its pool. -/
def askedAt (s : State) (k d : Nat) : Nat :=
  match ((s.thread k).stall.bind (·.asked)) with
  | some (e, n) => if e = d then n else s.time
  | none => s.time

/-- A thread that asked earlier, or in the same ns from a core of lower number, waits for the pool of foreman d: threads are
served in age order (02_execution_model.md R52). -/
def enqElder (s : State) (k d : Nat) : Bool :=
  s.threads.any (fun e => decide (e.1 ≠ k) && (match e.2.stall.bind (·.asked) with
    | some (f, n) => decide (f = d ∧ (n < askedAt s k d ∨ (n = askedAt s k d ∧ e.1 < k)))
    | none => false))

/-- ENQ stalls while the pool is full (16_ref_d_l.md R351 step 3). -/
def enqStall (s : State) (k d : Nat) : Res :=
  let n := askedAt s k d
  match stallAt s k false 0 false with
  | .next s => .next (s.modThread k (fun t => { t with stall := t.stall.map (fun x => { x with asked := some (d, n) }) }))
  | r => r

def execEnq (q : BitVec 3) (a : BitVec 5) (s : State) : Res :=
  onThread s (fun k =>
    let r := rq s k q
    let t := enqDest (rg s k a)
    let asid := (s.thread k).asid
    let j := recJob r
    if t.ok = false ∨ senderOk s t r asid = false then .next (raise s k fcQUEUE 0)
    else if t.remote then
      match crossFrom s (coreDie k) 4 0 with
      | (s, true) => .next (raise s k fcLINK (Config.evalWithoutVa s.tick))
      | (s, false) =>
        if (aditPort s t.module 0).isNone ∨ Config.remoteAnswer s.tick = 1 then .next (raise s k fcLINK (Config.evalWithoutVa s.tick))
        else if Config.remoteAnswer s.tick = 2 then .next (raise s k fcACCESS (Config.evalWithoutVa s.tick))
        else if Config.remoteAnswer s.tick = 3 then stallAt s k false 0 false
        else releaseAt s k 3
          (let s := raiseJob s j asid
           let s := if j = 0 then s else s.modForeman (jobCluster j) (fun f =>
             { f with sentTo := if f.sentTo.contains (j, t.module) then f.sentTo else f.sentTo ++ [(j, t.module)] })
           .next (retire (sendAdit s t.module (.enq t.cluster t.queue r asid (ownModule s + 4096 * coreDie k))) k))
    else match toForeman s k t.cluster with
    | (s, true) => .next (raise s k fcLINK (Config.evalWithoutVa s.tick))
    | (s, false) =>
      if permitted s (tgtForeman t.cluster) (coreMaster k) (descLine t.cluster t.queue) 128 .write = false then
        .next (raise (deny s (tgtForeman t.cluster) (coreMaster k) (descLine t.cluster t.queue) Kind.write.denial) k fcACCESS
          (Config.evalWithoutVa s.tick))
      else if (s.foreman t.cluster).full || enqElder s k t.cluster then enqStall s k t.cluster
      else releaseAt s k 2
        (let s := raiseJob s j asid
         .next (retire (deliverRecord s t.cluster t.queue r asid (ownModule s + 4096 * coreDie k)) k)))

/-! ### DONE and EXIT -/

/-- The scope of the release of DONE and EXIT: SYSTEM for a task of another module (R257). -/
def endScope (s : State) (k : Nat) : Nat :=
  match (s.thread k).task with
  | some p => (match (s.foreman (coreDie k)).entry p with
    | some t => if isOwn s t.origin then 2 else 3
    | none => 2)
  | none => 2

/-- Every open stream of core k is asked to close, as SCLOSE closes it. -/
def closeStreams (s : State) (k : Nat) : State :=
  (List.range 32).foldl (fun s n =>
    let p := s.port (portKey k n)
    if p.isOpen then s.setPort (portKey k n) { p with closing := some (p.closing.getD 0) } else s) s

def noCommands (s : State) (k : Nat) : Bool := (s.core k).queues.all (fun e => e.2.isEmpty)

def execDone (a : BitVec 5) (s : State) : Res :=
  onThread s (fun k =>
    match (s.thread k).task with
    | none => .next (raise s k fcQUEUE 0)
    | some _ =>
      if noCommands s k = false then waitAt s k true
      else if workLeft s k then waitAt (closeStreams s k) k true
      else if released s k (endScope s k) = false then waitAt s k true
      else
        let code : Code := (rg s k a).extractLsb' 0 8
        .next (endTask s k (if code = 0 then .completed else .failed) code))

/-- Some command of the core is stopped by an abandonment: it stands in a queue, is a stream program that has something left
to emit or absorb, or belongs to a collective instance, which ends (R261, 15_ref_a_c.md R338). -/
def anyStopped (s : State) (k : Nat) : Bool :=
  (s.core k).queues.any (fun e => e.2.any (fun c =>
    decide (c.phase = .queued ∨ c.phase = .ready ∨ (e.1 = 0 ∧ c.phase = .started ∧ c.progress % 4 ≠ 2)) ||
      (decide (c.phase = .started) && s.colls.any (fun x => x.members.any (fun m => decide (m.core = k ∧ m.cmdId = c.id))))))

def execExit (a : BitVec 5) (s : State) : Res :=
  onThread s (fun k =>
    match (s.thread k).task with
    | none =>
      if isPriv s k then .next (s.modThread k (fun t => { t with run := .parked })) else .next (raise s k fcQUEUE 0)
    | some _ =>
      releaseAt s k (endScope s k)
        (let code : Code := (rg s k a).extractLsb' 0 8
         let code := if code = 0 ∧ anyStopped s k then fcTASK else code
         .next (endTask (stopWork s k) k (if code = 0 then .completed else .failed) code)))

end Sys2Proof.Machine
end

