-- ==== Sys2Proof/Machine/Tokens.lean ====
section
/-!
DEFINITION. What an AG tile does on its turn: an entry tile emits SOT, element tokens, EOT and SBARTOK; an exit tile takes
tokens; the indirect stream engines; pushed lines (02_execution_model.md R31, R34, R42, 03_fabric.md R78, 06_memory.md R141 to
R144, 07_consistency.md R159 to R162, 09_attention.md R192 to R200, 18_ref_s.md R404 to R409, 12_power.md R270).
-/
namespace Sys2Proof.Machine

open Sys2Proof

/-! ### Segments and elements of a program -/

/-- SEAM of an affine block. -/
def blkSeam (b : BitVec 512) : Bool := decide (blk b 40 1 / 16 % 2 = 1)
/-- Element size in bytes: ESIZE is a size code (13_encodings.md Table 13.4). -/
def Prog.esize (g : Prog) : Nat :=
  match g.kind with
  | .load | .push | .store => 2 ^ (blk g.block 40 1 % 4)
  | .gather | .scatter => 2 ^ (blk g.block 25 1 % 4)
  | .kvadmit => if blk g.block 10 1 / 4 % 2 = 1 then 4 else 2

/-- Decodes seam blocks. -/
def Prog.seam (g : Prog) : Bool := decide (g.kind = .kvadmit) || (decide (g.kind = .load) && blkSeam g.block)

/-- Segments of the whole program. -/
def Prog.segTotal (g : Prog) : Nat :=
  match g.kind with
  | .load | .push | .store => affineSegs g.block
  | .kvadmit => if blk g.block 10 1 / 8 % 4 = 1 then blk g.block 8 2 else 1
  | .gather | .scatter =>
    let e := blk g.block 28 4
    if e = 0 then 1 else (blk g.block 20 4 + e - 1) / e

/-- Elements, or runs of a KVADMIT, in the current segment (R31, R199, R404). -/
def Prog.elems (g : Prog) : Nat :=
  match g.kind with
  | .load | .push | .store => affineElems g.block
  | .kvadmit => if blk g.block 10 1 / 8 % 4 = 1 then 1 else blk g.block 8 2
  | .gather | .scatter =>
    let e := blk g.block 28 4
    if e = 0 then blk g.block 20 4 else Nat.min e (blk g.block 20 4 - g.segsDone * e)

/-- Index in the whole program of element i of the current segment of an indirect program. -/
def Prog.indirectIndex (g : Prog) (i : Nat) : Nat := g.segsDone * blk g.block 28 4 + i

/-! ### Tokens an AG tile forms (03_fabric.md Table 3.3) -/

def frameTok (kind : BitVec 4) (slot seg sid : Nat) (empty : Bool) : Token :=
  { kind, slot := BitVec.ofNat 4 slot, tag := BitVec.ofNat 12 seg,
    payload := BitVec.ofNat 512 (seg % 2 ^ 32 + 2 ^ 32 * sid + 2 ^ 40 * empty.toNat), seg }

/-- An SBARTOK: no rule gives its tag, which the model leaves 0 (log 23). -/
def sbarTok (slot seg : Nat) (mask : Nat) (scope : Nat) : Token :=
  { kind := kSBARTOK, slot := BitVec.ofNat 4 slot, payload := BitVec.ofNat 512 (mask + 2 ^ 32 * scope), seg }

/-- A WORD token of bytes from position 0 on: lanes that hold a byte are valid (R78). -/
def wordTok (slot seg : Nat) (bytes : List Byte) : Token :=
  { kind := kWORD, slot := BitVec.ofNat 4 slot, tag := BitVec.ofNat 12 seg, payload := BitVec.ofNat 512 (ofBytes bytes), seg,
    valid := ofFlags (fun i => decide (4 * i < bytes.length)) }

/-! ### Base dies (06_memory.md R142) -/

def State.baseDie (s : State) (j : Nat) : StackSt := Map.get {} s.baseDies j
def State.modBaseDie (s : State) (j : Nat) (f : StackSt → StackSt) : State := { s with baseDies := Map.set {} s.baseDies j (f (s.baseDie j)) }

/-- The base die of the stack that homes the element base; the first stack of the own die when none does (R142; log 43). -/
def stackOf (s : State) (k : Nat) (asid : BitVec 16) (va : Nat) : Nat :=
  match (locate s k asid va .read false).2 with
  | .ok (pa, _) => if pa < 2 ^ 39 then pa / 2 ^ 36 else 2 * coreDie k
  | .error _ => 2 * coreDie k

/-- The command of an indirect program stands in a base die's queue, or an engine runs it. -/
def atBaseDie (s : State) (k id : Nat) : Bool :=
  s.baseDies.any (fun e => e.2.iseQueue.contains (k, id) || e.2.ise.any (fun x => decide (x.2 = some (k, id))))

/-- What becomes of a command that is sent to a base die: it stands in that die's queue, the queue is full, or a link on the
way fails (01_device.md R23, 10_faults_modes.md R236). -/
inductive Sent where
  | ok (s : State)
  | full
  | lost (s : State)

/-- The AG tile sends an indirect command to its base die, over the mesh where that is another die's, unless that die's queue
of 64 is full (R142, 01_device.md R13). -/
def sendIndirect (s : State) (k id : Nat) (asid : BitVec 16) (b : BitVec 512) : Sent :=
  let j := stackOf s k asid (blk b 8 8)
  if 64 ≤ (s.baseDie j).iseQueue.length then .full
  else match crossFrom s (coreDie k) (j / 2) 0 with
    | (s, true) => .lost s
    | (s, false) => .ok (s.modBaseDie j (fun d => { d with iseQueue := d.iseQueue ++ [(k, id)] }))

/-- A running program that has been rewound or resumed, and that no base die holds any more, is sent there again. -/
def resend (s : State) (k n : Nat) : State :=
  match (s.port (portKey k n)).prog, progSite s k n with
  | some g, some a =>
    if (g.kind = .gather ∨ g.kind = .scatter) ∧ atBaseDie s k g.cmdId = false then
      match sendIndirect s k g.cmdId g.asid g.block with
      | .ok s => s
      | .full => s
      | .lost s => agFault s a fcLINK (s.port (portKey k n)).segNo 0 [0, 0, 0, 0]
    else s
  | _, _ => s

/-! ### Sending into the fabric -/

/-- The tile that stream n's next token enters: its border tile, or that tile's counterpart in the copy that takes the
token's segment, or, for a token between segments, the segment that follows (02_execution_model.md R50). -/
def agEntry (s : State) (k n : Nat) : Nat × Nat × Nat :=
  let (y, x, d) := agSite n
  let p := s.port (portKey k n)
  match agSiteOf s k n with
  | none => (y, x, d)
  | some a =>
    match copyOfSeg a.ctx p.segNo with
    | 0 => (y, x, d)
    | m + 1 => (match (a.ctx.clones[m]?).bind (s.region k) with
      | some r => (r.y0 + (y - a.reg.y0), r.x0 + (x - a.reg.x0), d)
      | none => (y, x, d))

/-- Free entries of the input of the tile that the AG tile sends to. -/
def agRoom (s : State) (k n : Nat) : Nat :=
  let (y, x, d) := agEntry s k n
  match siteOf s k y x 0 with
  | none => 0
  | some st => if isFifo st then fifoFree s st else 4 - (inputOf s (tileKey k y x) d).length

/-- The meter lets one token go (12_power.md R270). -/
def meterTake (s : State) (k n : Nat) : Option State :=
  let s := settleMeter s k n
  let m := (s.core k).meter n
  if 1300 ≤ m.b then some (s.modCore k (fun c => c.setMeter n { m with b := m.b - 1300 })) else none

/-- No data token leaves the AG tile: its channel declares rate 0 (R36). -/
def agMuted (a : AgSite) : Bool :=
  match a.ctx.chans.find? (fun h => h.fromAg && decide (h.sid = a.n)) with
  | some h => h.rated && decide (h.p = 0)
  | none => false

/-- The AG tile sends a token: the meter is charged, and the border tile receives it, except a data token on a channel
of rate 0, which is no token sent (R36, 12_power.md R270). -/
def agSend (s : State) (a : AgSite) (t : Token) : State :=
  if agMuted a && t.isData then s
  else
    let s := linkSent (stirred ((meterTake s a.k a.n).getD s) a.k a.j) (linkOfAg (portKey a.k a.n))
    let (y, x, d) := agEntry s a.k a.n
    deliver s a.k y x d t

def setProg (s : State) (k n : Nat) (g : Prog) : State := s.modPort (portKey k n) (fun p => { p with prog := some g })

def modProg (s : State) (k n : Nat) (f : Prog → Prog) : State := s.modPort (portKey k n) (fun p => { p with prog := p.prog.map f })

/-- A program has nothing left to emit or absorb: the next one of the port follows it (R393). -/
def finishProg (s : State) (k n : Nat) (g : Prog) : State :=
  let s := setProgress s k g.cmdId 2
  s.modPort (portKey k n) (fun p => { p with
    past := if g.marks.isEmpty then p.past else p.past ++ [{ g with fetched := [] }]
    prog := p.redo.head?, redo := p.redo.drop 1 })

/-! ### When an SOT may leave (R40, R42, R159, R226, R394, 11_scheduling.md R261) -/

/-- The thread's task is being stopped or abandoned. -/
def taskHalted (s : State) (k : Nat) : Bool :=
  match (s.thread k).task with
  | some p => (match (s.foreman (coreDie k)).entry p with | some t => t.stopping || t.doomed | none => false)
  | none => false

/-- A program of the load with SBEN names stream n in its mask, and its barrier after segment seg - 1 is not complete. -/
def sbenHolds (s : State) (a : AgSite) (seg : Nat) : Bool :=
  decide (0 < seg) && (regionPorts s a.k a.j).any (fun m =>
    let p := s.port (portKey a.k m)
    p.entry && (match p.prog with
      | some g => decide (g.kind = .load ∨ g.kind = .push) && decide (blk g.block 41 1 % 2 = 1) &&
          (BitVec.ofNat 32 (blk g.block 44 4)).getLsbD a.n && decide (seg % blk g.block 42 2 = 0) &&
          (decide (p.segNo < seg) || g.sbDue)
      | none => false)) ||
  s.barriers.any (fun b => decide (b.core = a.k ∧ b.region = a.j ∧ b.key + 1 = seg) && !b.order && b.cmdId.isNone && b.mask.getLsbD a.n)

/-- The cage: K, or 1 under PRECISE (R42, 10_faults_modes.md R231). -/
def cageOf (x : Ctx) : Nat := if x.mode.getLsbD 1 then 1 else x.cage

/-- An SOT may leave: a segment that other entry streams have begun is finished even while the region is being switched,
stopped or retired, or a later segment has faulted; a new one waits for that and for the cage (R40, R42, 10_faults_modes.md
R225, R226). -/
def maySot (s : State) (a : AgSite) : Bool :=
  let p := s.port (portKey a.k a.n)
  let live := liveSegs s a.k a.j a.c
  !portHeld s p && !sbenHolds s a p.segNo &&
    (live.any (fun g => decide (g.n = p.segNo) && !g.sent.contains a.n) ||
     (a.ctx.final.isNone && a.ctx.rerun.isNone && a.reg.switching.isNone && a.reg.pendCmd.isNone && !taskHalted s a.k && p.closing.isNone &&
      decide (live.length < cageOf a.ctx) && (!removalDue a.ctx || live.isEmpty) && !a.ctx.copyDue))

/-- The segment that an SOT opens joins those in flight (R33). -/
def openSeg (s : State) (a : AgSite) (n : Nat) : State :=
  modCtx s a.k a.j a.c (fun x => { x with segs := if x.segs.any (fun g => decide (g.n = n)) then x.segs else x.segs ++ [{ n }] })

def emitSot (s : State) (a : AgSite) (g : Prog) (slot : Nat) : State :=
  let n := (s.port (portKey a.k a.n)).segNo
  let s := dropSettled s a.k a.j a.c
  let s := if removalDue a.ctx && (liveSegs s a.k a.j a.c).isEmpty then dropCopies s a.k a.j a.c (a.ctx.clones.length - 1) else s
  let s := openSeg (agSend s a (frameTok kSOT slot n a.n false)) a n
  let g := match (s.port (portKey a.k a.n)).prog with | some h => h | none => g
  setProg s a.k a.n { g with inSeg := true, pos := 0, sub := 0, toks := 0, marks := g.marks ++ [(n, g.segsDone, 0)] }

/-- After the EOT, and after the SBARTOK that may follow it, the program goes on or has finished. -/
def afterEot (s : State) (k n : Nat) (g : Prog) : State :=
  if g.segTotal ≤ g.segsDone ∧ g.sbDue = false then finishProg s k n g else setProg s k n g

def emitEot (s : State) (a : AgSite) (g : Prog) (slot : Nat) : State :=
  let n := (s.port (portKey a.k a.n)).segNo
  let s := agSend s a (frameTok kEOT slot n a.n (decide (g.toks = 0)))
  let s := modSeg s a.k a.j a.c n (fun x => { x with sent := x.sent ++ [a.n] })
  let s := s.modPort (portKey a.k a.n) (fun p => { p with segNo := n + 1 })
  let due := decide (g.kind = .load ∨ g.kind = .push) && decide (blk g.block 41 1 % 2 = 1) && decide ((n + 1) % blk g.block 42 2 = 0)
  afterEot s a.k a.n { g with inSeg := false, segsDone := g.segsDone + 1, pos := 0, sub := 0, sbDue := due }

/-- The SBARTOK of a segment: the barrier instance exists from here on (R159). -/
def emitSbar (s : State) (a : AgSite) (g : Prog) (slot : Nat) : State :=
  let n := (s.port (portKey a.k a.n)).segNo - 1
  let mask := blk g.block 44 4
  let scope := blk g.block 41 1 / 2 % 4
  let s := agSend s a (sbarTok slot n mask scope)
  let s := if (findBarrier s a.k a.j n false (BitVec.ofNat 32 mask)).isSome then s
    else addBarrier s { id := 0, core := a.k, region := a.j, mask := BitVec.ofNat 32 mask, reached := 0,
                        scope := BitVec.ofNat 2 scope, cmdId := none, key := n, order := false, seg := n }
  afterEot s a.k a.n { g with sbDue := false }

/-! ### Elements read at an entry tile -/

/-- A visited address is misaligned or outside the virtual space (R406). -/
def addrBad (a : Int) (e : Nat) : Option Code :=
  if a < 0 ∨ (2 : Int) ^ 56 ≤ a then some fcXLATE else if a % (e : Int) ≠ 0 then some fcALIGN else none

/-- What a tile meets at a unit of its reads, an element or a row: its address, a wait for the range to be handed over, or a
fault. -/
inductive Visit where
  | at_ (va : Nat)
  | held
  | bad (code : Code) (va : Nat)

/-- An address as the owned ranges let the stream have it (07_consistency.md R160). -/
def ownedVisit (a : AgSite) (g : Prog) (va : Nat) : Visit :=
  match (if g.bind = 7 then Own.yes else ownOf a.ctx a.n va) with
  | .yes => .at_ va
  | .held => .held
  | .no => .bad fcPROT va

/-- The loop counters of element i of an affine program, counted over all its segments. -/
def Prog.countersAt (g : Prog) (i : Nat) : List Nat := counters g.block (i / g.elems) (i % g.elems)

/-- Element i of an affine program, counted over all its segments (R160, R406). -/
def visitElem (a : AgSite) (g : Prog) (i : Nat) : Visit :=
  let ad := affineAddr g.block (g.countersAt i)
  match addrBad ad g.esize with
  | some c => .bad c ad.toNat
  | none => ownedVisit a g ad.toNat

/-- The units from i on that join a line: those in it, as far as the tile has come, while no ninth line is needed; `ls` are
the lines open so far (03_fabric.md R79). -/
def joined (visit : Nat → Visit) (have_ : Nat → Bool) (total line unit : Nat) : Nat → Nat → List Nat → List Nat
  | 0, _, _ => []
  | fuel + 1, i, ls =>
    if total ≤ i then []
    else if have_ i then joined visit have_ total line unit fuel (i + 1) ls
    else match visit i with
      | .at_ va =>
        let l := va / unit
        if l = line then i :: joined visit have_ total line unit fuel (i + 1) ls
        else if ls.contains l then joined visit have_ total line unit fuel (i + 1) ls
        else if ls.length < 8 then joined visit have_ total line unit fuel (i + 1) (l :: ls)
        else []
      | _ => []

/-- The unit at an index has been read. -/
def Prog.has (g : Prog) (i : Nat) : Bool := g.fetched.any (fun e => decide (e.1 = i))

/-- Lines read whose units have not been emitted: at most 48 (06_memory.md Table 6.3). -/
def linesRead (visit : Nat → Visit) (g : Prog) : Nat :=
  ((g.fetched.filterMap (fun e => match visit e.1 with | .at_ va => some (va / unitOf va) | _ => none)).dedup).length

/-- The next line request of an entry tile: the line of the first of the units `start` to `total` - 1 not read yet, with the units
that have joined it, read as one event (07_consistency.md R149, R157; log 41). -/
def readLine (s : State) (a : AgSite) (g : Prog) (visit : Nat → Visit) (size start total : Nat) (fault : State → Nat → Code → Nat → State) : State :=
  match ((List.range (Nat.min (total - start) (g.fetched.length + 1))).map (start + ·)).find? (fun i => !g.has i) with
  | none => s
  | some first =>
    if 48 ≤ linesRead visit g then s else
    match visit first with
    | .held => s
    | .bad c va => fault s first c va
    | .at_ va =>
      match engReach s (streamEng a.k) g.asid va size .read with
      | .wait s => s
      | .fault s c va => fault s first c va
      | .ok s key =>
        let us := first :: joined visit g.has total (va / unitOf va) (unitOf va) (Config.lineSpan s.tick % 1024) (first + 1) [va / unitOf va]
        let got := us.filterMap (fun i => match visit i with
          | .at_ v => if i ≠ first ∧ poisoned s (key + v - va) size then none else some (i, readMem s (key + v - va) size)
          | _ => none)
        setProg (stirred s a.k a.j) a.k a.n { g with fetched := g.fetched ++ got }

/-- The segments of its program, by number, below which an entry tile may read at present. A segment's SOT orders none of its
reads, nor does the cage (07_consistency.md R158): a tile reads on beyond the segment that it emits, unless a barrier may
stand before the next, or its load or program is being stopped. -/
def readBelow (s : State) (a : AgSite) (g : Prog) : Nat :=
  let p := s.port (portKey a.k a.n)
  let cur := g.segsDone + g.inSeg.toNat
  let mayBar := s.barriers.any (fun b => decide (b.core = a.k) && b.mask.getLsbD a.n) ||
    (regionPorts s a.k a.j).any (fun m => match (s.port (portKey a.k m)).prog with
      | some h => decide (h.kind = .load ∨ h.kind = .push) && decide (blk h.block 41 1 % 2 = 1) && (BitVec.ofNat 32 (blk h.block 44 4)).getLsbD a.n
      | none => false)
  if a.ctx.final.isSome || a.ctx.rerun.isSome || a.reg.switching.isSome || a.reg.pendCmd.isSome || p.closing.isSome || taskHalted s a.k ||
      portHeld s p then cur
  else if mayBar then (if g.inSeg || sbenHolds s a p.segNo then cur else cur + 1)
  else g.segTotal

/-- The bytes of units i to i + m - 1, once all of them have been read. -/
def Prog.unitsAt (g : Prog) (i m : Nat) : Option (List Byte) :=
  ((List.range m).mapM (fun d => (g.fetched.find? (fun e => decide (e.1 = i + d))).map (·.2))).map List.flatten

/-! ### Seam rows (R192 to R200) -/

/-- A run of a seam program: block VA, first token, count, its side record's VA, and its counters' second level. -/
structure SeamRun where
  bva : Int
  first : Nat
  count : Nat
  side : Int
  part : Nat
  wide : Bool
  run : Nat

def Prog.seamRun (g : Prog) : SeamRun :=
  match g.kind with
  | .kvadmit =>
    let i := if blk g.block 10 1 / 8 % 4 = 1 then g.segsDone else g.pos
    let r := g.runs.getD i (0, 0, 0)
    { bva := (r.1 : Nat), first := r.2.1, count := r.2.2, run := i, part := blk g.block 10 1 % 4,
      wide := decide (blk g.block 10 1 / 4 % 2 = 1),
      side := (blk g.block 32 8 : Nat) + ((r.1 : Int) - (blk g.block 16 8 : Nat)) / 8 }
  | _ =>
    let b := affineAddr g.block (counters g.block g.segsDone g.pos)
    { bva := b, first := 0, count := ofBytes ((g.side.drop 2).take 2), run := 0, part := blk g.block 40 1 / 32 % 4,
      wide := decide (blk g.block 40 1 % 4 = 2), side := (blk g.block 56 8 : Nat) + (b - (blk g.block 48 8 : Nat)) / 8 }

/-- ITER of a seam stream: row and run of a KVADMIT, the loop counters of an SLOAD (R199, R406). -/
def Prog.seamIter (g : Prog) (row : Nat) : List Nat :=
  if g.kind = .kvadmit then [row, g.seamRun.run, 0, 0] else counters g.block g.segsDone g.pos

def byteAt (l : List Byte) (i : Nat) : Nat := (l.getD i 0).toNat

/-- The header and reserved bytes of a side record are as R200 asks, but for the run and BVA. -/
def sideFormOk (r : List Byte) : Bool :=
  decide (byteAt r 0 = 1) && decide (byteAt r 1 / 16 = 0 ∧ byteAt r 1 % 4 < 2 ∧ byteAt r 1 / 4 % 4 < 2) &&
    (((r.drop 6).take 2) ++ ((r.drop 24).take 40) ++ (r.drop 768)).all (· == 0)

/-- The checks of R200 on a side record for a run (log 42: NTOK above 64 is refused as well). -/
def sideOk (r : List Byte) (u : SeamRun) : Bool :=
  let ntok := ofBytes ((r.drop 2).take 2)
  sideFormOk r && decide ((ofBytes ((r.drop 16).take 8) : Int) = u.bva) && decide (u.first + u.count ≤ ntok ∧ ntok ≤ 64) &&
    (decide (u.part = 1) || decide (u.count = 0) || (List.range 128).all (fun c => !(Float.decode Float.e4m3 (byteAt r (64 + c))).isNan)) &&
    (decide (u.part = 0) || (List.range u.count).all (fun t => !(Float.decode Float.e4m3 (byteAt r (192 + u.first + t))).isNan))

/-- The value of a 4-bit code: INT4 or E2M1 (R192). -/
def seamCode (fmt c : Nat) : Float.Val := if fmt = 0 then Float.ofInt (sextN c 4) else Float.decode Float.e2m1 c

/-- One decoded element, exact (R194). -/
def seamValue (fmt code scale : Nat) (wide : Bool) : Nat :=
  (Float.ofVal (if wide then Float.fp32 else Float.bf16) .rne
    (Float.mulV (seamCode fmt code) (Float.decode Float.e4m3 scale)).1).1

/-- Channels lo to lo + m - 1 of a row as bytes: its 64 code bytes, the side record, K or V, the token. -/
def seamRow (codes side : List Byte) (isV : Bool) (t lo m : Nat) (wide : Bool) : List Byte :=
  let fmt := if isV then byteAt side 1 / 4 % 4 else byteAt side 1 % 4
  (List.range m).flatMap (fun i =>
    let c := lo + i
    let code := byteAt codes (c / 2) / (if c % 2 = 0 then 1 else 16) % 16
    toBytes (if wide then 4 else 2) (seamValue fmt code (byteAt side (if isV then 192 + t else 64 + c)) wide))

/-! ### Emitting -/

/-- ITER at the element reached, and m elements further on: the position in the index stream, or the loop counters (R223,
R405, R406). -/
def progIter (g : Prog) (m : Nat) : List Nat :=
  if g.kind = .scatter ∨ g.kind = .gather then [g.indirectIndex (g.pos + m), 0, 0, 0] else counters g.block g.segsDone (g.pos + m)

/-- An element token leaves, or, as token M + 1 of its segment, raises TOKEN at the element reached (R34). -/
def emitWord (s : State) (a : AgSite) (g : Prog) (slot : Nat) (bytes : List Byte) (iter : List Nat) (next : Prog → Prog) : State :=
  let n := (s.port (portKey a.k a.n)).segNo
  if a.ctx.m ≤ g.toks then agFault s a fcTOKEN n 0 iter
  else setProg (agSend s a (wordTok slot n bytes)) a.k a.n (next { g with toks := g.toks + 1 })

/-- Row r of the current run of a seam stream: 64 bytes of K or V codes of one token (R192, R199). -/
def Prog.rowOf (g : Prog) (r : Nat) : Bool × Nat :=
  let u := g.seamRun
  let rows := if u.part = 2 then 2 else 1
  (decide (u.part = 1) || (decide (u.part = 2) && decide (r % 2 = 1)), u.first + r / rows)

def visitRow (a : AgSite) (g : Prog) (r : Nat) : Visit :=
  ownedVisit a g (g.seamRun.bva.toNat + (if (g.rowOf r).1 then 4096 else 0) + 64 * (g.rowOf r).2)

/-- The turn of a seam stream: the next line of the side record of a new run is read, the record is checked, one line of rows
is read, or one token of a row leaves (R192 to R200; in order, 16_ref_d_l.md R364). Before its segment has begun it reads on,
and a fault waits for that. -/
def seamTurn (s : State) (a : AgSite) (g : Prog) (slot : Nat) (room : Bool) : State :=
  let u := g.seamRun
  let e := streamEng a.k
  let tpr := if u.wide then 8 else 4
  let rows := if u.part = 2 then 2 else 1
  let s0 := s
  let fault (s : State) (row : Nat) (c : Code) (va : Nat) : State :=
    if g.inSeg then agFault s a c (s.port (portKey a.k a.n)).segNo va (g.seamIter row) else s0
  if u.bva < 0 ∨ (2 : Int) ^ 56 ≤ u.bva ∨ u.side < 0 ∨ (2 : Int) ^ 56 ≤ u.side then fault s 0 fcXLATE u.bva.toNat
  else if u.bva % 8192 ≠ 0 then fault s 0 fcALIGN u.bva.toNat
  else if g.side.isEmpty then
    let ps := numbered [(u.side.toNat, 1024)]
    let left := ps.filter (fun p => g.parts.all (fun x => decide (x.1 ≠ p.2)))
    match left[0]? with
    | some ((va, m), i) =>
      (match ownedVisit a g va with
       | .held => s
       | .bad c va => fault s 0 c va
       | .at_ va =>
         match engReach s e g.asid va m .read with
         | .wait s => s
         | .fault s c va => fault s 0 c va
         | .ok s key => setProg (stirred s a.k a.j) a.k a.n { g with parts := g.parts ++ [(i, readMem s key m)] })
    | none =>
      match engWalk s e g.asid u.bva.toNat with
      | .wait s => s
      | .fault s c => fault s 0 c u.bva.toNat
      | .ready s _ =>
      match engLocate s e g.asid u.bva.toNat .read with
      | (s, .error c) => fault s 0 c u.bva.toNat
      | (s, .ok (_, seam)) =>
        let r := ps.flatMap (fun p => ((g.parts.find? (fun x => decide (x.1 = p.2))).map (·.2)).getD [])
        if seam && sideOk r { g with side := r }.seamRun then
          setProg s a.k a.n { g with side := r, parts := [], sub := 0, fetched := [] }
        else fault s 0 fcSEAM u.bva.toNat
  else if u.count = 0 then if g.inSeg = false then s else setProg s a.k a.n { g with pos := g.pos + 1, sub := 0, side := [], fetched := [] }
  else
    let row := g.sub / tpr
    match (if room then g.unitsAt row 1 else none) with
    | some codes =>
      let (isV, t) := g.rowOf row
      let bytes := seamRow codes g.side isV t (128 / tpr * (g.sub % tpr)) (128 / tpr) u.wide
      emitWord s a g slot bytes (g.seamIter row) (fun g =>
        if g.sub + 1 = u.count * rows * tpr then { g with pos := g.pos + 1, sub := 0, side := [], fetched := [] }
        else { g with sub := g.sub + 1, fetched := if (g.sub + 1) % tpr = 0 then g.fetched.filter (fun e => decide (e.1 ≠ row)) else g.fetched })
    | none => readLine s a g (visitRow a g) 64 row (u.count * rows) fault

/-- The next read of an affine entry program; a fault counts once the segment of its element has begun (R79, R406,
07_consistency.md R158). -/
def readAhead (s : State) (a : AgSite) (g : Prog) : State :=
  readLine s a g (visitElem a g) g.esize (g.segsDone * g.elems + g.pos) (g.elems * readBelow s a g)
    (fun s' i c va => if g.inSeg ∧ i / g.elems = g.segsDone then agFault s' a c (s.port (portKey a.k a.n)).segNo va (g.countersAt i) else s)

/-- The turn of an entry tile within a segment whose elements are not all emitted: the next element token leaves, if its
elements stand at the tile and it has room, or else the tile reads on (R78, R79, R406, R409). Token M + 1 is not read for. -/
def elemTurn (s : State) (a : AgSite) (g : Prog) (slot : Nat) (room : Bool) : State :=
  let n := (s.port (portKey a.k a.n)).segNo
  let cnt := Nat.min (64 / g.esize) (g.elems - g.pos)
  if a.ctx.m ≤ g.toks then (if room then agFault s a fcTOKEN n 0 (progIter g 0) else s)
  else match g.kind with
    | .push =>
      (match (s.port (portKey a.k a.n)).pushed with
       | [] => s
       | t :: rest =>
         if room then
           let s := s.modPort (portKey a.k a.n) (fun p => { p with pushed := rest })
           emitWord s a g slot ((toBytes 64 t.toNat).take (cnt * g.esize)) (progIter g 0) (fun g => { g with pos := g.pos + cnt })
         else s)
    | .gather =>
      let at_ := g.indirectIndex g.pos
      (match (if room then g.unitsAt at_ cnt else none) with
       | some bytes => emitWord s a g slot bytes (progIter g 0)
           (fun g => { g with pos := g.pos + cnt, fetched := g.fetched.filter (fun e => decide (at_ + cnt ≤ e.1)) })
       | none => s)
    | _ =>
      let at_ := g.segsDone * g.elems + g.pos
      (match (if room && !Config.readsOn s.tick then g.unitsAt at_ cnt else none) with
       | some bytes => emitWord s a g slot bytes (progIter g 0)
           (fun g => { g with pos := g.pos + cnt, fetched := g.fetched.filter (fun e => decide (at_ + cnt ≤ e.1)) })
       | none => readAhead s a g)

/-- The turn of an entry tile between segments of its program: it may read for those that come (07_consistency.md R158). -/
def betweenSegs (s : State) (a : AgSite) (g : Prog) (slot : Nat) : State :=
  if g.segTotal ≤ g.segsDone ∨ g.elems = 0 ∨ readBelow s a g ≤ g.segsDone then s
  else if g.seam then seamTurn s a g slot false
  else if g.kind = .load then readAhead s a g
  else s

/-- The turn of an entry AG tile. A token that would leave over a link that fails charges LINK to its segment
(10_faults_modes.md R236). -/
def emitStep (s : State) (k n : Nat) : State :=
  match closeIfDue s k n with
  | some s => s
  | none =>
    let s := resend s k n
    match (s.port (portKey k n)).prog, progSite s k n with
    | some g, some a =>
      (match a.ctx.edge n with
       | none => s
       | some e =>
         let room := decide (agRoom s k n ≠ 0) && (meterTake s k n).isSome
         let data := room || agMuted a
         let l := linkOfAg (portKey k n)
         if room && linkDown s l then
           segFault (linkSent s l) k a.j a.c { code := fcLINK, seg := (s.port (portKey k n)).segNo - g.sbDue.toNat }
         else if g.sbDue then (if room then emitSbar s a g e.slot else s)
         else if g.inSeg = false then
           (if room && maySot s a && !Config.readsOn s.tick then emitSot s a g e.slot else betweenSegs s a g e.slot)
         else if g.elems ≤ g.pos then (if room then emitEot s a g e.slot else s)
         else if g.seam then seamTurn s a g e.slot data
         else elemTurn s a g e.slot data)
    | _, _ => s

def execStreamTokenEmit (s : State) : Res :=
  match s.self with
  | .ag k n => if (s.port (portKey k n)).entry then .next (firstDone s (emitStep s k n) k n) else .next s
  | _ => .refused .wrongAgent

/-! ### Absorbing (R408) -/

/-- What a store of one element comes to: done, held until the range is handed over or the hold buffer has room, or a fault. -/
inductive Stored where
  | ok (s : State)
  | held (s : State)
  | fault (s : State) (code : Code) (va : Nat)

/-- The hold buffer of 512 entries of 128 bytes has no room for m bytes more beside the lines that are open. -/
def holdFull (s : State) (k n m : Nat) : Bool :=
  replayAt s k n && decide (65536 < holdUsed (s.port (portKey k n)) + 128 * (s.port (portKey k n)).lines.length + m)

/-- A full hold buffer waits for the release of an older segment's lines; the oldest segment raises HOLD (R224). -/
def holdAnswer (s : State) (k n : Nat) (seg : Nat) : Stored :=
  if (s.port (portKey k n)).hold.any (fun h => match h with
    | .line l => decide (l.seg < seg) | .order _ _ g => decide (g < seg) | .scatter _ _ g => decide (g < seg)) then .held s
  else .fault s fcHOLD 0

/-- One element of an SSTORE: address, ownership, translation for writing, and its line (R160, R406, R408). -/
def storeElem (s : State) (a : AgSite) (g : Prog) (i seg : Nat) (bytes : List Byte) : Stored :=
  let cs := counters g.block g.segsDone i
  let ad := affineAddr g.block cs
  match addrBad ad g.esize with
  | some c => .fault s c ad.toNat
  | none =>
    let va := ad.toNat
    let own := if g.bind = 7 then .yes else ownOf a.ctx a.n va
    match own with
    | .held => .held s
    | .no => .fault s fcPROT va
    | .yes =>
      match engWalk s (streamEng a.k) g.asid va with
      | .wait s => .held s
      | .fault s c => .fault s c va
      | .ready s _ =>
      match engLocate s (streamEng a.k) g.asid va .write with
      | (s, .error c) => .fault s c va
      | (s, .ok (pa, _)) =>
        match placeOf s pa with
        | .error c => .fault s c va
        | .ok _ =>
          let lines := (s.port (portKey a.k a.n)).lines
          let known := lines.any (fun l => decide (l.va = va / 128 * 128 ∧ l.seg = seg ∧ l.due = false))
          if !known && holdFull s a.k a.n 128 then holdAnswer s a.k a.n seg
          else if !known && decide (8 ≤ lines.length) && !replayAt s a.k a.n then .held (flushOne s a.k a.n)
          else .ok (joinLine s a.k a.n va pa bytes
            { va := 0, pa := 0, cells := [], seg, cmdId := g.cmdId, asid := g.asid, ipc := g.ipc, iter := cs })

/-- One element of an SSCATTER: its bytes wait for the engine, under REPLAY in the hold buffer (R405). -/
def scatterElem (s : State) (a : AgSite) (g : Prog) (i seg : Nat) (bytes : List Byte) : Stored :=
  let at_ := g.indirectIndex i
  if replayAt s a.k a.n then
    if holdFull s a.k a.n bytes.length then holdAnswer s a.k a.n seg
    else .ok (s.modPort (portKey a.k a.n) (fun p => { p with hold := p.hold ++ [.scatter at_ bytes seg] }))
  else
    match (s.port (portKey a.k a.n)).prog with
    | some h =>
      if 512 ≤ h.fetched.length then .held s
      else .ok (setProg s a.k a.n { h with fetched := h.fetched ++ [(at_, bytes)] })
    | none => .ok s

/-- Stores the elements of a token from position `from_` on; answers the position reached, and whether the token is
used up, waits, or faults. -/
def storeToken (a : AgSite) (t : Token) (seg : Nat) : List Nat → State → Prog → Stored × Nat
  | [], s, g => (.ok s, g.sub)
  | m :: rest, s, g =>
    let e := g.esize
    let lanes := (List.range e).map (fun b => (e * m + b) / 4)
    let here : Prog := { g with sub := m }
    if lanes.all (fun l => t.valid.getLsbD l) then
      let bytes := (List.range e).map (fun b => payByte t.payload (e * m + b))
      match (if g.kind = .scatter then scatterElem s a g (g.pos + m) seg bytes else storeElem s a g (g.pos + m) seg bytes) with
      | .ok s => storeToken a t seg rest s { g with sub := m + 1 }
      | r => (r, here.sub)
    else storeToken a t seg rest s { g with sub := m + 1 }

/-- A valid element of the token lies beyond the segment's count. -/
def beyond (t : Token) (g : Prog) : Bool :=
  let e := g.esize
  (List.range (64 / e)).any (fun m => decide (g.elems ≤ g.pos + m) &&
    (List.range e).all (fun b => t.valid.getLsbD ((e * m + b) / 4)))

def popPort (s : State) (k n : Nat) : State := s.modPort (portKey k n) (fun p => { p with inp := p.inp.drop 1 })

/-- A data token in an open segment. -/
def absorbData (s : State) (a : AgSite) (g : Prog) (t : Token) : State :=
  let seg := g.open_
  let valid := if t.kind = kNULL then 0 else t.valid
  let t := { t with valid }
  if t.kind ≠ kWORD ∧ t.kind ≠ kNULL then agFault s a fcTOKEN seg 0 (progIter g 0)
  else if beyond t g then agFault s a fcTOKEN seg 0 (progIter g 0)
  else
    let per := 64 / g.esize
    match storeToken a t seg ((List.range per).drop g.sub) s g with
    | (.ok s, _) =>
      (match (s.port (portKey a.k a.n)).prog with
       | some h => setProg (popPort s a.k a.n) a.k a.n { h with pos := g.pos + per, sub := 0, toks := g.toks + 1 }
       | none => popPort s a.k a.n)
    | (.held s, m) =>
      (match (s.port (portKey a.k a.n)).prog with
       | some h => setProg s a.k a.n { h with sub := m }
       | none => s)
    | (.fault s c va, m) =>
      agFault (match (s.port (portKey a.k a.n)).prog with
        | some h => setProg s a.k a.n { h with sub := m }
        | none => s) a c seg va (progIter g m)

/-- The running program's counters move to its next segment. -/
def Prog.nextSeg (g : Prog) : Prog := { g with inSeg := false, segsDone := g.segsDone + 1, pos := 0, sub := 0 }

/-- A program other than a scatter ends with its last EOT; a scatter once its elements are written. -/
def finishIfOver (s : State) (k n : Nat) : State :=
  match (s.port (portKey k n)).prog with
  | none => s
  | some g => if decide (g.segTotal ≤ g.segsDone) && decide (g.kind ≠ .scatter) then finishProg s k n g else s

/-- A control token that flushes the coalescing unit is acted on once no line is open (R79). -/
def flushed (s : State) (a : AgSite) (act : State → State) : State :=
  let s := flushLines s a.k a.n
  if (s.port (portKey a.k a.n)).lines.isEmpty then act (popPort s a.k a.n) else s

/-- An EOT ends the segment: lines are flushed, under REPLAY released, the counters move on (R33, R162, R408). -/
def absorbEot (s : State) (a : AgSite) (g : Prog) (t : Token) : State :=
  flushed s a (fun s =>
  let s := s.modPort (portKey a.k a.n) (fun p => { p with rel := g.open_ + 1, segNo := p.segNo + 1 })
  let s := endReached s a.k a.j a.c t.number a.n
  finishIfOver (drain (modProg s a.k a.n Prog.nextSeg) a.k a.n) a.k a.n)

/-- An ORDER: the lines are flushed, the point of its instance is reached, and ranges it names change hands (R161, R162). -/
def absorbOrder (s : State) (a : AgSite) (t : Token) : State :=
  let mask : BitVec 32 := BitVec.ofNat 32 t.payload.toNat
  flushed s a (fun s =>
  let i := (s.port (portKey a.k a.n)).orders
  let s := s.modPort (portKey a.k a.n) (fun p => { p with orders := i + 1 })
  if mask.getLsbD a.n = false then s
  else
    let s := reachPoint s a.k a.j a.n i t.seg true mask 0
    if replayAt s a.k a.n then s.modPort (portKey a.k a.n) (fun p => { p with hold := p.hold ++ [.order i mask t.seg] })
    else swapOwned s a.k a.j a.c a.n i mask)

/-- An SBARTOK: the lines are flushed and the point is reached (R159). -/
def absorbSbar (s : State) (a : AgSite) (t : Token) : State :=
  let mask : BitVec 32 := BitVec.ofNat 32 t.payload.toNat
  flushed s a (fun s =>
  if mask.getLsbD a.n then reachPoint s a.k a.j a.n t.seg t.seg false mask (BitVec.ofNat 2 (t.payload.toNat >>> 32)) else s)

/-- A program whose last segment has ended and whose scattered elements are written has finished. -/
def scatterDone (p : Port) : Option Prog :=
  match p.prog with
  | some g => if g.kind = .scatter ∧ g.inSeg = false ∧ g.segTotal ≤ g.segsDone ∧ g.fetched.isEmpty ∧
      p.hold.all (fun h => match h with | .scatter _ _ _ => false | _ => true) then some g else none
  | none => none

/-- Segment tokens wait at the tile while no program is there to take them (R408); a program takes those that any context
delivers (R394). -/
def absorbStep (s : State) (k n : Nat) : State :=
  match closeIfDue s k n with
  | some s => s
  | none =>
    let s := resend (drain s k n) k n
    let p := s.port (portKey k n)
    match scatterDone p with
    | some g => finishProg s k n g
    | none =>
      match p.inp, agSiteOf s k n with
      | t :: _, some a =>
        if portHeld s p then s
        else if t.kind = kRECONF ∨ t.kind = kMARK then popPort s k n
        else if t.kind = kORDER then absorbOrder s a t
        else if t.kind = kSBARTOK then absorbSbar s a t
        else match p.prog with
          | none => s
          | some g =>
            if p.entry ∨ (g.segTotal ≤ g.segsDone ∧ g.inSeg = false) then s
            else if t.kind = kSOT then
              if g.inSeg then agFault s a fcTOKEN g.open_ 0 (progIter g 0)
              else setProg (popPort s k n) k n { g with inSeg := true, pos := 0, sub := 0, toks := 0,
                                                        marks := g.marks ++ [(t.number, g.segsDone, p.orders)] }
            else if g.inSeg = false then agFault s a fcTOKEN p.segNo 0 (progIter g 0)
            else if t.kind = kEOT then absorbEot s a g t
            else absorbData s a g t
      | _, _ => s

def execStreamTokenAbsorb (s : State) : Res :=
  match s.self with
  | .ag k n => if (s.port (portKey k n)).entry then .next s else .next (firstDone s (absorbStep s k n) k n)
  | _ => .refused .wrongAgent

/-! ### Indirect stream engines (06_memory.md R142 to R144, R404, R405) -/

/-- Index i of an indirect block, and the address of its element, formed exactly. -/
def indexAt (b : BitVec 512) (i : Nat) : Nat × Nat := (blk b 0 8 + (if blk b 24 1 % 2 = 1 then 8 else 4) * i, if blk b 24 1 % 2 = 1 then 8 else 4)
def indirectAddr (b : BitVec 512) (x : Nat) : Int := (blk b 8 8 : Nat) + (x : Int) * sextN (blk b 16 4) 32

/-- What an engine's access for an element comes to: the element is read or written, the index has been read or the access
waits, or a fault. -/
inductive Probe where
  | done (s : State) (bytes : List Byte)
  | later (s : State)
  | fault (s : State) (code : Code) (va : Nat)

/-- One access for element i of a program: first its index is read, and then, in a turn of its own, the element is read or
written at the address that the index gives, translated by the base-die walker (R142, R404, 07_consistency.md R149). -/
def indirectElem (s : State) (a : AgSite) (j : Nat) (g : Prog) (i : Nat) (put : Option (List Byte)) : Probe :=
  let e := baseEng a.k j
  match g.parts.find? (fun x => decide (x.1 = i)) with
  | none =>
    (match engReach s e g.asid (indexAt g.block i).1 (indexAt g.block i).2 .read with
     | .wait s => .later s
     | .fault s c va => .fault s c va
     | .ok s key => .later (modProg s a.k a.n (fun g => { g with parts := g.parts ++ [(i, readMem s key (indexAt g.block i).2)] })))
  | some (_, ib) =>
    let ad := indirectAddr g.block (ofBytes ib)
    match addrBad ad g.esize with
    | some c => .fault s c ad.toNat
    | none =>
      match engReach s e g.asid ad.toNat g.esize (if put.isSome then .write else .read) with
      | .wait s => .later s
      | .fault s c va => .fault s c va
      | .ok s key =>
        let s := modProg s a.k a.n (fun g => { g with parts := g.parts.filter (fun x => decide (x.1 ≠ i)) })
        match put with
        | none => .done s (readMem s key g.esize)
        | some bytes => .done (widenDirty (perform s key (bytes.map some)) a.k a.n ad.toNat (bytes.map some)) bytes

/-- A fault at element i: charged to its segment with the position i (R143, R405). -/
def indirectFault (s : State) (a : AgSite) (g : Prog) (i : Nat) (c : Code) (va : Nat) : State :=
  agFault s a c (g.segOfElem i) va [i, 0, 0, 0]

/-- The next access of a gather: any of the 512 elements from the next to be emitted on; a fault counts once every element
before it has been read (R143). -/
def gatherStep (s : State) (a : AgSite) (j : Nat) (g : Prog) : State :=
  let lo := g.indirectIndex g.pos
  let per := blk g.block 28 4
  let count := blk g.block 20 4
  let hi := if per = 0 then (if readBelow s a g = 0 then 0 else count) else Nat.min count (per * readBelow s a g)
  let left := ((List.range (Nat.min 512 (hi - lo))).map (lo + ·)).filter (fun i => !g.has i)
  match left[Config.pieceOrder s.tick % left.length]? with
  | none => s
  | some i =>
    match indirectElem s a j g i none with
    | .later s => s
    | .done s bytes => modProg (stirred s a.k a.j) a.k a.n (fun g => { g with fetched := g.fetched ++ [(i, bytes)] })
    | .fault s' c va => if left.head? = some i ∧ g.inSeg ∧ i < lo + (g.elems - g.pos) then indirectFault s' a g i c va else s

/-- The next access of a scatter: its elements are written in index order (R143). -/
def scatterStep (s : State) (a : AgSite) (j : Nat) (g : Prog) : State :=
  match g.fetched with
  | [] => s
  | (i, bytes) :: rest =>
    match indirectElem s a j g i (some bytes) with
    | .later s => s
    | .done s _ => modProg (stirred s a.k a.j) a.k a.n (fun g => { g with fetched := rest })
    | .fault s c va => indirectFault s a g i c va

/-- The stream whose running program is a command's. -/
def runningAt (s : State) (k id : Nat) : Option Nat :=
  (List.range 32).find? (fun n => (s.port (portKey k n)).prog.any (fun g => decide (g.cmdId = id)))

/-- An engine makes the next access of the command it runs, becomes free when that is over, or takes the next command of its
stack's queue (R142). -/
def probeStep (s : State) (j e : Nat) : State :=
  match Map.get none (s.baseDie j).ise e with
  | none =>
    (match (s.baseDie j).iseQueue with
     | [] => s
     | x :: rest => s.modBaseDie j (fun b => { b with iseQueue := rest, ise := Map.set none b.ise e (some x) }))
  | some (k, id) =>
    match runningAt s k id with
    | none => s.modBaseDie j (fun b => { b with ise := Map.set none b.ise e none })
    | some n =>
      match (s.port (portKey k n)).prog, agSiteOf s k n with
      | some g, some a => firstDone s (if g.kind = .gather then gatherStep s a j g else scatterStep s a j g) k n
      | _, _ => s

def execEngineProbe (e : Nat) (s : State) : Res :=
  match s.self with
  | .stack j => if e < 16 then .next (probeStep s j e) else .next s
  | _ => .refused .wrongAgent

/-! ### Pushes (06_memory.md R141) -/

/-- An SLOAD with PUSH stands at the tile: it was handed over and has not finished (R409). -/
def pushOpen (s : State) (k n : Nat) : Bool :=
  (sqOf s k n).any (fun c => decide (cmdOpcode c.word = 1 ∧ (cmdFields c.word).flags.getLsbD 0 ∧ c.phase = .started ∧ c.progress < 2))

/-- A pushed line arrives: two tokens, bytes 0 to 63 first, or it is dropped. -/
def execPushArrival (s : State) : Res :=
  match s.self with
  | .ag k n =>
    (match (s.port (portKey k n)).arriving with
     | [] => .next s
     | l :: rest =>
       let s := s.modPort (portKey k n) (fun p => { p with arriving := rest })
       .next (if pushOpen s k n then
           s.modPort (portKey k n) (fun p => { p with pushed := p.pushed ++ [l.extractLsb' 0 512, l.extractLsb' 512 512] })
         else s))
  | _ => .refused .wrongAgent

end Sys2Proof.Machine
end

