-- ==== Sys2Proof/Machine/Assayer.lean ====
section
/-!
DEFINITION. The instructions of an assayer's handler context (08_assayers.md R170 to R173, R180 to R184, R188, R189,
15_ref_a_c.md R322, R323).
-/
namespace Sys2Proof.Machine

open Sys2Proof

/-! ### Registers, time and the budget -/

def hx (s : State) (h : Nat) (r : BitVec 5) : BitVec 32 := if r = 0 then 0 else Map.get 0 (s.hart h).x r.toNat
def setHx (m : Map (BitVec 32)) (r : Nat) (v : BitVec 32) : Map (BitVec 32) := if r = 0 then m else Map.set 0 m r v

/-- Budget cycles used: uncore cycles from the issue of the first instruction (R184). -/
def usedCycles (s : State) (h : Nat) : Nat := match (s.hart h).start with | some c => uncoreCycles s - c | none => 0

/-- The budget of the handler that context h runs for event e. -/
def budgetOf (s : State) (h : Nat) (e : SliceEv) : Nat := hookBudget s (h / 4) e.entry e.hook

/-- What an instruction of a handler comes to. -/
inductive HRes where
  | abort (cause : Nat)
  /-- It waits, with no effect yet. -/
  | wait (s : State)
  /-- It completes: a value for a register, and the pc that follows. -/
  | done (s : State) (rd : Nat) (v : BitVec 32) (pc : BitVec 32)

/-- The instruction runs in a handler context; any other agent refuses it. An idle context does nothing. -/
def onHart (s : State) (f : Nat → SliceEv → Res) : Res :=
  match s.self with
  | .hart i c => (match (s.hart (4 * i + c)).ev with | some e => f (4 * i + c) e | none => .next s)
  | _ => .refused .wrongAgent

/-- The context of a handler is ready: the cycles of its instruction before have passed and the budget has not (R173, R184). -/
def hartReady (s : State) (h : Nat) (e : SliceEv) : Bool :=
  !(s.hart h).spent && (decide ((s.hart h).ready = 0) || decide ((s.hart h).ready ≤ uncoreCycles s)) && decide (usedCycles s h < budgetOf s h e)

/-- The context that issues next in slice i: round-robin among the ready ones, from the one after the last to issue (R173). -/
def issuesNext (s : State) (i : Nat) : Option Nat :=
  ((List.range 4).map (fun d => ((s.slice i).lastCtx + 1 + d) % 4)).find? (fun c =>
    (s.hart (4 * i + c)).ev.any (fun e => hartReady s (4 * i + c) e))

/-- The context may issue an instruction: its turn has come, and none has issued in this uncore cycle (R173). -/
def canIssue (s : State) (h : Nat) (e : SliceEv) : Bool :=
  hartReady s h e && decide (issuesNext s (h / 4) = some (h % 4)) && (s.slice (h / 4)).issuedAt.all (fun c => decide (c < uncoreCycles s))

/-- An instruction of context h issues: the count of its budget has begun (R173, R184). -/
def hartIssue (s : State) (h : Nat) : State :=
  let t := s.hart h
  (s.modSlice (h / 4) (fun x => { x with lastCtx := h % 4, issuedAt := some (uncoreCycles s) })).setHart h
    { t with start := some (t.start.getD (uncoreCycles s)) }

/-- The instruction retires: its register, the pc, the cycles of the context, and INSTRET (R172, R173). -/
def hartRetire (s : State) (h cyc rd : Nat) (v pc : BitVec 32) : State :=
  let t := s.hart h
  (s.modSlice (h / 4) (fun x => { x with instret := x.instret + 1 })).setHart h
    { t with x := setHx t.x rd v, pc, ready := uncoreCycles s + cyc }

/-- An instruction of cyc cycles. One that would still be in progress when the budget runs out has no effect, except a copy
already begun, and the context only waits for the abort (R184). -/
def hartOp (cyc : Nat) (copy : Bool) (s : State) (f : Nat → SliceEv → HRes) : Res :=
  onHart s (fun h e =>
    if canIssue s h e = false then .next s else
    let cut := decide (budgetOf s h e < usedCycles s h + cyc)
    let spend (s : State) : State := let s := hartIssue s h; s.setHart h { s.hart h with spent := true }
    if cut && !copy then .next (spend s) else
    match f h e with
    | .abort c => .next (abortHandler (hartIssue s h) h c)
    | .wait s => .next (hartIssue s h)
    | .done s rd v pc => .next (if cut then spend s else hartRetire (hartIssue s h) h cyc rd v pc))

/-- The pc after an instruction lies in the IMEM window (R171). -/
def pcOk (s : State) (h : Nat) (e : SliceEv) (pc : BitVec 32) : Bool := inWin (imemWin s (h / 4) e.entry) pc.toNat 2

/-- A DMEM operand: outside the window it aborts with WIN, inside it and misaligned with MIS (R171, R323). -/
def dmemCheck (s : State) (h : Nat) (e : SliceEv) (a n al : Nat) : Option Nat :=
  if inWin (dmemWin s (h / 4) e.entry) a n = false then some acWIN
  else if a % al ≠ 0 then some acMIS else none

def dmemRead (s : State) (h a n : Nat) : List Byte := readMem s (dmemAt (h / 4) a) n
def dmemWrite (s : State) (h a : Nat) (l : List Byte) : State := writeMem s (dmemAt (h / 4) a) l

/-- A custom instruction: rs1 and rs2 are read, and the instruction after it must lie in the IMEM window, or else it is itself
the aborting one and has no effect (R171, R182; log 66). -/
def custom (cyc : Nat) (copy : Bool) (d : BitVec 5) (s : State) (f : Nat → SliceEv → (State → BitVec 32 → HRes) → HRes) : Res :=
  hartOp cyc copy s (fun h e =>
    let pc := (s.hart h).pc + 4
    if pcOk s h e pc = false then .abort acWIN else f h e (fun s v => .done s d.toNat v pc))

/-! ### Handles (R181) -/

def handleSet (v : BitVec 32) : Nat := field v 14 4
def handleWay (v : BitVec 32) : Nat := field v 3 0

/-- The way's tag carries the entry of the context. -/
def taggedBy (s : State) (i n : Nat) (w : Option Way) : Bool :=
  match w with | some x => decide (x.tag = n) && entryValid s i n | none => false

/-- The handle names the hooked line, or the way that is reserved for it. -/
def isHooked (s : State) (i : Nat) (e : SliceEv) (v : BitVec 32) : Bool :=
  decide (handleSet v = setOf e.line ∧ handleWay v = e.way) &&
    (match s.way i (handleSet v) (handleWay v) with | some x => decide (x.line = e.line) | none => true)

/-- The context may use the handle; `write` needs W on a line that it may use only because it locked it. -/
def handleOk (s : State) (h : Nat) (e : SliceEv) (v : BitVec 32) (write : Bool) : Bool :=
  let w := s.way (h / 4) (handleSet v) (handleWay v)
  decide (field v 31 15 = 0) &&
    (isHooked s (h / 4) e v || taggedBy s (h / 4) e.entry w ||
      (match w with | some x => decide (x.locked = some h) && (!write || x.lockW) | none => false))

/-- The state word of a way (R181); a reserved way whose line is not there yet carries the entry of its miss. -/
def stateWord (s : State) (h : Nat) (e : SliceEv) (v : BitVec 32) : BitVec 32 :=
  let i := h / 4
  let w := s.way i (handleSet v) (handleWay v)
  let d := match w with | some x => x.dirty | none => false
  let tagged := taggedBy s i e.entry w || (w.isNone && isHooked s i e v && decide (e.hook = 0) && entryValid s i e.entry)
  BitVec.ofNat 32 (2 ^ 31 * w.isSome.toNat + 2 ^ 30 * d.toNat + 2 ^ 29 * (wayHeld s i (handleSet v) (handleWay v)).toNat + 2 ^ 28 * tagged.toNat)

/-- The bytes of a way; those of a reserved way that holds no line are not stated. -/
def wayBytes (s : State) (w : Option Way) : List Byte :=
  match w with
  | some x => readMem s (128 * x.line) 128
  | none => (List.range 128).map (Config.emptyWayByte s.tick)

def wayPoisoned (s : State) (w : Option Way) : Bool := match w with | some x => poisoned s (128 * x.line) 128 | none => false

/-! ### Lines, windows and messages (R183, Table 8.7) -/

/-- ay.ldl: the line's 128 bytes into DMEM; refused for a poisoned line (R323). -/
def execAyLdl (g a d : BitVec 5) (s : State) : Res :=
  custom 8 true d s (fun h e ok =>
    let v := hx s h a
    let at_ := (hx s h g).toNat
    match dmemCheck s h e at_ 128 4 with
    | some c => .abort c
    | none =>
      let w := s.way (h / 4) (handleSet v) (handleWay v)
      if handleOk s h e v false = false ∨ wayPoisoned s w then ok s 0
      else ok (dmemWrite s h at_ (wayBytes s w)) (stateWord s h e v))

/-- The line of a way is written whole; the reserved way of a MISS takes its line with it. -/
def storeLine (s : State) (h : Nat) (e : SliceEv) (v : BitVec 32) (bytes : List Byte) : Option State :=
  let i := h / 4
  match s.way i (handleSet v) (handleWay v) with
  | some x => some (perform s (128 * x.line) (bytes.map some))
  | none =>
    if e.hook = 0 ∧ isHooked s i e v then
      some (perform (s.setWay i (handleSet v) (handleWay v) (some { line := e.line, tag := if entryValid s i e.entry then e.entry else 16 }))
        (128 * e.line) (bytes.map some))
    else none

/-- ay.stl: 128 bytes of DMEM into the line, which becomes dirty. -/
def execAyStl (g a d : BitVec 5) (s : State) : Res :=
  custom 8 true d s (fun h e ok =>
    let v := hx s h a
    let at_ := (hx s h g).toNat
    match dmemCheck s h e at_ 128 4 with
    | some c => .abort c
    | none =>
      if handleOk s h e v true = false then ok s 0 else
      match storeLine s h e v (dmemRead s h at_ 128) with
      | none => ok s 0
      | some t => ok t (stateWord t h e v))

/-- A translation of a custom instruction: the physical address, or none, or a wait. -/
inductive AyXl where
  | ok (s : State) (pa : Nat)
  | bad (s : State)
  | wait (s : State)

/-- A translation in the entry's ASID through the walker of the slice; it posts no deep-tier fetch (R183). The scratch window
is translated by no page table and is no assayer's (06_memory.md R134). -/
def ayTranslate (s : State) (h : Nat) (e : SliceEv) (va : Nat) (kd : Kind) : AyXl :=
  if inWindow va then .bad s else
  match walkFor s (cacheAssayer (h / 4)) (entryAsid s (h / 4) e.entry) va with
  | .wait s => .wait s
  | .fault s _ => .bad s
  | .ready s _ =>
    match translate s (cacheAssayer (h / 4)) (entryAsid s (h / 4) e.entry) va kd false with
    | (s, .ok pa _) => .ok s pa
    | (s, .bad _) => .bad s

/-- One line of an ay.fill that has translated: it goes to its home slice, whose access table checks it, and is fetched where
it is absent and at least 32 miss registers are free; a line refused on the way is dropped (R183, R323, 14_system.md R303). -/
def fillLine (s : State) (h : Nat) (e : SliceEv) (va pa : Nat) : State :=
  match target pa with
  | .slice t =>
    if freeRegs s t < 32 then s
    else match crossFrom s (h / 4 / 64) (t / 64) pa with
      | (s, true) => s
      | (s, false) => match targetCheck s (assayerMaster (h / 4)) (pa / 128 * 128) 128 .read with
        | (s, some _) => s
        | (s, none) =>
          if (wayOf s t (pa / 128)).isSome || missing s t (pa / 128) then s
          else joinMiss s t (pa / 128) { okind := 4, master := assayerMaster (h / 4), asid := entryAsid s (h / 4) e.entry, va, quiet := true, hart := some h }
  | _ => s

/-- The lines of an ay.fill, one after another: each that translates is counted; none while a translation waits. -/
def fillLines (h : Nat) (e : SliceEv) : Nat → Nat → State → Nat → State × Option Nat
  | 0, _, s, got => (s, some got)
  | n + 1, va, s, got =>
    match ayTranslate s h e va .read with
    | .bad s => fillLines h e n (va + 128) s got
    | .wait s => (s, none)
    | .ok s pa => fillLines h e n (va + 128) (fillLine s h e va pa) (got + 1)

def execAyFill (g a d : BitVec 5) (s : State) : Res :=
  custom 2 false d s (fun h e ok =>
    let at_ := (hx s h a).toNat
    match dmemCheck s h e at_ 8 8 with
    | some c => .abort c
    | none =>
      let va := ofBytes (dmemRead s h at_ 8)
      let n := (hx s h g).toNat
      if va % 128 ≠ 0 ∨ n = 0 ∨ 16 < n then .abort acARG else
      match fillLines h e n va s 0 with
      | (t, some got) => ok t (BitVec.ofNat 32 got)
      | (t, none) => .wait t)

/-- A master may push to a core's stream ports: PUSH of window 0, which is enabled (14_system.md R302, R303). -/
def mayPush (s : State) (k master : Nat) : Bool :=
  let w := s.window (tgtCore k) master 0
  w.en && w.push

/-- Credits of an AG tile: 16, less the lines on their way or not yet emitted whole (06_memory.md R141). -/
def pushCredits (p : Port) : Nat := 16 - (p.arriving.length + (p.pushed.length + 1) / 2)

/-- ay.push: the line to a stream port of a core of this die (06_memory.md R141). -/
def execAyPush (g a d : BitVec 5) (s : State) : Res :=
  custom 2 false d s (fun h e ok =>
    let v := hx s h a
    let r := hx s h g
    if field r 31 12 ≠ 0 ∨ 96 ≤ field r 11 5 then .abort acARG else
    let w := s.way (h / 4) (handleSet v) (handleWay v)
    let k := 96 * (h / 4 / 64) + field r 11 5
    let n := field r 4 0
    if handleOk s h e v false = false ∨ wayPoisoned s w then ok s 3
    else if mayPush s k (assayerMaster (h / 4)) = false then
      ok (deny s (tgtCore k) (assayerMaster (h / 4)) (Config.pushAddr s.tick) 3) 2
    else if pushOpen s k n = false then ok s 1
    else if pushCredits (s.port (portKey k n)) = 0 then .wait s
    else ok (s.modPort (portKey k n) (fun p => { p with arriving := p.arriving ++ [BitVec.ofNat 1024 (ofBytes (wayBytes s w))] })) 0)

/-- The victim that an EVICT handler names is reserved for the miss in place of the one before (06_memory.md R136). -/
def renameVictim (s : State) (h set way : Nat) : State :=
  let was := (s.hart h).victim
  (s.modSlice (h / 4) (fun x => { x with misses := x.misses.map (fun m =>
    if setOf m.line = set ∧ m.way = was ∧ m.stage = .evict then { m with way } else m) })).setHart h { s.hart h with victim := way }

/-- ay.evict: writes the line back, and with KEEP = 0 invalidates it; in an EVICT handler it may name another victim. -/
def execAyEvict (g a d : BitVec 5) (s : State) : Res :=
  custom 2 false d s (fun h e ok =>
    let v := hx s h a
    let keep := (hx s h g).getLsbD 0
    let i := h / 4
    let set := handleSet v
    let way := handleWay v
    if field (hx s h g) 31 1 ≠ 0 then .abort acARG else
    let w := s.way i set way
    -- naming the victim chosen last once more chooses it again
    let free := !wayHeld s i set way && (!wayReserved s i set way || decide (way = (s.hart h).victim))
    if e.hook = 2 ∧ keep = false ∧ field v 31 15 = 0 ∧ set = setOf e.line ∧ way ≠ e.way ∧ free ∧ (w.isNone ∨ taggedBy s i e.entry w) then
      ok (renameVictim s h set way) 0
    else if handleOk s h e v false = false ∨ wayHeld s i set way then ok s 1
    else match w with
      | none => ok s 1
      | some x => ok ((writeBack s i w).setWay i set way (if keep then some { x with dirty := false } else none)) 0)

/-- ay.msg: a MSG event to the home slice of a VA (R178, R183, R303). -/
def execAyMsg (a d : BitVec 5) (s : State) : Res :=
  custom 2 false d s (fun h e ok =>
    let at_ := (hx s h a).toNat
    match dmemCheck s h e at_ 24 8 with
    | some c => .abort c
    | none =>
      let va := ofBytes (dmemRead s h at_ 8)
      let m := assayerMaster (h / 4)
      match ayTranslate s h e va .read with
      | .wait t => .wait t
      | .bad t => ok t 1
      | .ok t pa =>
        match target pa with
        | .slice i =>
          -- a message that fails on the mesh is not sent (log 140)
          match crossFrom t (h / 4 / 64) (i / 64) pa with
          | (t, true) => ok t 1
          | (t, false) =>
          if permitted t i m (pa / 128 * 128) 128 .read then
            ok (sendMsg t i (entryAsid s (h / 4) e.entry) va (pa / 128) 4 m (BitVec.ofNat 128 (ofBytes (dmemRead s h (at_ + 8) 16)))) 0
          else ok (deny t i m (pa / 128 * 128) Kind.read.denial) 1
        | _ => ok t 1)

/-- The lines that a context has locked, with their ways. -/
def locksOf (s : State) (h : Nat) : Nat :=
  ((s.slice (h / 4)).sets.map (fun (_, c) =>
    (c.ways.filter (fun (_, w) => match w with | some x => decide (x.locked = some h) | none => false)).length)).sum

/-- The line is held by another context. -/
def heldByOther (s : State) (h line : Nat) : Bool :=
  (match wayOf s (h / 4) line with
   | some w => (match s.way (h / 4) (setOf line) w with
     | some x => (match x.locked with | some g => decide (g ≠ h) | none => false)
     | none => false)
   | none => false) ||
  (List.range 4).any (fun c => decide (4 * (h / 4) + c ≠ h) &&
    (match (s.hart (4 * (h / 4) + c)).ev with | some e => decide (e.line = line) | none => false))

/-- The lock of a line by its VA, which has translated: the handle, or why not (Table 8.7, R323). A line whose way is reserved for a miss counts as
held by another: it is about to go (06_memory.md R136; log 66). -/
def lockLine (s : State) (h : Nat) (e : SliceEv) (va pa : Nat) : State × BitVec 32 :=
    let i := h / 4
    let line := pa / 128
    if target pa ≠ .slice i then (s, 0xFFFFFFFD)
    else if line = e.line then (s, BitVec.ofNat 32 (handleOf e))
    else if heldByOther s h line then (s, 0xFFFFFFFE)
    else match wayOf s i line with
      | none => (s, 0xFFFFFFFC)
      | some w =>
        match s.way i (setOf line) w with
        | none => (s, 0xFFFFFFFC)
        | some x =>
          if x.locked = some h then (s, BitVec.ofNat 32 (16 * setOf line + w))
          else if wayReserved s i (setOf line) w then (s, 0xFFFFFFFE)
          else if 4 ≤ locksOf s h then (s, 0xFFFFFFFB)
          else
            let lockW := match ayTranslate s h e va .write with | .ok _ _ => true | _ => false
            (s.setWay i (setOf line) w (some { x with locked := some h, lockW }), BitVec.ofNat 32 (16 * setOf line + w))

/-- ay.lock: locks a line by VA, or unlocks one by handle. -/
def execAyLock (g a d : BitVec 5) (s : State) : Res :=
  custom 4 false d s (fun h e ok =>
    let r := hx s h g
    if field r 31 1 ≠ 0 then .abort acARG
    else if r.getLsbD 0 then
      let at_ := (hx s h a).toNat
      match dmemCheck s h e at_ 8 8 with
      | some c => .abort c
      | none =>
        let va := ofBytes (dmemRead s h at_ 8)
        if va % 128 ≠ 0 then .abort acARG
        else match ayTranslate s h e va .read with
          | .wait t => .wait t
          | .bad t => ok t 0xFFFFFFFF
          | .ok t pa =>
            let (t, v) := lockLine t h e va pa
            ok t v
    else
      let v := hx s h a
      match s.way (h / 4) (handleSet v) (handleWay v) with
      | some x =>
        if field v 31 15 = 0 ∧ x.locked = some h then
          ok (s.setWay (h / 4) (handleSet v) (handleWay v) (some { x with locked := none, lockW := false })) 0
        else ok s 1
      | none => ok s 1)

/-- ay.stat: a state word or a number of the slice. -/
def execAyStat (g a d : BitVec 5) (s : State) : Res :=
  custom 1 false d s (fun h e ok =>
    let v := hx s h a
    let i := h / 4
    match (hx s h g).toNat with
    | 0 => ok s (if v = 0 ∨ handleOk s h e v false = false then 0 else stateWord s h e v)
    | 1 => ok s (BitVec.ofNat 32 (freeRegs s i))
    | 2 => ok s (BitVec.ofNat 32 (s.slice i).events.length)
    | 3 => ok s (BitVec.ofNat 32 i)
    | 4 => ok s (BitVec.ofNat 32 (field (s.entryWord i e.entry 8) 31 0))
    | _ => .abort acILL)

/-- ay.budget: the cycles remaining, counted before this instruction. -/
def execAyBudget (d : BitVec 5) (s : State) : Res :=
  custom 1 false d s (fun h e ok => ok s (BitVec.ofNat 32 (budgetOf s h e - usedCycles s h)))

/-- The action of ay.ret is permitted (R183). -/
def actionOk (s : State) (h : Nat) (e : SliceEv) (act : Nat) : Bool :=
  decide (act = 0) || (decide (act = 1 ∧ e.hook = 0) && (s.way (h / 4) (setOf e.line) e.way).isSome) || decide (act = 2 ∧ e.hook ≤ 1)

/-- ay.ret: ends the handler with action rs1[1:0] (R180, R183). -/
def execAyRet (a : BitVec 5) (s : State) : Res :=
  onHart s (fun h e =>
    if canIssue s h e = false then .next s else
    let act := field (hx s h a) 1 0
    let s := hartIssue s h
    if actionOk s h e act = false then .next (abortHandler s h acRET)
    else .next (endHandler (s.modSlice (h / 4) (fun x => { x with instret := x.instret + 1 })) h e (decide (act = 2))))

/-! ### RISC-V and the budget -/

/-- The counters of Table 8.1. -/
def ayCsr (s : State) (i csr : Nat) : BitVec 32 :=
  let v := match csr % 128 with
    | 0 => 13 * (s.time - s.timeFrom) / 10
    | 1 => s.time
    | _ => (s.slice i).instret.toNat
  BitVec.ofNat 32 (if csr / 128 % 2 = 1 then v / 2 ^ 32 else v)

/-- Cycles of what an instruction does (R182). -/
def rvCycles (a : RvAct) : Nat :=
  match a with | .alu _ _ _ c => c | .load .. => 2 | .store .. => 2 | _ => 1

/-- What a RISC-V instruction does in a handler (R170 to R172). -/
def rvPerform (s : State) (h : Nat) (e : SliceEv) (act : RvAct) (next : BitVec 32) : HRes :=
  match act with
  | .ill => .abort acILL
  | .csr => .abort acCSR
  | .alu rd v pc _ => if pcOk s h e pc then .done s rd v pc else .abort acWIN
  | .readCsr rd c => if pcOk s h e next then .done s rd (ayCsr s (h / 4) c) next else .abort acWIN
  | .load rd a n signed =>
    (match dmemCheck s h e a.toNat n n with
     | some c => .abort c
     | none =>
       let v := ofBytes (dmemRead s h a.toNat n)
       if pcOk s h e next then .done s rd (if signed then wrap 32 (sextN v (8 * n)) else BitVec.ofNat 32 v) next else .abort acWIN)
  | .store a n v =>
    (match dmemCheck s h e a.toNat n n with
     | some c => .abort c
     | none => if pcOk s h e next then .done (dmemWrite s h a.toNat (toBytes n v.toNat)) 0 0 next else .abort acWIN)

def execAssayerRiscvInstruction (w : BitVec 32) (s : State) : Res :=
  let act (h : Nat) : RvAct := rvRun w (s.hart h).pc (fun r => hx s h (BitVec.ofNat 5 r))
  let cyc := match s.self with | .hart i c => rvCycles (act (4 * i + c)) | _ => 1
  hartOp cyc false s (fun h e => rvPerform s h e (act h) ((s.hart h).pc + BitVec.ofNat 32 (rvWord w).2))

/-- The budget's count has reached the budget: the handler is aborted (R184). -/
def execBudgetExpiry (s : State) : Res :=
  onHart s (fun h e =>
    if (s.hart h).start.isSome ∧ budgetOf s h e ≤ usedCycles s h then .next (abortHandler s h acBUDGET) else .next s)

/-- What a handler context runs on its turn: the expiry of its budget, or the instruction at its pc once it is ready; a
fetch outside the IMEM window aborts it (R171, R173). -/
def heldHart (s : State) (h : Nat) : State × Option Instr :=
  match (s.hart h).ev with
  | none => (s, none)
  | some e =>
    if (s.hart h).start.isSome ∧ budgetOf s h e ≤ usedCycles s h then (s, some .budgetExpiry)
    else if canIssue s h e = false then (s, none) else
    let pc := (s.hart h).pc.toNat
    let iw := imemWin s (h / 4) e.entry
    if inWin iw pc 2 = false then (abortHandler s h acWIN, none) else
    let lo := readNat s (imemAt (h / 4) pc) 2
    if lo % 4 ≠ 3 then (s, some (.assayerRiscvInstruction (BitVec.ofNat 32 lo)))
    else if inWin iw pc 4 = false then (abortHandler s h acWIN, none)
    else (s, some (decodeAssayer (BitVec.ofNat 32 (readNat s (imemAt (h / 4) pc) 4))))

end Sys2Proof.Machine
end

