-- ==== Sys2Proof/Machine/Control.lean ====
section
/-!
DEFINITION. Control tokens at a slot (02_execution_model.md R35, R40, 03_fabric.md R70, R71, R82, 17_ref_m_r.md R384,
18_ref_s.md R412, 19_ref_t_z.md R423), the state saved as an SOT passes (10_faults_modes.md R225), and KILL channels
(03_fabric.md R59, 05_online_arithmetic.md R124 to R126).
-/
namespace Sys2Proof.Machine

open Sys2Proof

/-! ### Slot words -/

/-- The input directions of a slot word; an empty slot has none of its own. -/
def slotInputs (w : BitVec 32) : List Nat :=
  if opOf w = 0 then [] else ([field w 24 21, field w 20 17].filter (· < 4)).dedup

def isDigitOp (op : Nat) : Bool := decide (0x30 ≤ op ∧ op ≤ 0x3B)

/-- The directions to which a slot sends a control token (R35, R82, R412, R123). -/
def controlDirs (st : Site) (sl : SlotSt) (w : BitVec 32) (kind : BitVec 4) : List Nat :=
  let d := field w 16 13
  match opOf w with
  | 0x50 => (dirsOf d ++ [field w 1 0]).dedup
  | 0x53 =>
    if kind = kSOT ∨ kind = kEOT ∨ sl.inSeg.isSome then [if sl.second then field w 1 0 else d] else (dirsOf d ++ [field w 1 0]).dedup
  | 0x3B => (dirsOf d ++ [field w 2 0]).dedup
  | 0x41 => if isSystolic st then dirsOf d ++ (if forwardsEast st then [1] else []) else dirsOf d
  | _ => dirsOf d

/-! ### Tile-store buffers (03_fabric.md R73, 19_ref_t_z.md R421) -/

def nbOf (cfg : BitVec 32) : Nat := field cfg 18 17 + 1
def bufSize (cfg : BitVec 32) : Nat := 64 * (1024 * field cfg 26 21 / (64 * nbOf cfg))
/-- The write buffer and the read buffer, and the full bit of a buffer. -/
def writeBuf (cfg : BitVec 32) (r : RangeSt) : Nat := r.nw % nbOf cfg
def readBuf (cfg : BitVec 32) (r : RangeSt) : Nat := r.ne % nbOf cfg
def RangeSt.full (r : RangeSt) (b : Nat) : Bool := decide (Map.get 0 r.fills b ≠ Map.get 0 r.empties b)
def readFull (cfg : BitVec 32) (r : RangeSt) : Bool := r.full (readBuf cfg r)
def writeEmpty (cfg : BitVec 32) (r : RangeSt) : Bool := !r.full (writeBuf cfg r)
/-- An EOT at the writer side: the buffer is full, and the writer moves on. -/
def RangeSt.filled (cfg : BitVec 32) (r : RangeSt) : RangeSt :=
  let b := writeBuf cfg r
  { r with fills := if r.full b then r.fills else Map.set 0 r.fills b (Map.get 0 r.fills b + 1), nw := r.nw + 1, wp := 0 }
/-- The reader side empties its buffer and moves on. -/
def RangeSt.emptied (cfg : BitVec 32) (r : RangeSt) : RangeSt :=
  let b := readBuf cfg r
  { r with empties := if r.full b then Map.set 0 r.empties b (Map.get 0 r.empties b + 1) else r.empties, ne := r.ne + 1, rp := 0 }

def isReader (op : Nat) : Bool := decide (op = 0x60 ∨ op = 0x62)

/-! ### What a slot saves as an SOT passes (R225) -/

/-- The slot's own state, the range side that it drives, and, for the first SOT of a segment at the tile, its SR count and
flip-flops. -/
def snapSot (s : State) (st : Site) (w : BitVec 32) (seg : Nat) : State :=
  let sl := slotSt s st
  let r := rangeOf s st.key st.c
  s.modTile st.key (fun t => { t with snaps := Map.modify {} t.snaps (4 * seg + st.c) (fun v =>
    let v := { v with slots := Map.set none v.slots (slotKey st.c st.n) (some sl) }
    let v := if opOf w = 0x61 then { v with writer := some (r.nw, r.wp, r.fills) } else v
    let v := if isReader (opOf w) ∨ opOf w = 0x63 then { v with reader := some (r.ne, r.rp, r.empties) } else v
    { v with sr := some (v.sr.getD (Map.get 0 t.sr st.c))
             lutff := if st.cfg.lut.segrst then some (v.lutff.getD t.lutff) else v.lutff }) })

/-- The chunk pointer of every MLDW slot of the context at the tile, and the lane pointer of every MDOT slot, go back to 0
whichever slot the SOT passes by (17_ref_m_r.md R371, R374). -/
def resetPtrs (s : State) (st : Site) : State :=
  (List.range 16).foldl (fun s n =>
    let st := { st with n }
    if opOf (slotWord st n) = 0x40 ∨ opOf (slotWord st n) = 0x43 then setSlotSt s st { slotSt s st with ptr := 0 } else s) s

/-- What an SOT does to the slot's own state, and to the pointers of the tile (R107, R71, R423, 17_ref_m_r.md R371, R374,
R379, 09_attention.md R210). -/
def sotAt (s : State) (st : Site) (w : BitVec 32) (seg : Nat) : State :=
  let s := resetPtrs (snapSot s st w seg) st
  let sl := slotSt s st
  let s := setSlotSt s st { sl with chain := 0, posA := 0, posB := 0, bad := false, passTag := none, passKill := [] }
  let s := if opOf w = 0x61 then modRange s st.key st.c (fun r => { r with wp := 0 })
    else if isReader (opOf w) then modRange s st.key st.c (fun r => { r with rp := 0 }) else s
  if st.cfg.lut.segrst then s.modTile st.key (fun t => { t with lutff := st.cfg.lut.init }) else s

/-- What an EOT does at a slot that ends a path or drives a tile store (R33, R423). -/
def eotAt (s : State) (st : Site) (w : BitVec 32) (t : Token) : State :=
  let op := opOf w
  let s := setSlotSt s st { slotSt s st with passTag := none, passKill := [] }
  let s := if op = 0x61 then modRange s st.key st.c (RangeSt.filled st.cfg.cfg)
    else if isReader op then modRange s st.key st.c (fun r =>
      if st.cfg.cfg.getLsbD 16 then { r with rp := 0 } else r.emptied st.cfg.cfg) else s
  if (controlDirs st (slotSt s st) w kEOT).isEmpty then endReached s st.k st.j st.c t.number (1000 + 16 * st.homeT + st.n) else s

/-- A RECONF leaves the tile: it has switched once one has passed on every channel that enters it (R40). -/
def reconfAt (s : State) (st : Site) (dirs : List Nat) (t : Token) : State :=
  let total := ((List.range 4).filter (fun d => (st.ctx.chanIn st.y st.x d).isSome)).length
  s.modTile st.key (fun ti =>
    let n := ti.reconfs + dirs.length
    if total ≤ n then { ti with ctx := nfield t.payload.toNat 1 0, reconfs := 0 } else { ti with reconfs := n })

/-! ### The pass itself -/

/-- How a slot stands to the control tokens at its inputs. -/
inductive Ctl where
  | no
  /-- Control tokens of different kinds, or segments out of order: TOKEN against this segment. -/
  | bad (seg : Nat)
  | go (dirs : List Nat) (t : Token)

/-- The control token that stands at an input's head for this slot. Beside frame operands that arrived over the same link it
waits until their nodes have fired: they stand ahead of it (R35, R77; log 111). -/
def controlHead (s : State) (st : Site) (d : Nat) : Option Token :=
  match headFor s st d with
  | some (_, t) =>
    if t.isControl && !(s.tile st.key).fch.any (fun e => decide (e.dir = d ∧ (e.tok.seg < t.seg ∨ (e.tok.seg = t.seg ∧ t.kind ≠ kSOT))))
    then some t else none
  | none => none

/-- R35: the same kind at the head of every input. -/
def controlAll (s : State) (st : Site) (dirs : List Nat) (ordered : Bool) : Ctl :=
  match dirs.map (controlHead s st) with
  | [] => .no
  | none :: _ => .no
  | some t :: rest =>
    if rest.any (fun h => h.isNone) then .no
    else if rest.any (fun h => (h.map (·.kind)) != some t.kind) then .bad t.seg
    else if ordered && t.kind == kSOT && rest.any (fun h => (h.map (·.number)) != some t.number) then .bad t.seg
    else .go dirs t

/-- A WHOLE-mode ORDMERGE: it follows one input within a segment; between segments it takes the SOT numbered E next, and a
data token at a head is an error (17_ref_m_r.md R384). -/
def controlWhole (s : State) (st : Site) (dirs : List Nat) : Ctl :=
  let sl := slotSt s st
  match sl.inSeg with
  | some d => (match controlHead s st d.toNat with | some t => .go [d.toNat] t | none => .no)
  | none =>
    if dirs.any (fun d => match headFor s st d with | some (_, t) => !t.isControl | none => false) then .bad sl.expect else
    let sots := dirs.filterMap (fun d => match controlHead s st d with
      | some t => if t.kind = kSOT then some (d, t) else none
      | none => none)
    match sots.find? (fun e => decide (e.2.number = sl.expect)) with
    | some (d, t) => .go [d] t
    | none => if sots.length = 2 then .bad sl.expect else
        if sots.isEmpty then controlAll s st dirs false else .no

/-- An EOT stands at an input of MTRI within a record of that input (09_attention.md R210). -/
def recordCut (s : State) (st : Site) (w : BitVec 32) : Bool :=
  let cut (v pos : Nat) : Bool := decide (pos ≠ 0) && (controlHead s st v).any (fun t => t.kind == kEOT)
  cut (field w 24 21) (slotSt s st).posA || cut (field w 20 17) (slotSt s st).posB

/-- The control tokens that the slot may pass now. One that reaches a digit op within an instance is an error at whichever
input it stands (05_online_arithmetic.md R108), and so is an EOT within a record of MTRI (09_attention.md R210). -/
def controlReady (s : State) (st : Site) (w : BitVec 32) : Ctl :=
  let dirs := slotInputs w
  if dirs.isEmpty then
    match firstArrived s st (fun t => t.isControl) with
    | some d => controlAll s st [d] false
    | none => .no
  else if isDigitOp (opOf w) ∧ (slotSt s st).digit.ga ≠ [] then
    (match (dirs.filterMap (controlHead s st)).head? with | some t => .bad t.seg | none => .no)
  else if opOf w = 0x52 ∧ w.getLsbD 0 then controlWhole s st dirs
  else if opOf w = 0x45 ∧ recordCut s st w then .bad ((dirs.filterMap (fun d => (controlHead s st d).map (·.seg))).headD 0)
  else controlAll s st dirs (decide (opOf w = 0x52))

/-- The place in a tile's outbox of the first token that may leave: none that stands before it is bound for one of its
outputs, and each of them has a credit (R65, 05_online_arithmetic.md R128, 18_ref_s.md R399). -/
def leavingAt (s : State) (st : Site) : Option Nat :=
  let l := (s.tile st.key).outbox
  (List.range l.length).find? (fun i => match l[i]? with
    | some e => (dirsOf e.1).all (fun d => !(l.take i).any (fun g => (dirsOf g.1).contains d) && decide (1 ≤ credits s st.k st.y st.x d))
    | none => false)

/-- That token leaves. -/
def flushOut (s : State) (st : Site) : Option State :=
  (leavingAt s st).bind (fun i => ((s.tile st.key).outbox[i]?).map (fun e =>
    match linkFault s st (dirsOf e.1) e.2.2.seg with
    | some s => s
    | none => (dirsOf e.1).foldl (fun s d => sendOne s { st with n := e.2.1 } d e.2.2)
        (s.modTile st.key (fun t => { t with outbox := t.outbox.eraseIdx i }))))

/-- Tokens of a firing that leave after it. -/
def addOut (s : State) (st : Site) (d : Nat) (l : List Token) : State :=
  s.modTile st.key (fun t => { t with outbox := t.outbox ++ l.map (fun e => (d, st.n, e)) })

/-- A slot passes a control token: one from each input, one copy to each destination, with the effects that the token has on
the tile (R35). An EOT waits at a tile store's reader until its buffer is full (R423). -/
def passControl (s : State) (st : Site) (w : BitVec 32) (dirs : List Nat) (t : Token) : State :=
  let sl := slotSt s st
  let outs := controlDirs st sl w t.kind
  if outs.any (fun d => (waitingDirs s st).contains d || decide (credits s st.k st.y st.x d < 1)) then s
  else if t.kind = kEOT ∧ isReader (opOf w) ∧ readFull st.cfg.cfg (rangeOf s st.key st.c) = false then s
  else match linkFault s st outs t.seg with
  | some s => s
  | none =>
    let s := dirs.foldl (fun s d => popInput s st d) s
    let s := if t.kind = kSOT then sotAt s st w t.number else s
    let s := outs.foldl (fun s d => sendFrom s st d { t with slot := BitVec.ofNat 4 (field w 12 9) }) s
    let s := if t.kind = kEOT then eotAt s st w t else s
    let s :=
      if opOf w = 0x53 then
        (if t.kind = kSOT then setSlotSt s st { slotSt s st with inSeg := some 0 }
         else if t.kind = kEOT then setSlotSt s st { slotSt s st with inSeg := none, second := !sl.second } else s)
      else if opOf w = 0x52 ∧ w.getLsbD 0 then
        (if t.kind = kSOT then setSlotSt s st { slotSt s st with inSeg := some (BitVec.ofNat 2 (dirs.headD 0)) }
         else if t.kind = kEOT then setSlotSt s st { slotSt s st with inSeg := none, expect := (sl.expect + 1) % 2 ^ 32 } else s)
      else s
    if t.kind = kRECONF then reconfAt s st dirs t else s

/-! ### Frame tiles and line buffers pass control tokens outside their op tables -/

/-- The consumer direction of a frame tile (Table 3.12). -/
def consumerDir (cfg : BitVec 32) : Nat := field cfg 12 11

/-- The directions from which a declared channel enters a tile. -/
def declaredInputs (st : Site) : List Nat := (List.range 4).filter (fun d => (st.ctx.chanIn st.y st.x d).isSome)

/-- The frame tiles of a load in ascending (y, x), with the frames each holds; F is their sum (R76). -/
def framePool (c : Ctx) : List (Nat × Nat) :=
  (c.tiles.filter (fun e => isMemTile (e.1 / 24) (e.1 % 24) && rangeMode e.2.cfg == 3)).map (fun e => (e.1, field e.2.cfg 18 13))
def poolSize (c : Ctx) : Nat := ((framePool c).map (·.2)).sum
/-- The tile that holds the frame of a tag. -/
def frameHome (c : Ctx) (tag : Nat) : Option Nat :=
  ((framePool c).foldl (fun (acc : Nat × Option Nat) e =>
    (acc.1 + e.2, if acc.2.isNone ∧ tag < acc.1 + e.2 then some e.1 else acc.2)) (0, none)).2

def plainHead (s : State) (st : Site) (d : Nat) : Option Token := (standing s st d).head?.map (·.2)

/-- The frame nodes of the consumer tile: slot, first frame slot, operands (R77). -/
def frameNodes (c : Ctx) (t : Nat) : List (Nat × Nat × Nat) :=
  (List.range 16).filterMap (fun n =>
    let w := Map.get 0 (Map.get {} c.tiles t).ops n
    if opOf w ≠ 0 ∧ (field w 24 21 = 12 ∨ field w 20 17 = 12) then some (n, field w 8 5, field w 4 3) else none)

/-- The nodes of the tile beyond a frame tile's consumer direction. -/
def nodesOf (st : Site) : List (Nat × Nat × Nat) :=
  match neighbour st.y st.x (consumerDir st.cfg.cfg) with
  | some (y, x) => frameNodes st.ctx (24 * y + x)
  | none => []

/-- The first node of a frame whose operands are all there: its tag and slot, no operand sent. Of several the spec gives no
order (R37): the model takes frames in ascending order of tags, then the lowest node (log 112). -/
def completeMask (s : State) (st : Site) : Option (Nat × Nat × Nat) :=
  ((rangeOf s st.key st.c).frames.flatMap (fun e => ((nodesOf st).filter (fun m =>
    (List.range m.2.2).all (fun i => e.2.present.getLsbD (m.2.1 + i)))).map (fun m => (e.1, m.1, 0)))).head?

/-- A frame tile has operands to send. -/
def hasOperands (s : State) (st : Site) : Bool := (rangeOf s st.key st.c).sending.isSome || (completeMask s st).isSome

/-- What a frame tile saves as an SOT passes: its frames, and the tags in use of frames that are its own (10_faults_modes.md
R225, 16_ref_d_l.md R356). -/
def snapFrames (s : State) (st : Site) (seg : Nat) : State :=
  let own (tag : Nat) : Bool := decide (frameHome st.ctx tag = some st.t)
  s.modTile st.key (fun t => { t with snaps := Map.modify {} t.snaps (4 * seg + st.c) (fun v =>
    { v with frames := some ((Map.get {} t.ranges st.c).frames, st.ctx.tags.filter (fun e => own e.1)) }) })

/-- A frame tile's control tokens pass to the consumer, after the operands that the data ahead of them completed
(03_fabric.md R76, R35; log 111). -/
def passFrameControl (s : State) (st : Site) : Option State :=
  let dirs := declaredInputs st
  if hasOperands s st then none else
  match dirs.map (plainHead s st) with
  | some t :: rest =>
    if !t.isControl || rest.any (fun h => match h with | some x => !x.isControl | none => true) then none
    else if rest.any (fun h => (h.map (·.kind)) != some t.kind) then some (tileFault s st fcTOKEN t.seg)
    else
      let d := consumerDir st.cfg.cfg
      if credits s st.k st.y st.x d < 1 then some s
      else
        match linkFault s st [d] t.seg with
        | some s => some s
        | none =>
        let s := dirs.foldl (fun s d => popInput s st d) s
        let s := if t.kind = kSOT then snapFrames s st t.number else s
        let s := sendFrom s st d t
        some (if t.kind = kRECONF then reconfAt s st dirs t else s)
  | _ => none

/-- A control token at this slot passes, or the tile raises TOKEN (R35). -/
def execControlTokenForward (s : State) : Res :=
  onTile s (fun st =>
    match flushOut s st with
    | some s => .next s
    | none =>
      if isFrames st then .next ((passFrameControl s st).getD s) else
      let st := if isSystolic st then { st with n := 0 } else st
      let w := wordOf' st
      match controlReady s st w with
        | .no => .next s
        | .bad seg => .next (tileFault s st fcTOKEN seg)
        | .go dirs t =>
          let s := passControl s st w dirs t
          -- a line buffer is emptied by an SOT
          .next (if isLineBuffer st && t.kind == kSOT
            then modRange s st.key st.c (fun r => { r with lines := [] }) else s))

/-! ### KILL channels -/

/-- Appends a KILL to the kill channel that leaves a tile's input d: it merges into a waiting KILL of its chain when the
channel is full, and otherwise waits in order (R59). A link that fails for it charges LINK (10_faults_modes.md R236). -/
def sendKill (s : State) (st : Site) (d : Nat) (tag : BitVec 12) (mask : BitVec 16) (seg : Nat) : State :=
  match st.ctx.tileBeyond st.y st.x d with
  | none => s
  | some (y', x') =>
    match linkFault s st [d] seg with
    | some s => s
    | none => s.modTile (tileKey st.k y' x') (fun t =>
      let q := Map.get [] t.kill (opposite d)
      let same (e : Token) : Bool := decide (e.tag = tag)
      let q' := if 2 ≤ q.length ∧ q.any same then
          q.map (fun e => if same e then { e with payload := e.payload ||| mask.zeroExtend 512 } else e)
        else q ++ [{ kind := kKILL, tag, payload := mask.zeroExtend 512, seg }]
      { t with kill := Map.set [] t.kill (opposite d) q' })

/-- The oldest KILL of a tile's output d, and the state without it. -/
def takeKill (s : State) (st : Site) (d : Nat) : Option (Token × State) :=
  match Map.get [] (s.tile st.key).kill d with
  | [] => none
  | t :: rest => some (t, s.modTile st.key (fun ti => { ti with kill := Map.set [] ti.kill d rest }))

def killMask (t : Token) : BitVec 16 := BitVec.ofNat 16 t.payload.toNat

end Sys2Proof.Machine
end

