-- ==== Sys2Proof/Machine/WordOps.lean ====
section
/-!
DEFINITION. The word ops (19_ref_t_z.md R427 to R436).
-/
namespace Sys2Proof.Machine

open Sys2Proof
open Sys2Proof.Float (Fl Val Fmt Mode fINV fOVF)

/-! ### Modifiers (Table 19.3, R429) -/

/-- A slot with a source of 12 is a frame node; its modifier reads as R77 gives. -/
def frameNode (f : Slot) : Bool := f.a == 12 || f.b == 12
/-- TYPE of layout E. -/
def typeE (f : Slot) : Nat := if frameNode f then field f.m 2 0 else field f.m 8 6
/-- TYPE of layout T. -/
def typeT (f : Slot) : Nat := if frameNode f then field f.m 2 0 else field f.m 1 0
def accOf (f : Slot) : Nat := field f.m 5 4
/-- RND, from the configuration word in a frame node. -/
def rndOf (st : Site) (f : Slot) : Nat := if frameNode f then field st.cfg.cfg 3 2 else field f.m 3 2
def modeOf (st : Site) (f : Slot) : Mode := Float.mode (rndOf st f)
/-- Integer results are clamped and not wrapped. -/
def satOf (f : Slot) : Bool := !frameNode f && field f.m 3 2 == 1
/-- The third source of a layout T op: a register, or the third frame operand. -/
def thirdOf (f : Slot) : BitVec 4 := if frameNode f then 12 else 4 + BitVec.ofNat 4 (field f.m 8 6)

/-! ### Elements (Table 19.4) -/

def isFloat (ty : Nat) : Bool := decide (ty ≤ 2)
def fmtOf (ty : Nat) : Fmt := if ty = 0 then Float.fp32 else if ty = 1 then Float.bf16 else Float.fp16
def elems (ty : Nat) : Nat := if ty = 5 then 8 else 16
def widthOf (ty : Nat) : Nat := match ty with | 1 => 16 | 2 => 16 | 5 => 64 | 6 => 16 | 7 => 8 | _ => 32
def signedTy (ty : Nat) : Bool := decide (ty ≠ 4)
/-- How IMM supplies an operand of a type. -/
def immHow (ty : Nat) : Nat := if ty = 0 then 0 else if ty ≤ 2 then 1 else if ty = 5 then 3 else 2

/-- The bits of element i. -/
def rawElem (ty : Nat) (p : Lanes) (i : Nat) : Nat :=
  (p.toNat >>> (if ty = 5 then 64 * i else 32 * i)) % 2 ^ widthOf ty
def elemValid (ty : Nat) (v : BitVec 16) (i : Nat) : Bool :=
  if ty = 5 then v.getLsbD (2 * i) && v.getLsbD (2 * i + 1) else v.getLsbD i

/-- An integer element's value, and its range. -/
def intElem (ty raw : Nat) : Int := if signedTy ty then sextN raw (widthOf ty) else raw
def intLo (ty : Nat) : Int := if signedTy ty then -2 ^ (widthOf ty - 1) else 0
def intHi (ty : Nat) : Int := if signedTy ty then 2 ^ (widthOf ty - 1) - 1 else 2 ^ widthOf ty - 1

/-- The bits that an integer of a type is placed as: narrow ones sign-extended to the lane. -/
def placeInt (ty : Nat) (x : Int) : Nat :=
  if ty = 5 then (x % 2 ^ 64).toNat
  else if signedTy ty then ((sextN ((x % 2 ^ widthOf ty).toNat) (widthOf ty)) % 2 ^ 32).toNat
  else (x % 2 ^ 32).toNat

/-- An exact integer wrapped, or clamped with OVF (R428). -/
def finInt (ty : Nat) (sat : Bool) (x : Int) : Nat × Fl :=
  if sat ∧ (x < intLo ty ∨ intHi ty < x) then (placeInt ty (clampI (intLo ty) (intHi ty) x), fOVF)
  else (placeInt ty x, 0)

/-- Lanes from elements. -/
def fromElems (ty : Nat) (ok : Nat → Bool) (val : Nat → Nat) : BitVec 16 × Lanes :=
  if ty = 5 then
    (ofFlags (fun i => ok (i / 2)),
     ofLanes (fun i => if ok (i / 2) then BitVec.ofNat 32 (val (i / 2) >>> (32 * (i % 2))) else 0))
  else (ofFlags ok, ofLanes (fun i => if ok i then BitVec.ofNat 32 (val i) else 0))

/-- A word op's result: valid lanes, payload, flags. -/
abbrev WordRes := BitVec 16 × Lanes × Fl

/-- An elementwise op: each element from the operands' elements; only valid elements raise flags (R428). -/
def elementwise (ty : Nat) (opnds : List Token) (g : List Nat → Nat × Fl) : WordRes :=
  let ok (i : Nat) : Bool := opnds.all (fun t => elemValid ty t.valid i)
  let vals := (List.range (elems ty)).map (fun i => if ok i then g (opnds.map (fun t => rawElem ty t.payload i)) else (0, 0))
  let (v, p) := fromElems ty ok (fun i => (vals.getD i (0, 0)).1)
  (v, p, vals.foldl (fun a e => a ||| e.2) 0)

/-- A lane op on bit patterns: from the operands' lanes. -/
def lanewise (opnds : List Token) (g : List (BitVec 32) → BitVec 32) : WordRes :=
  let ok (i : Nat) : Bool := opnds.all (fun t => t.valid.getLsbD i)
  (ofFlags ok, ofLanes (fun i => if ok i then g (opnds.map (fun t => lane t.payload i)) else 0), 0)

/-- Fires a word op whose body makes a result from its operands; flags go to the region (R104). -/
def wordOp (s : State) (f : Slot) (srcs : List (BitVec 4)) (how : Nat) (body : Site → List Token → WordRes) : Res :=
  onTile s (fun st => fireAt s st { srcs, how, acc := accOf f, dests := [(f.d.toNat, 1)], next := f.n } (fun k =>
    let (v, p, fl) := body st k.opnds
    .ok (raiseFlags k.s st.k st.j fl, [(f.d.toNat, resultTok k.s f v p)])))

/-- Layout E with one or two sources. -/
def wordE (s : State) (f : Slot) (two : Bool) (g : Site → Nat → List Nat → Nat × Fl) : Res :=
  let ty := typeE f
  wordOp s f (if two then [f.a, f.b] else [f.a]) (immHow ty) (fun st o => elementwise ty o (g st ty))

/-- Layout T: three sources. -/
def wordT (s : State) (f : Slot) (g : Site → Nat → List Nat → Nat × Fl) : Res :=
  let ty := typeT f
  wordOp s f [f.a, f.b, thirdOf f] (immHow ty) (fun st o => elementwise ty o (g st ty))

/-- Layout L on lanes. -/
def wordL (s : State) (f : Slot) (two : Bool) (g : List (BitVec 32) → BitVec 32) : Res :=
  wordOp s f (if two then [f.a, f.b] else [f.a]) 2 (fun _ o => lanewise o g)

def arg (l : List Nat) (n : Nat) : Nat := l.getD n 0

/-! ### Elementwise ops (R430) -/

/-- A floating op or an exact integer op. -/
def arith (st : Site) (f : Slot) (ty : Nat) (fl : Fmt → Mode → List Nat → Nat × Fl) (int : List Int → Int) (l : List Nat) : Nat × Fl :=
  if isFloat ty then fl (fmtOf ty) (modeOf st f) l else finInt ty (satOf f) (int (l.map (intElem ty)))

def execVadd (f : Slot) (s : State) : Res :=
  wordE s f true (fun st ty => arith st f ty (fun m r l => Float.add m r (arg l 0) (arg l 1)) (fun l => l.getD 0 0 + l.getD 1 0))
def execVsub (f : Slot) (s : State) : Res :=
  wordE s f true (fun st ty => arith st f ty (fun m r l => Float.sub m r (arg l 0) (arg l 1)) (fun l => l.getD 0 0 - l.getD 1 0))
def execVmul (f : Slot) (s : State) : Res :=
  wordE s f true (fun st ty => arith st f ty (fun m r l => Float.mul m r (arg l 0) (arg l 1)) (fun l => l.getD 0 0 * l.getD 1 0))
def execVfma (f : Slot) (s : State) : Res :=
  wordT s f (fun st ty => arith st f ty (fun m r l => Float.fma m r (arg l 0) (arg l 1) (arg l 2))
    (fun l => l.getD 0 0 * l.getD 1 0 + l.getD 2 0))

/-- Minimum and maximum of two elements (R430). -/
def minMax (ty : Nat) (wantMax : Bool) (x y : Nat) : Nat × Fl :=
  if isFloat ty then Float.minmax (fmtOf ty) wantMax x y
  else
    let a := intElem ty x
    let b := intElem ty y
    (placeInt ty (if wantMax then (if a < b then b else a) else (if b < a then b else a)), 0)

def execVmin (f : Slot) (s : State) : Res := wordE s f true (fun _ ty l => minMax ty false (arg l 0) (arg l 1))
def execVmax (f : Slot) (s : State) : Res := wordE s f true (fun _ ty l => minMax ty true (arg l 0) (arg l 1))

/-- A floating element with its sign changed by g; a NaN becomes the canonical NaN, a signalling one raises INV. -/
def signOp (m : Fmt) (g : Val → Val) (x : Nat) : Nat × Fl := Float.ofVal m .rne (g (Float.decode m x))

def execVabs (f : Slot) (s : State) : Res :=
  wordE s f false (fun _ ty l => if isFloat ty then signOp (fmtOf ty) Val.abs (arg l 0)
    else finInt ty (satOf f) |intElem ty (arg l 0)|)
def execVneg (f : Slot) (s : State) : Res :=
  wordE s f false (fun _ ty l => if isFloat ty then signOp (fmtOf ty) Val.neg (arg l 0)
    else finInt ty (satOf f) (-(intElem ty (arg l 0))))

/-- VCMP's condition on two elements: 0 EQ, 1 NE, 2 LT, 3 LE. -/
def cmpElem (ty cond x y : Nat) : Bool × Fl :=
  let pick (unordered : Bool) (c : Int) : Bool := match cond with
    | 0 => !unordered && decide (c = 0) | 1 => unordered || decide (c ≠ 0)
    | 2 => !unordered && decide (c < 0) | _ => !unordered && decide (c ≤ 0)
  if isFloat ty then
    let a := Float.decode (fmtOf ty) x
    let b := Float.decode (fmtOf ty) y
    (pick (a.isNan || b.isNan) (Float.cmpV a b), if a.sig || b.sig then fINV else 0)
  else (pick false (intElem ty x - intElem ty y), 0)

def execVcmp (f : Slot) (s : State) : Res :=
  wordE s f true (fun _ ty l =>
    let (b, fl) := cmpElem ty (if frameNode f then 0 else field f.m 1 0) (arg l 0) (arg l 1)
    (if b then (if ty = 5 then 2 ^ 64 - 1 else 2 ^ 32 - 1) else 0, fl))

def execVsel (f : Slot) (s : State) : Res :=
  wordOp s f [f.a, f.b, thirdOf f] (immHow (typeT f)) (fun _ o =>
    let a := o.getD 0 {}
    let b := o.getD 1 {}
    let c := o.getD 2 {}
    let take (i : Nat) : Token := if lane c.payload i ≠ 0 then a else b
    (ofFlags (fun i => c.valid.getLsbD i && (take i).valid.getLsbD i), ofLanes (fun i => lane (take i).payload i), 0))

def lane2 (l : List (BitVec 32)) (g : BitVec 32 → BitVec 32 → BitVec 32) : BitVec 32 := g (l.getD 0 0) (l.getD 1 0)

def execVand (f : Slot) (s : State) : Res := wordL s f true (fun l => lane2 l (· &&& ·))
def execVor (f : Slot) (s : State) : Res := wordL s f true (fun l => lane2 l (· ||| ·))
def execVxor (f : Slot) (s : State) : Res := wordL s f true (fun l => lane2 l (· ^^^ ·))
def execVshl (f : Slot) (s : State) : Res := wordL s f true (fun l => lane2 l (fun a b => a <<< (b.toNat % 32)))
def execVshr (f : Slot) (s : State) : Res := wordL s f true (fun l => lane2 l (fun a b => a >>> (b.toNat % 32)))
def execVsar (f : Slot) (s : State) : Res := wordL s f true (fun l => lane2 l (fun a b => a.sshiftRight (b.toNat % 32)))

def execVclamp (f : Slot) (s : State) : Res :=
  wordT s f (fun _ ty l =>
    let (m, f1) := minMax ty true (arg l 0) (arg l 1)
    let (r, f2) := minMax ty false (m % 2 ^ widthOf ty) (arg l 2)
    (r, f1 ||| f2))

/-- A × 2^n with n the whole lane of B, formed exactly and rounded once; an n beyond ±1,000 gives what ±1,000 gives. -/
def scaleElem (m : Fmt) (r : Mode) (x : Nat) (n : Int) : Nat × Fl :=
  match Float.decode m x with
  | .fin s mm e => Float.ofVal m r (.fin s mm (e + clampI (-1000) 1000 n))
  | v => Float.ofVal m r v

def execVscale (f : Slot) (s : State) : Res :=
  wordOp s f [f.a, f.b] (immHow (typeE f)) (fun st o =>
    let ty := typeE f
    let b := o.getD 1 {}
    let ok (i : Nat) : Bool := o.all (fun t => t.valid.getLsbD i)
    let vals := (List.range 16).map (fun i => if ok i then
      scaleElem (fmtOf ty) (modeOf st f) (rawElem ty (o.getD 0 {}).payload i) (lane b.payload i).toInt else (0, 0))
    let (v, p) := fromElems ty ok (fun i => (vals.getD i (0, 0)).1)
    (v, p, vals.foldl (fun a e => a ||| e.2) 0))

def execVmov (f : Slot) (s : State) : Res := wordL s f false (fun l => l.getD 0 0)

def execVcnt (f : Slot) (s : State) : Res :=
  wordL s f false (fun l =>
    let x := (l.getD 0 0).toNat
    BitVec.ofNat 32 (match field f.m 1 0 with
      | 0 => popCount 32 x | 1 => leadZeros 32 x | _ => trailZeros 32 x))

/-! ### Lane moves (R431) -/

/-- A lane of VPSWAP that NEG negates: bit 15 or 31 flipped, a NaN of the width made canonical. -/
def negLane (w16 : Bool) (x : BitVec 32) : BitVec 32 :=
  if w16 then
    (x &&& 0xFFFF0000) ||| (if (Float.decode Float.bf16 (x.toNat % 65536)).isNan then 0x7FC0 else (x ^^^ 0x8000) &&& 0xFFFF)
  else if (Float.decode Float.fp32 x.toNat).isNan then 0x7FC00000 else x ^^^ 0x80000000

def execVpswap (f : Slot) (s : State) : Res :=
  wordOp s f [f.a] 2 (fun _ o =>
    let a := o.getD 0 {}
    let partner (i : Nat) : Nat := i ^^^ 2 ^ field f.m 8 6
    let neg := f.m.getLsbD 0
    let w16 := f.m.getLsbD 1
    (ofFlags (fun i => a.valid.getLsbD (partner i)),
     ofLanes (fun i =>
       let x := lane a.payload (partner i)
       if decide (i < partner i) && neg then negLane w16 x else x), 0))

def execVperm (f : Slot) (s : State) : Res :=
  wordOp s f [f.a, f.b] 2 (fun _ o =>
    let a := o.getD 0 {}
    let b := o.getD 1 {}
    let idx (i : Nat) : Nat := (lane b.payload i).toNat % 16
    (ofFlags (fun i => b.valid.getLsbD i && a.valid.getLsbD (idx i)), ofLanes (fun i => lane a.payload (idx i)), 0))

def execVbcast (f : Slot) (s : State) : Res :=
  wordOp s f [f.a] 2 (fun _ o =>
    let a := o.getD 0 {}
    let n := field f.m 5 2
    (ofFlags (fun _ => a.valid.getLsbD n), ofLanes (fun _ => lane a.payload n), 0))

def execViota (f : Slot) (s : State) : Res :=
  wordOp s f [f.a] 2 (fun _ o =>
    let a := o.getD 0 {}
    (ofFlags (fun _ => a.valid.getLsbD 0),
     ofLanes (fun i => lane a.payload 0 + BitVec.ofNat 32 (i * 2 ^ field f.m 1 0)), 0))

/-! ### Special functions (R432) -/

/-- A function of FP32, and for BF16 its result rounded once more (04_formats.md R100). -/
def viaFp32 (g : Nat → Nat × Fl) (ty x : Nat) : Nat × Fl :=
  if ty = 1 then
    let (r, f1) := g (x % 65536 * 65536)
    let (c, f2) := Float.ofVal Float.bf16 .rne (Float.decode Float.fp32 r)
    (c, f1 ||| f2)
  else g x

def execVsinpi (f : Slot) (s : State) : Res := wordE s f false (fun _ ty l => viaFp32 (Float.sincospi false) ty (arg l 0))
def execVcospi (f : Slot) (s : State) : Res := wordE s f false (fun _ ty l => viaFp32 (Float.sincospi true) ty (arg l 0))
def execVexp2 (f : Slot) (s : State) : Res := wordE s f false (fun _ ty l => viaFp32 Float.exp2 ty (arg l 0))
def execVrcp (f : Slot) (s : State) : Res := wordE s f false (fun _ ty l => Float.rcp (fmtOf ty) (arg l 0))
def execVrsq (f : Slot) (s : State) : Res := wordE s f false (fun _ ty l => Float.rsq (fmtOf ty) (arg l 0))

/-! ### Conversions (R433, R434, 04_formats.md R88, R92) -/

/-- The output of the counter generator for lane i of a firing (R92). -/
def srWord (s : State) (st : Site) (i : Nat) : Nat :=
  (Float.gen (BitVec.ofNat 32 ((Map.get 0 (s.tile st.key).sr st.c) % 2 ^ 19 * 2 ^ 13 + st.t * 16 + i)) st.ctx.srkey).toNat

/-- The SR count after a firing that rounds by SR (R92). -/
def bumpSr (s : State) (st : Site) : State :=
  s.modTile st.key (fun t => { t with sr := Map.modify 0 t.sr st.c (· + 1) })

/-- An element of type `from_` converted to type `to`. -/
def convElem (from_ dst : Nat) (r : Mode) (x : Nat) : Nat × Fl :=
  if isFloat from_ then
    let v := Float.decode (fmtOf from_) x
    if isFloat dst then Float.ofVal (fmtOf dst) r v
    else
      let (i, fl) := Float.toInt (intLo dst) (intHi dst) r v
      (placeInt dst i, if v.sig then fl ||| fINV else fl)
  else if isFloat dst then Float.ofVal (fmtOf dst) r (Float.ofInt (intElem from_ x))
  else finInt dst true (intElem from_ x)

/-- A word op that may round by SR: as wordOp, with the count of R92, to which a firing adds that rounds so in some lane. -/
def wordSr (s : State) (f : Slot) (srcs : List (BitVec 4)) (how : Nat) (sr : List Token → Bool) (body : Site → List Token → WordRes) : Res :=
  onTile s (fun st => fireAt s st { srcs, how, acc := accOf f, dests := [(f.d.toNat, 1)], next := f.n } (fun k =>
    let (v, p, fl) := body st k.opnds
    let s' := raiseFlags k.s st.k st.j fl
    .ok (if sr k.opnds then bumpSr s' st else s', [(f.d.toNat, resultTok k.s f v p)])))

def execVcvt (f : Slot) (s : State) : Res :=
  let from_ := field f.m 8 6
  let dst := 2 * field f.m 5 4 + field f.m 0 0
  let sr := f.m.getLsbD 1
  -- a copy, and a conversion of integers, round nothing
  let rounds := sr && decide (from_ ≠ dst) && (isFloat from_ || isFloat dst)
  wordSr s f [f.a] (immHow from_) (fun o => rounds && (o.getD 0 {}).valid != 0) (fun st o =>
    let a := o.getD 0 {}
    let ok (i : Nat) : Bool := a.valid.getLsbD i
    let vals := (List.range 16).map (fun i => if ok i then
      convElem from_ dst (if sr then .sr (srWord s st i % 65536) else Float.mode (field f.m 3 2)) (rawElem from_ a.payload i) else (0, 0))
    let (v, p) := fromElems dst ok (fun i => (vals.getD i (0, 0)).1)
    (v, p, vals.foldl (fun a e => a ||| e.2) 0))

/-- The narrow formats of VPACK: 0 E4M3, 1 E5M2, 2 TAP8, 3 E2M1, 4 INT8, 5 INT4, 6 BF16. -/
def packElem (fmt : Nat) (r : Mode) (v : Val) : Nat × Fl :=
  match fmt with
  | 0 => Float.ofVal Float.e4m3 r v
  | 1 => Float.ofVal Float.e5m2 r v
  | 2 => Float.toTap8 r v
  | 3 => Float.ofVal Float.e2m1 r v
  | 4 => let (i, fl) := Float.toInt (-128) 127 r v; ((i % 256).toNat, if v.sig then fl ||| fINV else fl)
  | 5 => let (i, fl) := Float.toInt (-8) 7 r v; ((i % 16).toNat, if v.sig then fl ||| fINV else fl)
  | _ => Float.ofVal Float.bf16 r v

def packBits (fmt : Nat) : Nat := if fmt = 3 ∨ fmt = 5 then 4 else if fmt = 6 then 16 else 8

/-- floor(log2 |v|) of a finite nonzero value. -/
def logOf (v : Val) : Option Int :=
  match v with
  | .fin _ m e => if m = 0 then none else some ((Nat.log2 m : Int) + e)
  | _ => none

/-- The scale code of an MX block from its finite values (04_formats.md R88). -/
def mxScale (fmt : Nat) (vs : List Val) : Nat :=
  match (vs.filterMap logOf).foldl (fun (a : Option Int) e => match a with | some m => some (if m < e then e else m) | none => some e) none with
  | none => 0x7F
  | some m => (clampI 0 254 (m - (if fmt = 0 then 8 else if fmt = 1 then 15 else 2) + 127)).toNat

/-- v / 2^n. -/
def unscale (n : Int) (v : Val) : Val := match v with | .fin s m e => .fin s m (e - n) | v => v

def execVpack (f : Slot) (s : State) : Res :=
  let fmt := field f.m 8 6
  let sr := f.m.getLsbD 5
  let high := f.m.getLsbD 1
  let mx := f.m.getLsbD 0
  let r := Float.mode (field f.m 3 2)
  wordSr s f (if f.b = 15 then [f.a] else [f.a, f.b]) 0 (fun o => sr && o.any (fun t => t.valid != 0)) (fun st o =>
    let src (i : Nat) : Option Token := if i < 16 then o[0]? else o[1]?
    let elem (i : Nat) : Option Val := (src i).bind (fun t =>
      if t.valid.getLsbD (i % 16) then some (Float.decode Float.fp32 (lane t.payload (i % 16)).toNat) else none)
    let els := (List.range 32).map elem
    let present := els.filterMap id
    let code := if mx then mxScale fmt present else 127
    let conv := (List.range 32).map (fun i => match els.getD i none with
      | none => (0, (0 : Fl))
      | some v =>
        let u := srWord s st (i % 16)
        packElem fmt (if sr then .sr (if i < 16 then u % 65536 else u / 65536) else r) (unscale ((code : Int) - 127) v))
    let bits := packBits fmt
    let base := if high then 128 else 0
    let data := (List.range 32).foldl (fun a i => a + (conv.getD i (0, 0)).1 * 2 ^ (base + bits * i)) 0
    let scale := if mx then (if present.any Val.isNan then 255 else code) else 0
    let pay : Lanes := BitVec.ofNat 512 (data + scale * 2 ^ (256 + (if high then 8 else 0)))
    let holds_ (l : Nat) : Bool := (List.range 32).any (fun i =>
      (els.getD i none).isSome && decide ((base + bits * i) / 32 = l))
    (ofFlags (fun l => holds_ l || (mx && decide (l = 8))), pay, conv.foldl (fun a e => a ||| e.2) 0))

/-! ### VRAND, VREDADD, VREDMAX (R435, R436) -/

def execVrand (f : Slot) (s : State) : Res :=
  wordOp s f (if f.b = 15 then [f.a] else [f.a, f.b]) 2 (fun st o =>
    let a := o.getD 0 {}
    let key : BitVec 64 := match o[1]? with
      | some b => (lane b.payload 1).zeroExtend 64 <<< 32 ||| (lane b.payload 0).zeroExtend 64
      | none => st.ctx.srkey
    let keyOk := match o[1]? with | some b => b.valid.getLsbD 0 && b.valid.getLsbD 1 | none => true
    (ofFlags (fun i => keyOk && a.valid.getLsbD i),
     ofLanes (fun i =>
       let r := Float.gen (lane a.payload i) key
       if f.m.getLsbD 0 then BitVec.ofNat 32 (Float.ofVal Float.fp32 .rne (.fin false (r.toNat >>> 8) (-24))).1 else r), 0))

/-- The exact sum of floating values, rounded once; infinities of both signs raise INV whatever else there is, and the sign
of a zero sum follows IEEE addition (R436). -/
def sumFloat (m : Fmt) (r : Mode) (vs : List Val) : Nat × Fl :=
  let sig : Fl := if vs.any Val.sig then fINV else 0
  let pos := vs.any (fun v => v == .inf false)
  let neg := vs.any (fun v => v == .inf true)
  if pos && neg then ((Float.nanCode m).1, fINV)
  else if vs.any Val.isNan then ((Float.nanCode m).1, sig)
  else if pos then Float.ofVal m r (.inf false)
  else if neg then Float.ofVal m r (.inf true)
  else
    let total : Int := vs.foldl (fun a v => match v with
      | .fin n mm e => let x : Int := mm * 2 ^ (e + 200).toNat; if n then a - x else a + x
      | _ => a) 0
    if total = 0 then
      let allNeg := !vs.isEmpty && vs.all (fun v => v.isZero && v.negative)
      let cancel := vs.any (fun v => !v.isZero) || (vs.any (fun v => v.negative) && vs.any (fun v => !v.negative))
      Float.ofVal m r (.fin (allNeg || (cancel && decide (r = .rdn))) 0 0)
    else Float.ofVal m r (.fin (decide (total < 0)) total.natAbs (-200))

/-- A reduction's result in lane 0, or in every lane (R436). -/
def reduced (f : Slot) (ty v : Nat) : BitVec 16 × Lanes :=
  fromElems ty (fun i => f.m.getLsbD 0 || decide (i = 0)) (fun _ => v)

def validElems (ty : Nat) (t : Token) : List Nat :=
  ((List.range (elems ty)).filter (elemValid ty t.valid)).map (rawElem ty t.payload)

def execVredadd (f : Slot) (s : State) : Res :=
  wordOp s f [f.a] (immHow (typeE f)) (fun st o =>
    let ty := typeE f
    let es := validElems ty (o.getD 0 {})
    let (v, fl) := if isFloat ty then sumFloat (fmtOf ty) (modeOf st f) (es.map (Float.decode (fmtOf ty)))
      else finInt ty (satOf f) (es.foldl (fun a e => a + intElem ty e) 0)
    let (m, p) := reduced f ty v
    (m, p, fl))

def execVredmax (f : Slot) (s : State) : Res :=
  wordOp s f [f.a] (immHow (typeE f)) (fun _ o =>
    let ty := typeE f
    let es := validElems ty (o.getD 0 {})
    let start : Nat := if isFloat ty then (Float.ofVal (fmtOf ty) .rne (.inf true)).1 else placeInt ty (intLo ty)
    let (v, fl) := match es with
      | [] => (start, (0 : Fl))
      | [x] => if isFloat ty then Float.minmax (fmtOf ty) true x x else (placeInt ty (intElem ty x), 0)
      | x :: rest => rest.foldl (fun a e =>
          let (r, fl) := minMax ty true (a.1 % 2 ^ widthOf ty) e
          (r, a.2 ||| fl)) (x, 0)
    let (m, p) := reduced f ty v
    (m, p, fl))

end Sys2Proof.Machine
end

