-- ==== Sys2Proof/Machine/Routing.lean ====
section
/-!
DEFINITION. The routing ops, LUTOP, the memory-tile ops and modes, and the systolic tiles (03_fabric.md R70 to R82,
16_ref_d_l.md R350, R355, R356, R369, 17_ref_m_r.md R379, R384, 18_ref_s.md R399, R412, R416, 19_ref_t_z.md R418 to R423).
-/
namespace Sys2Proof.Machine

open Sys2Proof

/-! ### Routing ops -/

/-- A forwarded token: the next slot of the slot word, everything else kept (R379). -/
def forwarded (f : Slot) (t : Token) : Token := { t with slot := f.n }

/-- A NULL in place of a token, with its tag and frame offset. -/
def nullOf (f : Slot) (t : Token) : Token := { t with slot := f.n, kind := kNULL, valid := 0, payload := 0 }

/-- A routing op: takes one data token of each named source, and says what it sends where. -/
def routeOp (s : State) (f : Slot) (srcs : List (BitVec 4)) (dests : List Nat) (act : Taken → Site → Fired) : Res :=
  onTile s (fun st =>
    fireAt s st { srcs, dests := dests.map (fun d => (d, 1)), next := f.n, nullOk := true, digitOk := true } (fun k => act k st))

def tok (k : Taken) (n : Nat) : Token := k.opnds.getD n {}

def execPass (f : Slot) (s : State) : Res :=
  routeOp s f [f.a] [f.d.toNat] (fun k st =>
    let t := tok k 0
    -- the killed lanes recorded belong to the chain of the last DIGIT token
    let sl := slotSt k.s st
    let s := if t.kind = kDIGIT ∧ sl.passTag ≠ some t.tag then setSlotSt k.s st { sl with passTag := some t.tag, passKill := [] } else k.s
    .ok (s, [(f.d.toNat, forwarded f t)]))

def execNullt (f : Slot) (s : State) : Res :=
  routeOp s f [f.a] [f.d.toNat] (fun k _ => .ok (k.s, [(f.d.toNat, nullOf f (tok k 0))]))

def execDrop (f : Slot) (s : State) : Res :=
  routeOp s f [f.a] [f.d.toNat] (fun k _ =>
    let t := tok k 0
    if f.m.getLsbD 0 = false ∨ t.kind = kNULL ∨ t.valid = 0 then .ok (k.s, [])
    else .ok (k.s, [(f.d.toNat, forwarded f t)]))

def execFramest (f : Slot) (s : State) : Res :=
  routeOp s f [f.a] [f.d.toNat] (fun k _ =>
    .ok (k.s, [(f.d.toNat, { forwarded f (tok k 0) with frame := BitVec.ofNat 8 (field f.m 3 0) })]))

def execSteer (f : Slot) (s : State) : Res :=
  let d2 := field f.m 1 0
  let mode1 := f.m.getLsbD 8
  routeOp s f (if mode1 then [f.a, f.b] else [f.a]) [f.d.toNat, d2] (fun k _ =>
    let t := tok k 0
    let tested := if mode1 then tok k 1 else t
    let l := if mode1 then 0 else field f.m 5 2
    if tested.kind = kDIGIT then .error fcTOKEN
    else
      let yes := decide (tested.kind ≠ kNULL) && tested.valid.getLsbD l && decide (lane tested.payload l ≠ 0)
      .ok (k.s, [(if yes then f.d.toNat else d2, forwarded f t)]))

def execTagchk (f : Slot) (s : State) : Res :=
  routeOp s f [f.a, f.b] [f.d.toNat] (fun k _ =>
    let a := tok k 0
    if a.tag = (tok k 1).tag then .ok (k.s, [(f.d.toNat, forwarded f a)])
    else if f.m.getLsbD 0 then .ok (k.s, [(f.d.toNat, nullOf f a)])
    else .error fcTAG)

/-- The lowest tag of a frame tile. -/
def frameBase (c : Ctx) (t : Nat) : Nat := (((framePool c).filter (fun e => decide (e.1 < t))).map (·.2)).sum

/-- The lowest free tag, while fewer than K invocations are in flight (R419, R42). -/
def freeTag (c : Ctx) : Option Nat :=
  if c.cage ≤ c.tags.length then none
  else (List.range (poolSize c)).find? (fun t => !c.tags.any (fun e => e.1 == t))

/-- The token with the tag that TAGSET gives it; a DIGIT token keeps its chain ID, which is its tag (R57; log 113). -/
def tagged (f : Slot) (t : Token) (tag : BitVec 12) : Token := if t.kind = kDIGIT then forwarded f t else { forwarded f t with tag }

/-- Another ALLOC slot of the load may fire now and is granted its tag first: it is the next of its tile, whose (y, x) is
lower (R419; slots of one tile go in the order of 02_execution_model.md R38). -/
def allocAhead (s : State) (st : Site) : Bool :=
  (loadSites s st.k st.j st.c).any (fun (y, x) => decide (24 * y + x < st.t) && (match siteOf s st.k y x 0 with
    | none => false
    | some o => decide (o.c = st.c) && match (s.tile o.key).due with
      | [] => false
      | n :: _ =>
        let o := { o with n }
        let w := wordOf' o
        decide (opOf w = 0x57) && !w.getLsbD 0 && hasRoom s o (field w 16 13) 1 &&
          (match headFor s o (field w 24 21) with | some (_, t) => t.isData && decide (t.kind ≠ kNULL) | none => false)))

def execTagset (f : Slot) (s : State) : Res :=
  if f.m.getLsbD 0 then
    routeOp s f [f.a, f.b] [f.d.toNat] (fun k _ => .ok (k.s, [(f.d.toNat, tagged f (tok k 0) (tok k 1).tag)]))
  else
    onTile s (fun st =>
      match freeTag st.ctx with
      | none => .next s
      | some g =>
        if allocAhead s st then .next s else
        routeOp s f [f.a] [f.d.toNat] (fun k st =>
          let t := tok k 0
          if t.kind = kNULL then .ok (k.s, [(f.d.toNat, { forwarded f t with tag := 0 })])
          else .ok (modCtx k.s st.k st.j st.c (fun x => { x with tags := x.tags ++ [(g, t.seg)] }),
            [(f.d.toNat, tagged f t (BitVec.ofNat 12 g))])))

/-- The token that SEGMARK forms names no tag in any rule: a free value (R55; log 23). -/
def execSegmark (f : Slot) (s : State) : Res :=
  routeOp s f [f.a] [f.d.toNat] (fun k st =>
    let t := tok k 0
    if t.kind = kDIGIT then .error fcTOKEN
    else
      let v := lane t.payload 0
      let mark := f.m.getLsbD 0
      let fires := decide (t.kind = kWORD) && t.valid.getLsbD 0 && (mark || decide (v ≠ 0))
      let value : Lanes := if mark then v.zeroExtend 512
        else (st.imm.zeroExtend 512 : Lanes) <<< (if f.m.getLsbD 1 then 16 else 0)
      let c : Token := { kind := if mark then kMARK else kORDER, slot := f.n, tag := Config.resultTag k.s.tick, payload := value, seg := t.seg }
      let s := if fires then addOut k.s st f.d.toNat [c] else k.s
      .ok (s, [(f.d.toNat, forwarded f t)]))

def execSplit (f : Slot) (s : State) : Res :=
  onTile s (fun st =>
    let d := if (slotSt s st).second then field f.m 1 0 else f.d.toNat
    routeOp s f [f.a] [d] (fun k _ => .ok (k.s, [(d, forwarded f (tok k 0))])))

/-- Forwards the data token at input d. -/
def forwardFrom (s : State) (f : Slot) (d : Nat) : Res :=
  routeOp s f [BitVec.ofNat 4 d] [f.d.toNat] (fun k _ => .ok (k.s, [(f.d.toNat, forwarded f (tok k 0))]))

/-- The input of two that holds the data token which arrived first. -/
def firstOf (s : State) (st : Site) (f : Slot) : Option Nat :=
  let head (d : Nat) : Option Nat := match headFor s st d with
    | some (n, t) => if t.isControl then none else some n
    | none => none
  match head f.a.toNat, head f.b.toNat with
  | some n, some m => some (if m < n then f.b.toNat else f.a.toNat)
  | some _, none => some f.a.toNat
  | none, some _ => some f.b.toNat
  | none, none => none

def execMerge (f : Slot) (s : State) : Res :=
  onTile s (fun st => match firstOf s st f with | some d => forwardFrom s f d | none => .next s)

def execOrdmerge (f : Slot) (s : State) : Res :=
  onTile s (fun st =>
    if f.m.getLsbD 0 then
      let sl := slotSt s st
      match sl.inSeg with
      | some d => forwardFrom s f d.toNat
      | none => if (firstOf s st f).isSome then .next (tileFault s st fcTOKEN sl.expect) else .next s
    else match firstOf s st f with | some d => forwardFrom s f d | none => .next s)

/-! ### LUTOP (R70, R369) -/

/-- The value of a selector on bus i and flip-flops q. -/
def lutBit (bus q : Nat) (v : Nat) : Bool :=
  if v < 128 then decide (nfield bus v v = 1) else if v < 192 then decide (nfield q (v - 128) (v - 128) = 1) else decide (v = 193)

/-- L[63:0]. -/
def lutOut (c : LutCfg) (bus q : Nat) : BitVec 64 :=
  BitVec.ofNat 64 ((List.range 64).foldl (fun acc k =>
    match c.luts[k]? with
    | none => acc
    | some (table, sel) =>
      let j := (sel.zipIdx.map (fun e => if lutBit bus q e.1 then 2 ^ e.2 else 0)).sum
      acc + (if table.getLsbD j then 2 ^ k else 0)) 0)

/-- IMM as source A is sign-extended to each lane (log 114). -/
def execLutop (f : Slot) (s : State) : Res :=
  onTile s (fun st => fireAt s st { srcs := [f.a], how := 2, dests := [(f.d.toNat, 1)], next := f.n } (fun k =>
    let bus := (maskLanes (tok k 0).valid (tok k 0).payload).toNat % 2 ^ 128
    let q := (k.s.tile st.key).lutff
    let l := lutOut st.cfg.lut bus q.toNat
    let s := k.s.modTile st.key (fun t => { t with lutff := (q &&& ~~~st.cfg.lut.enable) ||| (l &&& st.cfg.lut.enable) })
    .ok (s, [(f.d.toNat, resultTok s f 0xF (BitVec.ofNat 512 (l.toNat + q.toNat * 2 ^ 64)))])))

/-! ### Tile store (R421, R422) -/

/-- The memory address of byte o of buffer b of the range. -/
def bufferAt (st : Site) (b o : Nat) : Nat := tileMem st.k st.y st.x (1024 * field st.cfg.cfg 31 27 + b * bufSize st.cfg.cfg + o)

/-- The 64 bytes there as a payload. -/
def readPay (s : State) (pa : Nat) : Lanes := BitVec.ofNat 512 (readNat s pa 64)
/-- Writes the lanes that are valid. -/
def writePay (s : State) (pa : Nat) (v : BitVec 16) (p : Lanes) : State :=
  writeCells s pa ((List.range 64).map (fun i => if v.getLsbD (i / 4) then some (payByte p i) else none))

/-- The offset of a firing: the pointer, or lane 0 of the address token; none when that lane is invalid (R422). -/
def storeOffset (ptr : Nat) (addr : Option Token) : Option Nat :=
  match addr with
  | none => some ptr
  | some t => if t.valid.getLsbD 0 then some ((lane t.payload 0).toNat % 2 ^ 15) else none

/-- A memory-tile op: eligible while `ready`, with its data or trigger token first and an address token second. -/
def storeOp (s : State) (f : Slot) (srcs : List (BitVec 4)) (ready : Site → RangeSt → Bool)
    (act : Taken → Site → RangeSt → Fired) : Res :=
  onTile s (fun st =>
    let r := rangeOf s st.key st.c
    if ready st r then
      fireAt s st { srcs, dests := [(f.d.toNat, 1)], next := f.n, nullOk := true, digitOk := true } (fun k => act k st r)
    else .next s)

/-- A token that stands in for the read or written bytes, with the A token's tag and frame offset. -/
def readTok (f : Slot) (a : Token) (p : Lanes) : Token := { a with kind := kWORD, slot := f.n, valid := 0xFFFF, payload := p }

/-- The read of a line of the buffer that stands full, with the poison of its bytes (R236). -/
def badOffset (st : Site) (o : Nat) : Bool := decide (o % 64 ≠ 0 ∨ bufSize st.cfg.cfg ≤ o)

def readerReady (st : Site) (r : RangeSt) : Bool := readFull st.cfg.cfg r

def execTrd (f : Slot) (s : State) : Res :=
  let seq := f.m.getLsbD 0
  storeOp s f [f.a] readerReady (fun k st r =>
    let a := tok k 0
    let next (s : State) : State := if seq then modRange s st.key st.c (fun r => { r with rp := r.rp + 64 }) else s
    if a.kind = kNULL then .ok (next k.s, [(f.d.toNat, nullOf f a)])
    else if a.kind = kDIGIT ∧ !seq then .error fcTOKEN
    else match storeOffset r.rp (if seq then none else some a) with
      | none => .ok (k.s, [(f.d.toNat, nullOf f a)])
      | some o =>
        let pa := bufferAt st (readBuf st.cfg.cfg r) o
        if badOffset st o then .error fcTOKEN
        else if poisoned k.s pa 64 then .error fcECC
        else .ok (next k.s, [(f.d.toNat, readTok f a (readPay k.s pa))]))

/-- The sources of TWR and TSWAP: data, and an address unless sequential. -/
def storeSrcs (f : Slot) : List (BitVec 4) := if f.b = 15 then [f.a] else [f.a, f.b]

def execTwr (f : Slot) (s : State) : Res :=
  let seq := decide (f.b = 15)
  storeOp s f (storeSrcs f) (fun st r => writeEmpty st.cfg.cfg r) (fun k st r =>
    let a := tok k 0
    let next (s : State) : State := if seq then modRange s st.key st.c (fun r => { r with wp := r.wp + 64 }) else s
    if k.toks.any (fun t => t.kind == kDIGIT) then .error fcTOKEN
    else if a.kind = kNULL then .ok (next k.s, [(f.d.toNat, nullOf f a)])
    else match storeOffset r.wp (if seq then none else some (tok k 1)) with
      | none => .ok (k.s, [(f.d.toNat, forwarded f a)])
      | some o =>
        if badOffset st o then .error fcTOKEN
        else
          let pa := bufferAt st (writeBuf st.cfg.cfg r) o
          .ok (next (writePay k.s pa a.valid a.payload), [(f.d.toNat, forwarded f a)]))

def execTswap (f : Slot) (s : State) : Res :=
  let seq := decide (f.b = 15)
  storeOp s f (storeSrcs f) readerReady (fun k st r =>
    let a := tok k 0
    let next (s : State) : State := if seq then modRange s st.key st.c (fun r => { r with rp := r.rp + 64 }) else s
    if k.toks.any (fun t => t.kind == kDIGIT) then .error fcTOKEN
    else if a.kind = kNULL then .ok (next k.s, [(f.d.toNat, nullOf f a)])
    else match storeOffset r.rp (if seq then none else some (tok k 1)) with
      | none => .ok (k.s, [(f.d.toNat, nullOf f a)])
      | some o =>
        let pa := bufferAt st (readBuf st.cfg.cfg r) o
        if badOffset st o then .error fcTOKEN
        else if poisoned k.s pa 64 then .error fcECC
        else .ok (next (writePay k.s pa a.valid a.payload), [(f.d.toNat, readTok f a (readPay k.s pa))]))

def execTfe (f : Slot) (s : State) : Res :=
  storeOp s f [f.a] readerReady (fun k st _ =>
    let a := tok k 0
    if a.kind = kNULL then .ok (k.s, [(f.d.toNat, nullOf f a)])
    else .ok (modRange k.s st.key st.c (RangeSt.emptied st.cfg.cfg), [(f.d.toNat, forwarded f a)]))

/-! ### FIFO, line buffer and frames (R74 to R77, R37, R356) -/

/-- The token that a FIFO tile may take from the elastic buffer of a link between regions, while it has a free entry and the
context declares the incoming half (R74, R453). -/
def fromElastic (s : State) (st : Site) (d : Nat) : Option Token :=
  if crossing s st.k st.y st.x d && st.ctx.chans.any (fun h => decide (h.y = st.y ∧ h.x = st.x ∧ h.dir = d) && h.xr && h.inn) &&
      decide (0 < fifoFree s st) then (inputOf s st.key d).head?.map (·.2)
  else none

/-- The oldest token of a FIFO tile is released to the slot it names, when it arrived from this direction and the one
released before it has gone (R74); a token that stands in the elastic buffer of this direction is taken in. -/
def execFifoTilePass (dir : BitVec 2) (s : State) : Res :=
  onTile s (fun st =>
    if isFifo st = false then .next s else
    let d := dir.toNat
    let s := match fromElastic s st d with
      | some t => fifoTake (setInput s st.key d ((inputOf s st.key d).drop 1)) st d t
      | none => s
    match (rangeOf s st.key st.c).fifo, (rangeOf s st.key st.c).out with
    | (e, t) :: rest, [] => .next (if e = d then modRange s st.key st.c (fun r => { r with fifo := rest, out := [(e, t)] }) else s)
    | _, _ => .next s)

/-- H of a line buffer: 2 to 7 as they are, and 0 for 8, the one value of Table 3.12 that three bits do not hold (log 27). -/
def linesHeld (cfg : BitVec 32) : Nat := if field cfg 18 16 = 0 then 8 else field cfg 18 16

/-- A line buffer's H tokens for an arriving one: the token at its column of each line held, oldest first, NULL where no
line has been received, then the arriving token (R75). Such a NULL has the tag and frame offset of the arriving token, which no rule states (DESIGN
CHOICE; log 134). They leave by the slot that it names; one that names a slot with no
op raises TOKEN (R63). -/
def execLineBufferEmit (dir : BitVec 2) (s : State) : Res :=
  onTile s (fun st =>
    if isLineBuffer st = false then .next s else
    match plainHead s st dir.toNat with
    | none => .next s
    | some t =>
      if t.isControl then .next s
      else if t.isData = false then .next (tileFault s st fcTOKEN t.seg)
      else
        let h := linesHeld st.cfg.cfg
        let lw := field st.cfg.cfg 15 4
        let w := slotWord st t.slot.toNat
        let d := field w 16 13
        if (decodeSlot w).toOption.isNone then .next (tileFault s st fcTOKEN t.seg)
        else if hasRoom s st d h = false then .next s
        else
          let past := (rangeOf s st.key st.c).lines
          let i := past.length
          let out (b : Nat) : Token :=
            let e : Token := if b * lw ≤ i then past.getD (i - b * lw) {} else { kind := kNULL, tag := t.tag, frame := t.frame }
            { e with slot := BitVec.ofNat 4 (field w 12 9), seg := t.seg }
          match linkFault s st (dirsOf d) t.seg with
          | some s => .next s
          | none =>
          let s := popInput s st dir.toNat
          let s := ((List.range (h - 1)).reverse.map (fun b => out (b + 1))).foldl (fun s e => emit s st d e) s
          let s := emit s st d { t with slot := BitVec.ofNat 4 (field w 12 9) }
          .next (modRange (tokenToBytes s st (i % (h * lw)) t) st.key st.c (fun r => { r with lines := r.lines ++ [t] })))

/-- The closed frame of a tag is released once its presence bits are clear: the tag is free again (R356). -/
def releaseFrame (s : State) (st : Site) (tag : Nat) : State :=
  let fr := Map.get {} (rangeOf s st.key st.c).frames tag
  let inUse := match (rangeOf s st.key st.c).sending with | some x => decide (x.1 = tag) | none => false
  if fr.closed ∧ fr.present = 0 ∧ inUse = false then
    modCtx (modRange s st.key st.c (fun r => { r with frames := Map.del r.frames tag })) st.k st.j st.c
      (fun x => { x with tags := x.tags.filter (fun e => decide (e.1 ≠ tag)) })
  else s

/-- The memory address of slot i of the frame of a tag: the frames of the tile in ascending order, 1,024 bytes each (R76). -/
def frameAt (st : Site) (tag i : Nat) : Nat :=
  tileMem st.k st.y st.x (1024 * field st.cfg.cfg 31 27 + 1024 * (tag - frameBase st.ctx st.t) + 64 * i)

/-- A token at a frame tile is a write to the frame of its tag (R37, R76, R356). -/
def execFrameWrite (dir : BitVec 2) (s : State) : Res :=
  onTile s (fun st =>
    if isFrames st = false then .next s else
    match plainHead s st dir.toNat with
    | none => .next s
    | some t =>
      if t.isControl then .next s
      else
        let slot := field t.frame 3 0
        let fr := Map.get {} (rangeOf s st.key st.c).frames t.tag.toNat
        if t.kind ≠ kWORD ∨ field t.frame 7 4 ≠ 0 then .next (tileFault s st fcTOKEN t.seg)
        else if poolSize st.ctx ≤ t.tag.toNat ∨ frameHome st.ctx t.tag.toNat ≠ some st.t then .next (tileFault s st fcTAG t.seg)
        else if fr.present.getLsbD slot then .next (tileFault s st fcFRAME t.seg)
        else
          let fr := { fr with present := fr.present ||| (1#16 <<< slot), closed := fr.closed || decide (t.slot = 15), seg := Nat.max fr.seg t.seg }
          .next (modRange (writePay (popInput s st dir.toNat) (frameAt st t.tag.toNat slot) 0xFFFF t.payload) st.key st.c (fun r => { r with frames := Map.set {} r.frames t.tag.toNat fr })))

/-- A complete mask sends its next operand to the consumer, one per step, over a frame channel of 4 entries; the operand's
presence bit is cleared. It belongs to the segment of the frame's last write (R77, R37). -/
def execFrameOperandSend (s : State) : Res :=
  onTile s (fun st =>
    if isFrames st = false then .next s else
    let d := consumerDir st.cfg.cfg
    match neighbour st.y st.x d with
    | none => .next s
    | some (y', x') =>
      let key := tileKey st.k y' x'
      let nodes := nodesOf st
      let r := rangeOf s st.key st.c
      match r.sending.orElse (fun _ => completeMask s st) with
      | none => .next s
      | some (tag, n, i) =>
        match nodes.find? (fun m => decide (m.1 = n)) with
        | none => .next s
        | some m =>
          if 4 ≤ ((s.tile key).fch.filter (fun e => decide (e.dir = opposite d))).length then .next s
          else
            let slot := m.2.1 + i
            let fr := Map.get {} r.frames tag
            let t : Token := { kind := kWORD, slot := BitVec.ofNat 4 n, tag := BitVec.ofNat 12 tag, valid := 0xFFFF,
                               payload := readPay s (frameAt st tag slot), seg := fr.seg }
            if poisoned s (frameAt st tag slot) 64 then .next (tileFault s st fcECC fr.seg) else
            let s := s.modTile key (fun ti => { ti with
              fch := ti.fch ++ [{ node := n, dir := opposite d, at_ := ti.arrivals, tok := t }], arrivals := ti.arrivals + 1 })
            let left := fr.present &&& ~~~(1#16 <<< slot)
            let fr := { fr with present := left, seg := if left = 0 then 0 else fr.seg }
            let s := modRange s st.key st.c (fun r => { r with
              frames := Map.set {} r.frames tag fr
              sending := if i + 1 < m.2.2 then some (tag, n, i + 1) else none })
            .next (releaseFrame s st tag))

/-! ### Systolic tiles (R80, R81) -/

/-- The directions that a pass stage of the rectangle forwards: from W to E and from N to S. -/
def execPassStage (s : State) : Res :=
  onTile s (fun st =>
    if isMemTile st.y st.x = false ∨ inRect st st.y st.x = false then .next s else
    let move (from_ dst : Nat) : Option State :=
      match plainHead s st from_ with
      | none => none
      | some t =>
        if credits s st.k st.y st.x dst < 1 then none
        else match linkFault s st [dst] t.seg with
        | some s => some s
        | none =>
          let s := sendFrom (popInput s st from_) st dst t
          some (if t.kind = kRECONF then reconfAt s st [from_] t else s)
    match move 3 1 with
    | some s => .next s
    | none => .next ((move 0 2).getD s))

end Sys2Proof.Machine
end

