-- ==== Sys2Proof/Machine/Image.lean ====
section
/-!
DEFINITION. The configuration image: its sections, the contents of its tiles, and the checks that CLOAD makes of slot words
and configuration words (13_encodings.md R290 to R294, 03_fabric.md R61 to R81, R453, 05_online_arithmetic.md R110, R129).
-/
namespace Sys2Proof.Machine

open Sys2Proof

/-! ### Rectangles (11_scheduling.md Table 11.7) -/

structure Rect where
  y0 : Nat
  x0 : Nat
  y1 : Nat
  x1 : Nat
  deriving DecidableEq, Repr

def unpackRect (v : Nat) : Rect := ⟨nfield v 3 0, nfield v 8 4, nfield v 12 9, nfield v 17 13⟩
def Rect.pack (r : Rect) : Nat := r.y0 + 2 ^ 4 * r.x0 + 2 ^ 9 * r.y1 + 2 ^ 13 * r.x1
/-- Both corners in the fabric, in order (02_execution_model.md R29). -/
def Rect.ok (r : Rect) : Bool := decide (r.y0 ≤ r.y1 ∧ r.y1 ≤ 15 ∧ r.x0 ≤ r.x1 ∧ r.x1 ≤ 23)
def Rect.height (r : Rect) : Nat := r.y1 + 1 - r.y0
def Rect.width (r : Rect) : Nat := r.x1 + 1 - r.x0
def Rect.holds (r : Rect) (y x : Nat) : Bool := decide (r.y0 ≤ y ∧ y ≤ r.y1 ∧ r.x0 ≤ x ∧ x ≤ r.x1)
def Rect.meets (a b : Rect) : Bool := decide (a.y0 ≤ b.y1 ∧ b.y0 ≤ a.y1 ∧ a.x0 ≤ b.x1 ∧ b.x0 ≤ a.x1)
def Rect.sites (r : Rect) : List (Nat × Nat) :=
  (List.range r.height).flatMap (fun a => (List.range r.width).map (fun b => (r.y0 + a, r.x0 + b)))
/-- The streams whose AG tiles adjoin the rectangle (01_device.md Table 1.2). -/
def Rect.streams (r : Rect) : List Nat := (List.range 32).filter (fun n => r.holds (agSite n).1 (agSite n).2.1)
def Region.rect (r : Region) : Rect := ⟨r.y0, r.x0, r.y1, r.x1⟩

/-! ### The byte string and its sections (R290, R291) -/

/-- n bytes of an image from an offset, as a number. -/
def imgAt (b : List Byte) (lo n : Nat) : Nat := ofBytes ((b.drop lo).take n)

/-- Size of a record of section i: 0 patterns, 1 rectangles, 2 channels, 3 edges, 4 ranges. -/
def secSize (i : Nat) : Nat := match i with | 1 => 4 | 3 => 8 | _ => 16
def secCount (b : List Byte) (i : Nat) : Nat := imgAt b (32 + 8 * i) 4
def secOff (b : List Byte) (i : Nat) : Nat := imgAt b (36 + 8 * i) 4
/-- Where record k of section i starts. -/
def recAt (b : List Byte) (i k : Nat) : Nat := secOff b i + secSize i * k

def imgM (b : List Byte) : Nat := imgAt b 12 4
def imgSys (b : List Byte) : Option Rect := if imgAt b 8 1 / 4 % 2 = 1 then some (unpackRect (imgAt b 24 4)) else none

/-- The header against the CLOAD rectangle (R290). -/
def headerFits (b : List Byte) (r : Rect) : Bool :=
  decide (128 ≤ b.length ∧ imgAt b 0 4 = 0x49574C43 ∧ imgAt b 4 2 = 1 ∧ imgAt b 6 1 + 1 = r.height ∧ imgAt b 7 1 + 1 = r.width ∧
    imgAt b 8 1 < 8 ∧ imgAt b 9 3 = 0 ∧ imgAt b 8 1 % 2 = (r.y0 + r.x0) % 2 ∧ 1 ≤ imgM b ∧ imgM b ≤ 2 ^ 20 ∧
    imgAt b 24 4 < 2 ^ 18 ∧ imgAt b 28 4 = b.length ∧ secCount b 4 ≤ 16 ∧ imgAt b 72 56 = 0) &&
  (imgSys b).isSome == decide (imgAt b 8 1 / 4 % 2 = 1) && ((imgSys b).isSome || imgAt b 24 4 == 0) &&
  (List.range 5).all (fun i => decide (secOff b i % 16 = 0) &&
    (secCount b i == 0 || decide (recAt b i (secCount b i) ≤ b.length)))

/-- Rectangle record k, relative to the region's corner. -/
def imgRect (b : List Byte) (k : Nat) : Rect := unpackRect (imgAt b (recAt b 1 k) 4)

def rectsOk (b : List Byte) (r : Rect) : Bool :=
  (List.range (secCount b 1)).all (fun k => let q := imgRect b k
    decide (imgAt b (recAt b 1 k) 4 < 2 ^ 18 ∧ q.y0 ≤ q.y1 ∧ q.x0 ≤ q.x1 ∧ q.y1 < r.height ∧ q.x1 < r.width))

/-- A pattern record: memory, LUT present, first rectangle, rectangle count, content offset. -/
structure Pat where
  mem : Bool
  lut : Bool
  first : Nat
  count : Nat
  off : Nat

def imgPat (b : List Byte) (k : Nat) : Pat :=
  let a := recAt b 0 k
  ⟨imgAt b a 1 == 1, imgAt b (a + 1) 1 == 1, imgAt b (a + 4) 4, imgAt b (a + 2) 2, imgAt b (a + 8) 4⟩

def Pat.size (p : Pat) : Nat := if p.mem then 80 else if p.lut then 1168 else 112

def lutOk (b : List Byte) (o : Nat) : Bool :=
  (List.range 64).all (fun k => decide (imgAt b (o + 16 * k + 14) 2 = 0) &&
    (List.range 6).all (fun i => decide (imgAt b (o + 16 * k + 8 + i) 1 ≤ 193))) &&
  decide (imgAt b (o + 1040) 1 ≤ 1 ∧ imgAt b (o + 1041) 15 = 0)

def patOk (b : List Byte) (k : Nat) : Bool :=
  let a := recAt b 0 k
  let p := imgPat b k
  decide (imgAt b a 1 ≤ 1 ∧ imgAt b (a + 1) 1 ≤ 1 ∧ 1 ≤ p.count ∧ p.first + p.count ≤ secCount b 1 ∧ imgAt b (a + 12) 4 = 0 ∧
    p.off % 16 = 0 ∧ p.off + p.size ≤ b.length) && !(p.mem && p.lut) &&
  (if p.mem then imgAt b (p.off + 68) 12 == 0 else imgAt b (p.off + 100) 12 == 0) &&
  (!p.lut || lutOk b (p.off + 112))

/-- The content of a pattern (R291, R294, Table 13.11). -/
def patCfg (b : List Byte) (p : Pat) : TileCfg :=
  let o := p.off
  { ops := (List.range 16).foldl (fun m k => Map.set 0 m k (BitVec.ofNat 32 (imgAt b (o + 4 * k) 4))) []
    cfg := BitVec.ofNat 32 (imgAt b (o + 64) 4)
    sm := if p.mem then [] else (List.range 16).foldl (fun m k => Map.set 0 m k (BitVec.ofNat 16 (imgAt b (o + 68 + 2 * k) 2))) []
    lut := if p.lut then
        let l := o + 112
        { luts := (List.range 64).map (fun k => (BitVec.ofNat 64 (imgAt b (l + 16 * k) 8), (List.range 6).map (fun i => imgAt b (l + 16 * k + 8 + i) 1)))
          enable := BitVec.ofNat 64 (imgAt b (l + 1024) 8), init := BitVec.ofNat 64 (imgAt b (l + 1032) 8), segrst := imgAt b (l + 1040) 1 == 1 }
      else {} }

/-- The patterns that reach a tile: of its kind, with a rectangle that holds it (R292). -/
def patsAt (b : List Byte) (r : Rect) (y x : Nat) : List Nat :=
  (List.range (secCount b 0)).filter (fun k => let p := imgPat b k
    (p.mem == isMemTile y x) && (List.range p.count).any (fun i => (imgRect b (p.first + i)).holds (y - r.y0) (x - r.x0)))

/-- The contents of the tiles that a pattern reaches; the others take an empty context (R292). -/
def imgTiles (b : List Byte) (r : Rect) : Map TileCfg :=
  r.sites.foldl (fun m (y, x) => match patsAt b r y x with
    | k :: _ => Map.put m (24 * y + x) (patCfg b (imgPat b k))
    | [] => m) []

/-! ### Channel, edge and range records (R293) -/

def imgChan (b : List Byte) (r : Rect) (k : Nat) : Chan :=
  let a := recAt b 2 k
  let f := imgAt b (a + 2) 1
  let g := imgAt b (a + 9) 1
  { y := r.y0 + imgAt b a 1, x := r.x0 + imgAt b (a + 1) 1, dir := f % 4, fromAg := f / 4 % 2 == 1, xr := f / 8 % 2 == 1,
    inn := f / 16 % 2 == 1, sid := imgAt b (a + 3) 1, cap := imgAt b (a + 4) 2, init := imgAt b (a + 6) 1,
    islot := imgAt b (a + 7) 1 % 16, p := imgAt b (a + 8) 1 % 16, c := imgAt b (a + 8) 1 / 16,
    hold := g % 2 == 1, back := g / 2 % 2 == 1, rated := g / 4 % 2 == 1 }

/-- The fields that a channel record alone shows (Table 13.12). -/
def chanFormOk (b : List Byte) (r : Rect) (k : Nat) : Bool :=
  let a := recAt b 2 k
  let h := imgChan b r k
  decide (imgAt b (a + 2) 1 < 32 ∧ imgAt b (a + 7) 1 < 16 ∧ imgAt b (a + 9) 1 < 8 ∧ imgAt b (a + 10) 6 = 0 ∧
    1 ≤ h.cap ∧ h.init ≤ h.cap) && (h.xr || !h.inn) &&
  (if h.fromAg then decide (imgAt b a 2 = 0 ∧ h.sid < 32) && !h.xr
   else decide (imgAt b a 1 < r.height ∧ imgAt b (a + 1) 1 < r.width ∧ h.sid = 0)) &&
  (if h.rated then (h.p == 0) == (h.c == 0) else decide (h.p = 0 ∧ h.c = 0))

def imgEdge (b : List Byte) (k : Nat) : Edge :=
  let a := recAt b 3 k
  ⟨imgAt b a 1, imgAt b (a + 1) 1, imgAt b (a + 2) 1 % 16⟩

def edgeOk (b : List Byte) (r : Rect) (k : Nat) : Bool :=
  let a := recAt b 3 k
  let e := imgEdge b k
  decide (1 ≤ e.role ∧ e.role ≤ 3 ∧ imgAt b (a + 2) 1 < 16 ∧ imgAt b (a + 3) 5 = 0) && r.streams.contains e.sid

/-- An owned range; its length in bytes. -/
def imgRange (b : List Byte) (k : Nat) : Owned :=
  let a := recAt b 4 k
  let t := imgAt b (a + 13) 1
  { base := imgAt b a 8, len := 128 * imgAt b (a + 8) 4, owner := imgAt b (a + 12) 1, succ := if t = 255 then none else some t }

/-- Owned ranges: aligned, of streams of the load, disjoint (07_consistency.md R160). -/
def rangesOk (b : List Byte) : Bool :=
  let l := (List.range (secCount b 4)).map (imgRange b)
  let sids := (List.range (secCount b 3)).map (fun k => (imgEdge b k).sid)
  (List.range (secCount b 4)).all (fun k => imgAt b (recAt b 4 k + 14) 2 == 0) &&
  l.all (fun r => decide (r.base % 128 = 0 ∧ 1 ≤ r.len) && sids.contains r.owner &&
    (match r.succ with | some t => sids.contains t | none => true)) &&
  (List.range l.length).all (fun i => (List.range i).all (fun j =>
    match l[i]?, l[j]? with
    | some p, some q => decide (p.base + p.len ≤ q.base ∨ q.base + q.len ≤ p.base)
    | _, _ => true))

/-- The tile whose input or output a channel record adds to, and the tile at the other end, when they lie in the region. -/
def chanEnds (h : Chan) (r : Rect) : List (Nat × Nat) :=
  if h.fromAg then [((agSite h.sid).1, (agSite h.sid).2.1)]
  else
    let far := match neighbour h.y h.x h.dir with | some (y, x) => if r.holds y x then [(y, x)] else [] | none => []
    (h.y, h.x) :: far

/-- A channel of the load: its AG tile adjoins the region, it stays in the region or leaves it as an XR half, it touches no
empty tile, and its capacity is within the link's (R61, R292, R453). -/
def chanOk (s : State) (k : Nat) (r : Rect) (tiles : Map TileCfg) (h : Chan) : Bool :=
  let place : Bool :=
    if h.fromAg then r.streams.contains h.sid
    else match neighbour h.y h.x h.dir with
      | some (y, x) => if h.xr then !r.holds y x else r.holds y x
      | none => !h.xr && (match streamAt h.y h.x h.dir with | some n => r.streams.contains n | none => false)
  let most : Nat :=
    if h.xr then 8
    else if h.fromAg then 4
    else match neighbour h.y h.x h.dir with
      | some (y, x) => if vfNumber (s.core k) h.y h.x ≠ vfNumber (s.core k) y x then 8 else 4
      | none => 4
  place && decide (h.cap ≤ most) &&
    (chanEnds h r).all (fun (y, x) => (tiles.any (fun e => decide (e.1 = 24 * y + x))))

/-! ### Slot words: sources, destinations and modifiers (R62 to R64) -/

/-- How a source or destination field is limited. -/
inductive Lim where
  /-- Values below n. -/
  | below (n : Nat)
  /-- 15 only. -/
  | none
  /-- Values below n, or 15. -/
  | opt (n : Nat)
  /-- Values below n, 14 or 15. -/
  | accOpt (n : Nat)
  /-- 0 to 3 and 12 to 14; with 15; any value. -/
  | out
  | outDrop
  | any

def Lim.ok : Lim → Nat → Bool
  | .below n, v => decide (v < n)
  | .none, v => decide (v = 15)
  | .opt n, v => decide (v < n ∨ v = 15)
  | .accOpt n, v => decide (v < n ∨ v = 14 ∨ v = 15)
  | .out, v => decide (v < 4 ∨ (12 ≤ v ∧ v ≤ 14))
  | .outDrop, v => decide (v < 4 ∨ 12 ≤ v)
  | .any, _ => true

/-- Source A, source B and destination of each op (Tables 5.2, 17.5, 19.1, 19.5, 19.6 and the ops' entries). -/
def slotForm (op : Nat) : Lim × Lim × Lim :=
  match op with
  | 0x01 | 0x02 | 0x03 | 0x04 | 0x05 | 0x06 | 0x09 | 0x0A | 0x0B | 0x0C | 0x0D | 0x0E | 0x0F | 0x10 | 0x13 | 0x1C | 0x1D =>
    (.below 15, .below 15, .any)
  | 0x07 | 0x08 | 0x12 | 0x15 | 0x16 | 0x17 | 0x18 | 0x19 | 0x1A | 0x1B | 0x1E | 0x1F | 0x22 => (.below 15, .none, .any)
  | 0x11 | 0x14 => (.below 14, .none, .any)
  | 0x20 => (.below 14, .opt 14, .any)
  | 0x21 => (.below 15, .opt 15, .any)
  | 0x30 => (.below 14, .none, .out)
  | 0x31 => (.below 4, .none, .any)
  | 0x32 | 0x33 | 0x34 | 0x35 | 0x38 => (.below 4, .below 4, .out)
  | 0x36 | 0x37 | 0x39 | 0x3A => (.below 4, .none, .out)
  | 0x3B => (.below 4, .none, .below 4)
  | 0x40 => (.below 12, .below 12, .any)
  | 0x41 | 0x42 => (.below 4, .accOpt 4, .any)
  | 0x43 => (.below 4, .none, .any)
  | 0x44 => (.below 14, .none, .any)
  | 0x45 => (.below 4, .below 4, .outDrop)
  | 0x46 => (.below 4, .below 12, .any)
  | 0x50 => (.below 4, .opt 4, .below 4)
  | 0x51 => (.below 4, .below 4, .outDrop)
  | 0x52 => (.below 4, .below 4, .out)
  | 0x53 => (.below 4, .none, .below 4)
  | 0x54 => (.below 4, .none, .outDrop)
  | 0x55 => (.below 4, .none, .out)
  | 0x56 => (.below 4, .none, .outDrop)
  | 0x57 => (.below 4, .opt 4, .out)
  | 0x58 => (.below 4, .below 4, .outDrop)
  | 0x59 => (.below 4, .none, .below 4)
  | 0x5A => (.below 4, .none, .out)
  | 0x5B => (.below 14, .none, .any)
  | 0x60 => (.below 4, .none, .outDrop)
  | 0x61 | 0x62 => (.below 4, .opt 4, .outDrop)
  | 0x63 => (.below 4, .none, .outDrop)
  | _ => (.any, .any, .any)

/-- The ops that a table lists. -/
def opListed (op : Nat) : Bool := (slotFixed op).1 != 0

def opPermitted (mem : Bool) (op : Nat) : Bool :=
  if mem then decide (op = 0 ∨ (0x50 ≤ op ∧ op ≤ 0x5A) ∨ (0x60 ≤ op ∧ op ≤ 0x63)) else decide (op ≤ 0x5B)

/-- Ops of layout E, and of layout T (Table 19.3). -/
def layoutE (op : Nat) : Bool := decide (op ∈ [0x01, 0x02, 0x03, 0x05, 0x06, 0x07, 0x08, 0x09, 0x15, 0x16, 0x17, 0x18, 0x19, 0x1A, 0x1B, 0x1D])
def layoutT (op : Nat) : Bool := decide (op ∈ [0x04, 0x0A, 0x1C])
/-- The word ops permitted as frame nodes (19_ref_t_z.md R429). -/
def frameOp (op : Nat) : Bool := decide (op ∈ [0x01, 0x02, 0x03, 0x04, 0x05, 0x06, 0x1D, 0x1C, 0x0A, 0x0B, 0x0C, 0x0D, 0x0E, 0x0F, 0x10])

/-- The element types that a word op permits (Tables 19.4, 19.5, R432, R436). -/
def typeOk (op ty : Nat) : Bool :=
  match op with
  | 0x07 | 0x08 => decide (ty ≠ 4)
  | 0x0A => decide (ty = 0)
  | 0x04 | 0x1C => decide (ty ≤ 3)
  | 0x1D | 0x1A | 0x1B => decide (ty ≤ 2)
  | 0x17 | 0x18 | 0x19 => decide (ty ≤ 1)
  | 0x15 => decide (ty ≤ 3 ∨ ty = 5 ∨ ty = 7)
  | _ => true

/-- IMM as BF16 is a NaN. -/
def immNan (imm : Nat) : Bool := decide (nfield imm 14 7 = 255 ∧ nfield imm 6 0 ≠ 0)

/-- The modifier of a slot word that is no frame node, beyond the bits that its op fixes. -/
def modOk (w : BitVec 32) (imm : Nat) : Bool :=
  let op := opOf w
  let d := field w 16 13
  let a := field w 24 21
  let b := field w 20 17
  let hi := field w 8 6
  let acc := field w 5 4
  let rnd := field w 3 2
  let opt := field w 1 0
  if layoutE op then
    typeOk op hi &&
    (if op = 0x09 then decide (rnd = 0)
     else if op = 0x15 ∨ op = 0x16 then decide (opt ≤ 1 ∧ (hi ≤ 2 ∨ rnd ≤ 1))
     else decide (opt = 0) && (if 0x17 ≤ op ∧ op ≤ 0x1B then decide (rnd = 0) else decide (hi ≤ 2 ∨ rnd ≤ 1)))
  else if layoutT op then typeOk op opt && (if op = 0x0A then decide (rnd = 0) else decide (opt ≤ 2 ∨ rnd ≤ 1))
  else match op with
    | 0x1F => decide (opt ≤ 2)
    | 0x11 =>
      let dst := 2 * acc + opt % 2
      decide (hi ≠ 5 ∧ dst ≠ 5) && (decide (opt / 2 = 0) || decide ((dst = 1 ∨ dst = 7) ∧ rnd = 0))
    | 0x12 => decide (hi ≤ 3)
    | 0x20 =>
      let sr := acc / 2
      decide (hi ≠ 7 ∧ ¬ (opt % 2 = 1 ∧ hi ∈ [2, 4, 5, 6]) ∧ ¬ (opt / 2 = 1 ∧ hi ∉ [3, 5]) ∧ ¬ (sr = 1 ∧ (hi ∈ [3, 5] ∨ rnd ≠ 0)))
    | 0x3A => decide (hi ≤ 4) && !immNan imm
    | 0x3B => decide (hi ≤ 4 ∧ field w 2 0 < 4 ∧ field w 2 0 ≠ d)
    | 0x40 => decide (hi ≠ 7 ∧ (opt % 2 = 0 ∨ hi ≤ 3))
    | 0x41 => decide (hi ≠ 7 ∧ (rnd % 2 = 0 ∨ hi = 4) ∧ (hi = 3 → opt % 2 = 0) ∧ (hi = 5 → opt / 2 = 0) ∧ (hi = 6 → opt = 0))
    | 0x42 => decide (hi ∈ [0, 1, 2, 5])
    | 0x43 => decide (hi ≠ 7)
    | 0x44 => decide (hi % 2 = 0 ∨ opt ≠ 3)
    | 0x45 => decide (a ≠ b) && !immNan imm && decide (imm ≤ 2 ^ 15)
    | 0x50 => decide (opt ≠ d ∧ (if hi / 4 = 0 then b = 15 else b < 4 ∧ b ≠ a))
    | 0x51 | 0x52 | 0x58 => decide (a ≠ b)
    | 0x53 => decide (opt ≠ d)
    | 0x57 => decide (if opt = 0 then b = 15 else b < 4 ∧ b ≠ a)
    | 0x5A => decide (¬ (opt = 3))
    | _ => if isDigitOp op then decide (hi ≤ 4) else true

/-- The words beside the modifier of a frame node: FCNT, FBASE and TYPE (R77, R429). DENC and MACC read their own fields from
the same bits, of which FCNT = 1 fixes [4:3] (05_online_arithmetic.md R111, 17_ref_m_r.md R375, 16_ref_d_l.md R347; log 85). -/
def frameModOk (w : BitVec 32) : Bool :=
  let op := opOf w
  let cnt := field w 4 3
  let n := [field w 24 21, field w 20 17].countP (· == 12) + (if layoutT op then 1 else 0)
  decide (1 ≤ cnt ∧ field w 8 5 + cnt ≤ 16 ∧ cnt = n) &&
    (if op = 0x30 then decide (field w 8 6 ≤ 4 ∧ field w 2 0 = 0)
     else if op = 0x44 then decide (field w 8 7 = 0 ∧ field w 2 2 = 0) && modOk w 0
     else frameOp op) &&
    (if layoutT op then decide (field w 2 0 ≤ 3) && typeOk op (field w 2 0) else if layoutE op then typeOk op (field w 2 0) else true)

def isFrameNode (w : BitVec 32) : Bool := decide (opOf w ≠ 0) && decide (field w 24 21 = 12 ∨ field w 20 17 = 12)

/-- The directions that a slot word's destinations name: D, and the second direction of STEER, SPLIT and DFORK. -/
def outDirs (w : BitVec 32) : List Nat :=
  let d := dirsOf (field w 16 13)
  match opOf w with
  | 0x50 | 0x53 => (d ++ [field w 1 0]).dedup
  | 0x3B => (d ++ [field w 2 0 % 4]).dedup
  | _ => d

/-- The a-registers and accumulators that a slot reads or writes (R67). -/
def regsUsed (w : BitVec 32) : List Nat × List Nat :=
  let op := opOf w
  let a := field w 24 21
  let b := field w 20 17
  let d := field w 16 13
  let third := (layoutT op && !isFrameNode w) || op == 0x46
  let ar := ([a, b, d].filter (fun v => decide (4 ≤ v ∧ v ≤ 11))).map (· - 4) ++ (if third then [field w 8 6] else [])
  let useM := op == 0x40 || op == 0x44 || ((op == 0x41 || op == 0x42) && b == 14) || (decide (op < 0x30) && (a == 14 || b == 14))
  (ar, if useM then [field w 5 4] else [])

/-- A slot word of a tile with declared inputs and outputs (R63, R67, R289). An op that no table lists fixes no modifier and
limits no field beyond what its tile declares. -/
def slotOk (mem : Bool) (cfg : BitVec 32) (ins outs : List Nat) (w : BitVec 32) : Bool :=
  let op := opOf w
  if op = 0 then true
  else if opPermitted mem op = false then false
  else
    let (mask, value) := slotFixed op
    let frame := isFrameNode w
    let mask := if frame then mask &&& 0xFFFFFE00 else mask
    let a := field w 24 21
    let b := field w 20 17
    let d := field w 16 13
    let (fa, fb, fd) := slotForm op
    let fifo (v : Nat) : Bool := decide (4 ≤ v) || ins.contains v
    let kind (v : Nat) : Bool := !mem || decide (v < 4 ∨ v = 15)
    let (ar, mr) := regsUsed w
    (!opListed op || decide (w &&& mask = value &&& mask)) && fa.ok a && fb.ok b && fd.ok d && kind a && kind b &&
      (!mem || decide (d < 4 ∨ 12 ≤ d)) && fifo a && fifo b && (outDirs w).all (fun e => outs.contains e) &&
      (!opListed op || (if frame then !mem && frameModOk w else modOk w (field cfg 31 16))) &&
      !(mem && op == 0x5A && !w.getLsbD 0) &&
      (mem || (ar.all (fun n => cfg.getLsbD (8 + n)) && mr.all (fun n => cfg.getLsbD (4 + n))))

/-! ### Whole tiles -/

/-- A word of a score-modification program at a place, and what follows it (09_attention.md R208); `fuel` bounds the words. -/
def smOk (sm : Map (BitVec 16)) : Nat → Nat → Bool
  | 0, _ => true
  | fuel + 1, i =>
    if 16 ≤ i then true else
    let w := Map.get 0 sm i
    let D := field w 11 9
    let a := field w 8 6
    let b := field w 5 3
    let x := field w 2 0
    match field w 15 12 with
    | 0 => decide (D = 0 ∧ a = 0 ∧ b = 0 ∧ x = 0) && smOk sm fuel (i + 1)
    | 6 => decide (b = 0 ∧ x < 2) && smOk sm fuel (i + 1)
    | 8 => smOk sm fuel (i + 1)
    | 9 | 13 => decide (x = 0) && smOk sm fuel (i + 1)
    | 11 => decide (a = 0 ∧ b = 0 ∧ x = 0 ∧ i < 14) && smOk sm fuel (i + 3)
    | 12 => decide (b = 0 ∧ x = 0) && smOk sm fuel (i + 1)
    | 14 => decide (D = 0 ∧ a = 0 ∧ b = 0 ∧ x = 0)
    | 15 => false
    | _ => decide (x < 2) && smOk sm fuel (i + 1)

/-- The mode parameters of a memory tile's range (Tables 3.11, 3.12). -/
def rangeOk (r : Rect) (y x : Nat) (cfg : BitVec 32) : Bool :=
  let size := field cfg 26 21
  decide (1 ≤ size ∧ field cfg 31 27 + size ≤ 32) &&
  (match field cfg 20 19 with
   | 0 => decide (field cfg 15 0 = 0)
   | 1 => let n := field cfg 18 10
          decide (1 ≤ n ∧ n ≤ 448 ∧ 72 * n ≤ 1024 * size ∧ field cfg 9 0 = 0)
   | 2 => let h := linesHeld cfg
          let lw := field cfg 15 4
          decide (2 ≤ h ∧ 1 ≤ lw ∧ 72 * h * lw ≤ 1024 * size ∧ field cfg 3 0 = 0)
   | _ => let n := field cfg 18 13
          decide (1 ≤ n ∧ n ≤ 32 ∧ n ≤ size ∧ field cfg 10 0 = 0) &&
          (match neighbour y x (field cfg 12 11) with | some (y', x') => r.holds y' x' | none => false))

/-- The counts of the memory-tile ops in one op table (19_ref_t_z.md R421). -/
def storeSlotsOk (t : TileCfg) : Bool :=
  let ops := t.ops.map (fun e => opOf e.2)
  let n (l : List Nat) : Nat := ops.countP (fun o => l.contains o)
  (decide (rangeMode t.cfg = 0) || n [0x60, 0x61, 0x62, 0x63] == 0) && decide (n [0x61] ≤ 1 ∧ n [0x60, 0x62] ≤ 1 ∧ n [0x63] ≤ 1)

/-- Some LUT reads Q, or a flip-flop is enabled (03_fabric.md R71). -/
def usesQ (l : LutCfg) : Bool :=
  l.enable != 0 || l.luts.any (fun t => t.2.any (fun v => decide (128 ≤ v ∧ v < 192)))

/-- A tile in systolic mode (R80, R81). -/
def sysTileOk (t : TileCfg) : Bool :=
  let w := Map.get 0 t.ops 0
  decide (opOf w = 0x41 ∧ field w 24 21 = 3 ∧ (field w 20 17 = 0 ∨ field w 20 17 = 15) ∧ field w 16 13 = 2)

def rateOf (h : Chan) : Nat × Nat := if h.rated then (h.p, h.c) else (1, 1)

/-- The rates that a line buffer must declare: c = 1 on every input of its tile and p = H on every output (R75). -/
def lineRates (c : Ctx) (y x : Nat) (cfg : BitVec 32) : Bool :=
  (List.range 4).all (fun d => (match c.chanIn y x d with | some h => (rateOf h).2 == 1 | none => true) &&
    (match c.chanOut y x d with | some h => (rateOf h).1 == linesHeld cfg | none => true))

/-- The rates that DENC and DDEC must declare, and the rate 1 of every other digit op, which a declaration that states another
is taken to break (05_online_arithmetic.md R129; log 135). -/
def ratesDeclared (c : Ctx) (y x : Nat) (w : BitVec 32) : Bool :=
  let ins (v : Nat) (n : Nat) : Bool := decide (4 ≤ v) || (match c.chanIn y x v with | some h => (rateOf h).2 == n | none => true)
  let outs (n : Nat) : Bool := (outDirs w).all (fun e => match c.chanOut y x e with | some h => (rateOf h).1 == n | none => true)
  let groups := match field w 8 6 with | 0 => 2 | 1 => 3 | 2 => 4 | 3 => 6 | _ => 8
  match opOf w with
    | 0x30 => ins (field w 24 21) 1 && outs groups
    | 0x31 => ins (field w 24 21) groups && outs 1
    | op => !isDigitOp op || (ins (field w 24 21) 1 && ins (field w 20 17) 1 && outs 1)

/-- Everything that one tile of the load must meet. -/
def tileOk (c : Ctx) (r : Rect) (y x : Nat) (t : TileCfg) : Bool :=
  let mem := isMemTile y x
  let ins := (List.range 4).filter (fun d => (c.chanIn y x d).isSome)
  let outs := (List.range 4).filter (fun d => (c.chanOut y x d).isSome)
  let words := t.ops.map (·.2)
  let inSys := match c.sys with
    | some (y0, x0, y1, x1) => (⟨r.y0 + y0, r.x0 + x0, r.y0 + y1, r.x0 + x1⟩ : Rect).holds y x
    | none => false
  let pass := mem && inSys
  words.all (slotOk mem t.cfg ins outs) && words.all (ratesDeclared c y x) &&
  (if mem then rangeOk r y x t.cfg && storeSlotsOk t && (pass || rangeMode t.cfg != 2 || lineRates c y x t.cfg)
   else
     smOk t.sm 17 0 &&
     (if t.cfg.getLsbD 1 then c.mode.getLsbD 2 && sysTileOk t && !words.any (fun w => opOf w == 0x42) else !inSys) &&
     (t.cfg.getLsbD 0 || !words.any (fun w => opOf w == 0x5B) || !usesQ t.lut))

/-- The systolic rectangle (R80). -/
def sysRectOk (c : Ctx) (r : Rect) : Bool :=
  match c.sys with
  | none => true
  | some (y0, x0, y1, x1) =>
    decide (y0 ≤ y1 ∧ x0 ≤ x1 ∧ y1 < r.height ∧ x1 < r.width ∧ (r.y0 + y0 + r.x0 + x0) % 2 = 0 ∧ (y1 - y0) % 2 = 1 ∧ (x1 - x0) % 2 = 1) &&
      c.mode.getLsbD 2 &&
      r.sites.all (fun (y, x) => isMemTile y x || !(⟨r.y0 + y0, r.x0 + x0, r.y0 + y1, r.x0 + x1⟩ : Rect).holds y x ||
        (Map.get {} c.tiles (24 * y + x)).cfg.getLsbD 1)

/-- What a tile shares with the other resident contexts: registers, flip-flops, memory ranges (R67, R72). -/
def sharedOk (mem : Bool) (a b : BitVec 32) : Bool :=
  if mem then
    let (sa, sb) := (field a 26 21, field b 26 21)
    decide (sa = 0 ∨ sb = 0 ∨ field a 31 27 + sa ≤ field b 31 27 ∨ field b 31 27 + sb ≤ field a 31 27)
  else (a &&& b &&& 0xFFF0 == 0) && !(a.getLsbD 0 && b.getLsbD 0)

/-- The context that an image gives a rectangle, before any check. -/
def imgCtx (b : List Byte) (r : Rect) (mode : BitVec 5) (cage : Nat) : Ctx :=
  { mode, cage, m := imgM b, srkey := BitVec.ofNat 64 (imgAt b 16 8), clonable := imgAt b 8 1 / 2 % 2 == 1
    sys := (imgSys b).map (fun q => (q.y0, q.x0, q.y1, q.x1))
    chans := (List.range (secCount b 2)).map (imgChan b r)
    edges := (List.range (secCount b 3)).map (imgEdge b)
    ranges := (List.range (secCount b 4)).map (imgRange b)
    tiles := imgTiles b r }

/-- The form of the image alone (R290 to R294). -/
def imageFormOk (b : List Byte) (r : Rect) : Bool :=
  headerFits b r && rectsOk b r && (List.range (secCount b 0)).all (patOk b) && (List.range (secCount b 2)).all (chanFormOk b r) &&
  (List.range (secCount b 3)).all (edgeOk b r) && rangesOk b && r.sites.all (fun (y, x) => decide ((patsAt b r y x).length ≤ 1))

end Sys2Proof.Machine
end

