-- ==== Sys2Proof/Machine/Channels.lean ====
section
/-!
DEFINITION. The channel graph of a load and the checks that CLOAD makes of it (02_execution_model.md R43, R44, R49,
05_online_arithmetic.md R110, R129, 07_consistency.md R159, 16_ref_d_l.md R350, 18_ref_s.md R399, 19_ref_t_z.md R419).
-/
namespace Sys2Proof.Machine

open Sys2Proof

/-! ### Where tokens go -/

/-- A token that stands at tile (y, x), having moved in direction mv, and names slot n. -/
structure Stand where
  y : Nat
  x : Nat
  mv : Nat
  n : Nat
  deriving DecidableEq, Repr

/-- What a token leaves a tile for. -/
inductive Leave where
  | tile (p : Stand)
  | exit (sid : Nat)
  | region (y x d : Nat)
  deriving DecidableEq, Repr

def Ctx.word (c : Ctx) (p : Stand) : BitVec 32 := Map.get 0 (Map.get {} c.tiles (24 * p.y + p.x)).ops p.n
def Ctx.tcfg (c : Ctx) (y x : Nat) : BitVec 32 := (Map.get {} c.tiles (24 * y + x)).cfg

/-- The tile lies in the systolic rectangle. -/
def inSysRect (c : Ctx) (r : Rect) (y x : Nat) : Bool :=
  match c.sys with
  | some (y0, x0, y1, x1) => (⟨r.y0 + y0, r.x0 + x0, r.y0 + y1, r.x0 + x1⟩ : Rect).holds y x
  | none => false

def isPassTile (c : Ctx) (r : Rect) (y x : Nat) : Bool := isMemTile y x && inSysRect c r y x
def isFifoTile (c : Ctx) (r : Rect) (y x : Nat) : Bool := isMemTile y x && rangeMode (c.tcfg y x) == 1 && !isPassTile c r y x
def isFrameTile (c : Ctx) (r : Rect) (y x : Nat) : Bool := isMemTile y x && rangeMode (c.tcfg y x) == 3 && !isPassTile c r y x

/-- The directions in which a token that stands here goes on, or in which what its slot makes of it goes. -/
def onward (c : Ctx) (r : Rect) (p : Stand) : List Nat :=
  if isPassTile c r p.y p.x then [p.mv]
  else if isFrameTile c r p.y p.x then [consumerDir (c.tcfg p.y p.x)]
  else
    let w := c.word p
    let sys := !isMemTile p.y p.x && (c.tcfg p.y p.x).getLsbD 1
    if sys && opOf w == 0x41 && inSysRect c r p.y (p.x + 2) then (outDirs w ++ [1]).dedup else outDirs w

/-- The slot that the token names next: its own through a pass stage or a frame tile, else the slot word's. -/
def nextName (c : Ctx) (r : Rect) (p : Stand) : Nat :=
  if isPassTile c r p.y p.x || isFrameTile c r p.y p.x then p.n else field (c.word p) 12 9

def leaveBy (c : Ctx) (r : Rect) (y x d n : Nat) : Option Leave :=
  match c.chanOut y x d with
  | none => none
  | some h =>
    match neighbour y x d with
    | none => (streamAt y x d).map .exit
    | some (y', x') => if h.xr || !r.holds y' x' then some (.region y x d) else some (.tile ⟨y', x', d, n⟩)

def leaves (c : Ctx) (r : Rect) (p : Stand) : List Leave :=
  (onward c r p).filterMap (fun d => leaveBy c r p.y p.x d (nextName c r p))

/-- Every place that tokens from the given places come to, going on from those that `go` holds of; `fuel` bounds the rounds. -/
def spread (c : Ctx) (r : Rect) (go : Stand → Bool) : Nat → List Stand → List Stand → List Stand
  | 0, _, seen => seen
  | fuel + 1, todo, seen =>
    match todo with
    | [] => seen
    | p :: rest =>
      if seen.contains p then spread c r go fuel rest seen
      else
        let more := if go p then (leaves c r p).filterMap (fun l => match l with | .tile q => some q | _ => none) else []
        spread c r go fuel (rest ++ more) (seen ++ [p])

def spreadAll (c : Ctx) (r : Rect) (l : List Stand) : List Stand := spread c r (fun _ => true) 100000 l []

/-- The exit streams that tokens from some places reach. -/
def exitsOf (c : Ctx) (r : Rect) (l : List Stand) : List Nat :=
  (spreadAll c r l).flatMap (fun p => (leaves c r p).filterMap (fun e => match e with | .exit n => some n | _ => none))

/-- Where an entry AG tile's tokens stand first. -/
def entryStands (c : Ctx) : List Stand :=
  c.chans.filterMap (fun h => if h.fromAg then
    (match c.edge h.sid with
     | some e => if e.may true then some ⟨(agSite h.sid).1, (agSite h.sid).2.1, opposite (agSite h.sid).2.2, e.slot⟩ else none
     | none => none)
    else none)

/-- The path ends that an EOT must reach (02_execution_model.md R33), numbered as in Seg.ended. -/
def pathEnds (c : Ctx) (r : Rect) : List Nat :=
  ((spreadAll c r (entryStands c)).flatMap (fun p =>
    if (onward c r p).isEmpty then [1000 + 16 * (24 * p.y + p.x) + p.n]
    else (leaves c r p).filterMap (fun e => match e with
      | .exit n => some n
      | .region y x d => some (10000 + 4 * (24 * y + x) + d)
      | .tile _ => none))).dedup

/-! ### Channels between actors (R43) -/

/-- A channel of the graph: from an actor to an actor, its FIFO tiles folded into it. Actors are 16 (24 y + x) + slot; an
exit AG tile is 100,000 + stream, a link out of the region 200,000 + 4 (24 y + x) + direction, an entry AG tile 300,000 + stream. -/
structure Hop where
  src : Nat
  dst : Nat
  dir : Nat
  cap : Nat
  init : Nat
  p : Nat
  c : Nat
  hold : Bool
  back : Bool
  deriving DecidableEq, Repr

/-- What the links of a channel add up to. -/
structure Span where
  fifo : Nat := 0
  links : Nat := 0
  init : Nat := 0
  p : Nat := 1
  c : Nat := 1
  hold : Bool := false
  back : Bool := false
  first : Bool := true

def Span.link (a : Span) (h : Chan) : Span :=
  { a with links := a.links + h.cap, init := a.init + h.init, p := if a.first then (rateOf h).1 else a.p, c := (rateOf h).2
           hold := h.hold, back := a.back || h.back, first := false }

def Span.hop (a : Span) (src dir dst : Nat) : Hop :=
  ⟨src, dst, dir, if a.fifo = 0 then a.links else a.fifo, a.init, a.p, a.c, a.hold, a.back⟩

/-- The token keeps the frame offset that it came with: pass stages, FIFOs, line buffers, and the ops that form no new token
(16_ref_d_l.md R355). -/
def keepsOffset (c : Ctx) (r : Rect) (p : Stand) : Bool :=
  let op := opOf (c.word p)
  isPassTile c r p.y p.x || (isMemTile p.y p.x && decide (1 ≤ rangeMode (c.tcfg p.y p.x) ∧ rangeMode (c.tcfg p.y p.x) ≤ 2)) ||
    decide ((0x50 ≤ op ∧ op ≤ 0x5A ∧ op ≠ 0x59) ∨ (0x60 ≤ op ∧ op ≤ 0x63))

/-- Every slot of the load. -/
def slotsOf (c : Ctx) : List Stand := c.tiles.flatMap (fun e => e.2.ops.map (fun w => ⟨e.1 / 24, e.1 % 24, 0, w.1⟩))

/-- The frame offset of the tokens that a slot forms: FSLOT of FRAMEST, else 0 (R355). -/
def formsOffset (w : BitVec 32) : Nat := if opOf w = 0x59 then field w 3 0 else 0

/-- The places that tokens of frame offset f come to. -/
def offsetAt (c : Ctx) (r : Rect) (f : Nat) : List Stand :=
  let formed := ((slotsOf c).filter (fun p => !keepsOffset c r p && decide (opOf (c.word p) ≠ 0 ∧ formsOffset (c.word p) = f))).flatMap
    (fun p => (leaves c r p).filterMap (fun l => match l with | .tile q => some q | _ => none))
  spread c r (keepsOffset c r) 100000 (formed ++ if f = 0 then entryStands c else []) []

/-- The frame offsets of the tokens that leave a slot. -/
def offsetsOf (c : Ctx) (r : Rect) (p : Stand) : List Nat :=
  if poolSize c = 0 then []
  else if keepsOffset c r p then (List.range 16).filter (fun f => (offsetAt c r f).any (fun q => decide (q.y = p.y ∧ q.x = p.x ∧ q.n = p.n)))
  else [formsOffset (c.word p)]

/-- A token leaves a tile by direction d naming slot n: where it goes next, with `k` for a tile of the region. -/
def goOut (c : Ctx) (r : Rect) (src dir y x d n : Nat) (a : Span) (k : Stand → Span → List Hop) : List Hop :=
  match c.chanOut y x d with
  | none => []
  | some h =>
    let a := a.link h
    match leaveBy c r y x d n with
    | none => []
    | some (.exit sid) => [a.hop src dir (100000 + sid)]
    | some (.region y x d) => [a.hop src dir (200000 + 4 * (24 * y + x) + d)]
    | some (.tile q) => k q a

/-- The actors that a token which stands somewhere comes to. Through a frame tile it comes to the frame nodes whose masks hold
its frame offset, over the frame channel's 4 entries (03_fabric.md R77). -/
def land (c : Ctx) (r : Rect) (src dir : Nat) (offs : List Nat) : Nat → Stand → Span → List Hop
  | 0, _, _ => []
  | fuel + 1, q, a =>
    if isPassTile c r q.y q.x then
      (onward c r q).flatMap (fun e => goOut c r src dir q.y q.x e q.n a (fun q a => land c r src dir offs fuel q a))
    else if isFrameTile c r q.y q.x then
      (match neighbour q.y q.x (consumerDir (c.tcfg q.y q.x)) with
       | some (y', x') => ((frameNodes c (24 * y' + x')).filter (fun m => offs.any (fun f => decide (m.2.1 ≤ f ∧ f < m.2.1 + m.2.2)))).map
           (fun m => { a with links := a.links + 4 }.hop src dir (16 * (24 * y' + x') + m.1))
       | none => [])
    else if isFifoTile c r q.y q.x then
      (onward c r q).flatMap (fun e => goOut c r src dir q.y q.x e (nextName c r q) { a with fifo := a.fifo + fifoDepth (c.tcfg q.y q.x) }
        (fun q a => land c r src dir offs fuel q a))
    else [a.hop src dir (16 * (24 * q.y + q.x) + q.n)]

/-- The actors that a token which leaves a slot by direction d comes to. -/
def followOut (c : Ctx) (r : Rect) (src dir : Nat) (offs : List Nat) (fuel y x d n : Nat) (a : Span) : List Hop :=
  goOut c r src dir y x d n a (land c r src dir offs fuel)

/-- The slots that are actors: no FIFO tile, frame tile or pass stage. -/
def actors (c : Ctx) (r : Rect) : List Stand :=
  (slotsOf c).filter (fun p => !(isPassTile c r p.y p.x || isFifoTile c r p.y p.x || isFrameTile c r p.y p.x) &&
    decide (opOf (c.word p) ≠ 0))

def Stand.node (p : Stand) : Nat := 16 * (24 * p.y + p.x) + p.n

/-- The channels from the entry AG tiles. Where such a channel leads into a FIFO tile whose slot multicasts, it parts there as
any copied token does (02_execution_model.md R44). -/
def entryHops (c : Ctx) (r : Rect) : List Hop :=
  c.chans.flatMap (fun h => if h.fromAg then
    (match c.edge h.sid with
     | some e => if e.may true then
         land c r (300000 + h.sid) 0 (if poolSize c = 0 then [] else [0]) 400
           ⟨(agSite h.sid).1, (agSite h.sid).2.1, opposite (agSite h.sid).2.2, e.slot⟩ ((({} : Span)).link h)
       else []
     | none => [])
    else [])

def hops (c : Ctx) (r : Rect) : List Hop :=
  (actors c r).flatMap (fun p => (onward c r p).flatMap (fun d => followOut c r p.node d (offsetsOf c r p) 400 p.y p.x d (nextName c r p) {})) ++
    entryHops c r

def nodeWord (c : Ctx) (v : Nat) : BitVec 32 := Map.get 0 (Map.get {} c.tiles (v / 16)).ops (v % 16)

/-! ### Table 2.3 -/

/-- The row of every channel record; a FIFO tile counts as rate 1 on its side. -/
def recordRow (c : Ctx) (r : Rect) (h : Chan) : Bool :=
  let fifoAt (p : Option (Nat × Nat)) : Bool := match p with | some (y, x) => isFifoTile c r y x | none => false
  let src : Option (Nat × Nat) := if h.fromAg || h.inn then none else some (h.y, h.x)
  let dst : Option (Nat × Nat) :=
    if h.fromAg then some ((agSite h.sid).1, (agSite h.sid).2.1) else if h.inn then some (h.y, h.x) else neighbour h.y h.x h.dir
  if h.rated = false then true
  else if h.p = 0 then decide (h.init = 0)
  else
    let p := if fifoAt src then 1 else h.p
    let q := if fifoAt dst then 1 else h.c
    decide (p + q ≤ h.cap + Nat.gcd p q)

/-- One round of the balance equations: each channel with one end known gives the other. -/
def balanceRound (hs : List Hop) (m : Map (Option Rat)) : Map (Option Rat) :=
  hs.foldl (fun m h => match Map.get none m h.src, Map.get none m h.dst with
    | some a, none => Map.put m h.dst (some (a * h.p / h.c))
    | none, some b => Map.put m h.src (some (b * h.c / h.p))
    | _, _ => m) m

def balanceFill (hs : List Hop) : Nat → Map (Option Rat) → Map (Option Rat)
  | 0, m => m
  | fuel + 1, m =>
    let m := (List.range hs.length).foldl (fun m _ => balanceRound hs m) m
    match hs.find? (fun h => (Map.get none m h.src).isNone) with
    | none => m
    | some h => balanceFill hs fuel (Map.put m h.src (some 1))

/-- The balance equations have a positive solution. -/
def ratesOk (hs : List Hop) : Bool :=
  let l := hs.filter (fun h => decide (1 ≤ h.p ∧ h.dst < 100000))
  let m := balanceFill l (l.length + 1) []
  l.all (fun h => match Map.get none m h.src, Map.get none m h.dst with
    | some a, some b => decide (a * h.p = b * h.c)
    | _, _ => false)

/-- The simple paths from an actor to an actor; `fuel` bounds their length. -/
def simplePaths (hs : List Hop) (goal : Nat) : Nat → Nat → List Nat → List (List Hop)
  | 0, _, _ => []
  | fuel + 1, v, seen =>
    (hs.filter (fun h => decide (h.src = v))).flatMap (fun h =>
      if h.dst = goal then [[h]]
      else if seen.contains h.dst then []
      else (simplePaths hs goal fuel h.dst (h.dst :: seen)).map (fun p => h :: p))

def pathsOf (hs : List Hop) (a b : Nat) : List (List Hop) := simplePaths hs b (hs.length + 1) a [a]

/-- The directed cycles. -/
def cyclesOf (hs : List Hop) : List (List Hop) := ((hs.map (·.src)).dedup).flatMap (fun v => pathsOf hs v v)

def cycleRow (z : List Hop) : Bool := decide ((z.map (·.c)).foldl Nat.max 0 ≤ (z.map (·.init)).sum)

def pathCap (p : List Hop) : Nat := (p.map (·.cap)).sum + (p.length - 1)

/-- Ops with a group of lookahead, d = 1 (Table 5.2). -/
def looksAhead (w : BitVec 32) : Bool :=
  decide (0x32 ≤ opOf w ∧ opOf w ≤ 0x36) || (opOf w == 0x37 && w.getLsbD 3)

/-- W(P), from the actor nearest the join (R43, R129). -/
def takeIn (c : Ctx) : List Hop → Nat
  | a :: b :: rest =>
    let w := takeIn c (b :: rest)
    if a.hold then (c.m + 2) * w
    else
      let w := a.c * ((w + Nat.max 1 b.p - 1) / Nat.max 1 b.p)
      if looksAhead (nodeWord c a.dst) then w + 1 else w
  | _ => 1

/-- Two paths that part at a copying fork and meet again only at their join. -/
def parted (fork : Bool) (p q : List Hop) : Bool :=
  match p, q with
  | a :: _, b :: _ =>
    decide (a ≠ b) && (fork || decide (a.dir = b.dir)) &&
      (p.dropLast.all (fun h => !(q.dropLast.any (fun g => decide (g.dst = h.dst)))))
  | _, _ => false

def isFork (c : Ctx) (r : Rect) (p : Stand) : Bool :=
  let w := c.word p
  decide (12 ≤ field w 16 13 ∧ field w 16 13 ≤ 14) || opOf w == 0x3B || (opOf w == 0x41 && decide (2 ≤ (onward c r p).length))

/-- How many operands a slot waits for: its input FIFOs, and the operands that a frame sends it. -/
def operandsOf (w : BitVec 32) : Nat := (slotInputs w).length + if isFrameNode w then field w 4 3 else 0

/-- Where paths may part: the actors, with whether each is itself a copying fork, and the entry AG tiles, behind which a FIFO
tile may be one. -/
def forkNodes (c : Ctx) (r : Rect) : List (Nat × Bool) :=
  (actors c r).map (fun f => (f.node, isFork c r f)) ++ (c.chans.filter (·.fromAg)).map (fun h => (300000 + h.sid, false))

/-- The fork rows, and the rule on DROP between a fork and its join (R44, R350). -/
def forkRows (c : Ctx) (r : Rect) (hs : List Hop) : Bool :=
  (forkNodes c r).all (fun f => (actors c r).all (fun j =>
    decide (operandsOf (c.word j) < 2) ||
    (let ps := pathsOf hs f.1 j.node
     let join := opOf (c.word j)
     ps.all (fun p => ps.all (fun q => !parted f.2 p q ||
       (decide (takeIn c q ≤ pathCap p ∧ takeIn c p ≤ pathCap q) &&
        (join == 0x51 || join == 0x52 || !p.dropLast.any (fun h => opOf (nodeWord c h.dst) == 0x56))))))))

def channelCheck (c : Ctx) (r : Rect) : Bool :=
  let hs := hops c r
  let cycles := cyclesOf hs
  let pool := poolSize c
  c.chans.all (recordRow c r) && ratesOk hs && cycles.all cycleRow &&
  hs.all (fun h => !h.back || decide (c.cage ≤ h.cap ∧ h.init = c.cage)) && forkRows c r hs &&
  (pool == 0 || decide (c.cage ≤ pool)) && (!c.clonable || (cycles.isEmpty && !hs.any (·.back)))

/-! ### Rules that follow tokens through the load -/

/-- Digit channels join slots of one LSEL, PASS slots, FIFO tiles and pass stages between them (05_online_arithmetic.md R110). -/
def lselOk (c : Ctx) (r : Rect) : Bool :=
  (actors c r).all (fun p =>
    let w := c.word p
    !(isDigitOp (opOf w) && opOf w != 0x31) ||
    ((spread c r (fun q => opOf (c.word q) == 0x55 || isPassTile c r q.y q.x || isFifoTile c r q.y q.x) 100000
      ((leaves c r p).filterMap (fun l => match l with | .tile q => some q | _ => none)) []).all (fun q =>
        let v := c.word q
        !(isDigitOp (opOf v) && opOf v != 0x30) || isPassTile c r q.y q.x || isFifoTile c r q.y q.x || decide (field v 8 6 = field w 8 6))))

/-- SEGMARK: no slot with two data inputs between it and an exit; its ORDER names exit streams that the token reaches
(18_ref_s.md R399, 07_consistency.md R159, R161). -/
def segmarkOk (c : Ctx) (r : Rect) : Bool :=
  (actors c r ++ (slotsOf c).filter (fun p => isFifoTile c r p.y p.x)).all (fun p =>
    let w := c.word p
    opOf w != 0x5A ||
    (let next := (leaves c r p).filterMap (fun l => match l with | .tile q => some q | _ => none)
     let reached := exitsOf c r [p]
     (spreadAll c r next).all (fun q => decide ((slotInputs (c.word q)).length < 2) || isPassTile c r q.y q.x ||
       isFrameTile c r q.y q.x || (exitsOf c r [q]).isEmpty) &&
     (w.getLsbD 0 ||
      (let imm : BitVec 32 := ((c.tcfg p.y p.x).extractLsb' 16 16).zeroExtend 32
       let mask : BitVec 32 := if w.getLsbD 1 then imm <<< 16 else imm
       (List.range 32).all (fun n => !mask.getLsbD n ||
         (match c.edge n with
          | some e => (e.may false && reached.contains n) ||
              (e.may true && c.ranges.any (fun o => decide (o.succ = some n) && mask.getLsbD o.owner))
          | none => false))))))

/-- A stream barrier names only exit streams that its token reaches from the entry tile of stream n (R159). SBMASK stands in the
program's block, which no image holds, so the check is made when the AG tile reads the block, with the rule's CFG (log 118). -/
def barrierReaches (c : Ctx) (r : Rect) (n mask : Nat) : Bool :=
  let reached := exitsOf c r ((entryStands c).filter (fun p => decide ((agSite n).1 = p.y ∧ (agSite n).2.1 = p.x ∧
    opposite (agSite n).2.2 = p.mv)))
  (List.range 32).all (fun m => !(BitVec.ofNat 32 mask).getLsbD m || reached.contains m ||
    (match c.edge m with | some e => e.may true | none => false))

/-- A load with frames has an ALLOC slot, and one without has none (19_ref_t_z.md R419). -/
def allocOk (c : Ctx) : Bool :=
  (poolSize c != 0) == c.tiles.any (fun t => t.2.ops.any (fun w => opOf w.2 == 0x57 && !w.2.getLsbD 0))

/-- Every check of a load beside those of its image's form, its region and its save area (15_ref_a_c.md R334 step 3). -/
def loadOk (s : State) (k : Nat) (r : Rect) (c : Ctx) : Bool :=
  c.chans.all (chanOk s k r c.tiles) && sysRectOk c r &&
  c.tiles.all (fun e => tileOk c r (e.1 / 24) (e.1 % 24) e.2) && channelCheck c r && lselOk c r && segmarkOk c r && allocOk c

end Sys2Proof.Machine
end

