-- ==== Sys2Proof/Machine/StreamCmds.lean ====
section
/-!
DEFINITION. The commands of SQ: the stream programs, SCLOSE, SBAR, SOWN and SSEG (18_ref_s.md R392 to R397, R404 to R413,
16_ref_d_l.md R363, 09_attention.md R197 to R201).
-/
namespace Sys2Proof.Machine

open Sys2Proof

/-! ### Handing a command to its AG tile (R392) -/

/-- A program or SSEG or SCLOSE stands at the tile: it was handed over and has not finished. -/
def atTile (c : QCmd) : Bool := decide (c.phase = .started ∧ c.progress < 2) && decide (cmdOpcode c.word ≠ 8)

/-- The tile has room for one more command: it holds at most two. -/
def tileRoom (s : State) (k n : Nat) : Bool := decide (((sqOf s k n).filter atTile).length < 2)

/-- Every earlier program or SCLOSE of the stream has left its tile; an SSEG holds no work back (R413). -/
def firstAtTile (s : State) (k n id : Nat) : Bool :=
  (sqBefore s k id).all (fun c => !(namesStream (cmdOpcode c.word) && decide ((cmdFields c.word).sid.toNat = n) &&
    decide (cmdOpcode c.word ≠ 8 ∧ cmdOpcode c.word ≠ 9)) || isDone c || decide (2 ≤ c.progress))

/-- A program that has not retired and stands in a save area. -/
def isAway (c : QCmd) : Bool := isProgram c && !isDone c && decide (4 ≤ c.progress)

/-- An earlier program of the stream stands in a save area with the stream (10_faults_modes.md R227): what follows it under
its binding waits until the context is resumed or retired (log 102). -/
def programsAway (s : State) (k n : Nat) (c : QCmd) : Bool :=
  (sqBefore s k c.id).any (fun d => isAway d && decide ((cmdFields d.word).sid.toNat = n ∧ (cmdFields d.word).bind = (cmdFields c.word).bind))

/-- Every earlier program of the stream that stands at its tile has retired. -/
def programsOver (s : State) (k n id : Nat) : Bool :=
  (sqBefore s k id).all (fun c => !(isProgram c && decide ((cmdFields c.word).sid.toNat = n)) || isDone c || isAway c)

/-- A program of the stream is running or waits at its tile. -/
def programOpen (s : State) (k n id : Nat) : Bool :=
  (sqOf s k n).any (fun c => isProgram c && decide (c.id ≠ id ∧ c.phase = .started ∧ c.progress < 2))

/-- The edge record of a context permits the direction; for binding 7, that of some resident context of the region. -/
def roleOk (s : State) (k n : Nat) (bind : Nat) (entry : Bool) : Bool :=
  match (s.regionOfStream k n).bind (s.region k) with
  | none => false
  | some r =>
    let may (c : Nat) : Bool := match r.ctx c with
      | some x => (match x.edge n with | some e => e.may entry | none => false)
      | none => false
    if bind = 7 then (List.range 4).any may else may bind

/-- The checks at the head of SQ: direction, ROLE, and the binding of a program still open. -/
def programCheck (s : State) (k : Nat) (c : QCmd) (entry : Bool) : Bool :=
  let f := cmdFields c.word
  let n := f.sid.toNat
  let p := s.port (portKey k n)
  roleOk s k n f.bind.toNat entry && (!p.isOpen || (p.entry == entry)) &&
    (!(p.isOpen && programOpen s k n c.id) || decide (p.bind = f.bind.toNat))

/-- An idle port opens: numbering from 0, an empty dirty range, a full bucket (R392, R31, R218, 12_power.md R270). -/
def openPort (s : State) (k n : Nat) (c : QCmd) (entry : Bool) : State :=
  let p := s.port (portKey k n)
  let f := cmdFields c.word
  if p.isOpen then s.setPort (portKey k n) (if programOpen s k n c.id then p else { p with bind := f.bind.toNat })
  else
    let s := s.setPort (portKey k n) { inp := p.inp, orders := p.orders, arriving := p.arriving, isOpen := true, entry, id := s.nextId,
                                       bind := f.bind.toNat, asid := c.asid }
    let s := { s with nextId := s.nextId + 1 }
    s.modCore k (fun x => let m := x.meter n; x.setMeter n { m with b := m.burst * 1300, at_ := uncoreCycles s })

/-- A program that failed before it began takes nothing with it: a port that only it opened is idle again. -/
def unopen (s : State) (k n id : Nat) : State :=
  let p := s.port (portKey k n)
  if p.segNo = 0 ∧ p.prog.isNone ∧ p.past.isEmpty ∧ programOpen s k n id = false ∧ p.lines.isEmpty ∧ p.written = false then
    dropPins (s.setPort (portKey k n) p.idled) (.stream p.id)
  else s

/-! ### The checks of the parameter blocks (13_encodings.md Table 13.7, Table 13.8) -/

/-- The context that a binding of stream n means, with its region: for binding 7 the active one. -/
def boundCtx (s : State) (k n bind : Nat) : Option (Region × Ctx) :=
  ((s.regionOfStream k n).bind (s.region k)).bind (fun r =>
    ((if bind = 7 then r.active else some bind).bind r.ctx).map (fun x => (r, x)))

/-- SBMASK names the program's own stream, and only streams of its region that the context's edge records name (R406). -/
def sbMaskOk (s : State) (k n bind mask : Nat) : Bool :=
  match boundCtx s k n bind with
  | none => false
  | some (_, x) => (BitVec.ofNat 32 mask).getLsbD n &&
      (List.range 32).all (fun m => !(BitVec.ofNat 32 mask).getLsbD m ||
        (decide (s.regionOfStream k m = s.regionOfStream k n) && (x.edge m).isSome))

/-- No stream barrier of the program names an exit stream that its token cannot reach. -/
def sbReaches (s : State) (k n bind : Nat) (b : BitVec 512) : Bool :=
  match boundCtx s k n bind with
  | none => true
  | some (r, x) => blk b 41 1 % 2 = 0 || barrierReaches x r.rect n (blk b 44 4)

def affineOk (s : State) (k n bind : Nat) (b : BitVec 512) (store : Bool) : Bool :=
  let b40 := blk b 40 1
  let b41 := blk b 41 1
  let seam := blkSeam b
  let part := b40 / 32 % 4
  decide (blk b 7 1 = 0 ∧ b40 < 128 ∧ b41 < 8 ∧ part ≠ 3) &&
    (!store || decide (seam = false ∧ part = 0 ∧ b41 % 2 = 0)) &&
    (if b41 % 2 = 1 then decide (1 ≤ blk b 42 2) && sbMaskOk s k n bind (blk b 44 4)
     else decide (blk b 42 2 = 0 ∧ blk b 44 4 = 0)) &&
    (if seam then decide (b40 % 4 = 1 ∨ b40 % 4 = 2) && decide (blk b 48 8 % 65536 = 0 ∧ blk b 56 8 % 1024 = 0)
     else decide (blk b 48 8 = 0 ∧ blk b 56 8 = 0))

def indirectOk (b : BitVec 512) : Bool :=
  decide (blk b 0 8 % (indexAt b 0).2 = 0 ∧ blk b 25 1 < 4 ∧ blk b 8 8 % 2 ^ (blk b 25 1 % 4) = 0 ∧ 1 ≤ blk b 20 4 ∧ blk b 24 1 < 2 ∧
    blk b 26 2 = 0) && blkZero b 32 64

def kvadmitOk (b : BitVec 512) : Bool :=
  decide (blk b 0 8 % 16 = 0 ∧ 1 ≤ blk b 8 2 ∧ blk b 8 2 ≤ 4096 ∧ blk b 10 1 % 4 ≠ 3 ∧ blk b 10 1 / 8 % 4 < 2 ∧ blk b 10 1 < 32 ∧
    blk b 16 8 % 65536 = 0 ∧ blk b 24 8 % 65536 = 0 ∧ blk b 24 8 ≠ 0 ∧ blk b 32 8 % 1024 = 0) && blkZero b 11 16 && blkZero b 40 64

/-- The entries of a run list (R198). -/
def runEntries (l : List Byte) (n : Nat) : List (Nat × Nat × Nat × Nat) :=
  (List.range n).map (fun i =>
    let e := (l.drop (16 * i)).take 16
    (ofBytes (e.take 8), ofBytes ((e.drop 8).take 2), ofBytes ((e.drop 10).take 2), ofBytes (e.drop 12)))

def runOk (b : BitVec 512) (r : Nat × Nat × Nat × Nat) : Bool :=
  decide (r.1 % 8192 = 0 ∧ blk b 16 8 ≤ r.1 ∧ r.1 < blk b 16 8 + blk b 24 8 ∧ r.2.1 ≤ 63 ∧ 1 ≤ r.2.2.1 ∧ r.2.2.1 ≤ 64 ∧
    r.2.1 + r.2.2.1 ≤ 64 ∧ r.2.2.2 = 0)

/-- The distinct pages that a run list names: data pages and side pages (R201). -/
def runPages (b : BitVec 512) (rs : List (Nat × Nat × Nat × Nat)) : List Nat :=
  (rs.flatMap (fun r => [r.1 / 65536 * 65536, (blk b 32 8 + (r.1 - blk b 16 8) / 8) / 65536 * 65536])).dedup

/-- Takes one pin on each page for a holder, unless it holds one already; a page that is not valid, or whose release is
pending, raises XLATE and the pins taken are dropped; with `small` a page of a 512 MiB leaf raises it too (R201,
17_ref_m_r.md R388). -/
def pinPages (s : State) (asid : BitVec 16) (h : Holder) (small : Bool) (pages : List Nat) : Except Nat State :=
  match pages.find? (fun va => (match walkLeaf s asid va with | .ok l => small && !l.small | .error _ => true) ||
      releasePending s asid va) with
  | some va => .error va
  | none => .ok (pages.foldl (fun s va =>
      if s.pins.contains (asid, va, h) then s else { s with pins := s.pins ++ [(asid, va, h)] }) s)

/-! ### Starting a program -/

def newProg (c : QCmd) (kind : ProgKind) (b : BitVec 512) : Prog :=
  { kind, cmdId := c.id, asid := c.asid, bind := (cmdFields c.word).bind.toNat, ipc := c.ipc, block := b }

def isEntryKind (kind : ProgKind) : Bool := decide (kind ≠ .store ∧ kind ≠ .scatter)

/-- A program whose turn has come at its tile begins: it has read its block and passed its checks. A KVADMIT reads its run
list and takes its pins; a seam stream of an SLOAD takes none: R201 speaks of run lists (09_attention.md R197, R201; log 119). -/
def beginProg (s : State) (k : Nat) (c : QCmd) (kind : ProgKind) (b : BitVec 512) : State :=
  let n := (cmdFields c.word).sid.toNat
  let fail (s : State) (code : Code) (va : Nat) : State := unopen (faultCmd s k 0 c code va) k n c.id
  let go (s : State) (g : Prog) : State := setProg (setProgress s k c.id 1) k n g
  match kind with
  | .load | .push | .store =>
    if affineOk s k n (cmdFields c.word).bind.toNat b (decide (kind = .store)) = false then fail s fcCMD 0
    else if sbReaches s k n (cmdFields c.word).bind.toNat b = false then fail s fcCFG 0
    else go s (newProg c kind b)
  | .gather | .scatter =>
    if indirectOk b = false then fail s fcCMD 0
    else
      match sendIndirect s k c.id c.asid b with
      | .full => modCmd s k c.id (fun c => { c with holds := true })
      | .lost s => fail s fcLINK 0
      | .ok s => go (modCmd s k c.id (fun c => { c with holds := false })) (newProg c kind b)
  | .kvadmit =>
    if kvadmitOk b = false then fail s fcCMD 0
    else match readPart s k c (streamEng k) 1 [(blk b 0 8, 16 * blk b 8 2)] true with
      | .wait s => s
      | .fault s code va => fail s code va
      | .ok s l =>
        let rs := runEntries l (blk b 8 2)
        if rs.all (runOk b) = false then fail s fcCMD 0
        else match pagesRead c.asid (runPages b rs) s with
        | .wait s => s
        | .fault s code => fail s code 0
        | .ready s _ =>
        match pinPages s c.asid (.stream (s.port (portKey k n)).id) false (runPages b rs) with
          | .error va => fail s fcXLATE va
          | .ok s => go s { newProg c kind b with runs := rs.map (fun r => (r.1, r.2.1, r.2.2.1)) }

/-- The turn of a stream program's command: it is handed to its tile, begins when the stream's earlier commands are over
and no SBAR or SOWN holds it, and retires when its accesses are performed (R392, R393). -/
def programTurn (s : State) (k : Nat) (c : QCmd) (kind : ProgKind) : Res :=
  let n := (cmdFields c.word).sid.toNat
  let p := s.port (portKey k n)
  if p.shut ∧ (c.phase ≠ .started ∨ c.progress = 0) then .next (settlePort s k n)
  else if programsAway s k n c ∧ (c.phase ≠ .started ∨ c.progress = 0) then .next s
  else if c.phase ≠ .started then
    if programCheck s k c (isEntryKind kind) = false then .next (faultCmd s k 0 c fcCMD 0)
    else if tileRoom s k n then .next (setPhase (openPort s k n c (isEntryKind kind)) k c.id .started)
    else .next s
  else if c.progress = 0 then
    if p.prog.isSome || !p.redo.isEmpty || !firstAtTile s k n c.id || heldByEarlier s k n c.id then .next s
    else
      let s := openPort s k n c (isEntryKind kind)
      match blockPart s k c (streamEng k) with
      | .wait s => .next s
      | .fault s code va => .next (unopen (faultCmd s k 0 c code va) k n c.id)
      | .ok s b => .next (beginProg s k c kind b)
  else if c.progress = 2 ∧ s.egress.all (fun r => decide (r.core ≠ k ∨ r.cmdId ≠ some c.id)) ∧
      p.lines.all (fun l => decide (l.cmdId ≠ c.id)) ∧
      p.hold.all (fun h => match h with | .line l => decide (l.cmdId ≠ c.id) | _ => true) then
    .next (endCmd s k c.id 0)
  else .next s

def execSload (c : Cmd) (s : State) : Res := onQueue s (.sload c) (fun s k q => programTurn s k q .load)
def execSloadPush (c : Cmd) (s : State) : Res := onQueue s (.sloadPush c) (fun s k q => programTurn s k q .push)
def execSstore (c : Cmd) (s : State) : Res := onQueue s (.sstore c) (fun s k q => programTurn s k q .store)
def execSgather (c : Cmd) (s : State) : Res := onQueue s (.sgather c) (fun s k q => programTurn s k q .gather)
def execSscatter (c : Cmd) (s : State) : Res := onQueue s (.sscatter c) (fun s k q => programTurn s k q .scatter)
def execKvadmit (c : Cmd) (s : State) : Res := onQueue s (.kvadmit c) (fun s k q => programTurn s k q .kvadmit)

/-! ### SCLOSE, SSEG, SBAR, SOWN -/

/-- SCLOSE (R397): waits for the stream's programs, a re-run of one of them included, flushes, compares, records, drops
pins, idles the port. -/
def execSclose (c : Cmd) (s : State) : Res :=
  onQueue s (.sclose c) (fun s k q =>
    let n := c.sid.toNat
    let p := s.port (portKey k n)
    if programsAway s k n q then .next s
    else if p.isOpen = false ∨ p.shut = true then .next (endCmd s k q.id 0)
    else if q.phase ≠ .started then
      if p.bind ≠ c.bind.toNat then .next (faultCmd s k 0 q fcCMD 0)
      else if tileRoom s k n then .next (setPhase s k q.id .started) else .next s
    else if programsOver s k n q.id = false ∨ p.prog.isSome ∨ p.redo ≠ [] then .next s
    else if streamBusy s k n then .next (drain (flushLines s k n) k n)
    else
      match (if p.entry ∧ p.bind < 4 then s.regionOfStream k n else none) with
      | none => .next (endCmd (closeStream s k n) k q.id 0)
      | some j =>
        let (s, code) := compareCounts (closeStream s k n) k j p.bind n (some (0, q))
        .next (endCmd s k q.id code))

/-- SSEG (R413): retires once the stream has completed n segments, or with CMD where the stream has closed first. -/
def execSseg (c : Cmd) (s : State) : Res :=
  onQueue s (.sseg c) (fun s k q =>
    let n := c.sid.toNat
    let p := s.port (portKey k n)
    let count := field c.ops 31 0
    if programsAway s k n q then .next s
    else if q.phase ≠ .started then
      if p.isOpen = false ∨ p.shut = true then .next (faultCmd s k 0 q fcCMD 0)
      else if count = 0 then .next (endCmd s k q.id 0)
      else if tileRoom s k n then .next (setPhase s k q.id .started) else .next s
    else if count ≤ segsComplete s k n then .next (endCmd s k q.id 0)
    else if p.isOpen = false ∨ p.shut = true then .next (faultCmd s k 0 q fcCMD 0)
    else .next s)

/-- SBAR (R396): its instance is formed; it retires when the instance completes, at once for a mask of 0. -/
def execSbar (c : Cmd) (s : State) : Res :=
  onQueue s (.sbar c) (fun s k q =>
    if q.phase = .started then .next s
    else if field c.ops 31 0 = 0 then .next (endCmd s k q.id 0)
    else .next (addBarrier (setPhase s k q.id .started)
      { id := 0, core := k, mask := BitVec.ofNat 32 c.ops.toNat, reached := 0, scope := c.flags.extractLsb' 0 2,
        cmdId := some q.id, key := 0, order := false }))

/-- The declared range at a base, of the context that SOWN is bound to. -/
def ownedAt (s : State) (k j c base : Nat) : Option Owned :=
  match (s.region k j).bind (fun r => r.ctx c) with
  | some x => x.ranges.find? (fun r => decide (r.base = base))
  | none => none

/-- SOWN (R411): checked at the head of SQ; it waits for the programs of the range's owner there, flushes that stream's lines,
and makes its hand-over, which changes owner and successor whatever an ORDER has done meanwhile. Its progress is the owner's
stream ID and 1. -/
def execSown (c : Cmd) (s : State) : Res :=
  onQueue s (.sown c) (fun s k q =>
    let base := field c.ops 55 0
    match s.regionOfStream k c.sid.toNat with
    | none => .next (faultCmd s k 0 q fcCMD 0)
    | some j =>
      match ownedAt s k j c.bind.toNat base with
      | none => .next (faultCmd s k 0 q fcCMD 0)
      | some r =>
        if q.phase ≠ .started then
          if r.owner = c.sid.toNat then .next (endCmd s k q.id 0)
          else if r.succ ≠ some c.sid.toNat then .next (faultCmd s k 0 q fcCMD 0)
          else .next (setProgress (setPhase s k q.id .started) k q.id (r.owner + 1))
        else
          let old := q.progress - 1
          if (sqBefore s k q.id).all (fun x => !(isProgram x && decide ((cmdFields x.word).sid.toNat = old)) ||
              isDone x || decide (x.progress = 2)) = false then .next s
          else
            let p := s.port (portKey k old)
            -- the lines of the stream that SOWN names are flushed as well (03_fabric.md R79)
            if p.lines.isEmpty && p.hold.isEmpty && (s.port (portKey k c.sid.toNat)).lines.isEmpty then
              let s := modCtx s k j c.bind.toNat (fun x => { x with ranges := x.ranges.map (fun w => if w.base = base then w.swap else w) })
              .next (endCmd s k q.id 0)
            else .next (flushLines (flushLines s k old) k c.sid.toNat))

end Sys2Proof.Machine
end

