-- ==== Sys2Proof/Machine/Pages.lean ====
section
/-!
DEFINITION. Pages: PGPIN, PGREL and MIGRATE, the deep-tier service, and translation caches that drop entries
(06_memory.md R147, 07_consistency.md R169, 09_attention.md R201, R202, 10_faults_modes.md R217, R226, R230,
17_ref_m_r.md R380, R387 to R389).
-/
namespace Sys2Proof.Machine

open Sys2Proof

/-- The PTE that a walk of the upper levels leads to, whether valid or not: its place, its value, and whether it is of the
third level; none where the walk ends above it, or the code of a PTE that cannot be read. -/
def rawPte (s : State) (asid : BitVec 16) (va : Nat) : Except Code (Option (Nat × Nat × Bool)) :=
  if descValid s asid = false then .ok none else
  match readPte s (pteAt1 s asid va) with
  | .error c => .error c
  | .ok (_, e1) =>
    if pteBad e1 ∨ nfield e1 6 6 = 1 then .ok none else
    match readPte s (pteAt2 e1 va) with
    | .error c => .error c
    | .ok (a2, e2) =>
      if nfield e2 6 6 = 1 then .ok (some (a2, e2, false))
      else if pteBad e2 then .ok none
      else match readPte s (pteAt3 e2 va) with
        | .error c => .error c
        | .ok (a3, e3) => .ok (some (a3, e3, true))

/-! ### PGPIN and PGREL -/

/-- The holders a PGPIN pins for: the contexts it is bound to, of a cloned load the original, or the thread's task, or the
thread (R388, R30). -/
def pinHolders (s : State) (k bind : Nat) : List Holder :=
  if bind < 4 then ((List.range 4).filter (fun j => match (s.region k j).bind (fun r => r.ctx bind) with
    | some x => x.copyOf.isNone
    | none => false)).map (fun j => .context k j bind)
  else match (s.thread k).task with
    | some p => [.task (coreDie k) p]
    | none => [.thread k]

/-- The pages of the range, in ascending order (R387). -/
def rangePages (ops : BitVec 96) : List Nat := (List.range (field ops 79 64)).map (fun i => field ops 55 0 + 65536 * i)

def execPgpin (c : Cmd) (s : State) : Res :=
  onQueue s (.pgpin c) (fun s k q =>
    let pages := rangePages c.ops
    match pagesRead q.asid pages s with
    | .wait s => .next s
    | .fault s code => .next (faultCmd s k 5 q code 0)
    | .ready s _ =>
      match (pinHolders s k c.bind.toNat).foldl (fun (r : Except Nat State) h => r.bind (fun s => pinPages s q.asid h true pages)) (.ok s) with
      | .error va => .next (faultCmd s k 5 q fcXLATE va)
      | .ok s => .next (endCmd s k q.id 0))

/-- The release of a page is pending from here on (R202). -/
def markPending (s : State) (asid : BitVec 16) (page : Nat) : State :=
  if releasePending s asid page then s else { s with releasing := s.releasing ++ [{ asid, page }] }

/-- V of a PTE is cleared by an atomic at its home, and every translation cache drops the page (R389, R217). -/
def clearPte (s : State) (at_ e : Nat) (asid : BitVec 16) (page : Nat) : State :=
  shootdown (perform s at_ ((toBytes 8 (e - 1)).map some)) asid page

/-- What a PGREL does with a page. -/
inductive Relq where
  /-- It is left as it is, or marked pending. -/
  | left (s : State)
  | cleared (s : State)
  | fault (code : Code)

/-- One page of a PGREL whose PTE may be read and written now: released, left, or marked pending while a pin or a deep-tier
fetch keeps it; XLATE for a page of a 512 MiB leaf, and the code of a PTE that cannot be read (R389, R202). -/
def releasePage (s : State) (asid : BitVec 16) (page : Nat) : Relq :=
  match rawPte s asid page with
  | .error c => .fault c
  | .ok none => .left s
  | .ok (some (at_, e, small)) =>
    if e % 2 = 0 then .left s
    else if small = false then .fault fcXLATE
    else if pageLoose s asid page = false then .left (markPending s asid page)
    else .cleared (clearPte s at_ e asid page)

/-- PGREL handles its pages in ascending order, one a turn; a page that a MIGRATE moves is handled after it (R381). Its
progress is the next page, its `puts` the pages that it has released, its block, after a page that faults, the code and
that page. It ends once every access translated with an entry that it dropped is performed (R217, R389). -/
def execPgrel (c : Cmd) (s : State) : Res :=
  onQueue s (.pgrel c) (fun s k q =>
    let pages := rangePages c.ops
    let s := setPhase s k q.id .started
    match (if q.block = 0 then pages[q.progress]? else none) with
    | some page =>
      if s.blocked.contains (q.asid, page) then .next s else
      let on (s : State) : State := setProgress s k q.id (q.progress + 1)
      let bad (s : State) (code : Code) : State := modCmd s k q.id (fun x => { x with block := BitVec.ofNat 512 (256 * page + code.toNat) })
      match pteRead s q.asid page with
      | .wait s => .next s
      | .fault s code => .next (bad s code)
      | .ready s _ => match releasePage s q.asid page with
        | .left s => .next (on s)
        | .cleared s => .next (modCmd (on s) k q.id (fun x => { x with puts := x.puts ++ [(0, q.progress)] }))
        | .fault code => .next (bad s code)
    | none =>
      if translatedTo s (fun asid va _ => decide (asid = q.asid) && q.puts.any (fun p => pages[p.2]? = some (va / 65536 * 65536))) then .next s
      else if q.block = 0 then .next (endCmd s k q.id 0)
      else .next (faultCmd s k 5 q (BitVec.ofNat 8 q.block.toNat) (q.block.toNat / 256)))

/-- A pending release that nothing keeps any more is performed, once no MIGRATE moves the page; it is over when every access
translated with the dropped entry is performed (R202, R381, R217). Where the PTE cannot be reached, or names no page of its
own, nothing is released (log 137). -/
def releaseStep (s : State) (n : Nat) : State :=
  match s.releasing[n]? with
  | none => s
  | some x =>
    let gone (s : State) : State := { s with releasing := s.releasing.eraseIdx n }
    if x.cleared then
      (if translatedTo s (fun asid va _ => decide (asid = x.asid ∧ va / 65536 * 65536 = x.page)) then s else gone s)
    else if pageLoose s x.asid x.page = false ∨ s.blocked.contains (x.asid, x.page) then s
    else match pteRead s x.asid x.page with
      | .wait s => s
      | .fault s _ => gone s
      | .ready s _ => match rawPte s x.asid x.page with
        | .ok (some (at_, e, true)) =>
          if e % 2 = 0 then gone s
          else { clearPte s at_ e x.asid x.page with releasing := s.releasing.set n { x with cleared := true } }
        | _ => gone s

/-! ### MIGRATE -/

/-- Line i of a frame is copied, both lines being there: bytes and poison; the line at the new frame is dirty and carries no
entry (R380, R189). -/
def copyLine (s : State) (old new i : Nat) : State :=
  let src := 65536 * old + 128 * i
  let dst := 65536 * new + 128 * i
  let bad := (List.range 16).map (fun j => Map.get false s.poison (src / 8 + j))
  let s := perform s dst ((readMem s src 128).map some)
  let s := { s with poison := ((List.range 16).zip bad).foldl (fun p e => Map.set false p (dst / 8 + e.1) e.2) s.poison }
  match wayOf s (homeSlice dst) (dst / 128) with
  | some w => s.setWay (homeSlice dst) (setOf (dst / 128)) w
      (((s.way (homeSlice dst) (setOf (dst / 128)) w)).map (fun x => { x with tag := 16 }))
  | none => s

/-- The accesses by which line i of a frame is copied: it is read at the old frame's home and written whole at the new one's.
Its poison goes with it, so that the read, which takes any bytes, is let in as a write is. -/
def copyReach (s : State) (asid : BitVec 16) (page old new i : Nat) : Acc :=
  walkAll (serviceOf s asid page) [(65536 * old + 128 * i, 128, .write, false), (65536 * new + 128 * i, 128, .write, true)] s

def unblock (s : State) (asid : BitVec 16) (page : Nat) : State :=
  { s with blocked := s.blocked.filter (fun b => decide (b ≠ (asid, page))) }

/-- A leaf PTE is rewritten at its home and the page shot down (R169 step 4). -/
def rewritePte (s : State) (l : Leaf) (e : Nat) (asid : BitVec 16) (page : Nat) : State :=
  shootdown (perform s l.pteAt ((toBytes 8 e).map some)) asid page

/-- A save area whose first page moves is found at its new place. -/
def moveSave (s : State) (old new : Nat) : State :=
  match Map.get none s.saves (65536 * old) with
  | none => s
  | some a => { s with saves := Map.set none (Map.set none s.saves (65536 * old) none) (65536 * new) (some a) }

/-- The checks of Table 17.6, and step 1 of R169: translation of the page is blocked from here on. -/
def migrateBegin (s : State) (k : Nat) (q : QCmd) (va new : Nat) : State :=
  if s.blocked.contains (q.asid, va) then s else
  match pteRead s q.asid va with
  | .wait s => s
  | .fault s c => faultCmd s k 5 q c va
  | .ready s _ =>
  match walkLeaf s q.asid va with
  | .error c => faultCmd s k 5 q c va
  | .ok l =>
    if l.small = false ∨ releasePending s q.asid va then faultCmd s k 5 q fcXLATE va
    else if nfield l.e 7 7 = 1 then faultCmd s k 5 q fcDEEP va
    else if 2 ^ 23 ≤ new then faultCmd s k 5 q fcACCESS va
    else if new = nfield l.e 47 16 then endCmd s k q.id 0
    else modCmd { s with blocked := s.blocked ++ [(q.asid, va)] } k q.id
      (fun c => { c with phase := .started, block := BitVec.ofNat 512 (nfield l.e 47 16) })

/-- Steps 2 to 5 of R169: no access translated to the old frame is on its way, the lines are copied one a turn, none while a
handler holds it (08_assayers.md R189), the PTE names the new frame, and translation is unblocked. A flit of its own that
fails ends it with LINK, the PTE as it was (log 137). -/
def migrateStep (s : State) (k : Nat) (q : QCmd) (va new : Nat) : State :=
  let old := q.block.toNat
  let left := (List.range 512).filter (fun i => !q.puts.contains (0, i))
  if q.progress = 0 then
    (if translatedTo s (fun _ _ pa => decide (pa / 65536 = old)) then s else setProgress s k q.id 1)
  else match left[Config.pieceOrder s.tick % left.length]? with
  | some i => (match copyReach s q.asid va old new i with
    | .wait s => s
    | .fault s c => faultCmd (unblock s q.asid va) k 5 q c va
    | .ready s _ => modCmd (copyLine s old new i) k q.id (fun c => { c with puts := c.puts ++ [(0, i)] }))
  | none => match pteRead s q.asid va with
    | .wait s => s
    | .fault s c => faultCmd (unblock s q.asid va) k 5 q c va
    | .ready s _ =>
      let s := match walkLeaf s q.asid va with
        | .ok l => rewritePte (moveSave s old new) l (l.e - nfield l.e 47 16 * 2 ^ 16 + new * 2 ^ 16) q.asid va
        | .error _ => shootdown s q.asid va
      endCmd (unblock s q.asid va) k q.id 0

/-- MIGRATE's turn. -/
def migrate (s : State) (k : Nat) (q : QCmd) (va new : Nat) : State :=
  if q.phase = .started then migrateStep s k q va new else migrateBegin s k q va new

def execMigrate (c : Cmd) (s : State) : Res :=
  onQueue s (.migrate c) (fun s k q => .next (migrate s k q (field c.ops 55 0) (field c.ops 95 64)))

/-! ### The deep tier -/

/-- Tells every context that waits for the page the status of its record (R226). -/
def tellReruns (s : State) (asid : BitVec 16) (page status : Nat) : State :=
  { s with cores := s.cores.map (fun (k, c) => (k, { c with regions := c.regions.map (fun (j, r) =>
      (j, r.map (fun r => { r with ctxs := r.ctxs.map (fun (n, x) => (n, x.map (fun x =>
        match x.rerun with
        | some w => if w.waits = some (asid, page) then { x with rerun := some { w with status := some status } } else x
        | none => x))) }))) })) }

/-- The service's own accesses (14_system.md Table 14.2). -/
def serviceOrigin : Origin := ownOrigin 1008

/-- The completion record of a fetch, or the wait for room in the ring (R230). Where no ring can be written, none is
(log 137). -/
def endFetch (s : State) (i : Nat) (f : Fetch) (status : Nat) : State :=
  let gone (s : State) : State := tellReruns { s with fetches := s.fetches.eraseIdx i } f.asid f.page status
  let later (s : State) : State := { s with fetches := s.fetches.set i { f with ended := some status, stalled := false } }
  if descValid s f.asid = false then gone s
  else if ringFull s f.asid ringDone then later s
  else match ringReach s serviceOrigin f.asid ringDone with
    | .wait s => later s
    | .fault s _ => gone s
    | .ready s _ => gone (ringPut s f.asid ringDone (toBytes 8 f.page ++ toBytes 2 status ++ toBytes 6 0)).1

/-- The pool entry at POOLTAKE (R230). -/
def poolAt (s : State) (asid : BitVec 16) : Nat :=
  descWord s asid 24 8 + 8 * (descWord s asid 36 4 % 2 ^ nfield (descWord s asid 72 4) 12 8)

/-- The accesses by which a frame is taken: the descriptor, and the pool entry unless the pool is empty. -/
def poolReach (s : State) (asid : BitVec 16) : Acc :=
  reachAll serviceOrigin ((descAddr s asid + 36, 4, .atomic) ::
    (if descWord s asid 32 4 = descWord s asid 36 4 then [] else [(poolAt s asid, 8, .read)])) s

/-- The frame pool of an ASID: the entry at POOLTAKE, and the pool with it taken (R230). -/
def takeFrame (s : State) (asid : BitVec 16) : Option (State × Nat) :=
  let take := descWord s asid 36 4
  if descWord s asid 32 4 = take then none
  else
    let e := readNat s (poolAt s asid) 8
    some (perform s (descAddr s asid + 36) ((toBytes 4 ((take + 1) % 2 ^ 32)).map some), nfield e 47 16)

/-- The page index of a drive's page in the table of drives. -/
def driveKey (port index : Nat) : Nat := 2 ^ 30 * port + index

/-- The bytes of line i of a drive's page. -/
def driveLine (s : State) (port index i : Nat) : List Byte :=
  (List.range 128).map (fun o => Map.get 0 (Map.get [] s.drives (driveKey port index)) (128 * i + o))

/-- Line i of a drive's page is written. -/
def putDriveLine (s : State) (port index i : Nat) (bytes : List Byte) : State :=
  let page := bytes.zipIdx.foldl (fun m e => Map.set 0 m (128 * i + e.2) e.1) (Map.get [] s.drives (driveKey port index))
  { s with drives := Map.set [] s.drives (driveKey port index) page }

/-- The lines of a page that are still to be moved, of which any comes next (07_consistency.md R149). -/
def nextLine (s : State) (moved : List Nat) : Option Nat :=
  let left := (List.range 512).filter (fun i => !moved.contains i)
  left[Config.pieceOrder s.tick % left.length]?

/-- The PTE names the frame with TIER = 0, and the page is shot down (R147 step 4). -/
def installPage (s : State) (f : Fetch) (frame : Nat) : State :=
  match walkLeaf s f.asid f.page with
  | .error _ => s
  | .ok l =>
    let perm := l.e % 2 ^ 16
    rewritePte s l (frame * 2 ^ 16 + (perm - 128 * nfield perm 7 7)) f.asid f.page

/-- The page reads that a deep-tier port has in flight: at most 64 (Table 6.3). -/
def portReads (s : State) (port : Nat) : Nat :=
  (s.fetches.filter (fun f => decide (f.port = port) && f.frame.isSome && f.ended.isNone && !f.stalled)).length

/-- The next step of a deep-tier fetch (R147): the locator is checked and a frame taken from the pool; the drive is read,
line by line, while accesses to the page still fault; translation stalls; the PTE is written and the page shot down; the
record. A pool that cannot be read is as an empty one, and a frame that cannot be written as a drive error (log 137). -/
def execDeepFetchComplete (i : Nat) (driveError : Bool) (s : State) : Res :=
  match s.self with
  | .module =>
    (match s.fetches[i]? with
     | none => .next s
     | some f =>
       match f.ended, f.frame with
       | some st, _ => .next (endFetch s i f st)
       | none, none =>
         if Config.drivePages f.port ≤ f.index then .next (endFetch s i f 3)
         else if 64 ≤ portReads s f.port then .next s
         else (match poolReach s f.asid with
           | .wait s => .next s
           | .fault s _ => .next (endFetch s i f 1)
           | .ready s _ => match takeFrame s f.asid with
             | none => .next (endFetch s i f 1)
             | some (s, frame) => .next { s with fetches := s.fetches.set i { f with frame := some frame } })
       | none, some frame =>
         if f.stalled = false then
           if driveError then .next (endFetch s i f 2)
           else match nextLine s f.moved with
             | some n => (match reach s (65536 * frame + 128 * n) 128 .write { serviceOrigin with full := true } with
               | .wait s => .next s
               | .fault s _ => .next (endFetch s i f 2)
               | .ready s key =>
                 .next { perform s key ((driveLine s f.port f.index n).map some) with
                   fetches := s.fetches.set i { f with moved := f.moved ++ [n] } })
             | none => .next { s with fetches := s.fetches.set i { f with stalled := true } }
         else match pteRead s f.asid f.page with
           | .wait s => .next s
           | .fault s _ => .next (endFetch s i f 2)
           | .ready s _ => .next (endFetch (installPage s f frame) i f 0))
  | _ => .refused .wrongAgent

/-- The headframe starts to move an unpinned 64 KiB page to a drive (R202): its translation is blocked from here on. -/
def execMoveToDeepTier (asid : BitVec 16) (va : Nat) (port : BitVec 2) (index : BitVec 30) (s : State) : Res :=
  match s.self with
  | .module =>
    let page := va / 65536 * 65536
    (match pteRead s asid page with
     | .wait s => .next s
     | .fault s _ => .next s
     | .ready s _ => match walkLeaf s asid page with
       | .error _ => .next s
       | .ok l =>
         if l.small = false ∨ nfield l.e 7 7 = 1 ∨ releasePending s asid page ∨ s.blocked.contains (asid, page) ∨
             s.pins.any (fun p => decide (p.1 = asid ∧ p.2.1 = page)) ∨ Config.drivePages port.toNat ≤ index.toNat then .next s
         else .next { s with blocked := s.blocked ++ [(asid, page)]
                             descents := s.descents ++ [{ asid, page, port := port.toNat, index := index.toNat, frame := nfield l.e 47 16 }] })
  | _ => .refused .wrongAgent

/-- The next step of a page's way to the deep tier: once no access to its frame is on its way, its lines are read one a turn
into the drive; then its PTE gets the drive's place and TIER = 1, and the page is shot down. A page that is pinned meanwhile
stays where it is, and so does one of which a line cannot be read (R202; log 137). -/
def descend (s : State) (n : Nat) : State :=
  match s.descents[n]? with
  | none => s
  | some d =>
    let gone (s : State) : State := unblock { s with descents := s.descents.eraseIdx n } d.asid d.page
    if s.pins.any (fun p => decide (p.1 = d.asid ∧ p.2.1 = d.page)) then gone s
    else if translatedTo s (fun _ _ pa => decide (pa / 65536 = d.frame)) then s
    else match nextLine s d.moved with
      | some i => (match reach s (65536 * d.frame + 128 * i) 128 .read serviceOrigin with
        | .wait s => s
        | .fault s _ => gone s
        | .ready s key => { putDriveLine s d.port d.index i (readMem s key 128) with
            descents := s.descents.set n { d with moved := d.moved ++ [i] } })
      | none => match pteRead s d.asid d.page with
        | .wait s => s
        | .fault s _ => gone s
        | .ready s _ => match walkLeaf s d.asid d.page with
          | .ok l => gone (rewritePte s l (d.port * 2 ^ 46 + d.index * 2 ^ 16 + l.e % 2 ^ 16 + 128) d.asid d.page)
          | .error _ => gone s

/-- A translation cache drops an entry of its own accord (R217). -/
def execTranslationCacheDrop (cache k : Nat) (s : State) : Res :=
  match s.self with
  | .module =>
    .next { s with tcaches := Map.set [] s.tcaches cache ((Map.get [] s.tcaches cache).eraseIdx k) }
  | _ => .refused .wrongAgent

end Sys2Proof.Machine
end

