-- ==== Sys2Proof/Machine/Hoist.lean ====
section
/-!
DEFINITION. The hoist engines: HCOPY and HFILL, one destination line a turn (06_memory.md R146, 16_ref_d_l.md R357, R358).
-/
namespace Sys2Proof.Machine

open Sys2Proof

/-- Number of destination lines of n bytes at d, and the offset and length of line i in ascending order. -/
def hoistCount (d n : Nat) : Nat := (d % 128 + n + 127) / 128
def hoistPiece (d n i : Nat) : Nat × Nat :=
  let off := if i = 0 then 0 else 128 * i - d % 128
  (off, Nat.min (n - off) (128 - (d + off) % 128))

/-- A hoist block's fields: source or pattern, destination, length. -/
def hoistSrc (b : BitVec 512) : Nat := blk b 0 8
def hoistDst (b : BitVec 512) : Nat := blk b 8 8
def hoistLen (b : BitVec 512) : Nat := blk b 16 8

/-- Source and destination ranges share a byte. -/
def hoistOverlap (b : BitVec 512) : Bool :=
  decide (hoistSrc b < hoistDst b + hoistLen b ∧ hoistDst b < hoistSrc b + hoistLen b)

/-- Line number of the i-th line moved. Ranges of an HCOPY that overlap are copied in ascending order when the destination
lies below the source and in descending order otherwise (R146); any other order is not said, and `desc` gives it. -/
def hoistOrder (b : BitVec 512) (copy desc : Bool) (i : Nat) : Nat :=
  if (if copy && hoistOverlap b then decide (hoistSrc b ≤ hoistDst b) else desc) then hoistCount (hoistDst b) (hoistLen b) - 1 - i else i

/-- The bytes that line i of the destination receives: a pattern's, or the source's, read line by line as the command's read
i + 1. -/
def hoistBytes (s : State) (k : Nat) (q : QCmd) (b : BitVec 512) (copy : Bool) (i : Nat) : Got (List Byte) :=
  let (off, m) := hoistPiece (hoistDst b) (hoistLen b) i
  if copy then readPart s k q (hoistEng k) (i + 1) [(hoistSrc b + off, m)]
  else .ok s ((List.range m).map (fun j => BitVec.ofNat 8 (hoistSrc b / 256 ^ ((off + j) % 8))))

/-- Line i: its bytes are read, and then it is written in one access, a line of a memory tile in one a chunk. -/
def hoistLine (s : State) (k : Nat) (q : QCmd) (b : BitVec 512) (copy : Bool) (i : Nat) : Got Unit :=
  match hoistBytes s k q b copy i with
  | .wait s => .wait s
  | .fault s c va => .fault s c va
  | .ok s bytes => writePart s k q (hoistEng k) (i + 1) [(hoistDst b + (hoistPiece (hoistDst b) (hoistLen b) i).1, bytes.length)] bytes

/-- The bytes of an HCOPY's source line as they stand where they can be read now. -/
def hoistNow (s : State) (k : Nat) (q : QCmd) (b : BitVec 512) (copy : Bool) (i : Nat) : Option (List Byte) :=
  let (off, m) := hoistPiece (hoistDst b) (hoistLen b) i
  if copy then (match engRead s (hoistEng k) q.asid (hoistSrc b + off) m with | .ok _ l => some l | _ => none)
  else match hoistBytes s k q b copy i with | .ok _ l => some l | _ => none

/-- After a fault, each byte of a line that was in flight behind it may hold its new value (R358). -/
def hoistMaybe (s : State) (k : Nat) (q : QCmd) (b : BitVec 512) (copy : Bool) (i : Nat) : State :=
  match hoistNow s k q b copy i with
  | none => s
  | some bytes =>
    let off := (hoistPiece (hoistDst b) (hoistLen b) i).1
    match engReach s (hoistEng k) q.asid (hoistDst b + off) bytes.length .write with
    | .ok t key => perform t key (bytes.zipIdx.map (fun e => if Config.byteIsNew t.tick (off + e.2) then some e.1 else none))
    | _ => s

/-- The lines in flight behind a faulting one: at most 64 with it (06_memory.md Table 6.3). -/
def hoistRest (s : State) (k : Nat) (q : QCmd) (b : BitVec 512) (copy desc : Bool) (i : Nat) : State :=
  let n := hoistCount (hoistDst b) (hoistLen b)
  (List.range 64).foldl (fun s d => if i + d < n then hoistMaybe s k q b copy (hoistOrder b copy desc (i + d)) else s) s

/-- The limits of a hoist block (R357). -/
def hoistOk (b : BitVec 512) : Bool := decide (1 ≤ hoistLen b ∧ hoistLen b ≤ 2 ^ 40) && blkZero b 24 64

/-- A range that passes VA 2^56 - 1. -/
def passesTop (va n : Nat) : Bool := decide (2 ^ 56 < va + n)

/-- The turn of a hoist command: it reads its block, and then moves line by line. -/
def hoistTurn (s : State) (k : Nat) (c : QCmd) (copy : Bool) : Res :=
  if c.phase ≠ .started then
    if 2 ≤ ((queueCmds s k 2).filter (fun x => decide (x.phase = .started))).length then .next s
    else withBlock s k 2 c (hoistEng k) (fun s b =>
      if hoistOk b = false then faultCmd s k 2 c fcCMD 0
      else if copy ∧ passesTop (hoistSrc b) (hoistLen b) then faultCmd s k 2 c fcXLATE (hoistSrc b)
      else if passesTop (hoistDst b) (hoistLen b) then faultCmd s k 2 c fcXLATE (hoistDst b)
      else modCmds s k (fun x => decide (x.id = c.id)) (fun x => { x with phase := .started, block := b }))
  else if hoistCount (hoistDst c.block) (hoistLen c.block) ≤ c.progress then .next (endCmd s k c.id 0)
  else match hoistLine s k c c.block copy (hoistOrder c.block copy (Config.copyDescends c.id) c.progress) with
    | .wait s => .next s
    | .ok s _ => .next (modCmd s k c.id (fun q => { q with progress := c.progress + 1, parts := [], puts := [] }))
    | .fault s code va => .next (faultCmd (hoistRest s k c c.block copy (Config.copyDescends c.id) c.progress) k 2 c code va)

def execHcopy (c : Cmd) (s : State) : Res := onQueue s (.hcopy c) (fun s k q => hoistTurn s k q true)
def execHfill (c : Cmd) (s : State) : Res := onQueue s (.hfill c) (fun s k q => hoistTurn s k q false)

end Sys2Proof.Machine
end

