-- ==== Sys2Proof/Machine/Sluice.lean ====
section
/-!
DEFINITION. The sluice engines: SEAMPACK, SELPRED and SELTOPK (06_memory.md R144, R145, 09_attention.md R192 to R196,
R204 to R206, 18_ref_s.md R398, R401 to R403).
-/
namespace Sys2Proof.Machine

open Sys2Proof

/-- The stack that an LQ command names in operands [58:56]. -/
def stackField (c : Cmd) : Nat := field c.ops 58 56

/-! ### The engines of a stack (R145) -/

/-- The run of a command at its stack. -/
def sluiceRun (s : State) (j k id : Nat) : Option SluiceRun := (s.baseDie j).runs.find? (fun r => decide (r.core = k ∧ r.cmdId = id))
def setRun (s : State) (j : Nat) (r : SluiceRun) : State :=
  s.modBaseDie j (fun b => { b with runs := b.runs.map (fun x => if x.core = r.core ∧ x.cmdId = r.cmdId then r else x) })
/-- The engine becomes idle: it joins the end of the idle engines. -/
def endRun (s : State) (j : Nat) (r : SluiceRun) : State :=
  s.modBaseDie j (fun b => { b with runs := b.runs.filter (fun x => !(decide (x.core = r.core ∧ x.cmdId = r.cmdId))), idle := b.idle ++ [r.engine] })

/-- A command goes over the mesh from LQ to the queue of the stack that it names, while fewer than 16 stand there, and from
the queue's head to the engine that has been idle longest; a flit that fails on the way charges LINK to it (10_faults_modes.md
R236). -/
def seekEngine (s : State) (j k : Nat) (q : QCmd) : State :=
  let b := s.baseDie j
  if q.phase ≠ .started then
    if b.sluice.length < 16 then
      match crossFrom s (coreDie k) (j / 2) 0 with
      | (s, true) => faultCmd s k 3 q fcLINK 0
      | (s, false) => setPhase (s.modBaseDie j (fun b => { b with sluice := b.sluice ++ [(k, q.id)] })) k q.id .started
    else s
  else match b.idle with
    | eng :: rest =>
      if b.sluice.head? = some (k, q.id) then
        s.modBaseDie j (fun b => { b with sluice := b.sluice.drop 1, idle := rest, runs := b.runs ++ [{ engine := eng, core := k, cmdId := q.id, block := 0 }] })
      else s
    | [] => s

/-- The run ends with a fault of its command. -/
def quitRun (s : State) (j k : Nat) (q : QCmd) (r : SluiceRun) (c : Code) (va : Nat) : State :=
  faultCmd (endRun s j r) k 3 q c va

/-! ### SEAMPACK (R195, R196) -/

/-- Rounds num / den half to even. -/
def ratHalfEven (neg : Bool) (num den : Nat) : Int :=
  let q := num / den
  let r := num % den
  let q := if den < 2 * r ∨ (2 * r = den ∧ q % 2 = 1) then q + 1 else q
  if neg then -(q : Int) else q

/-- scale(a, fmt) of R196, for a = m * 2^e ≥ 0. -/
def packScale (m : Nat) (e : Int) (fmt : Nat) : Nat :=
  if m = 0 then 0 else
  let (n, d) := Float.frac m e
  Nat.max 1 (Float.round Float.e4m3 .rup false n (d * (if fmt = 0 then 7 else 6))).1

/-- code(x, s, fmt) of R196. -/
def packCode (x : Float.Val) (sc fmt : Nat) : Nat :=
  if sc = 0 then 0 else
  match x, Float.decode Float.e4m3 sc with
  | .fin n m e, .fin _ sm se =>
    let (a, b) := Float.frac m (e - se)
    if fmt = 0 then (clampI (-7) 7 (ratHalfEven n a (b * sm)) % 16).toNat
    else if m = 0 then (if n then 8 else 0)
    else (Float.round Float.e2m1 .rne n a (b * sm)).1
  | _, _ => 0

/-- The greater magnitude of exact values, as m * 2^e. -/
def maxMag (l : List Float.Val) : Nat × Int :=
  match l.foldl (fun (a : Float.Val) v => if Float.cmpV a v.abs < 0 then v.abs else a) (.fin false 0 0) with
  | .fin _ m e => (m, e)
  | _ => (0, 0)

/-- The least or the greatest of values, as BF16, a zero as +0. -/
def extreme (l : List Float.Val) (least : Bool) : Nat :=
  match l with
  | [] => 0
  | v :: rest =>
    let x := rest.foldl (fun a v => if (decide (Float.cmpV v a < 0)) == least && decide (Float.cmpV v a ≠ 0) then v else a) v
    if x.isZero then 0 else (Float.ofVal Float.bf16 .rne x).1

def packValue (fmt code sc : Nat) : Float.Val := (Float.mulV (seamCode fmt code) (Float.decode Float.e4m3 sc)).1

/-- The fields of a SEAMPACK block (Table 13.8). -/
structure PackArgs where
  ksrc : Nat
  vsrc : Nat
  stride : Nat
  ntok : Nat
  head : Nat
  pos : Nat
  dst : Nat
  side : Nat
  kfmt : Nat
  vfmt : Nat

def packArgs (b : BitVec 512) : PackArgs :=
  ⟨blk b 0 8, blk b 8 8, blk b 16 4, blk b 20 2, blk b 22 2, blk b 24 8, blk b 32 8, blk b 40 8, blk b 48 1, blk b 49 1⟩

def packOk (b : BitVec 512) : Bool :=
  let p := packArgs b
  decide (p.ksrc % 2 = 0 ∧ p.vsrc % 2 = 0 ∧ 256 ≤ p.stride ∧ p.stride ≤ 2 ^ 20 ∧ p.stride % 2 = 0 ∧ 1 ≤ p.ntok ∧ p.ntok ≤ 64 ∧
    p.dst % 8192 = 0 ∧ p.side % 1024 = 0 ∧ p.kfmt < 2 ∧ p.vfmt < 2) && blkZero b 50 64

/-- BF16 value c of a row of 256 bytes. -/
def rowVal (rows : List (List Byte)) (t c : Nat) : Float.Val :=
  Float.decode Float.bf16 (ofBytes (((rows.getD t []).drop (2 * c)).take 2))

/-- The 64 code bytes of each token. -/
def packCodes (code : Nat → Nat → Nat) : List Byte :=
  (List.range 64).flatMap (fun t => (List.range 64).map (fun i => BitVec.ofNat 8 (code t (2 * i) + 16 * code t (2 * i + 1))))

/-- The block and its side record (R192, R193, R196). -/
def packBytes (p : PackArgs) (k v : List (List Byte)) : List Byte × List Byte :=
  let toks := List.range p.ntok
  let ks := (List.range 128).map (fun c => let m := maxMag (toks.map (fun t => rowVal k t c)); packScale m.1 m.2 p.kfmt)
  let vs := (List.range 64).map (fun t => if t < p.ntok then
    (let m := maxMag ((List.range 128).map (fun c => rowVal v t c)); packScale m.1 m.2 p.vfmt) else 0)
  let kc (t c : Nat) : Nat := if t < p.ntok then packCode (rowVal k t c) (ks.getD c 0) p.kfmt else 0
  let vc (t c : Nat) : Nat := if t < p.ntok then packCode (rowVal v t c) (vs.getD t 0) p.vfmt else 0
  let vals (c : Nat) : List Float.Val := toks.map (fun t => packValue p.kfmt (kc t c) (ks.getD c 0))
  let header := toBytes 1 1 ++ toBytes 1 (p.kfmt + 4 * p.vfmt) ++ toBytes 2 p.ntok ++ toBytes 2 p.head ++ toBytes 2 0 ++
    toBytes 8 p.pos ++ toBytes 8 p.dst ++ List.replicate 40 0
  (packCodes kc ++ packCodes vc,
   header ++ ks.map (BitVec.ofNat 8) ++ vs.map (BitVec.ofNat 8) ++
     (List.range 128).flatMap (fun c => toBytes 2 (extreme (vals c) true)) ++
     (List.range 128).flatMap (fun c => toBytes 2 (extreme (vals c) false)) ++ List.replicate 256 0)

/-- A value of the rows is NaN or infinite. -/
def packBad (rows : List (List Byte)) (n : Nat) : Bool :=
  (List.range n).any (fun t => (List.range 128).any (fun c => match rowVal rows t c with | .fin _ _ _ => false | _ => true))

/-- The source rows of a SEAMPACK, K and then V. -/
def packRows (p : PackArgs) : List (Nat × Nat) :=
  (List.range p.ntok).map (fun t => (p.ksrc + t * p.stride, 256)) ++ (List.range p.ntok).map (fun t => (p.vsrc + t * p.stride, 256))

/-- Bytes in pieces of n. -/
def chunks (n : Nat) (m : Nat) (l : List Byte) : List (List Byte) := (List.range m).map (fun i => (l.drop (n * i)).take n)

/-- What a SEAMPACK writes. -/
def packTo (p : PackArgs) : List (Nat × Nat) := [(p.dst, 8192), (p.side, 1024)]

/-- A step of a SEAMPACK: a line of its block or of a source row is read; once all of them are, they are checked, and DST and
SIDE for writing; then a line is written, in no defined order, and the command ends behind the last (R196, R398). -/
def packStep (s : State) (j k : Nat) (q : QCmd) (r : SluiceRun) : State :=
  let e := sluiceEng k j
  match blockPart s k q e with
  | .wait s => s
  | .fault s c va => quitRun s j k q r c va
  | .ok s b =>
    if packOk b = false then quitRun s j k q r fcCMD 0 else
    let p := packArgs b
    match readPart s k q e 1 (packRows p) with
    | .wait s => s
    | .fault s c va => quitRun s j k q r c va
    | .ok s l =>
      let kr := chunks 256 p.ntok l
      let vr := chunks 256 p.ntok (l.drop (256 * p.ntok))
      if packBad kr p.ntok || packBad vr p.ntok then quitRun s j k q r fcSEAM 0 else
      let out := packBytes p kr vr
      if q.progress = 0 then
        match engChecks e q.asid .write ((packTo p).flatMap (fun x => linesOf x.1 x.2)) s with
        | .wait s => s
        | .fault s c va => quitRun s j k q r c va
        | .ok s _ => setProgress s k q.id 1
      else match writePart s k q e 0 (packTo p) (out.1 ++ out.2) with
        | .wait s => s
        | .fault s c va => quitRun s j k q r c va
        | .ok s _ => endCmd (endRun s j r) k q.id 0

/-- The turn of a SEAMPACK: a sluice engine of its stack takes it and runs it (R195). -/
def execSeampack (c : Cmd) (s : State) : Res :=
  onQueue s (.seampack c) (fun s k q =>
    match sluiceRun s (stackField c) k q.id with
    | none => .next (seekEngine s (stackField c) k q)
    | some r => .next (packStep s (stackField c) k q r))

/-! ### SELPRED and SELTOPK (R401 to R403) -/

/-- The fields of a SELPRED or SELTOPK block. -/
def selRegion (b : BitVec 512) : Nat := blk b 0 8
def selCount (b : BitVec 512) : Nat := blk b 8 4
def selSize (b : BitVec 512) : Nat := 2 ^ (blk b 12 1 % 4)
def selPred (b : BitVec 512) : Nat := blk b 13 1
def selType (b : BitVec 512) : Nat := blk b 14 1
def selMode (b : BitVec 512) : Nat := blk b 15 1
def selValue (b : BitVec 512) : Nat := blk b 16 8
def selResult (b : BitVec 512) : Nat := blk b 24 8
def selK (b : BitVec 512) : Nat := blk b 32 2
def selQva (b : BitVec 512) : Nat := blk b 40 8

/-- Table 18.2, and the reserved bits of a predicate value (R402). -/
def selOk (b : BitVec 512) (topk : Bool) : Bool :=
  decide (1 ≤ selCount b ∧ blk b 12 1 < 4 ∧ selType b < 3 ∧ selMode b < 2 ∧ selResult b % 64 = 0) && blkZero b 34 40 && blkZero b 48 64 &&
    (if selMode b = 1 then
      topk && decide (blk b 12 1 = 0 ∧ selType b = 0 ∧ selRegion b % 1024 = 0 ∧ selQva b % 2 = 0)
     else decide (selRegion b % selSize b = 0 ∧ selQva b = 0) &&
       (decide (selType b = 0) || (decide (selType b = 1) && decide (blk b 12 1 = 2)) || (decide (selType b = 2) && decide (blk b 12 1 = 1)))) &&
    (if topk then decide (selPred b = 0 ∧ selValue b = 0 ∧ 1 ≤ selK b ∧ selK b ≤ 1024)
     else decide (selPred b ≤ 6 ∧ selK b = 0) && (decide (selPred b ≠ 6) || decide (selType b = 0)) &&
       (match selType b with | 1 => decide (selValue b < 2 ^ 32) | 2 => decide (selValue b < 2 ^ 16) | _ => true))

/-- The value of an element's bits as its type reads them. -/
def selVal (ty size raw : Nat) : Float.Val :=
  match ty with
  | 0 => Float.ofInt (sextN raw (8 * size))
  | 1 => Float.decode Float.fp32 raw
  | _ => Float.decode Float.bf16 raw

/-- Whether an element satisfies a predicate (R402). -/
def selHolds (b : BitVec 512) (raw : Nat) : Bool :=
  let x := selVal (selType b) (selSize b) raw
  let v := selVal (selType b) 8 (selValue b)
  let nan := x.isNan || v.isNan
  let c := Float.cmpV x v
  match selPred b with
  | 0 => !nan && decide (c = 0)
  | 1 => nan || decide (c ≠ 0)
  | 2 => !nan && decide (c < 0)
  | 3 => !nan && decide (0 ≤ c)
  | 4 => !nan && decide (0 < c)
  | 5 => !nan && decide (c ≤ 0)
  | _ => decide (Nat.land (wrap 64 (sextN raw (8 * selSize b))).toNat (selValue b) ≠ 0)

/-- Score x ranks above y: every number above NaN (R145). -/
def ranksAbove (x y : Float.Val) : Bool := if x.isNan then false else if y.isNan then true else decide (0 < Float.cmpV x y)

/-- A record enters the k best, behind those of equal score. -/
def insertBest (score : Nat × Nat × Nat → Float.Val) (k : Nat) (r : Nat × Nat × Nat) (l : List (Nat × Nat × Nat)) : List (Nat × Nat × Nat) :=
  ((l.takeWhile (fun x => !ranksAbove (score r) (score x))) ++ [r] ++
    (l.dropWhile (fun x => !ranksAbove (score r) (score x)))).take k

/-- The score of a kept record: its raw bits by type, or the digest score. -/
def selScore (b : BitVec 512) (r : Nat × Nat × Nat) : Float.Val :=
  if selMode b = 1 then Float.decode Float.fp32 r.2.2 else selVal (selType b) (selSize b) r.2.1

/-- digest_score of R204 as FP32 bits. -/
def digestScore (q side : List Byte) : Nat :=
  let num (l : List Byte) (o : Nat) : Float.Val := Float.decode Float.bf16 (ofBytes ((l.drop o).take 2))
  let p := (List.range 128).map (fun c =>
    let a := (Float.mulV (num q (2 * c)) (num side (256 + 2 * c))).1
    let b := (Float.mulV (num q (2 * c)) (num side (512 + 2 * c))).1
    if a.isNan ∨ b.isNan then Float.Val.nan false else if Float.cmpV a b < 0 then b else a)
  (Float.groupAdd 0 (p.map (fun v => (v, Float.Val.fin false 1 0))) (some 0) (some 0)).1

/-- An element record, or a digest record (R402, R206). -/
def selRecord (b : BitVec 512) (r : Nat × Nat × Nat) : List Byte :=
  if selMode b = 1 then toBytes 8 r.2.1 ++ toBytes 4 r.2.2 ++ toBytes 4 r.1
  else toBytes 8 r.2.1 ++ toBytes 4 r.1 ++ toBytes 4 0

def selHeader (n : Nat) : List Byte := toBytes 4 n ++ List.replicate 60 0

/-- A side record breaks the checks of R200, as a scan makes them: the header's form, NTOK, and the scales of tokens 0 to
NTOK - 1 (R205; log 120). -/
def sideBad (side : List Byte) : Bool :=
  let ntok := ofBytes ((side.drop 2).take 2)
  !sideOk side { bva := (ofBytes ((side.drop 16).take 8) : Nat), first := 0, count := ntok, side := 0, part := 2, wide := false, run := 0 }

/-- A step of the scan: the next line, or a line of the next side record, is read, or the next element of the line in hand or
the side record is looked at. A record with a malformed header ends the command even where NTOK is 0 (R205; log 120). -/
def selScan (s : State) (j k : Nat) (q : QCmd) (r : SluiceRun) (topk : Bool) : State :=
  let b := r.block
  let e := sluiceEng k j
  if selMode b = 1 then
    match readPart s k q e 2 [(selRegion b + 1024 * r.pos, 1024)] with
    | .wait s => s
    | .fault s c va => quitRun s j k q r c va
    | .ok s side =>
      let s := modCmd s k q.id (fun c => { c with parts := c.parts.filter (fun x => decide (x.1 ≠ 2)) })
      if sideFormOk side = false then quitRun s j k q r fcSEAM 0
      else if ofBytes ((side.drop 2).take 2) = 0 then setRun s j { r with pos := r.pos + 1 }
      else if sideBad side then quitRun s j k q r fcSEAM 0
      else
        let rec_ := (r.pos, ofBytes ((side.drop 16).take 8), digestScore r.query side)
        setRun s j { r with pos := r.pos + 1, best := insertBest (selScore b) (selK b) rec_ r.best }
  else
    let size := selSize b
    if r.buf.isEmpty then
      let va := selRegion b + size * r.pos
      let n := Nat.min (128 - va % 128) (size * (selCount b - r.pos))
      match engReach s e q.asid va n .read with
      | .wait s => s
      | .fault s c va => quitRun s j k q r c va
      | .ok s key => setRun s j { r with buf := readMem s key n }
    else
      let raw := ofBytes (r.buf.take size)
      let r' := { r with pos := r.pos + 1, buf := r.buf.drop size }
      if topk then setRun s j { r' with best := insertBest (selScore b) (selK b) (r.pos, raw, 0) r.best }
      else if selHolds b raw then
        match engReach s e q.asid (selResult b + 64 + 16 * r.count) 16 .write with
        | .wait s => s
        | .fault s c va => quitRun s j k q r c va
        | .ok s key => setRun (perform s key ((selRecord b (r.pos, raw, 0)).map some)) j { r' with count := r.count + 1 }
      else setRun s j r'

/-- Writes of an engine are let in at their homes, one after the other and all of them before any is performed: the number of
each piece, its VA, physical address and key. -/
def sendAll (e : Eng) (asid : BitVec 16) : List ((Nat × Nat) × Nat) → State → List (Nat × Nat × Nat × Nat) → Got (List (Nat × Nat × Nat × Nat))
  | [], s, acc => .ok s acc
  | ((va, n), m) :: rest, s, acc =>
    match engReach s e asid va n .write with
    | .wait s => .wait s
    | .fault s c va => .fault s c va
    | .ok s key =>
      let pa := match (engLocate s e asid va .write).2 with | .ok (pa, _) => pa | .error _ => key
      sendAll e asid rest s (acc ++ [(m, va, pa, key)])

/-- What SELTOPK writes: the header, which is piece 0, and the records behind it. -/
def topkTo (b : BitVec 512) (n : Nat) : List ((Nat × Nat) × Nat) :=
  ((linesOf (selResult b) 64) ++ linesOf (selResult b + 64) n).zipIdx

/-- The end of SELTOPK's scan: every line that the records and the header fall into is let in, so that a fault leaves all of
them unwritten; then one of them is written a turn, in no defined order, and the header last (R403). -/
def topkEnd (s : State) (j k : Nat) (q : QCmd) (r : SluiceRun) : State :=
  let b := r.block
  let recs := r.best.flatMap (selRecord b)
  if q.progress = 1 then
    match sendAll (sluiceEng k j) q.asid (topkTo b recs.length) s [] with
    | .wait s => s
    | .fault s c va => quitRun s j k q r c va
    | .ok s l => modCmd s k q.id (fun c => { c with progress := 2, sent := l })
  else
    let left := if q.sent.any (fun w => decide (w.1 ≠ 0)) then q.sent.filter (fun w => decide (w.1 ≠ 0)) else q.sent
    match left[Config.pieceOrder s.tick % left.length]? with
    | none => endCmd (endRun s j r) k q.id 0
    | some w =>
      if paHeld s w.2.2.1 then s else
      let all := selHeader r.best.length ++ recs
      let n := match (topkTo b recs.length)[w.1]? with | some p => p.1.2 | none => 0
      let bytes := (all.drop (w.2.1 - selResult b)).take n
      modCmd (perform s w.2.2.2 (bytes.map some)) k q.id (fun c => { c with sent := c.sent.filter (fun x => decide (x.1 ≠ w.1)) })

/-- The end of SELPRED's scan: the header is written (R403). -/
def predEnd (s : State) (j k : Nat) (q : QCmd) (r : SluiceRun) : State :=
  match writePart s k q (sluiceEng k j) 1 [(selResult r.block, 64)] (selHeader r.count) with
  | .wait s => s
  | .fault s c va => quitRun s j k q r c va
  | .ok s _ => endCmd (endRun s j r) k q.id 0

def selEnd (s : State) (j k : Nat) (q : QCmd) (r : SluiceRun) (topk : Bool) : State :=
  if topk then topkEnd s j k q r else predEnd s j k q r

/-- The block and, for a digest scan, the query: the run begins once they are read (R286, R401). -/
def selBegin (s : State) (j k : Nat) (q : QCmd) (r : SluiceRun) (topk : Bool) : State :=
  let e := sluiceEng k j
  match blockPart s k q e with
  | .wait s => s
  | .fault s c va => quitRun s j k q r c va
  | .ok s b =>
    if selOk b topk = false then quitRun s j k q r fcCMD 0
    else match readPart s k q e 1 (if selMode b = 1 then [(selQva b, 256)] else []) with
      | .wait s => s
      | .fault s c va => quitRun s j k q r c va
      | .ok s l => setProgress (setRun s j { r with block := b, query := l }) k q.id 1

/-- The turn of a SELPRED or SELTOPK: an engine of the stack takes it, reads the block and the query, scans, and ends. -/
def selTurn (s : State) (k : Nat) (q : QCmd) (j : Nat) (topk : Bool) : Res :=
  match sluiceRun s j k q.id with
  | none => .next (seekEngine s j k q)
  | some r => .next (
      if q.progress = 0 then selBegin s j k q r topk
      else if r.pos < selCount r.block then selScan s j k q r topk
      else selEnd s j k q r topk)

def execSelpred (c : Cmd) (s : State) : Res := onQueue s (.selpred c) (fun s k q => selTurn s k q (stackField c) false)
def execSeltopk (c : Cmd) (s : State) : Res := onQueue s (.seltopk c) (fun s k q => selTurn s k q (stackField c) true)

end Sys2Proof.Machine
end

