-- ==== Sys2Proof/Machine/Collective.lean ====
section
/-!
DEFINITION. The collectives (14_system.md R308, 15_ref_a_c.md R337, R338).
-/
namespace Sys2Proof.Machine

open Sys2Proof

/-- The collective engine at work for a member (14_system.md Table 14.2); its commands cannot name the scratch window
(06_memory.md R134). -/
def collEng (k : Nat) : Eng := ⟨k, 784, cacheCore k, 6, none, true⟩

/-- Fields of a collective block (Table 13.8). -/
def collSrc (b : BitVec 512) : Nat := blk b 0 8
def collDst (b : BitVec 512) : Nat := blk b 8 8
def collLen (b : BitVec 512) : Nat := blk b 16 8
def collGroup (b : BitVec 512) : Nat := blk b 24 8
def collType (b : BitVec 512) : Nat := blk b 32 1
def collOp (b : BitVec 512) : Nat := blk b 33 1

/-- Element size of a type: FP32, BF16, INT32, INT64. -/
def collSize (ty : Nat) : Nat := match ty with | 0 => 4 | 1 => 2 | 2 => 4 | _ => 8

/-- Two byte ranges share a byte; an empty one shares none. -/
def overlap (a n b m : Nat) : Bool := decide (0 < n ∧ 0 < m ∧ a < b + m ∧ b < a + n)

/-- The limits of R337 that the block alone shows. -/
def collBlockOk (op : Nat) (b : BitVec 512) : Bool :=
  decide (1 ≤ collLen b ∧ collLen b ≤ 2 ^ 36 ∧ collGroup b % 64 = 0) && blkZero b 34 64 &&
    (if op = 0x30 then decide (collType b < 4 ∧ collOp b < 3) &&
        decide (collLen b % collSize (collType b) = 0 ∧ collSrc b % collSize (collType b) = 0 ∧ collDst b % collSize (collType b) = 0)
     else decide (collType b = 0 ∧ collOp b = 0))

/-- The ranges of a member: bytes it reads and bytes it writes (R337). -/
def collReads (op rank n len : Nat) : Nat := if op = 0x32 then (if rank = 0 then n * len else 0) else len
def collWrites (op n len : Nat) : Nat := if op = 0x31 then n * len else len

/-- A group descriptor as read: NMEM, RANK, GID, reserved bytes clear, members (Table 14.6). -/
structure Group where
  nmem : Nat
  rank : Nat
  gid : Nat
  members : List Nat

def groupOk (head : List Byte) : Bool :=
  let n := ofBytes (head.take 2)
  decide (2 ≤ n ∧ n ≤ 64 ∧ ofBytes ((head.drop 2).take 2) < n) && (head.drop 8).all (· == 0)

/-- Entry RANK names the issuer, no two entries name one core, and reserved bits are 0 (R338). -/
def groupNames (s : State) (k : Nat) (g : Group) : Bool :=
  decide (g.members.getD g.rank 0 = coreMaster k + 2 ^ 9 * ownModule s) && decide g.members.Nodup && g.members.all (fun m => decide (m < 2 ^ 21))

/-- The first instance of the GID that core k has not joined, or a new one (R308); a member whose descriptor breaks its
limits, which gives neither the members nor their number, and one that is refused, end it with their code (R338). -/
def joinColl (s : State) (gid nmem : Nat) (group : List Nat) (m : Member) (code : Option Code) : State :=
  match s.colls.findIdx? (fun c => decide (c.gid = gid) && !c.members.any (fun x => decide (x.core = m.core))) with
  | some i =>
    { s with colls := s.colls.modify i (fun c =>
        let bad := if nmem = 0 ∨ c.nmem = 0 ∨ c.nmem = nmem then code else some fcCMD
        { c with members := c.members ++ [m], code := match c.code with | some x => some x | none => bad
                 nmem := if c.nmem = 0 then nmem else c.nmem, group := if c.nmem = 0 then group else c.group }) }
  | none => { s with colls := s.colls ++ [{ gid, nmem, group, members := [m], code }] }

/-- A member that faults before its instance has all its members ends it for the others (R338). -/
def collRefuse (s : State) (k : Nat) (q : QCmd) (gid nmem : Nat) (group : List Nat) (m : Member) (code : Code) (va : Nat) : State :=
  joinColl (faultCmd s k 4 q code va) gid nmem group m (some code)

/-- The turn of a collective command: it reads its block and its group descriptor and joins its instance. Until the GID has
been read there is no instance that its fault could end (log 17). -/
def collTurn (s : State) (k : Nat) (q : QCmd) (op : Nat) : Res :=
  if q.phase = .started then .next s else
  let e := collEng k
  match blockPart s k q e with
  | .wait s => .next s
  | .fault s c va => .next (faultCmd s k 4 q c va)
  | .ok s b =>
    if collBlockOk op b = false then .next (faultCmd s k 4 q fcCMD 0) else
    match readPart s k q e 1 [(collGroup b, 16)] with
    | .wait s => .next s
    | .fault s c va => .next (faultCmd s k 4 q c va)
    | .ok s head =>
      let n := ofBytes (head.take 2)
      let rank := ofBytes ((head.drop 2).take 2)
      let gid := ofBytes ((head.drop 4).take 4)
      let m : Member := { rank, core := k, cmdId := q.id, asid := q.asid, opcode := op, block := b }
      if groupOk head = false then .next (collRefuse s k q gid 0 [] m fcCMD 0) else
      match readPart s k q e 2 [(collGroup b + 16, 4 * n)] with
      | .wait s => .next s
      | .fault s c va => .next (collRefuse s k q gid 0 [] m c va)
      | .ok s ms =>
        let g : Group := { nmem := n, rank, gid, members := (List.range n).map (fun i => ofBytes ((ms.drop (4 * i)).take 4)) }
        if overlap (collSrc b) (collReads op rank n (collLen b)) (collDst b) (collWrites op n (collLen b)) then
          .next (collRefuse s k q gid n g.members m fcCMD 0)
        else .next (joinColl (setPhase s k q.id .started) gid n g.members m (if groupNames s k g then none else some fcCMD))

def execCollred (c : Cmd) (s : State) : Res := onQueue s (.collred c) (fun s k q => collTurn s k q 0x30)
def execCollgath (c : Cmd) (s : State) : Res := onQueue s (.collgath c) (fun s k q => collTurn s k q 0x31)
def execCollscat (c : Cmd) (s : State) : Res := onQueue s (.collscat c) (fun s k q => collTurn s k q 0x32)

/-! ### Running an instance -/

/-- One step of the fold on element bits; BF16 operands are widened already (R308). -/
def foldOp (ty op a b : Nat) : Nat :=
  if ty < 2 then
    (match op with
     | 0 => (Float.add Float.fp32 .rne a b).1
     | 1 => (Float.minmax Float.fp32 true a b).1
     | _ => (Float.minmax Float.fp32 false a b).1)
  else
    let w := 8 * collSize ty
    let x := sextN a w
    let y := sextN b w
    let r := match op with | 0 => x + y | 1 => if x < y then y else x | _ => if x < y then x else y
    (r % (2 : Int) ^ w).toNat

/-- The element that every destination of a COLLRED receives. -/
def foldElem (ty op : Nat) (l : List Nat) : Nat :=
  let l := if ty = 1 then l.map (· * 2 ^ 16) else l
  match l with
  | [] => 0
  | a :: rest =>
    let r := rest.foldl (foldOp ty op) a
    if ty = 1 then (Float.ofVal Float.bf16 .rne (Float.decode Float.fp32 r)).1 else r

/-- What rank r's destination receives, from the sources of all ranks, as far as their bytes are known. -/
def collResult (op ty rop len r : Nat) (srcs : List (List (Option Byte))) : List (Option Byte) :=
  if op = 0x31 then srcs.flatten
  else if op = 0x32 then ((srcs.getD 0 []).drop (r * len)).take len
  else
    let z := collSize ty
    (List.range (len / z)).flatMap (fun i =>
      let es := srcs.map (fun l => (l.drop (z * i)).take z)
      if es.all (fun l => l.all (·.isSome)) then (toBytes z (foldElem ty rop (es.map (fun l => ofBytes (l.map (·.getD 0)))))).map some
      else List.replicate z none)

/-- The source bytes of a member, its read 3. -/
def collFrom (n : Nat) (m : Member) : List (Nat × Nat) := [(collSrc m.block, collReads m.opcode m.rank n (collLen m.block))]
def collTo (n : Nat) (m : Member) : List (Nat × Nat) := [(collDst m.block, collWrites m.opcode n (collLen m.block))]

/-- The members named by the descriptor that stand in other modules, as ranks. -/
def Coll.far (s : State) (c : Coll) : List Nat :=
  (c.group.zipIdx.filter (fun e => decide (e.1 / 2 ^ 9 ≠ ownModule s))).map (·.2)

/-- The members of this module. -/
def Coll.near (s : State) (c : Coll) : Nat := c.nmem - (c.far s).length

/-- The code of a fault at a member in another module (R338; log 17). -/
def farFault (s : State) (c : Coll) : Option Code :=
  if (c.far s).isEmpty then none
  else [fcCMD, fcXLATE, fcPROT, fcDEEP, fcACCESS, fcLINK, fcECC, fcTASK][Config.memberFault s.tick]?

/-- A member's command, while its instance holds it. -/
def memberCmd (s : State) (m : Member) : Option QCmd := (cmdOf s m.core m.cmdId).filter (fun q => decide (q.phase = .started))

/-- One more line of some member's source is read, or every member's source is there; the member whose read faults. -/
def collSources (n : Nat) : List Member → State → Got Unit × Option Member
  | [], s => (.ok s (), none)
  | m :: rest, s =>
    match memberCmd s m with
    | none => collSources n rest s
    | some q =>
      match readPart s m.core q (collEng m.core) 3 (collFrom n m) with
      | .ok s _ => collSources n rest s
      | .wait s => (.wait s, some m)
      | .fault s c va => (.fault s c va, some m)

/-- The bytes of rank r's source as far as they have been read; those of a member in another module are free (log 17). -/
def collKnown (s : State) (c : Coll) (r : Nat) : List (Option Byte) :=
  match c.members.find? (fun m => decide (m.rank = r)) with
  | some m => (match cmdOf s m.core m.cmdId with
    | some q => (numbered (collFrom c.nmem m)).flatMap (fun p => match q.piece 3 p.2 with
      | some l => l.map some
      | none => List.replicate p.1.2 none)
    | none => [])
  | none => match c.members with
    | m :: _ => (List.range (collReads m.opcode r c.nmem (collLen m.block))).map (fun i => some (Config.memberSource c.gid r i))
    | [] => []

/-- What a member's destination receives of sources known in part. -/
def memberResult (m : Member) (srcs : List (List (Option Byte))) : List (Option Byte) :=
  collResult m.opcode (collType m.block) (collOp m.block) (collLen m.block) m.rank srcs

/-- One more line of some member's destination is written; a member whose destination is written whole retires (R308). -/
def collWrite (n : Nat) (srcs : List (List (Option Byte))) : List Member → State → Got Unit × Option Member
  | [], s => (.ok s (), none)
  | m :: rest, s =>
    match memberCmd s m with
    | none => collWrite n srcs rest s
    | some q =>
      match writePart s m.core q (collEng m.core) 0 (collTo n m) ((memberResult m srcs).map (·.getD 0)) with
      | .ok s _ => collWrite n srcs rest (endCmd s m.core m.cmdId 0)
      | .wait s => (.wait s, some m)
      | .fault s c va => (.fault s c va, some m)

/-- Members from a free one on (07_consistency.md R149). -/
def anyFirst (s : State) (ms : List Member) : List Member := ms.rotate (Config.pieceOrder (s.tick + 1))

/-- The instance ends with a code: the member that faulted gets the fault, and the command of every other member that has not
retired the code (R338). -/
def collFail (s : State) (c : Coll) (who : Option Member) (code : Code) (va : Nat) : State :=
  c.members.foldl (fun s m =>
    match memberCmd s m with
    | none => s
    | some q => if who = some m then faultCmd s m.core 4 q code va else endCmd s m.core m.cmdId code) s

/-- After a fault each byte of a destination holds its old value or its result, as far as the sources that give it have been
read (R338; log 45). -/
def collScatterFree (s : State) (c : Coll) : State :=
  let srcs := match c.srcs with
    | some l => l.map (fun b => b.map some)
    | none => (List.range c.nmem).map (collKnown s c)
  c.members.foldl (fun s m =>
    let out := memberResult m srcs
    (numbered (collTo c.nmem m)).foldl (fun s p =>
      let off := (((numbered (collTo c.nmem m)).take p.2).map (fun x => x.1.2)).sum
      match engReach s (collEng m.core) m.asid p.1.1 p.1.2 .write with
      | .ok t key => perform t key (((out.drop off).take p.1.2).zipIdx.map (fun e => if Config.byteIsNew s.tick (key + e.2) then e.1 else none))
      | _ => s) s) s

/-- The member whose op, type or length differs from rank 0's. -/
def collOdd (ms : List Member) : Option Member :=
  match ms with
  | [] => none
  | a :: rest => rest.find? (fun m => !(decide (m.opcode = a.opcode ∧ collType m.block = collType a.block ∧
      collOp m.block = collOp a.block ∧ collLen m.block = collLen a.block)))

/-- An instance that has all its members runs: sources are read, then destinations written; one that has failed ends its
members as they arrive (R308, R338). -/
def runColl (s : State) (i : Nat) (c : Coll) : State :=
  let drop (s : State) : State := { s with colls := s.colls.eraseIdx i }
  match c.code with
  | some code =>
    let s := collFail s c none code 0
    if c.nmem ≠ 0 ∧ c.near s ≤ c.members.length then drop s else s
  | none =>
    match farFault s c with
    | some code => { s with colls := s.colls.set i { c with code := some code } }
    | none =>
    if c.nmem = 0 ∨ c.members.length < c.near s ∨ (!(c.far s).isEmpty && c.srcs.isNone && !Config.membersThere s.tick) then s
    else
      let ms := (List.range c.nmem).filterMap (fun r => c.members.find? (fun m => decide (m.rank = r)))
      if ms.length < c.near s then drop (collFail s c none fcCMD 0)
      else match collOdd ms with
        | some m => drop (collFail s c (some m) fcCMD 0)
        | none =>
          match c.srcs with
          | some srcs =>
            (match collWrite c.nmem (srcs.map (fun b => b.map some)) (anyFirst s ms) s with
             | (.wait s, _) => s
             | (.fault s code va, who) => drop (collFail (collScatterFree s c) c who code va)
             | (.ok s _, _) => drop s)
          | none =>
            -- which member is served in a turn is free; what each receives goes by rank
            (match collSources c.nmem (anyFirst s ms) s with
             | (.wait s, _) => s
             | (.fault s code va, who) => drop (collFail (collScatterFree s c) c who code va)
             | (.ok s _, _) =>
               { s with colls := s.colls.set i { c with srcs := some ((List.range c.nmem).map (fun r => (collKnown s c r).map (·.getD 0))) } })

def execCollectiveInstance (i : Nat) (s : State) : Res :=
  match s.self with
  | .module => (match s.colls[i]? with | some c => .next (runColl s i c) | none => .next s)
  | _ => .refused .wrongAgent

end Sys2Proof.Machine
end

