-- ==== Sys2Proof/Machine/Csr.lean ====
section
/-!
DEFINITION. The CSR instructions (15_ref_a_c.md R343, R344, 13_encodings.md R284, 01_device.md R17,
10_faults_modes.md R221, R238, 04_formats.md R104, 12_power.md R276).
-/
namespace Sys2Proof.Machine

open Sys2Proof

/-- Core cycles that have passed in the steps from `a` up to `b` (R344). -/
def cyclesFrom (k a : Nat) : Nat → Nat
  | 0 => 0
  | n + 1 => cyclesFrom k a n + Config.stepCycles k (a + n)

/-- MODE: the mode of each region's active context, and whether it holds a frozen one (10_faults_modes.md Table 10.10). -/
def modeCsr (s : State) (k : Nat) : Word :=
  BitVec.ofNat 64 (((List.range 4).map (fun j =>
    match s.region k j with
    | none => 0
    | some r =>
      let m := match r.active with
        | some c => (match r.ctx c with | some x => x.mode.toNat | none => 0)
        | none => 0
      let frozen := (List.range 4).any (fun c => match r.ctx c with | some x => x.frozen | none => false)
      (m + 32 * frozen.toNat) * 2 ^ (8 * j))).sum)

/-- THROT (12_power.md Table 12.2). -/
def throtCsr (s : State) (k : Nat) : Word :=
  let c := s.core k
  let t := s.thread k
  let canary := ((List.range 4).filter (vfExists c)).foldl (fun n j =>
    Nat.max n (Nat.min 255 ((c.vfRegion j).history.sum * 128 / (100000 * 65536)))) 0
  let trips := ((List.range 4).map (fun j => if vfExists c j ∧ (c.vfRegion j).tripped then 2 ^ j else 0)).sum
  let fracs := ((List.range 4).map (fun j => if vfExists c j then fracOf s k j * 2 ^ (8 * j) else 0)).sum
  BitVec.ofNat 64 (fracs + 2 ^ 32 * canary + 2 ^ 40 * trips + 2 ^ 44 * t.throtPend.toNat + 2 ^ 46 * t.throtLast.toNat +
    2 ^ 48 * c.vcut.toNat + 2 ^ 50 * c.hcut.toNat)

/-- read_csr (R343). -/
def readCsr (s : State) (k : Nat) (n : BitVec 16) : Word :=
  let t := s.thread k
  match n.toNat with
  | 0x000 => BitVec.ofNat 64 (coreMaster k)
  | 0x001 => BitVec.ofNat 64 (4 * s.head.moduleNo.toNat + coreDie k)
  | 0x002 => t.asid.zeroExtend 64
  | 0x010 => t.status
  | 0x011 => t.tvec
  | 0x012 => t.epc
  | 0x013 => t.ecause
  | 0x014 => t.eval
  | 0x020 => modeCsr s k
  | 0x021 => throtCsr s k
  | 0x022 => (s.core k).flags
  | 0x030 => BitVec.ofNat 64 (cyclesFrom k s.cycleFrom (s.tick - s.cycleFrom))
  | 0x031 => BitVec.ofNat 64 s.time
  | _ => 0

/-- The bits of STATUS that only privileged mode writes: STEP, PAIE, PPRIV, PRIV (Table 10.5). -/
def statusPriv : Word := 0x53
/-- The bits of STATUS that a write may change: those and AIE. -/
def statusWrite : Word := 0x5B
/-- The fields of ECAUSE that exist (Table 10.6). -/
def ecauseMask : Word := 0xFFFFFFFF003FFFFF

/-- check_priv: a write in user mode that raises PRIV (R343). -/
def csrPriv (n : BitVec 16) (old new : Word) : Bool :=
  match n.toNat with
  | 0x010 => (old ^^^ new) &&& statusPriv != 0
  | 0x013 => (old ^^^ new) &&& ecauseMask != 0
  | 0x021 => false
  | 0x022 => false
  | _ => true

/-- write_csr (R343); a CSR that has no write keeps its value. -/
def writeCsr (s : State) (k : Nat) (n : BitVec 16) (v : Word) : State :=
  match n.toNat with
  | 0x002 => s.modThread k (fun t => { t with asid := v.extractLsb' 0 16 })
  | 0x010 => s.modThread k (fun t => { t with status := (t.status &&& ~~~statusWrite) ||| (v &&& statusWrite) })
  | 0x011 => s.modThread k (fun t => { t with tvec := v })
  | 0x012 => s.modThread k (fun t => { t with epc := v })
  | 0x013 => s.modThread k (fun t => { t with ecause := v &&& ecauseMask })
  | 0x014 => s.modThread k (fun t => { t with eval := v })
  | 0x021 => s.modThread k (fun t => { t with throtLast := if v.extractLsb' 46 2 = 0 then 0 else t.throtLast })
  | 0x022 => s.modCore k (fun c => { c with flags := v &&& flagsMask })
  | _ => s

/-- The old value to gd and, when there is a new one, the write; the instruction retires in the mode it ran in. -/
def csrOp (i : Instr) (d : BitVec 5) (c : BitVec 16) (new : Word → Word → Option Word) (a : BitVec 5) (s : State) : Res :=
  threadOp i s (fun k =>
    let old := readCsr s k c
    match new old (rg s k a) with
    | none => setG s k d old
    | some v =>
      if isPriv s k = false ∧ csrPriv c old v then .next (raise s k fcPRIV (wordOf i))
      else .next (writeCsr (retire (wg s k d old) k) k c v))

def execCsrr (d : BitVec 5) (c : BitVec 16) (s : State) : Res := csrOp (.csrr d c) d c (fun _ _ => none) 0 s
def execCsrw (d a : BitVec 5) (c : BitVec 16) (s : State) : Res := csrOp (.csrw d a c) d c (fun _ v => some v) a s
def execCsrs (d a : BitVec 5) (c : BitVec 16) (s : State) : Res :=
  csrOp (.csrs d a c) d c (fun old v => if a = 0 then none else some (old ||| v)) a s
def execCsrc (d a : BitVec 5) (c : BitVec 16) (s : State) : Res :=
  csrOp (.csrc d a c) d c (fun old v => if a = 0 then none else some (old &&& ~~~v)) a s

end Sys2Proof.Machine
end

