-- ==== Sys2Proof/Machine/Digits.lean ====
section
/-!
DEFINITION. Digit chains: conversion, the online recurrences, early decisions and kills (05_online_arithmetic.md R107 to
R130, 16_ref_d_l.md R346, R347). A lane's digits are a function from 1 on; fractions stand in units of 2^-64.
-/
namespace Sys2Proof.Machine

open Sys2Proof
open Sys2Proof.Float (Fl Val Fmt fINV fINX)

/-! ### Digits in tokens (Table 3.3, R94) -/

def digitLen (f : Slot) : Nat := match field f.m 8 6 with | 0 => 8 | 1 => 12 | 2 => 16 | 3 => 24 | _ => 32
def groupsOf (f : Slot) : Nat := digitLen f / 4

/-- Digit j (0 to 3) of lane i of a group; 2 stands for the code 0b10. -/
def digitAt (t : Token) (i j : Nat) : Int :=
  match nfield t.payload.toNat (8 * i + 7 - 2 * j) (8 * i + 6 - 2 * j) with
  | 0 => 0 | 1 => 1 | 3 => -1 | _ => 2

def tokE (t : Token) : Int := sextN (nfield t.payload.toNat 137 128) 10
def tokG (t : Token) : Nat := nfield t.payload.toNat 143 138

/-- Digit k (from 1) of lane i of the groups taken; 0 beyond them. -/
def digitOf (gs : List Token) (i k : Nat) : Int :=
  if k = 0 then 0 else match gs[(k - 1) / 4]? with | some t => digitAt t i ((k - 1) % 4) | none => 0

/-- A group with the digits of `dig` (lane, index from 1), zero where a lane is not valid. -/
def digitTok (f : Slot) (tag : BitVec 12) (e : Int) (g : Nat) (valid : BitVec 16) (dig : Nat → Nat → Int) : Token :=
  let code (d : Int) : Nat := if d = 1 then 1 else if d = -1 then 3 else 0
  let body := (List.range 16).foldl (fun a i => if valid.getLsbD i then
    a + ((List.range 4).map (fun j => code (dig i (4 * g + 1 + j)) * 2 ^ (8 * i + 6 - 2 * j))).sum else a) 0
  { kind := kDIGIT, slot := f.n, tag, valid, payload := BitVec.ofNat 512 (body + (e % 1024).toNat * 2 ^ 128 + g * 2 ^ 138) }

/-! ### Fractions -/

/-- Σ x_i 2^-i for i = 1 to k, in units of 2^-64. -/
def prefixVal (x : Nat → Int) (k : Nat) : Int := (List.range k).foldl (fun a i => a + x (i + 1) * 2 ^ (63 - i)) 0

/-- Digits delayed by n places, cut at L (R115). -/
def delayed (L n : Nat) (x : Nat → Int) : Nat → Int := fun k => if n < k ∧ k ≤ L then x (k - n) else 0
def cutAt (L : Nat) (x : Nat → Int) : Nat → Int := fun k => if 1 ≤ k ∧ k ≤ L then x k else 0

/-! ### DADD and DSUB (R115) -/

/-- Table 5.3. -/
def resolve (s : Int) (nonneg : Bool) : Int × Int :=
  if s = 2 then (1, 0) else if s = 1 then (if nonneg then (1, -1) else (0, 1)) else if s = 0 then (0, 0)
  else if s = -1 then (if nonneg then (0, -1) else (-1, 1)) else (-1, 0)

def daddDigit (L : Nat) (x : Nat → Int) (ex : Int) (y : Nat → Int) (ey : Int) (neg : Bool) (k : Nat) : Int :=
  let e := if ex < ey then ey else ex
  let a := delayed L (e - ex).toNat x
  let b (i : Nat) : Int := let v := delayed L (e - ey).toNat y i; if neg then -v else v
  let tu (i : Nat) : Int × Int :=
    if L < i then (0, 0) else resolve (a i + b i) (decide (0 ≤ a (i + 1)) && decide (0 ≤ b (i + 1)))
  if k = 1 then (tu 1).1 else (tu (k - 1)).2 + (tu k).1

/-! ### The residual units (R116 to R118) -/

/-- A recurrence: its first j, the terms in units of 2^-64 from j and Z_j, the selection threshold in quarters, the
subtrahend for a digit z, and the bound. -/
structure Online where
  start : Int
  term : Int → Int → Int
  thr : Int
  sub : Int → Int → Int → Int
  bound : Option Int

/-- The state after some steps: residual, partial result, digits from 1 on, and the j at which the bound was left. -/
structure OnlineSt where
  w : Int := 0
  z : Int := 0
  out : List Int := []
  bad : Option Int := .none

def onlineStep (o : Online) (s : OnlineSt) (j : Int) : OnlineSt :=
  let v := 2 * s.w + o.term j s.z
  let q := fdiv (4 * v) (2 ^ 64)
  let z : Int := if j < 0 then 0 else if o.thr ≤ q then 1 else if q < -o.thr then -1 else 0
  let w := v - z * o.sub j s.z z
  let bad := match s.bad with
    | some b => some b
    | none => match o.bound with
      | some b => if b * 2 ^ 64 ≤ |w| then some j else none
      | none => none
  if j < 0 then { s with w, bad } else { w, z := s.z + z * 2 ^ (63 - j.toNat), out := s.out ++ [z], bad }

/-- The first n output digits. -/
def onlineRun (o : Online) (n : Nat) : OnlineSt :=
  ((List.range (o.start.natAbs + n)).map (fun i => o.start + i)).foldl (onlineStep o) {}

def atZ (x : Nat → Int) (j : Int) : Int := x j.toNat

def dmulOnline (x y : Nat → Int) : Online :=
  { start := -3, thr := 2, bound := none, sub := fun _ _ _ => 2 ^ 64
    term := fun j _ => (atZ x (j + 4) * prefixVal y (j + 4).toNat + atZ y (j + 4) * prefixVal x (j + 3).toNat) / 8 }

def dsclOnline (c : Int) (x : Nat → Int) : Online :=
  { start := -2, thr := 2, bound := none, sub := fun _ _ _ => 2 ^ 64
    term := fun j _ => c * 2 ^ 51 * atZ x (j + 3) }

def ddivOnline (x d : Nat → Int) : Online :=
  { start := -4, thr := 1, bound := some 2, sub := fun j _ _ => prefixVal d (j + 5).toNat
    term := fun j z => (atZ x (j + 5) * 2 ^ 64 - z * atZ d (j + 5)) / 16 }

def dsqrtOnline (x : Nat → Int) : Online :=
  { start := -4, thr := 2, bound := some 4, sub := fun j zj z => 2 * zj + z * 2 ^ (63 - j.toNat)
    term := fun j _ => atZ x (j + 5) * 2 ^ 60 }

/-! ### What an op makes of a lane -/

/-- Output digits of a lane, the group from which the lane is invalid, and whether that raises INV. -/
structure LaneOut where
  dig : Nat → Int
  badFrom : Option Nat := .none

def ofOnline (r : OnlineSt) : LaneOut :=
  { dig := fun k => r.out.getD (k - 1) 0
    badFrom := r.bad.map (fun j => ((if j + 1 < 1 then 1 else j + 1) - 1).toNat / 4) }

/-- The index of the first nonzero digit among the first n. -/
def firstNonzero (x : Nat → Int) (n : Nat) : Option Nat := ((List.range n).map (· + 1)).find? (fun k => decide (x k ≠ 0))

/-- DDIV's lane: x' = X / 2, both multiplied by σ, the divisor's first digit; σ = 0 invalidates the lane from group 0 (R118). -/
def ddivLane (L n : Nat) (x d : Nat → Int) : LaneOut :=
  let sg := d 1
  if sg = 0 then { dig := fun _ => 0, badFrom := some 0 }
  else ofOnline (onlineRun (ddivOnline (fun i => sg * delayed (L + 1) 1 (cutAt L x) i) (fun i => sg * cutAt L d i)) n)

/-- DSQRT's lane (R118): a lane whose first nonzero digit is -1 is invalid from that digit's group. -/
def dsqrtLane (L n have_ : Nat) (odd : Bool) (x : Nat → Int) : LaneOut :=
  let r := ofOnline (onlineRun (dsqrtOnline (if odd then delayed (L + 1) 1 (cutAt L x) else cutAt L x)) n)
  match firstNonzero x have_ with
  | some k => if x k = -1 then
      { r with badFrom := some (match r.badFrom with | some b => Nat.min b ((k - 1) / 4) | none => (k - 1) / 4) } else r
  | none => r

/-! ### Early decisions (R120 to R122) -/

/-- DMAXK on aligned operands: r and the digits after n steps. -/
def maxkRun (x y : Nat → Int) (n : Nat) : Int × List Int :=
  ((List.range n).map (· + 1)).foldl (fun (acc : Int × List Int) j =>
    let (r, out) := acc
    let z := if 0 < r then x j else if r < 0 then y j else (if x j < y j then y j else x j)
    (if |r| ≤ 1 then 2 * r + x j - y j else r, out ++ [z])) (0, [])

/-- A fraction in units of 2^-64 as a value. -/
def fracVal (x : Int) : Val := .fin (decide (x < 0)) x.natAbs (-64)

/-- DTHR's decision on a lane after the groups 0 to g: the group at which it was dropped, if it was (R122). -/
def dthrDrop (L G g : Nat) (t : Val) (x : Nat → Int) : Option Nat :=
  ((List.range (g + 1)).foldl (fun (acc : Option (Option Nat)) h =>
    match acc with
    | some d => some d
    | none =>
      let j := 4 * h + 4
      let xj := prefixVal x j
      let eps : Int := 2 ^ (64 - j) - 2 ^ (64 - L)
      if Float.cmpV (fracVal (xj + eps)) t < 0 then some (some h)
      else if 0 ≤ Float.cmpV (fracVal (xj - eps)) t then some none
      else if h + 1 = G then some (if Float.cmpV (fracVal xj) t < 0 then some h else none)
      else none) none).getD none

/-! ### Firing of a digit op -/

/-- What the groups taken so far give: exponent, lookahead, each lane, and the lanes decided away on input A and on B. -/
structure Inst where
  e : Int
  ahead : Bool
  lanes : Nat → LaneOut
  /-- The op passes the tokens on as they came (R123). -/
  copies : Bool := false
  goneA : BitVec 16 := 0
  goneB : BitVec 16 := 0

/-- The lanes that every consumer direction of the slot has killed (R125). -/
def allKilled (d : DigitSt) (dirs : List Nat) : BitVec 16 :=
  if dirs.isEmpty then 0 else dirs.foldl (fun m e => m &&& Map.get 0 d.killed e) 0xFFFF

/-- Sends KILLs for lanes not yet killed on the inputs of a slot, for an instance of it (R124, R125). -/
def killInputs (s : State) (st : Site) (f : Slot) (d : DigitSt) (tag : BitVec 12) (ma mb : BitVec 16) (seg : Nat) : State :=
  let na := ma &&& ~~~d.sentA
  let nb := mb &&& ~~~d.sentB
  let s := if na ≠ 0 ∧ f.a.toNat < 4 then sendKill s st f.a.toNat tag na seg else s
  if nb ≠ 0 ∧ f.b.toNat < 4 then sendKill s st f.b.toNat tag nb seg else s

/-- The instance with those KILLs recorded. -/
def DigitSt.sent (d : DigitSt) (ma mb : BitVec 16) : DigitSt := { d with sentA := d.sentA ||| ma, sentB := d.sentB ||| mb }

/-- A group with 0b00 in the lanes of a mask (R125). -/
def zeroLanes (m : BitVec 16) (t : Token) : Token :=
  let gone := (List.range 16).foldl (fun a i => if m.getLsbD i then a + 255 * 2 ^ (8 * i) else a) 0
  { t with payload := t.payload &&& ~~~(BitVec.ofNat 512 gone) }

/-- The lanes valid in every group up to h. -/
def okUpTo (gs : List Token) (h : Nat) : BitVec 16 := (gs.take (h + 1)).foldl (fun m t => m &&& t.valid) 0xFFFF

/-- The lanes that the op clears by group h: a lane that every consumer has killed is computed no further, and keeps its
valid bit (R109, R125). -/
def clearedBy (i : Inst) (before dead : BitVec 16) (h : Nat) : BitVec 16 :=
  ofFlags (fun n => before.getLsbD n || (!dead.getLsbD n && (match (i.lanes n).badFrom with | some b => decide (b ≤ h) | none => false)))

/-- The token of group h of an instance, of which the op has cleared the lanes `before` in earlier groups, and the flags of
lanes that become invalid in it. -/
def groupOut (f : Slot) (tag : BitVec 12) (i : Inst) (ga gb : List Token) (two : Bool) (before dead : BitVec 16) (h : Nat) : Token × Fl :=
  let ok := okUpTo ga h &&& (if two then okUpTo gb h else 0xFFFF)
  let gone := clearedBy i before dead h
  if i.copies then (zeroLanes dead { (ga.getD h {}) with slot := f.n }, 0)
  else (digitTok f tag i.e h (ok &&& ~~~gone) (fun n k => if dead.getLsbD n then 0 else (i.lanes n).dig k),
        if ok &&& gone &&& ~~~before ≠ 0 then fINV else 0)

/-- A DENC of the tile still has groups to send: no other digit slot is eligible (R128). -/
def encoding (s : State) (st : Site) : Bool := (s.tile st.key).outbox.any (fun e => opOf (slotWord st e.2.1) == 0x30)

/-- A group's form: kind DIGIT, no code 0b10 in a valid lane (R57, R94). -/
def badDigits (t : Token) : Bool :=
  (List.range 16).any (fun i => t.valid.getLsbD i && (List.range 4).any (fun j => digitAt t i j == 2))

/-- A digit op fires on one group of each input (R108, R109, R112, R128). `inv` says whether a lane that ends raises INV;
`outs` are the directions of its results. -/
def digitOp (s : State) (f : Slot) (two inv : Bool) (dests : List Nat) (make : Site → List Token → List Token → Inst) : Res :=
  onTile s (fun st =>
    if encoding s st then .next s else
    fireAt s st { srcs := if two then [f.a, f.b] else [f.a], dests := dests.map (fun d => (d, 1)), next := f.n,
                            nullOk := true, digitOk := true } (fun k =>
      let a := tok k 0
      let b := tok k 1
      let sl := slotSt k.s st
      let g := sl.digit.ga.length
      let G := groupsOf f
      if a.kind ≠ kDIGIT ∨ (two ∧ b.kind ≠ kDIGIT) then .error fcTOKEN
      else if tokG a ≠ g ∨ G ≤ g ∨ (two ∧ (a.tag ≠ b.tag ∨ tokG b ≠ g)) ∨
          sl.digit.ga.head?.any (fun t => tokE t != tokE a || t.tag != a.tag) ∨
          (two && sl.digit.gb.head?.any (fun t => tokE t != tokE b)) then .error fcTOKEN
      else if badDigits a ∨ (two ∧ badDigits b) then .error fcDIGIT
      else
        let ga := sl.digit.ga ++ [a]
        let gb := if two then sl.digit.gb ++ [b] else []
        let i := make st ga gb
        if i.e < -512 ∨ 511 < i.e then .error fcDIGIT
        else
          let dead := allKilled sl.digit (dests.flatMap dirsOf)
          let last := decide (g + 1 = G)
          let c0 := sl.digit.cleared
          let h := if i.ahead then g - 1 else g
          let sends := !i.ahead || decide (0 < g)
          let c1 := if sends then clearedBy i c0 dead h else c0
          let now : List (Token × Fl) := if sends then [groupOut f a.tag i ga gb two c0 dead h] else []
          let tail : List (Token × Fl) := if i.ahead && last then [groupOut f a.tag i ga gb two c1 dead g] else []
          let seg := segOf k.toks
          let kills := st.ctx.mode.getLsbD 3 && !inRect st st.y st.x
          let ma := if kills then i.goneA &&& ~~~dead else 0
          let mb := if kills then i.goneB &&& ~~~dead else 0
          let dg : DigitSt := { sl.digit.sent ma mb with ga, gb, cleared := c1 }
          let s := setSlotSt k.s st (if last then { sl with digit := {}, leaving := dg } else { sl with digit := dg })
          let s := killInputs s st f sl.digit a.tag ma mb seg
          let s := dests.foldl (fun s d => addOut s st d (tail.map (fun e => { e.1 with seg }))) s
          let fl := (now ++ tail).foldl (fun m e => m ||| e.2) 0
          .ok (if inv then raiseFlags s st.k st.j fl else s,
               now.flatMap (fun e => dests.map (fun d => (d, e.1))))))

def headE (gs : List Token) : Int := match gs with | t :: _ => tokE t | [] => 0

/-- The number of output digits that the groups taken determine. -/
def readyDigits (f : Slot) (gs : List Token) : Nat := if gs.length = groupsOf f then digitLen f else 4 * (gs.length - 1)

def addInst (f : Slot) (neg : Bool) (ga gb : List Token) : Inst :=
  let ea := headE ga
  let eb := headE gb
  { e := (if ea < eb then eb else ea) + 1, ahead := true
    lanes := fun i => { dig := daddDigit (digitLen f) (digitOf ga i) ea (digitOf gb i) eb neg } }

def execDadd (f : Slot) (s : State) : Res := digitOp s f true false [f.d.toNat] (fun _ ga gb => addInst f false ga gb)
def execDsub (f : Slot) (s : State) : Res := digitOp s f true false [f.d.toNat] (fun _ ga gb => addInst f true ga gb)

def execDmul (f : Slot) (s : State) : Res :=
  digitOp s f true false [f.d.toNat] (fun _ ga gb =>
    { e := headE ga + headE gb, ahead := true
      lanes := fun i => ofOnline (onlineRun (dmulOnline (cutAt (digitLen f) (digitOf ga i)) (cutAt (digitLen f) (digitOf gb i))) (readyDigits f ga)) })

def execDdiv (f : Slot) (s : State) : Res :=
  digitOp s f true true [f.d.toNat] (fun _ ga gb =>
    { e := headE ga - headE gb + 1, ahead := true
      lanes := fun i => ddivLane (digitLen f) (readyDigits f ga) (digitOf ga i) (digitOf gb i) })

def execDsqrt (f : Slot) (s : State) : Res :=
  digitOp s f false true [f.d.toNat] (fun _ ga _ =>
    { e := fdiv (headE ga + 1) 2, ahead := true
      lanes := fun i => dsqrtLane (digitLen f) (readyDigits f ga) (4 * ga.length) (decide (headE ga % 2 ≠ 0)) (digitOf ga i) })

def execDscl (f : Slot) (s : State) : Res :=
  digitOp s f false false [f.d.toNat] (fun st ga _ =>
    if f.m.getLsbD 3 then
      { e := headE ga, ahead := true
        lanes := fun i => ofOnline (onlineRun (dsclOnline (sextN st.imm.toNat 12) (cutAt (digitLen f) (digitOf ga i))) (readyDigits f ga)) }
    else { e := headE ga + sextN st.imm.toNat 10, ahead := false, lanes := fun i => { dig := digitOf ga i } })

def execDsign (f : Slot) (s : State) : Res :=
  digitOp s f false false [f.d.toNat] (fun _ ga _ =>
    let neg (i : Nat) : Bool := match firstNonzero (digitOf ga i) (4 * ga.length) with
      | some k => decide (digitOf ga i k = -1) | none => false
    let ok := okUpTo ga ga.length
    { e := headE ga, ahead := false, lanes := fun i => { dig := fun k => if neg i then 0 else digitOf ga i k }
      goneA := ofFlags (fun i => ok.getLsbD i && neg i) })

def execDmaxk (f : Slot) (s : State) : Res :=
  digitOp s f true false [f.d.toNat] (fun _ ga gb =>
    let ea := headE ga
    let eb := headE gb
    let e := if ea < eb then eb else ea
    let L := digitLen f
    let run (i : Nat) : Int × List Int :=
      maxkRun (delayed L (e - ea).toNat (digitOf ga i)) (delayed L (e - eb).toNat (digitOf gb i)) (4 * ga.length)
    let ok := okUpTo ga ga.length &&& okUpTo gb gb.length
    { e, ahead := false, lanes := fun i => { dig := fun k => (run i).2.getD (k - 1) 0 }
      goneA := ofFlags (fun i => ok.getLsbD i && decide ((run i).1 ≤ -2))
      goneB := ofFlags (fun i => ok.getLsbD i && decide (2 ≤ (run i).1)) })

def execDthr (f : Slot) (s : State) : Res :=
  digitOp s f false false [f.d.toNat] (fun st ga _ =>
    let t : Val := match Float.decode Float.bf16 st.imm.toNat with
      | .fin n m e => .fin n m (e - headE ga) | v => v
    let drop (i : Nat) : Option Nat := dthrDrop (digitLen f) (groupsOf f) (ga.length - 1) t (digitOf ga i)
    let ok := okUpTo ga ga.length
    { e := headE ga, ahead := false, lanes := fun i => { dig := digitOf ga i, badFrom := drop i }
      goneA := ofFlags (fun i => ok.getLsbD i && (drop i).isSome) })

def execDfork (f : Slot) (s : State) : Res :=
  digitOp s f false false [f.d.toNat, field f.m 1 0] (fun _ ga _ =>
    { e := headE ga, ahead := false, lanes := fun i => { dig := digitOf ga i }, copies := true })

/-! ### DENC and DDEC (R113, R114, R347) -/

/-- A lane's value in FMT: 0 FP32, 1 BF16, 2 FP16, 3 INT32. -/
def wordVal (fmt : Nat) (x : BitVec 32) : Val :=
  match fmt with
  | 0 => Float.decode Float.fp32 x.toNat
  | 1 => Float.decode Float.bf16 (x.toNat % 65536)
  | 2 => Float.decode Float.fp16 (x.toNat % 65536)
  | _ => Float.ofInt x.toInt

/-- |v| × 2^p, cut to an integer, and whether a nonzero bit was lost. -/
def cutVal (m : Nat) (e p : Int) : Nat × Bool :=
  let n := e + p
  if 0 ≤ n then (m * 2 ^ n.toNat, false) else (m / 2 ^ (-n).toNat, decide (m % 2 ^ (-n).toNat ≠ 0))

/-- The groups of a DENC: the first leaves now, the others in later turns, as the outputs' credits allow (R128). -/
def encOut (s : State) (st : Site) (f : Slot) (tag : BitVec 12) (l : List Token) (seg : Nat) : Fired :=
  let s := setSlotSt s st { slotSt s st with leaving := { ga := [{ kind := kDIGIT, tag }] } }
  .ok (addOut s st f.d.toNat ((l.drop 1).map (fun t => { t with seg })), (l.take 1).map (fun t => (f.d.toNat, t)))

/-- The chain counter is one of the slot's, and the SOT that passes the slot sets it to 0 (R107; log 115). -/
def execDenc (f : Slot) (s : State) : Res :=
  let G := groupsOf f
  let L := digitLen f
  let fmt := field f.m 5 4
  onTile s (fun st => if encoding s st then .next s else fireAt s st
    { srcs := [f.a], how := if fmt = 0 then 0 else if fmt = 3 then 2 else 1, dests := [(f.d.toNat, G)], next := f.n,
      nullOk := true, digitOk := true } (fun k =>
    let a := tok k 0
    let sl := slotSt k.s st
    let tag := BitVec.ofNat 12 sl.chain
    let s := setSlotSt k.s st { sl with chain := sl.chain + 1 }
    if k.toks.any (fun t => t.kind == kNULL) then
      encOut s st f tag ((List.range G).map (fun g => digitTok f tag 0 g 0 (fun _ _ => 0))) (segOf k.toks)
    else if a.kind = kDIGIT then .error fcTOKEN
    else
      let v (i : Nat) : Val := wordVal fmt (lane a.payload i)
      let fin (i : Nat) : Bool := match v i with | .fin _ _ _ => true | _ => false
      let logs := ((List.range 16).filter (fun i => a.valid.getLsbD i)).filterMap (fun i => logOf (v i))
      let e : Int := match logs with | [] => 0 | x :: r => 1 + r.foldl (fun m y => if m < y then y else m) x
      if e < -512 ∨ 511 < e then .error fcDIGIT
      else
        let valid := ofFlags (fun i => a.valid.getLsbD i && fin i)
        let cut (i : Nat) : Nat × Bool := match v i with | .fin _ m x => cutVal m x (L - e) | _ => (0, false)
        let dig (i k : Nat) : Int :=
          if (cut i).1 / 2 ^ (L - k) % 2 = 1 then (if (v i).negative then -1 else 1) else 0
        let nan := (List.range 16).any (fun i => a.valid.getLsbD i && !fin i)
        let inx := (List.range 16).any (fun i => valid.getLsbD i && (cut i).2)
        encOut (raiseFlags s st.k st.j ((if nan then fINV else 0) ||| (if inx then fINX else 0))) st f tag
          ((List.range G).map (fun g => digitTok f tag e g valid dig)) (segOf k.toks)))

/-- A lane of DDEC: its value rounded once to FMT (R114). -/
def decodeLane (fmt : Nat) (neg : Bool) (m : Nat) (e : Int) : Nat × Fl :=
  if m = 0 then (0, 0)
  else match fmt with
    | 0 => Float.ofVal Float.fp32 .rne (.fin neg m e)
    | 1 => Float.ofVal Float.bf16 .rne (.fin neg m e)
    | 2 => Float.ofVal Float.fp16 .rne (.fin neg m e)
    | _ => let (i, fl) := Float.toInt (intLo 3) (intHi 3) .rne (.fin neg m e); (placeInt 3 i, fl)

def execDdec (f : Slot) (s : State) : Res :=
  let fmt := field f.m 5 4
  onTile s (fun st => if encoding s st then .next s else
    fireAt s st { srcs := [f.a], dests := [(f.d.toNat, 1)], next := f.n, nullOk := true, digitOk := true } (fun k =>
    let a := tok k 0
    let sl := slotSt k.s st
    let g := sl.digit.ga.length
    if a.kind ≠ kDIGIT ∨ tokG a ≠ g ∨ groupsOf f ≤ g ∨
        sl.digit.ga.head?.any (fun t => tokE t != tokE a || t.tag != a.tag) then .error fcTOKEN
    else if badDigits a then .error fcDIGIT
    else
      let ga := sl.digit.ga ++ [a]
      if g + 1 < groupsOf f then .ok (setSlotSt k.s st { sl with digit := { sl.digit with ga } }, [])
      else
        let ok := okUpTo ga g
        let drop := f.m.getLsbD 3
        let val (i : Nat) : Nat × Fl :=
          if ok.getLsbD i then
            let x := prefixVal (digitOf ga i) (digitLen f)
            decodeLane fmt (decide (x < 0)) x.natAbs (headE ga - 64)
          else if drop then (0, 0)
          else match fmt with | 0 => (0x7FC00000, 0) | 1 => (0x7FC0, 0) | 2 => (0x7E00, 0) | _ => (0, fINV)
        let fl := (List.range 16).foldl (fun m i => m ||| (val i).2) 0
        let t : Token := { kind := kWORD, slot := f.n, tag := 0, valid := if drop then ok else 0xFFFF
                           payload := ofLanes (fun i => BitVec.ofNat 32 (val i).1) }
        .ok (raiseFlags (setSlotSt k.s st { sl with digit := {} }) st.k st.j fl, [(f.d.toNat, t)])))

/-! ### KILL tokens (R125, R126, 17_ref_m_r.md R379) -/

/-- An instance of a chain. -/
def DigitSt.isChain (d : DigitSt) (tag : BitVec 12) : Bool := match d.ga with | t :: _ => decide (t.tag = tag) | [] => false

/-- Groups of a slot's chain wait in the tile's outbox. -/
def leavingGroups (s : State) (st : Site) (n : Nat) (tag : BitVec 12) : Bool :=
  (s.tile st.key).outbox.any (fun e => decide (e.2.1 = n ∧ e.2.2.kind = kDIGIT ∧ e.2.2.tag = tag))

/-- The digit slots of the tile that send to direction d and hold an instance of a chain, or groups of one that have still
to leave. DDEC has no kill channel on its word output (R126). -/
def killedSlots (s : State) (st : Site) (d : Nat) (tag : BitVec 12) : List Nat :=
  (List.range 16).filter (fun n =>
    let w := slotWord st n
    let sl := Map.get {} (s.tile st.key).slots (slotKey st.c n)
    isDigitOp (opOf w) && opOf w != 0x31 && (controlDirs st sl w kEOT).contains d &&
      (sl.digit.isChain tag || (sl.leaving.isChain tag && leavingGroups s st n tag)))

/-- The PASS slots that send to direction d and last passed a DIGIT token of a chain. -/
def passSlots (s : State) (st : Site) (d : Nat) (tag : BitVec 12) : List Nat :=
  (List.range 16).filter (fun n =>
    let w := slotWord st n
    let sl := Map.get {} (s.tile st.key).slots (slotKey st.c n)
    opOf w == 0x55 && (dirsOf (field w 16 13)).contains d && decide (sl.passTag = some tag))

/-- The tile hands on KILLs whole: a pass stage. A tile in FIFO mode hands on what its PASS slots do: what stands in it left its
input's links for the slots that its tokens name, and every other routing op discards a KILL (R126). -/
def forwardsKills (st : Site) : Bool := isMemTile st.y st.x && inRect st st.y st.x

/-- A KILL at a digit op: the direction has killed the lanes; lanes that every direction has killed are killed upstream.
A KILL of a chain with no instance here is discarded (R125, R127). -/
def execKillApply (dir : BitVec 2) (s : State) : Res :=
  onTile s (fun st =>
    match takeKill s st dir.toNat with
    | none => .next s
    | some (t, s') =>
      match killedSlots s st dir.toNat t.tag with
      | [] => if forwardsKills st ∨ (passSlots s st dir.toNat t.tag) ≠ [] then .next s else .next s'
      | slots => .next (slots.foldl (fun s n =>
          let st := { st with n }
          let sl := slotSt s st
          let now := sl.digit.isChain t.tag
          let d0 := if now then sl.digit else sl.leaving
          let dg := { d0 with killed := Map.modify 0 d0.killed dir.toNat (· ||| killMask t) }
          let w := slotWord st n
          let f := slotFields w
          let dead := allKilled dg (controlDirs st sl w kEOT)
          let up := st.ctx.mode.getLsbD 3 && opOf w != 0x30
          let ma := if up then dead else 0
          let mb := if up && decide (f.b.toNat < 4) then dead else 0
          let s := setSlotSt s st (if now then { sl with digit := dg.sent ma mb } else { sl with leaving := dg.sent ma mb })
          let s := s.modTile st.key (fun ti => { ti with outbox := ti.outbox.map (fun e =>
            if e.2.1 = n ∧ e.2.2.kind = kDIGIT ∧ e.2.2.tag = t.tag then (e.1, e.2.1, zeroLanes dead e.2.2) else e) })
          killInputs s st f dg t.tag ma mb t.seg) s'))

/-- A PASS slot, in a FIFO tile too, or a pass stage hands a KILL on to its input (R126). -/
def execKillForward (dir : BitVec 2) (s : State) : Res :=
  onTile s (fun st =>
    match takeKill s st dir.toNat with
    | none => .next s
    | some (t, s') =>
      if isMemTile st.y st.x && inRect st st.y st.x then
        .next (if dir = 1 then sendKill s' st 3 t.tag (killMask t) t.seg
          else if dir = 2 then sendKill s' st 0 t.tag (killMask t) t.seg else s')
      else match passSlots s st dir.toNat t.tag with
        | [] => .next s
        | slots => .next (slots.foldl (fun s n =>
            let st := { st with n }
            let sl := slotSt s st
            let w := slotWord st n
            let dirs := dirsOf (field w 16 13)
            let before := dirs.foldl (fun m e => m &&& Map.get 0 sl.passKill e) 0xFFFF
            let pk := Map.modify 0 sl.passKill dir.toNat (· ||| killMask t)
            let after := dirs.foldl (fun m e => m &&& Map.get 0 pk e) 0xFFFF
            let s := setSlotSt s st { sl with passKill := pk }
            if after &&& ~~~before ≠ 0 then sendKill s st (field w 24 21) t.tag (after &&& ~~~before) t.seg else s) s'))

end Sys2Proof.Machine
end

