-- ==== Sys2Proof/Machine/Flow.lean ====
section
/-!
DEFINITION. Branches, jumps, LOOP, and the instructions whose effect is a trap or the return from one
(15_ref_a_c.md R328 to R330, 16_ref_d_l.md R361, R368, 18_ref_s.md R417, 19_ref_t_z.md R426, 10_faults_modes.md R220, R235).
-/
namespace Sys2Proof.Machine

open Sys2Proof

/-- The branch to a label if b holds; otherwise the next instruction follows. -/
def branch {n : Nat} (s : State) (k : Nat) (b : Bool) (o : BitVec n) : Res :=
  .next (if b then retireTo s k (labelOf s k o) else retire s k)

def execBrCc (a b : BitVec 5) (c : BitVec 4) (o : BitVec 12) (s : State) : Res :=
  threadOp (.brCc a b c o) s (fun k => branch s k (holds c (rg s k a) (rg s k b)) o)
def execBp (p : BitVec 3) (o : BitVec 20) (s : State) : Res := onThread s (fun k => branch s k (rp s k p) o)
def execBpn (p : BitVec 3) (o : BitVec 20) (s : State) : Res := onThread s (fun k => branch s k (!rp s k p) o)
def execJmp (o : BitVec 21) (s : State) : Res := onThread s (fun k => branch s k true o)
/-- Jumps with a link: the target is formed before gd is written. -/
def execJal (d : BitVec 5) (o : BitVec 21) (s : State) : Res :=
  onThread s (fun k => .next (retireTo (wg s k d (pcOf s k + 4)) k (labelOf s k o)))
def execJalr (d a : BitVec 5) (i : BitVec 16) (s : State) : Res :=
  onThread s (fun k =>
    let t := rg s k a + sextW i
    if t.toNat % 4 ≠ 0 then .next (raise s k fcALIGN t) else .next (retireTo (wg s k d (pcOf s k + 4)) k t))
/-- A count of 0 skips the body; otherwise ga := ga - 1 and the body is entered. -/
def execLoop (a : BitVec 5) (o : BitVec 12) (s : State) : Res :=
  threadOp (.loop a o) s (fun k =>
    if rg s k a = 0 then branch s k true o else setG s k a (rg s k a - 1))

/-- TRAPI, with EPC the TRAP's own PC and EVAL 0. -/
def execTrap (_i : BitVec 16) (s : State) : Res := onThread s (fun k => .next (raise s k fcTRAPI 0))
def execBkpt (_i : BitVec 16) (s : State) : Res := onThread s (fun k => .next (raise s k fcBKPT 0))
def execSysret (s : State) : Res :=
  onThread s (fun k => if isPriv s k then .next (returnFromTrap s k) else .next (raise s k fcPRIV (wordOf .sysret)))

/-- A boundary between instructions: nothing has begun at pc. -/
def betweenInstrs (s : State) (k : Nat) : Bool := (s.thread k).stall.isNone && (s.thread k).awaits.isNone

/-- The oldest pending fault is delivered while AIE is 1 (10_faults_modes.md R220). -/
def execAsyncFaultDelivery (s : State) : Res :=
  onThread s (fun k =>
    if (s.thread k).run = .running ∧ (s.thread k).status.getLsbD 3 ∧ betweenInstrs s k then .next (deliverAsync s k false)
    else .next s)

/-- The trap of a step boundary at which the completion of an earlier command has arrived: BKPT with ASYNC and STEP, and a
record with the PC of its ISSUE, which the thread waits for (R235; log 117). -/
def stepCompletion (s : State) (k : Nat) (q n : Nat) (ipc : Word) : State :=
  putRecord (s.modThread k (fun t => { t with finished := none }))
    { core := k, asid := (s.thread k).asid, code := fcBKPT, step := true, queue := q, stream := n, ipc } (.trap (pcOf s k))

/-- The BKPT trap of a single step; a pending fault that may be delivered, or the completion of an earlier command, comes in
the same trap, with ASYNC, which stops no thread. The BKPT alone stops a thread within a trap handler (R220, R235). -/
def execSingleStep (s : State) : Res :=
  onThread s (fun k =>
    let t := s.thread k
    if t.stepDue = false ∨ trapDue s k then .next s
    else if t.status.getLsbD 3 ∧ t.pend ≠ [] then .next (deliverAsync s k true)
    else match t.finished with
      | some (q, n, ipc) => .next (stepCompletion s k q n ipc)
      | none =>
        if inTrap s k then .next (stopThread s k fcBKPT)
        else .next (takeTrap s k (pcOf s k) (ecauseImage fcBKPT false false true false 0 7 0 0xFFFFFFFF) 0))

end Sys2Proof.Machine
end

