-- ==== Sys2Proof/Machine/Load.lean ====
section
/-!
DEFINITION. The context commands and the events of a region: CLOAD, CSWITCH, CRETIRE, CSAVE, CRESTORE, the RECONF and the
settling of a switch, the re-run of a segment, the scan-out of a frozen context and the watchdog (02_execution_model.md R29,
R39 to R41, 07_consistency.md R165, 10_faults_modes.md R226 to R229, R237, 15_ref_a_c.md R333 to R345).
-/
namespace Sys2Proof.Machine

open Sys2Proof

/-! ### Regions and their tiles -/

def modRegion (s : State) (k j : Nat) (f : Region → Region) : State :=
  match s.region k j with
  | some r => s.setRegion k j (some (f r))
  | none => s

/-- The context in a slot of region j; a copy of another region's load is none of its own. -/
def ctxAt (s : State) (k j c : Nat) : Option Ctx := ((s.region k j).bind (fun r => r.ctx c)).filter (fun x => x.copyOf.isNone)

def modSites (s : State) (k : Nat) (r : Rect) (f : Nat → Nat → Tile → Tile) : State :=
  r.sites.foldl (fun s (y, x) => s.modTile (tileKey k y x) (f y x)) s

/-- Takes the tokens that stand in the input FIFOs and, as direction + 4, in the kill channels of a region, all but those of
links between regions. -/
def parkTokens (s : State) (k j : Nat) (r : Rect) : State × List (Nat × Nat × List Token) :=
  let here := r.sites.flatMap (fun (y, x) => (List.range 4).flatMap (fun d =>
    if crossLink s k j y x d then []
    else (match inputOf s (tileKey k y x) d with | [] => [] | l => [(24 * y + x, d, l.map (·.2))]) ++
      (match Map.get [] (s.tile (tileKey k y x)).kill d with | [] => [] | l => [(24 * y + x, d + 4, l)])))
  (here.foldl (fun s e => if e.2.1 < 4 then setInput s (384 * k + e.1) e.2.1 []
    else s.modTile (384 * k + e.1) (fun t => { t with kill := Map.set [] t.kill (e.2.1 - 4) [] })) s, here)

/-- Puts parked tokens back. -/
def unparkTokens (s : State) (k : Nat) (l : List (Nat × Nat × List Token)) : State :=
  l.foldl (fun s e => e.2.2.foldl (fun s t => s.modTile (384 * k + e.1) (fun ti =>
    if e.2.1 < 4 then { ti with inp := Map.set [] ti.inp e.2.1 (Map.get [] ti.inp e.2.1 ++ [(ti.arrivals, t)]), arrivals := ti.arrivals + 1 }
    else { ti with kill := Map.set [] ti.kill (e.2.1 - 4) (Map.get [] ti.kill (e.2.1 - 4) ++ [t]) })) s) s

/-- Where a tile of the original stands for the context: itself, or the copy's tile. -/
def Ctx.placed (c : Ctx) (y x : Nat) : Nat × Nat :=
  match c.copyOf with | some p => (y + p.y0 - p.homeY, x + p.x0 - p.homeX) | none => (y, x)

/-- The initial tokens of a context's channels are placed (13_encodings.md Table 13.12); those of the channels to AG tiles
with the original alone. -/
def placeInitial (s : State) (k : Nat) (x : Ctx) : State :=
  x.chans.foldl (fun s h =>
    let t : Token := { kind := kWORD, slot := BitVec.ofNat 4 h.islot, valid := 0xFFFF }
    (List.range h.init).foldl (fun s _ =>
      if h.fromAg then let p := x.placed (agSite h.sid).1 (agSite h.sid).2.1; deliver s k p.1 p.2 (agSite h.sid).2.2 t
      else if h.inn then deliver s k h.y h.x h.dir t
      else match x.agBeyond h.y h.x h.dir, neighbour h.y h.x h.dir with
        | some n, _ => if x.copyOf.isSome then s else s.modPort (portKey k n) (fun p => { p with inp := p.inp ++ [t] })
        | none, some (y, x) => deliver s k y x (opposite h.dir) t
        | none, none => s) s) s

/-- The flip-flops of a tile take INIT when a context is first made active (03_fabric.md R71; log 88). -/
def startLuts (x : Ctx) (y x' : Nat) (t : Tile) : Tile :=
  if isMemTile y x' then t else { t with lutff := (Map.get {} x.tiles (24 * y + x') : TileCfg).lut.init }

/-- The context in a slot becomes active: every tile stands in it, its parked tokens stand in its channels again; the first
time, its LUT flip-flops take INIT and its initial tokens are placed (R334 step 5, R345, 03_fabric.md R71). -/
def activate (s : State) (k j c : Nat) : State :=
  match s.region k j, ctxAt s k j c with
  | some r, some x =>
    let s := modSites s k r.rect (fun y x' t => { (if x.begun then t else startLuts x y x' t) with ctx := c, reconfs := 0 })
    let s := s.setRegion k j (some ({ r with active := some c, switching := none }.setCtx c
      (some { x with begun := true, parked := [], used := s.time })))
    if x.begun then unparkTokens s k x.parked else placeInitial s k x
  | _, _ => s

/-- The region has no active context. -/
def deactivate (s : State) (k j : Nat) : State :=
  match s.region k j with
  | none => s
  | some r => modSites (s.setRegion k j (some { r with active := none })) k r.rect (fun _ _ t => { t with ctx := 4, reconfs := 0 })

/-! ### CLOAD (R334) -/

/-- The CLOAD block as the loader takes it, with the foreman's values in place of its own (11_scheduling.md R246). -/
structure LoadBlk where
  image : Nat
  rect : Nat
  mode : Nat
  cage : Nat
  save : Nat

def loadBlk (b : BitVec 512) (given : Option (Nat × BitVec 5 × Nat)) : LoadBlk :=
  let own : LoadBlk := ⟨blk b 0 8, blk b 8 4, blk b 12 1, blk b 13 1, blk b 24 8⟩
  match given with
  | none => own
  | some (cage, mode, rect) => if cage = 0 then { own with rect } else { own with rect, mode := mode.toNat, cage }

/-- The fields of Table 13.8: anything else raises CMD (13_encodings.md R286). -/
def loadBlkOk (b : BitVec 512) (l : LoadBlk) : Bool :=
  decide (l.image % 64 = 0 ∧ l.rect < 2 ^ 18 ∧ l.mode < 32 ∧ 1 ≤ l.cage ∧ l.cage ≤ 64) && (unpackRect l.rect).ok &&
  decide (blk b 8 4 < 2 ^ 18 ∧ blk b 12 1 < 32) &&
  blkZero b 14 24 && blkZero b 32 64 && (decide (l.mode % 2 = 1) || decide (l.save = 0))

/-- Bytes of a region's save area (10_faults_modes.md Table 10.8), with a part of its own for each of n copies (R239). -/
def areaSize (r : Rect) (n : Nat) : Nat :=
  n * (1024 * (4 + (r.sites.map (fun (y, x) => if isMemTile y x then 34 else 5)).sum + 12 * r.streams.length))

def areaPages (r : Rect) (n va : Nat) : List Nat := (List.range ((areaSize r n + 65535) / 65536)).map (fun i => va + 65536 * i)

/-- A save area: 64 KiB aligned, every page mapped writable, in the fast tier and with no release pending (R228, R201). -/
def areaOk (s : State) (asid : BitVec 16) (r : Rect) (n va : Nat) : Bool :=
  decide (va % 65536 = 0) && (areaPages r n va).all (fun p => !inWindow p && !releasePending s asid p &&
    (match walk s asid p .write with | .ok _ => true | .error _ => false))

/-- The area's pages are pinned for the context. -/
def pinArea (s : State) (asid : BitVec 16) (r : Rect) (n va k j c : Nat) : State :=
  let h : Holder := .area k j c
  { s with pins := s.pins ++ ((areaPages r n va).filter (fun p => !s.pins.contains (asid, p, h))).map (fun p => (asid, p, h)) }

/-- The region that a load goes into: one of the same rectangle with the slot empty, or a new one (R29, R334 step 2). -/
def regionFor (s : State) (k : Nat) (r : Rect) (c : Nat) : Option Nat :=
  let existing := (List.range 4).filterMap (fun j => (s.region k j).map (fun x => (j, x.rect)))
  match existing.find? (fun e => decide (e.2 = r)) with
  | some (j, _) => if (ctxAt s k j c).isSome then none else some j
  | none =>
    if existing.any (fun e => e.2.meets r) || r.streams.isEmpty then none
    else (List.range 4).find? (fun j => (s.region k j).isNone)

/-- What the load shares with the other contexts of its region. -/
def neighboursOk (s : State) (k j : Nat) (r : Rect) (x : Ctx) : Bool :=
  match s.region k j with
  | none => true
  | some reg => reg.ctxs.all (fun e => match e.2 with
    | none => true
    | some o => r.sites.all (fun (y, x') => sharedOk (isMemTile y x') (x.tcfg y x') (o.tcfg y x')))

/-- Loads an image into slot c of the region with rectangle r, or answers none for CFG: the region, and the state in
which the context is resident (R334 steps 2 to 4). -/
def loadImage (s : State) (k c : Nat) (r : Rect) (asid : BitVec 16) (image : List Byte) (l : LoadBlk) (word : QWord)
    (task : Option Nat) : Option (Nat × State) :=
  match regionFor s k r c with
  | none => none
  | some j =>
    if imageFormOk image r = false then none else
    let x := imgCtx image r (BitVec.ofNat 5 l.mode) l.cage
    let freeze := decide (l.mode % 2 = 1)
    if loadOk s k r x && neighboursOk s k j r x && (!freeze || areaOk s asid r 1 l.save) then
      let x := { x with id := s.nextId, image := l.image, asid, save := l.save, saveAsid := asid, ends := pathEnds x r, cmd := word, task, used := s.time }
      let s := match s.region k j with
        | some _ => s
        | none => s.setRegion k j (some { y0 := r.y0, x0 := r.x0, y1 := r.y1, x1 := r.x1 })
      let s := modSites (modRegion { s with nextId := s.nextId + 1 } k j (fun reg => reg.setCtx c (some x))) k r (fun _ _ t => clearCtx c t)
      some (j, if freeze then pinArea s asid r 1 l.save k j c else s)
    else none

/-- The task that a load serves: the foreman's, or the one that the thread holds. -/
def loadTask (s : State) (k : Nat) (q : QCmd) : Option Nat :=
  match q.byForeman with | some p => some p | none => (s.thread k).task

/-- The loader reads the whole image of LENGTH bytes, its header first, as the command's reads 1 and 2; none for an image
shorter than its header. -/
def readImage (s : State) (k : Nat) (q : QCmd) (va : Nat) : Got (List Byte) :=
  match readPart s k q (loaderEng k) 1 [(va, 128)] with
  | .ok s h =>
    let n := imgAt h 28 4
    if n < 128 then .ok s [] else
    (match readPart s k q (loaderEng k) 2 [(va + 128, n - 128)] with
     | .ok s l => .ok s (h ++ l)
     | .wait s => .wait s
     | .fault s c va => .fault s c va)
  | .wait s => .wait s
  | .fault s c va => .fault s c va

/-- The copies of loads in the way of a new region: those that it meets, or all when no region number is free. -/
def copiesInWay (s : State) (k : Nat) (r : Rect) : List Nat :=
  let full := (List.range 4).all (fun i => (s.region k i).isSome) && !(List.range 4).any (fun i => (s.region k i).any (fun x => decide (x.rect = r)))
  (List.range 4).filter (fun i => (s.region k i).any (fun x => x.ctxs.any (fun e => e.2.any (·.copyOf.isSome)) && (full || x.rect.meets r)))

/-- The foreman takes a copy back for another load: at once at a boundary of its load, else at the next one (11_scheduling.md R255). -/
def askBack (s : State) (k i : Nat) : State :=
  match (List.range 4).flatMap (fun j => (List.range 4).filterMap (fun c => (ctxAt s k j c).bind (fun x => if x.clones.contains i then some (j, c) else none))) with
  | (j, c) :: _ =>
    if (liveSegs s k j c).isEmpty then dropCopies s k j c 0 else modCtx s k j c (fun x => { x with lowWindows := 2 })
  | [] => s

def execCload (c : Cmd) (s : State) : Res :=
  onQueue s (.cload c) (fun s k q =>
    match blockPart s k q (loaderEng k) with
    | .wait s => .next s
    | .fault s code va => .next (faultCmd s k 1 q code va)
    | .ok s b =>
      let l := loadBlk b q.given
      if loadBlkOk b l = false then .next (faultCmd s k 1 q fcCMD 0)
      else if copiesInWay s k (unpackRect l.rect) ≠ [] then .next ((copiesInWay s k (unpackRect l.rect)).foldl (fun s i => askBack s k i) s)
      else match readImage s k q l.image with
        | .wait s => .next s
        | .fault s code va => .next (faultCmd s k 1 q code va)
        | .ok s image =>
          -- a save area's PTEs are read by the translation service
          match pagesRead q.asid (if l.mode % 2 = 1 then areaPages (unpackRect l.rect) 1 l.save else []) s with
          | .wait s => .next s
          | .fault s code => .next (faultCmd s k 1 q code l.save)
          | .ready s _ =>
          match loadImage s k c.bind.toNat (unpackRect l.rect) q.asid image l q.word (loadTask s k q) with
          | none => .next (faultCmd s k 1 q fcCFG 0)
          | some (j, s) =>
            let idle := match s.region k j with | some r => r.active.isNone && r.switching.isNone | none => false
            .next (endCmd (if idle then activate s k j c.bind.toNat else s) k q.id 0))

/-! ### CSWITCH, RECONF and settling (02_execution_model.md R40, R41, R165, R345) -/

/-- A command is bound to the context in slot c of region j (R30). -/
def isBoundTo (s : State) (k j c : Nat) (q : QCmd) : Bool :=
  decide ((cmdFields q.word).bind.toNat = c) && (boundCtxs s k q).any (fun e => decide (e.1 = j))

/-- A command bound to the context that an engine holds, in any queue, one that still reads its parameters included (R165);
stream commands stop at the boundary. -/
def boundHeld (s : State) (k j c : Nat) : Bool :=
  (s.core k).queues.any (fun e => e.2.any (fun q =>
    (decide (q.phase = .started) || (decide (q.phase = .ready) && !q.parts.isEmpty)) && isBoundTo s k j c q && !namesStream (cmdOpcode q.word)))

/-- The drain of R165: what context c's streams and bound commands have made is performed. -/
def drained (s : State) (k j c : Nat) : Bool :=
  !boundHeld s k j c &&
  (List.range 32).all (fun n => !(decide (s.regionOfStream k n = some j ∧ (s.port (portKey k n)).bind = c)) ||
    (let p := s.port (portKey k n)
     p.lines.isEmpty && p.hold.isEmpty && !scattering s k n && s.egress.all (fun r => decide (r.core ≠ k ∨ r.sid ≠ some n) || r.outcome.isSome))) &&
  s.egress.all (fun r => decide (r.core ≠ k) || r.outcome.isSome ||
    (match r.cmdId.bind (findCmd s k) with | some q => !isBoundTo s k j c q | none => true))

def execCswitch (c : Cmd) (s : State) : Res :=
  onQueue s (.cswitch c) (fun s k q =>
    let j := field c.ops 1 0
    let slot := c.bind.toNat
    if q.phase = .started then .next s
    else match s.region k j, ctxAt s k j slot with
      | some r, some x =>
        if x.frozen then .next (faultCmd s k 1 q fcCFG 0)
        else if r.stopped.isSome then .next s
        else if copiesInWay s k r.rect ≠ [] then .next ((copiesInWay s k r.rect).foldl (fun s i => askBack s k i) s)
        else if r.active = some slot then .next (endCmd s k q.id 0)
        else if r.active.isNone then .next (endCmd (activate s k j slot) k q.id 0)
        else .next (setPhase (s.setRegion k j (some { r with switching := some ⟨slot, q.id, false⟩ })) k q.id .started)
      | _, _ => .next (faultCmd s k 1 q fcCFG 0))

/-- The entry AG tiles of a load: those that a channel record names, unless an exit program runs there. -/
def entryTiles (s : State) (k : Nat) (x : Ctx) : List (Nat × Nat) :=
  x.chans.filterMap (fun h =>
    if h.fromAg then
      (match x.edge h.sid with
       | some e => let p := s.port (portKey k h.sid)
                   if e.may true && (!p.isOpen || p.entry) then some (h.sid, e.slot) else none
       | none => none)
    else none)

/-- A RECONF token: the incoming slot (03_fabric.md Table 3.3). -/
def reconfTok (slot incoming : Nat) : Token :=
  { kind := kRECONF, slot := BitVec.ofNat 4 slot, payload := BitVec.ofNat 512 incoming }

/-- At the boundary, with the outgoing context drained and its copies taken back, every entry AG tile emits one RECONF, which
its meter charges (R40 step 2, 12_power.md R270). -/
def execReconfEmit (region : BitVec 2) (s : State) : Res :=
  match s.self with
  | .core k =>
    let j := region.toNat
    (match s.region k j with
     | some r =>
       (match r.switching, r.active with
        | some w, some a =>
          (match r.ctx a with
           | some x =>
             let l := entryTiles s k x
             if w.settling || r.stopped.isSome || x.rerun.isSome || atBoundary s k j = false || drained s k j a = false ||
                 l.any (fun e => agRoom s k e.1 == 0 || (meterTake s k e.1).isNone) then .next s
             else
               let s := dropCopies (dropSettled s k j a) k j a 0
               let s := l.foldl (fun s e =>
                 deliver (stirred ((meterTake s k e.1).getD s) k j) k (agSite e.1).1 (agSite e.1).2.1 (agSite e.1).2.2 (reconfTok e.2 w.slot)) s
               .next (modRegion s k j (fun r => { r with switching := some { w with settling := true } }))
           | none => .next s)
        | _, _ => .next s)
     | none => .next s)
  | _ => .refused .wrongAgent

/-- A RECONF stands in some FIFO, range or AG tile of a region. -/
def reconfLeft (s : State) (k j : Nat) (r : Rect) : Bool :=
  r.sites.any (fun (y, x) =>
    let t := s.tile (tileKey k y x)
    t.inp.any (fun e => e.2.any (fun a => a.2.kind == kRECONF)) ||
    t.outbox.any (fun e => e.2.2.kind == kRECONF) ||
    t.ranges.any (fun e => e.2.fifo.any (fun a => a.2.kind == kRECONF) || e.2.out.any (fun a => a.2.kind == kRECONF))) ||
  (List.range 32).any (fun n => decide (s.regionOfStream k n = some j) &&
    (s.port (portKey k n)).inp.any (fun t => t.kind == kRECONF))

/-- The active context leaves: its standing tokens are parked with it. -/
def parkActive (s : State) (k j : Nat) : State :=
  match s.region k j with
  | none => s
  | some r =>
    let (s, parked) := parkTokens s k j r.rect
    match r.active with
    | some a => modCtx s k j a (fun x => { x with parked })
    | none => s

/-! ### Save areas (10_faults_modes.md R227 to R229, 15_ref_a_c.md R339) -/

/-- The registers and state of a tile that a context owns, taken from an image of the tile into the tile as it is (R229). -/
def restoreTile (c : Nat) (cfg : TileCfg) (old new : Tile) : Tile :=
  let w := cfg.cfg
  let ops := cfg.ops.map (fun e => opOf e.2)
  let pick (m : Map Lanes) (now : Map Lanes) (bit : Nat) (n : Nat) : Map Lanes :=
    (List.range n).foldl (fun acc i => if w.getLsbD (bit + i) then Map.set 0 acc i (Map.get 0 m i) else acc) now
  let matrix := ops.any (fun o => decide (0x40 ≤ o ∧ o ≤ 0x46))
  { new with
    a := pick old.a new.a 8 8, m := pick old.m new.m 4 4
    lutff := if w.getLsbD 0 then old.lutff else new.lutff
    ws := if matrix then old.ws else new.ws, wf := if matrix then old.wf else new.wf, wsc := if matrix then old.wsc else new.wsc
    -- what stands in links from other regions has stayed there (03_fabric.md R453)
    inp := old.inp.foldl (fun m e => Map.set [] m e.1 e.2) new.inp, arrivals := Nat.max old.arrivals new.arrivals
    kill := old.kill.foldl (fun m e => Map.set [] m e.1 e.2) new.kill, fch := old.fch, outbox := old.outbox
    slots := (old.slots.filter (fun e => decide (e.1 / 16 = c))).foldl (fun m e => Map.set {} m e.1 e.2)
      (new.slots.filter (fun e => decide (e.1 / 16 ≠ c)))
    ranges := Map.set {} new.ranges c (Map.get {} old.ranges c)
    sr := Map.set 0 new.sr c (Map.get 0 old.sr c)
    snaps := (old.snaps.filter (fun e => decide (e.1 % 4 = c))) ++ new.snaps.filter (fun e => decide (e.1 % 4 ≠ c)) }

/-- A tile's content of a context that stood in slot a, as it stands in slot b. -/
def moveSlot (a b : Nat) (t : Tile) : Tile :=
  { t with
    slots := (t.slots.filter (fun e => decide (e.1 / 16 = a))).map (fun e => (16 * b + e.1 % 16, e.2))
    ranges := Map.set {} [] b (Map.get {} t.ranges a), sr := Map.set 0 [] b (Map.get 0 t.sr a)
    snaps := (t.snaps.filter (fun e => decide (e.1 % 4 = a))).map (fun e => (4 * (e.1 / 4) + b,
      { e.2 with slots := e.2.slots.map (fun m => (16 * b + m.1 % 16, m.2)) })) }

/-- The first 32 bytes of the header (Table 15.6). -/
def areaHeader (image rect : Nat) (mode : BitVec 5) (cage slot : Nat) (pending : Bool) (master : Nat) (asid : BitVec 16) : List Byte :=
  toBytes 8 image ++ toBytes 4 rect ++ toBytes 1 mode.toNat ++ toBytes 1 cage ++ toBytes 1 (slot + 4 * pending.toNat) ++
    toBytes 1 0 ++ toBytes 2 master ++ toBytes 6 0 ++ toBytes 2 asid.toNat ++ toBytes 6 0

/-- The bytes of line i of an area that is scanned out: the header's, and what the hardware chose. -/
def areaLine (stamp i : Nat) (header : List Byte) : List Byte :=
  (List.range 128).map (fun o => if 128 * i + o < 32 then header.getD (128 * i + o) 0 else Config.areaByte stamp (128 * i + o))

/-- The scan-out may begin: what the core has sent is performed, and every answer to the region's streams has come (R227,
07_consistency.md R151). -/
def areaFree (s : State) (k j : Nat) : Bool :=
  s.egress.all (fun r => decide (r.core ≠ k) || (r.outcome.isSome && (match r.sid with | some n => decide (s.regionOfStream k n ≠ some j) | none => true)))

/-- The listed bytes among the n from base, by their distance from it. -/
def cellsFrom (m : Map Byte) (base n : Nat) : Map Byte :=
  m.filterMap (fun e => if base ≤ e.1 ∧ e.1 < base + n then some (e.1 - base, e.2) else none)

/-- Where the range of a context lies in the memory of tile (y, x): its base and its length. -/
def rangeSpan (k y x : Nat) (cfg : BitVec 32) : Nat × Nat := (tileMem k y x (1024 * field cfg 31 27), 1024 * field cfg 26 21)

/-- Bytes saved from a range, and its poisoned units, stand in it again (R229, R236). -/
def putRange (s : State) (k y x : Nat) (cfg : BitVec 32) (bytes : Map Byte) (bad : List Nat) : State :=
  let (base, n) := rangeSpan k y x cfg
  let s := writeMem s base ((List.range n).map (Map.get 0 bytes))
  { s with poison := bad.foldl (fun p u => Map.set false p (base / 8 + u) true) s.poison }

/-- The regions that a load takes: the original's, then those of its copies. -/
def loadRegions (s : State) (k j : Nat) (x : Ctx) : List Region := (j :: x.clones).filterMap (s.region k)

/-- The tiles of a load by their numbers in a save area, each with where it stands. -/
def areaTiles (l : List Region) : List (Nat × Nat × Nat) :=
  l.zipIdx.flatMap (fun e => e.1.sites.map (fun (y, x) => (384 * e.2 + 24 * (y - e.1.y0) + (x - e.1.x0), y, x)))

/-- The programs of a scanned-out port stand outside their tile, or come back to it. -/
def moveProgs (s : State) (k : Nat) (p : Port) (out : Bool) : State :=
  let ids := (p.past ++ p.prog.toList ++ p.redo).map (·.cmdId)
  modCmds s k (fun q => ids.contains q.id) (fun q =>
    { q with progress := if out then (if q.progress < 4 then q.progress + 4 else q.progress) else q.progress - 4 })

/-- The number of copies of the load in a slot, and the header of its save area. -/
def copiesAt (s : State) (k j c : Nat) : Nat := match ctxAt s k j c with | some x => x.clones.length | none => 0
def headerOf (s : State) (k j c : Nat) : List Byte :=
  match s.region k j, ctxAt s k j c with
  | some r, some x => areaHeader x.image r.rect.pack x.mode x.cage c x.pending (coreMaster k) x.asid
  | _, _ => []

/-- What a scan-out takes of a tile: all but the tokens in links from other regions, and the RECONF of a switch that it cuts
short (03_fabric.md R453). -/
def savedTile (s : State) (k j y x : Nat) (t : Tile) : Tile :=
  { t with inp := (t.inp.filter (fun e => !crossLink s k j y x e.1)).map (fun e => (e.1, e.2.filter (fun a => a.2.kind != kRECONF)))
           kill := t.kill.filter (fun e => !crossLink s k j y x e.1) }

/-- Context c has been scanned out to an area in an ASID, whose lines are written: its tiles and those of its copies, the bytes
of their ranges, the ports of its region that its programs and unbound ones have open, its tokens and the region's flags; its
copies leave their regions, the region has no active context, and MODE.FROZEN reads 1 (R227, R239, R342). -/
def scanOut (s : State) (k j c : Nat) (asid : BitVec 16) (va : Nat) : State :=
  match s.region k j, ctxAt s k j c with
  | some r, some x =>
    let rect := r.rect
    let regs := (j :: x.clones).filterMap (fun i => (s.region k i).map (fun r => (i, r)))
    let sites := areaTiles (regs.map (·.2))
    let regionNo (i : Nat) : Nat := match regs[i / 384]? with | some e => e.1 | none => j
    let cfgAt (i : Nat) : BitVec 32 := x.tcfg (r.y0 + i % 384 / 24) (r.x0 + i % 24)
    let tiles : Map Tile := sites.foldl (fun m (i, y, x') => Map.set {} m i (savedTile s k (regionNo i) y x' (s.tile (tileKey k y x')))) []
    let mems := sites.filter (fun (_, y, x') => isMemTile y x')
    let mem : Map (Map Byte) := mems.foldl (fun m (i, y, x') =>
      let (base, n) := rangeSpan k y x' (cfgAt i)
      Map.set [] m i (cellsFrom s.mem base n)) []
    let bad : Map (List Nat) := mems.foldl (fun m (i, y, x') =>
      let (base, n) := rangeSpan k y x' (cfgAt i)
      Map.set [] m i (s.poison.filterMap (fun e => if base / 8 ≤ e.1 ∧ 8 * e.1 < base + n then some (e.1 - base / 8) else none))) []
    let mine := rect.streams.filter (fun n => let p := s.port (portKey k n); (decide (p.bind = c) || decide (p.bind = 7)) && p.isOpen)
    let ports : Map Port := mine.foldl (fun m n => Map.set {} m n (s.port (portKey k n))) []
    let area : SaveArea :=
      { ctx := { x with frozen := true, save := va, saveAsid := asid }, y0 := r.y0, x0 := r.x0, y1 := r.y1, x1 := r.x1, core := k
        tiles, ports, mem, bad, flags := regionFlags (s.core k).flags j, lines := r.scanned }
    let key := (areaPa s asid va).getD va
    let s := { s with saves := Map.set none s.saves key (some area) }
    let s := mine.foldl (fun s n => let p := s.port (portKey k n); (moveProgs s k p true).setPort (portKey k n) { arriving := p.arriving }) s
    let s := x.clones.foldl (fun s i => dropCopy s k i c) (modSites s k rect (fun y x' t => clearCtx c (emptyTile s k j y x' t)))
    let s := s.modCore k (fun q => { q with flags := withRegionFlags q.flags j 0 })
    let s := modCtx s k j c (fun x => { x with frozen := true, save := va, saveAsid := asid, clones := [] })
    modRegion (deactivate s k j) k j (fun r => { r with stopped := none, pendCmd := none, scanLeft := none, scanned := [] })
  | _, _ => s

/-- One more line of the area is written, in no defined order (07_consistency.md R149); one that cannot be is left out
(log 138). -/
def scanLine (s : State) (k j c : Nat) (asid : BitVec 16) (va : Nat) (left : List Nat) : State :=
  let n := Config.pieceOrder s.tick % left.length
  match left[n]? with
  | none => s
  | some i =>
    let on (s : State) (l : List (Nat × List Byte)) : State :=
      modRegion s k j (fun r => { r with scanLeft := some (left.eraseIdx n), scanned := r.scanned ++ l })
    match engReach s (loaderEng k) asid (va + 128 * i) 128 .write with
    | .wait s => s
    | .fault s _ _ => on s []
    | .ok s key =>
      let l := areaLine s.tick i (headerOf s k j c)
      on (perform s key (l.map some)) [(i, l)]

/-- The scan-out of a stopped region: it begins once nothing of the region is on its way, writes the area line by line, and
then `fin` follows (R227). -/
def scanStep (s : State) (k j c : Nat) (asid : BitVec 16) (va : Nat) (fin : State → State) : State :=
  match s.region k j with
  | none => s
  | some r =>
    if areaFree s k j = false then s else
    match r.scanLeft with
    | none => modRegion s k j (fun q => { q with scanLeft := some (List.range (areaSize r.rect (copiesAt s k j c + 1) / 128)), scanned := [] })
    | some [] => fin s
    | some left => scanLine s k j c asid va left

/-- The operands of the command that a CSAVE waits under: its area. -/
def saveCmd (s : State) (k : Nat) (r : Region) : Option (QCmd × Nat) :=
  match r.pendCmd.bind (findCmd s k) with
  | some q => if cmdOpcode q.word = 0x13 then some (q, field (cmdFields q.word).ops 55 0) else none
  | none => none

/-- CSAVE of the active context: under REPLAY it stops at its boundary, under FREEZE at once (R342). -/
def execCsave (c : Cmd) (s : State) : Res :=
  onQueue s (.csave c) (fun s k q =>
    let j := field c.ops 57 56
    let slot := c.bind.toNat
    match s.region k j, ctxAt s k j slot with
    | some r, some x =>
      if q.phase = .started then
        (if r.stopped.isSome then .next s
         else if x.mode.getLsbD 0 || (atBoundary s k j && x.rerun.isNone && !(List.range 32).any (fun n =>
             decide (s.regionOfStream k n = some j ∧ (s.port (portKey k n)).bind = slot) && streamBusy s k n))
         then .next (modRegion (if x.mode.getLsbD 0 then s else dropCopies s k j slot 0) k j (fun r => { r with stopped := some (slot, none) }))
         else .next s)
      else
      let n := if x.mode.getLsbD 0 then x.clones.length + 1 else 1
      match pagesRead q.asid (areaPages r.rect n (field c.ops 55 0)) s with
      | .wait s => .next s
      | .fault s code => .next (faultCmd s k 1 q code (field c.ops 55 0))
      | .ready s _ =>
      if r.active ≠ some slot ∨ x.frozen ∨ r.stopped.isSome ∨ areaOk s q.asid r.rect n (field c.ops 55 0) = false then
        .next (faultCmd s k 1 q fcCFG 0)
      else
        let s := modCtx s k j slot (fun x => { x with pending := false, firstBy := none })
        let s := modRegion s k j (fun r => { r with pendCmd := some q.id, stopped := if x.mode.getLsbD 0 then some (slot, none) else none })
        .next (setPhase s k q.id .started)
    | _, _ => if q.phase = .started then .next (endCmd s k q.id fcCFG) else .next (faultCmd s k 1 q fcCFG 0))

/-! ### CRESTORE (R339, R340) -/

/-- The header as an area's first bytes give it. -/
structure AreaHdr where
  image : Nat
  rect : Nat
  mode : Nat
  cage : Nat
  flags : Nat
  master : Nat
  asid : Nat

def areaHdr (b : List Byte) : AreaHdr := ⟨imgAt b 0 8, imgAt b 8 4, imgAt b 12 1, imgAt b 13 1, imgAt b 14 1, imgAt b 16 2, imgAt b 24 2⟩

/-- The state that a scan-out left in the area at an address. -/
def areaState (s : State) (asid : BitVec 16) (va : Nat) : Option (Nat × SaveArea) :=
  (areaPa s asid va).bind (fun pa => (Map.get none s.saves pa).map (fun a => (pa, a)))

/-- The area's bytes are those that the scan-out wrote, but for RESUMED (R339). -/
def areaSame (a : SaveArea) (bytes : List Byte) : Bool :=
  let clear (i : Nat) (l : List Byte) : List Byte := if i = 0 then l.zipIdx.map (fun e => if e.2 = 14 then e.1 &&& ~~~8 else e.1) else l
  (List.range (bytes.length / 128)).all (fun i => match a.lines.find? (fun l => decide (l.1 = i)) with
    | some l => decide (clear i ((bytes.drop (128 * i)).take 128) = clear i l.2)
    | none => false)

/-! ### Copies of a cloned load (02_execution_model.md R49, R50, 10_faults_modes.md R239) -/

/-- The places that a copy of the load in slot c of region j may take: a region of the same shape and kind of corner with no
active context, the slot empty and nothing in it that the load would share; then, while a region number is free, the
rectangles of the shape that meet no region and adjoin an AG tile (log 94). -/
def copySpots (s : State) (k j c : Nat) (r : Region) (x : Ctx) : List (Nat × Rect) :=
  let same (q : Rect) : Bool := decide (q.height = r.rect.height ∧ q.width = r.rect.width ∧ (q.y0 + q.x0) % 2 = (r.y0 + r.x0) % 2)
  let moved (q : Rect) : Ctx := x.movedTo { region := j, y0 := q.y0, x0 := q.x0, homeY := r.y0, homeX := r.x0 }
  let there : List (Nat × Rect) := (List.range 4).filterMap (fun i => (s.region k i).bind (fun q =>
    if decide (i ≠ j) && same q.rect && q.active.isNone && q.switching.isNone && q.stopped.isNone && (q.ctx c).isNone &&
        neighboursOk s k i q.rect (moved q.rect) then some (i, q.rect) else none))
  let free : List (Nat × Rect) := match (List.range 4).find? (fun i => (s.region k i).isNone) with
    | none => []
    | some i => (List.range 16).flatMap (fun y => (List.range 24).filterMap (fun x' =>
        let q : Rect := ⟨y, x', y + r.rect.height - 1, x' + r.rect.width - 1⟩
        if same q && q.ok && !q.streams.isEmpty && (List.range 4).all (fun a => !(s.region k a).any (fun b => b.rect.meets q))
        then some (i, q) else none))
  there ++ free

/-- A copy of the load in slot c of region j goes to a place; the SPLIT deals segments to it from the next one on (R50). -/
def insertCopy (s : State) (k j c : Nat) (spot : Nat × Rect) : State :=
  match s.region k j, ctxAt s k j c with
  | some r, some x =>
    let (i, q) := spot
    let copy : Ctx := { x.movedTo { region := j, y0 := q.y0, x0 := q.x0, homeY := r.y0, homeX := r.x0 } with
      id := 0, image := 2 ^ 64, edges := [], ranges := [], segs := [], clones := [], task := none, cmd := 0, tags := [], ends := [] }
    let reg : Region := (s.region k i).getD { y0 := q.y0, x0 := q.x0, y1 := q.y1, x1 := q.x1 }
    let b := nextSegment s k j c
    let s := s.setRegion k i (some { reg.setCtx c (some copy) with active := some c })
    let s := modSites s k q (fun y x' t => { startLuts copy y x' (clearCtx c (emptyTile s k i y x' t)) with ctx := c })
    modCtx (placeInitial s k copy) k j c (fun x => { x with clones := x.clones ++ [i], splitFrom := b, merges := [], lowWindows := 0, copyDue := false })
  | _, _ => s

/-- Places for n copies, one after the other. -/
def insertCopies (k j c : Nat) : Nat → State → Option State
  | 0, s => some s
  | n + 1, s => match s.region k j, ctxAt s k j c with
    | some r, some x => (match copySpots s k j c r x with
      | p :: _ => insertCopies k j c n (insertCopy s k j c p)
      | [] => none)
    | _, _ => none

/-- A context may be scanned in: every copy that its area holds finds a place beside it (R239). -/
def copiesFit (s : State) (k j c : Nat) (a : SaveArea) : Bool := (insertCopies k j c a.ctx.clones.length s).isSome

/-- Where a line stands once it is translated anew; one whose page has no leaf any more is refused at the scan-out's old place
in no memory (07_consistency.md R169; log 138). -/
def LineReq.moved (s : State) (l : LineReq) : LineReq :=
  if inWindow l.va then l
  else { l with pa := match walkLeaf s l.asid l.va with | .ok x => x.pa | .error _ => remoteBase - 128 }

/-- A port's lines are translated anew. -/
def Port.moved (s : State) (p : Port) : Port :=
  { p with lines := p.lines.map (·.moved s), hold := p.hold.map (fun h => match h with | .line l => .line (l.moved s) | h => h) }

/-- Scans an area into slot c of region j, which becomes active (R229, R340 step 5). -/
def scanIn (s : State) (k j c pa : Nat) (a : SaveArea) : State :=
  match s.region k j, ctxAt s k j c with
  | some r, some x =>
    let old := a.ctx
    let x := { x with id := old.id, frozen := false, begun := true, final := old.final, segs := old.segs, reruns := old.reruns
                      rerun := old.rerun, tags := old.tags, closed := old.closed, ranges := old.ranges, parked := []
                      pending := old.pending, firstBy := old.firstBy }
    let s := s.setRegion k j (some (r.setCtx c (some x)))
    let from_ := ((a.tiles.flatMap (fun e => e.2.slots.map (·.1 / 16))).headD c)
    let s := activate s k j c
    let was := match a.tiles.find? (fun e => decide (e.2.ctx < 4)) with | some e => e.2.ctx | none => from_
    let s := (insertCopies k j c old.clones.length s).getD s
    let s := modCtx s k j c (fun x => { x with splitFrom := old.splitFrom, merges := old.merges })
    let clones := match ctxAt s k j c with | some x => x.clones | none => []
    let s := (areaTiles (loadRegions s k j { x with clones })).foldl (fun s (i, y, x') =>
      let cfg : TileCfg := Map.get {} x.tiles (24 * (r.y0 + i % 384 / 24) + (r.x0 + i % 24))
      let s := s.modTile (tileKey k y x') (fun t => restoreTile c cfg (moveSlot was c (Map.get {} a.tiles i)) t)
      if isMemTile y x' then putRange s k y x' cfg.cfg (Map.get [] a.mem i) (Map.get [] a.bad i) else s) s
    let s := a.ports.foldl (fun s e => if r.rect.streams.contains e.1 then
        (moveProgs s a.core e.2 false).setPort (portKey k e.1) { e.2.moved s with bind := if e.2.bind = 7 then 7 else c } else s) s
    let s := s.modCore k (fun q => { q with flags := withRegionFlags q.flags j a.flags })
    { s with saves := Map.set none s.saves pa none }
  | _, _ => s

/-- The image is loaded into the slot anew, with the header's mode and CAGE (R340 step 3). -/
def reload (s : State) (k : Nat) (q : QCmd) (c : Nat) (r : Rect) (h : AreaHdr) (n va : Nat) : Got (Option (Nat × State)) :=
  match readImage s k q h.image with
  | .wait s => .wait s
  | .fault s code va => .fault s code va
  | .ok s image =>
    let l : LoadBlk := ⟨h.image, r.pack, h.mode, h.cage, if h.mode % 2 = 1 then va else 0⟩
    match loadImage s k c r q.asid image l 0 (loadTask s k q) with
    | none => .ok s none
    | some (j, s') => .ok s (some (j, pinArea s' q.asid r n va k j c))

/-- The context in the slot is the frozen one of this area: CRESTORE resumes it in place (R340 step 1). -/
def restoreInPlace (s : State) (k j slot : Nat) (asid : BitVec 16) (va : Nat) : Bool :=
  (ctxAt s k j slot).any (fun x => x.frozen && decide (x.save = va ∧ x.saveAsid = asid))

/-- The checks of R340 step 1 on the header, for a region of the operand rectangle if there is one. -/
def restoreOk (s : State) (k slot : Nat) (q : QCmd) (r : Rect) (va : Nat) (h : AreaHdr) (region : Option Nat) : Bool :=
  let hr := unpackRect h.rect
  decide (va % 65536 = 0 ∧ h.flags / 8 % 2 = 0 ∧ h.asid = q.asid.toNat ∧ h.master / 128 = coreDie k ∧ hr.height = r.height ∧ hr.width = r.width) && r.ok &&
    (match region with
     | some j => (ctxAt s k j slot).isNone || restoreInPlace s k j slot q.asid va
     | none => true)

/-- The region of core k with a rectangle. -/
def regionWith (s : State) (k : Nat) (r : Rect) : Option Nat :=
  (List.range 4).find? (fun j => (s.region k j).any (fun x => decide (x.rect = r)))

/-! ### A context leaves its slot -/

/-- The context leaves its slot: its copies and pins fall, its tokens go with it, and a region with no context is dissolved. -/
def emptyCtx (s : State) (k j c : Nat) : State :=
  match s.region k j with
  | none => s
  | some r =>
    let s := dropPins (dropPins (dropCopies s k j c 0) (.context k j c)) (.area k j c)
    let s := if r.active = some c then
        modSites s k r.rect (fun y x t => emptyTile s k j y x t)
      else s
    let s := modSites s k r.rect (fun _ _ t => clearCtx c t)
    let s : State := if r.active = some c then
        { s with barriers := s.barriers.filter (fun b => !(decide (b.core = k ∧ b.region = j) && b.cmdId.isNone)) }
      else s
    let s := modRegion s k j (fun r => { r.setCtx c none with active := if r.active = some c then none else r.active, pendCmd := none })
    match s.region k j with
    | some r => if r.ctxs.isEmpty then s.setRegion k j none else s
    | none => s

/-! ### CRESTORE, and the ends of switches and scan-outs -/

/-- CRESTORE ends with a code: RESUMED is cleared again at the header's home, and what follows it happens (R340). -/
def unresume (s : State) (k : Nat) (q : QCmd) (va : Nat) (fin : State → State) : State :=
  match engReach s (loaderEng k) q.asid (va + 14) 1 .write with
  | .wait s => s
  | .fault s _ _ => fin s
  | .ok s key => fin (perform s key [some (readByte s key &&& ~~~8)])

/-- Step 4 of CRESTORE: a region with an active context stops it as a switch does. Its progress is 1 once the region has none;
that it resumes a context in place stands with it as its write 8. -/
def stopFor (s : State) (k j c : Nat) (q : QCmd) (va : Nat) (inPlace : Bool) : State :=
  let s := modCtx s k j c (fun x => { x with save := va, saveAsid := q.asid, frozen := true })
  match s.region k j with
  | none => s
  | some reg =>
    let s := if reg.active.isSome then s.setRegion k j (some { reg with switching := some ⟨c, q.id, false⟩ }) else s
    modCmd s k q.id (fun q => { q with phase := .started, progress := if reg.active.isSome then 0 else 1
                                       puts := q.puts ++ (if inPlace then [(8, 0)] else []) })

/-- Step 5 of CRESTORE: the area is read, and scanned in. Bytes that software has changed end it with CFG (R339; log 34); so
does an area whose copies find no place. An area that cannot be read leaves the slot empty, and RESUMED is cleared (R340). -/
def scanBack (s : State) (k c : Nat) (q : QCmd) (r : Rect) (va : Nat) : State :=
  match regionWith s k r, areaState s q.asid va with
  | some j, some (pa, a) =>
    let leave (s : State) : State := if q.puts.contains (8, 0) then s else emptyCtx s k j c
    (match readPart s k q (loaderEng k) 3 [(va, areaSize r (a.ctx.clones.length + 1))] with
     | .wait s => s
     | .fault s code fva => unresume s k q va (fun s => faultCmd (emptyCtx s k j c) k 1 q code fva)
     | .ok s bytes =>
       if areaSame a bytes && copiesFit s k j c a then endCmd (scanIn s k j c pa a) k q.id 0
       else unresume s k q va (fun s => faultCmd (leave s) k 1 q fcCFG 0))
  | _, _ => faultCmd s k 1 q fcCFG 0

/-- CRESTORE (R340). Its header is its read 0, its image its reads 1 and 2, the area its read 3; that it has set RESUMED
stands with it as its write 9. -/
def execCrestore (c : Cmd) (s : State) : Res :=
  onQueue s (.crestore c) (fun s k q =>
    let va := field c.ops 55 0
    let slot := c.bind.toNat
    let r := unpackRect (field c.ops 73 56)
    let e := loaderEng k
    if q.phase = .started then .next (if q.progress = 1 then scanBack s k slot q r va else s)
    else match readPart s k q e 0 [(va, 64)] with
      | .wait s => .next s
      | .fault s code va => .next (faultCmd s k 1 q code va)
      | .ok s bytes =>
        let h := areaHdr bytes
        let region := regionWith s k r
        if q.puts.contains (9, 0) = false then
          if restoreOk s k slot q r va h region = false then .next (faultCmd s k 1 q fcCFG 0)
          else if copiesInWay s k r ≠ [] then .next ((copiesInWay s k r).foldl (fun s i => askBack s k i) s)
          else match engReach s e q.asid (va + 14) 1 .write with
            | .wait s => .next s
            | .fault s code va => .next (faultCmd s k 1 q code va)
            | .ok s key =>
              if (readByte s key).getLsbD 3 ∨ (areaState s q.asid va).isNone then .next (faultCmd s k 1 q fcCFG 0)
              else .next (modCmd (perform s key [some (readByte s key ||| 8)]) k q.id (fun q => { q with puts := q.puts ++ [(9, 0)] }))
        else match region with
          | some j => if restoreInPlace s k j slot q.asid va then .next (stopFor s k j slot q va true) else anew s k q slot r h va
          | none => anew s k q slot r h va)
where
  /-- The context is loaded anew. -/
  anew (s : State) (k : Nat) (q : QCmd) (slot : Nat) (r : Rect) (h : AreaHdr) (va : Nat) : Res :=
    match areaState s q.asid va with
    | none => .next (unresume s k q va (fun s => faultCmd s k 1 q fcCFG 0))
    | some (_, a) => match reload s k q slot r h (a.ctx.clones.length + 1) va with
      | .wait s => .next s
      | .fault s code fva => .next (unresume s k q va (fun s => faultCmd s k 1 q code fva))
      | .ok s none => .next (unresume s k q va (fun s => faultCmd s k 1 q fcCFG 0))
      | .ok _ (some (j, s)) => .next (stopFor s k j slot q va false)

/-- A switch whose outgoing context has left ends: the incoming context is active and its CSWITCH retires; a CRESTORE goes on
to scan its area in (02_execution_model.md R40 step 3, R340, R345). -/
def finishSwitch (s : State) (k j : Nat) (w : Switch) : State :=
  let s := modRegion s k j (fun r => { r with switching := none })
  match findCmd s k w.cmdId with
  | some q => if cmdOpcode q.word = 0x14 then setProgress s k q.id 1 else endCmd (activate s k j w.slot) k q.id 0
  | none => activate s k j w.slot

/-- The switch has settled: the tiles on no channel switch too, and it ends. -/
def execCswitchSettle (region : BitVec 2) (s : State) : Res :=
  match s.self with
  | .core k =>
    let j := region.toNat
    (match s.region k j with
     | none => .next s
     | some r =>
       match r.switching with
       | none => .next s
       | some w =>
         if w.settling = false ∨ reconfLeft s k j r.rect then .next s
         else .next (finishSwitch (deactivate (parkActive s k j) k j) k j w))
  | _ => .refused .wrongAgent

/-- A step of the scan-out of a stopped region; at its end a FREEZE fault is delivered, or a CSAVE retires (R227, R342), and a
switch that waited for the context goes on (R340, R345). A fault whose load CRESTORE can resume is not final (Table 10.6), and
its code enters no FIFO before its commands retire (log 139). -/
def execFreezeScanComplete (region : BitVec 2) (s : State) : Res :=
  match s.self with
  | .core k =>
    let j := region.toNat
    (match s.region k j with
     | none => .next s
     | some r =>
       let go (s : State) : State := match r.switching with | some w => finishSwitch s k j w | none => s
       match r.stopped with
       | none => .next s
       | some (c, f) =>
         match f, saveCmd s k r with
         | none, some (q, va) =>
           .next (scanStep s k j c q.asid va (fun s =>
             go (endCmd (scanOut (pinArea s q.asid r.rect (copiesAt s k j c + 1) va k j c) k j c q.asid va) k q.id 0)))
         | some f, waiting =>
           let (asid, va) := match ctxAt s k j c with | some x => (x.asid, x.save) | none => (0, 0)
           .next (scanStep s k j c asid va (fun s =>
             let s := scanOut (deliverSeg s k j c f false va) k j c asid va
             go (match waiting with | some (q, _) => faultCmd s k 1 q fcCFG 0 | none => s)))
         | none, none => .next s)
  | _ => .refused .wrongAgent

/-! ### CRETIRE (R341) -/

/-- The bound streams of a context that are open. -/
def boundPorts (s : State) (k j c : Nat) : List Nat :=
  (regionPorts s k j).filter (fun n => decide ((s.port (portKey k n)).bind = c))

/-- One step of the closing of a context's streams: the state, and whether all are closed. -/
def closeBound (s : State) (k j c : Nat) : State × Bool :=
  match boundPorts s k j c with
  | [] => (s, true)
  | n :: _ =>
    if streamBusy s k n then (drain (flushLines s k n) k n, false)
    else
      let s := idleCloses (idlePort s k n fcTASK) k n
      (s, (boundPorts s k j c).isEmpty)

/-- The comparison of R32 for the entry streams that stood in a frozen context's area and have closed with it. -/
def compareSaved (s : State) (k j c : Nat) (x : Ctx) (q : QCmd) : State × Code :=
  match areaState s x.saveAsid x.save with
  | none => (s, 0)
  | some (_, a) =>
    let mine := a.ctx.closed
    compareCounts (modCtx s k j c (fun x => { x with closed := mine })) k j c ((mine.map (·.1)).getLastD 0) (some (1, q))

def execCretire (c : Cmd) (s : State) : Res :=
  onQueue s (.cretire c) (fun s k q =>
    let j := field c.ops 1 0
    let slot := c.bind.toNat
    match s.region k j, ctxAt s k j slot with
    | some r, some x =>
      if x.frozen then
        let (s, code) := compareSaved (closeSaved s k x) k j slot x q
        .next (endCmd (emptyCtx s k j slot) k q.id code)
      else if r.stopped.isSome ∨ r.switching.isSome then .next s
      else
        let active := decide (r.active = some slot)
        let s := if active then s.setRegion k j (some { r with pendCmd := some q.id }) else s
        let s := setPhase s k q.id .started
        if active && (!atBoundary s k j || x.rerun.isSome || !drained s k j slot) then
          -- streams flush and drain what their finished segments left
          .next ((boundPorts s k j slot).foldl (fun s n => if atBoundary s k j then drain (flushLines s k n) k n else s) s)
        else
          let last := (boundPorts s k j slot).getLast?
          let (s, shut) := closeBound s k j slot
          if shut = false then .next s
          else
            let (s, code) := match last with | some n => compareCounts s k j slot n (some (1, q)) | none => (s, 0)
            .next (endCmd (emptyCtx s k j slot) k q.id code)
    | _, _ => .next (faultCmd s k 1 q fcCFG 0))

/-! ### Re-runs and the watchdog -/

/-- A discarded segment runs again, at once or once its page's completion record has been appended; a record that reports
an error makes the DEEP final (R226). -/
def execReplayRerun (region : BitVec 2) (s : State) : Res :=
  match s.self with
  | .core k =>
    let j := region.toNat
    (match s.region k j with
     | none => .next s
     | some r =>
       match r.active with
       | none => .next s
       | some c => match r.ctx c with
         | none => .next s
         | some x => match x.rerun with
           | none => .next s
           | some u =>
             match u.waits, u.status with
             | none, _ => .next (modCtx s k j c (fun x => { x with rerun := none }))
             | some _, none => .next s
             | some _, some code =>
               let s := modCtx s k j c (fun x => { x with rerun := none })
               if code = 0 then .next s
               else .next (stopLoad (discard (deliverSeg s k j c u.fault true 0) k j c u.seg) k j c fcDEEP))
  | _ => .refused .wrongAgent

/-- A region in which nothing has moved for 2^24 cycles: WATCHDOG against its oldest segment in flight (R237). -/
def execWatchdog (region : BitVec 2) (s : State) : Res :=
  match s.self with
  | .core k =>
    let j := region.toNat
    (match s.region k j with
     | none => .next s
     | some r =>
       match r.active with
       | none => .next s
       | some c =>
         if r.stopped.isSome ∨ watchStill s k j ∨ watchCount s k j < 2 ^ 24 then .next s else
         match (liveSegs s k j c).map (·.n) with
         | [] => .next s
         | n :: rest => .next (segFault s k j c { code := fcWATCHDOG, seg := rest.foldl Nat.min n }))
  | _ => .refused .wrongAgent

end Sys2Proof.Machine
end

