-- ==== Sys2Proof/Machine/Foreman.lean ====
section
/-!
DEFINITION. What a foreman does: intake, the ends of tasks, cancels and teardowns, binding, pre-emption and cloning, with
TAKE and YIELD of the control thread (11_scheduling.md R240 to R264, 10_faults_modes.md R232, R233, 19_ref_t_z.md R420,
R425, R439).
-/
namespace Sys2Proof.Machine

open Sys2Proof

/-! ### Fields of a task type (Table 11.3) -/

def Foreman.image (f : Foreman) (t : Nat) : Nat := field (f.typeWord t 0) 55 0
def Foreman.entryPc (f : Foreman) (t : Nat) : Nat := field (f.typeWord t 1) 55 0
def Foreman.param (f : Foreman) (t : Nat) : Nat := field (f.typeWord t 2) 55 0
def Foreman.strides (f : Foreman) (t : Nat) : Int × Int × Int :=
  (sextN (field (f.typeWord t 3) 31 0) 32, sextN (field (f.typeWord t 3) 63 32) 32, sextN (field (f.typeWord t 4) 31 0) 32)
def Foreman.quant (f : Foreman) (t : Nat) : Nat := field (f.typeWord t 5) 63 32
def Foreman.scratch (f : Foreman) (t : Nat) : Nat := field (f.typeWord t 5) 31 24
def Foreman.typeMode (f : Foreman) (t : Nat) : BitVec 5 := (f.typeWord t 5).extractLsb' 19 5
def Foreman.typeCage (f : Foreman) (t : Nat) : Nat := field (f.typeWord t 5) 18 12
def Foreman.width (f : Foreman) (t : Nat) : Nat := field (f.typeWord t 5) 11 7 + 1
def Foreman.height (f : Foreman) (t : Nat) : Nat := field (f.typeWord t 5) 6 3 + 1
def Foreman.args (f : Foreman) (t : Nat) : Nat := field (f.typeWord t 5) 2 0

/-- The foreman runs the step; any other agent refuses it. -/
def onForeman (s : State) (f : Nat → Res) : Res :=
  match s.self with
  | .foreman d => f d
  | _ => .refused .wrongAgent

/-! ### Ends (R251, R249) -/

/-- Pool entry p has ended, and the foreman has yet to handle it. -/
def ending (f : Foreman) (p : Nat) : Bool := f.inbox.any (fun m => match m with | .ended q _ _ => decide (q = p) | _ => false)

/-- The task waits on no key any more. -/
def unwait (f : Foreman) (p : Nat) : Foreman :=
  { f with keys := (f.keys.map (fun (n, k) => (n, { k with waiters := k.waiters.filter (fun q => decide (q ≠ p)) }))).filter (fun e => e.2 != {}) }

/-- The contexts that served pool entry p of foreman d serve no task. -/
def releaseCtxs (s : State) (d p : Nat) : State :=
  { s with cores := s.cores.map (fun (k, c) => (k, if coreDie k = d then
      { c with regions := c.regions.map (fun (j, r) => (j, r.map (fun x =>
          { x with ctxs := x.ctxs.map (fun (i, y) => (i, y.map (fun z => if z.task = some p then { z with task := none } else z))) }))) }
      else c)) }

/-- DRAINING clears once no task of the queue remains (R262). -/
def settleDrain (f : Foreman) (q : Nat) : Foreman :=
  if f.pool.any (fun e => match e.2 with | some t => decide (t.queue = q) | none => false) then f
  else f.setDesc q 3 (f.descWord q 3 &&& ~~~0x10)

/-- The signal key of an ended task counts, at the foreman that took the task in (Table 11.5, R264). -/
def signalKey (s : State) (d : Nat) (t : Task) (good : Bool) : State :=
  match crossFrom s d (t.takenAt.getD d) 0 with
  | (s, true) => s
  | (s, false) => s.modForeman (t.takenAt.getD d) (fun f => settle s.time (bumpKey f (recSig t.record) good) (recSig t.record))

/-- A task has ended: its job is told, at home or over Adit, its signal key counts, and its pool entry is free (R249, R251,
Table 11.5). -/
def finishTask (s : State) (d p : Nat) (how : EndKind) (code : Code) : State :=
  match (s.foreman d).entry p with
  | none => s
  | some t =>
    let j := recJob t.record
    let s := if j = 0 then s
      else if isOwn s t.origin then tell s d (jobCluster j) (.decrement j how code)
      else tellModule s d (t.origin % 4096) (.decrement j how code)
    let good := match how with | .completed => true | .failed => recKeep t.record | .cancelled => false
    let s := signalKey (s.modForeman d (fun f => unwait f p)) d t good
    let s := s.modForeman d (fun f => settleDrain (f.setEntry p none) t.queue)
    dropPins (releaseCtxs s d p) (.task d p)

/-- The message at a place of a foreman's inbox, and the foreman without it. -/
def takeMsg (s : State) (d k : Nat) : Option (Msg × State) :=
  ((s.foreman d).inbox[k]?).map (fun m => (m, s.modForeman d (fun f => { f with inbox := f.inbox.eraseIdx k })))

def execTaskEnd (k : Nat) (s : State) : Res :=
  onForeman s (fun d => match takeMsg s d k with
    | some (.ended p how code, s) => .next (finishTask s d p how code)
    | _ => .next s)

/-- A decrement reaches the job's home, with what the end adds to its status. -/
def execJobDecrement (k : Nat) (s : State) : Res :=
  onForeman s (fun d => match takeMsg s d k with
    | some (.decrement j how code, s) =>
      .next (modJob s j (fun e => if e.isOpen ∧ e.gen = jobGen j then { e.addEnd how code with count := e.count - 1 } else e))
    | _ => .next s)

/-! ### Cancels and teardowns (R259, R261, R262) -/

def endLater (s : State) (d p : Nat) (how : EndKind) (code : Code) : State :=
  s.modForeman d (fun f => { f with inbox := f.inbox ++ [.ended p how code] })

/-- The frozen contexts of a task on core k are retired, and their areas discarded (R261 step 3). -/
def retireFrozen (s : State) (k p : Nat) : State :=
  (List.range 4).foldl (fun s j => (List.range 4).foldl (fun s c => match ctxAt s k j c with
    | some x => if x.frozen ∧ x.task = some p then emptyCtx (closeSaved s k x) k j c else s
    | none => s) s) s

/-- A stopped stream that stands with its pre-empted task closes. -/
def closeParked (k : Nat) : List (Nat × Port) → State → State
  | [], s => s
  | (n, p) :: rest, s => closeParked k rest (dropPins (if p.entry || p.shut then s else dirtyRecord s k n p) (.stream p.id))

/-- The commands that the foreman has issued for pool entry p and that no engine holds retire with TASK (R261 step 2). -/
def stopIssued (s : State) (k p : Nat) : State :=
  modCmds s k (fun c => decide (c.byForeman = some p ∧ (c.phase = .queued ∨ c.phase = .ready))) (fun c => { c with phase := .done fcTASK })

/-- A task of the pool is cancelled: one that does not run ends CANCELLED, one that runs is abandoned (R259, R261). -/
def cancelTask (s : State) (d p : Nat) : State :=
  match (s.foreman d).entry p with
  | none => s
  | some t =>
    if ending (s.foreman d) p then s else
    match t.state with
    | .waiting | .ready => endLater (s.modForeman d (fun f => unwait f p)) d p .cancelled 0
    | .preempted =>
      let s := closeParked t.core t.ports s
      endLater (if coreDie t.core = d then retireFrozen s t.core p else s) d p .cancelled 0
    | .bound =>
      let s := retireFrozen (closeParked t.core t.ports (stopIssued s t.core p)) t.core p
      let s := s.modCore t.core (fun c => { c with bound := if c.bound = some p then none else c.bound })
      endLater s d p .cancelled 0
    | .running => stopWork (s.modForeman d (fun f => f.setEntry p (some { t with doomed := true }))) t.core

/-- The tasks of the pool that p holds of are cancelled. -/
def cancelWhere (s : State) (d : Nat) (p : Task → Bool) : State :=
  (s.foreman d).pool.foldl (fun s e => match e.2 with | some t => if p t then cancelTask s d e.1 else s | none => s) s

def execCancelArrival (k : Nat) (s : State) : Res :=
  onForeman s (fun d => match takeMsg s d k with
    | some (.cancel j origin, s) => .next (cancelWhere s d (fun t => decide (t.origin % 4096 = origin ∧ recJob t.record = j)))
    | _ => .next s)

/-- TEARDOWN of queue q of foreman d (R262). -/
def tearDown (s : State) (d q : Nat) : State :=
  let s := s.modForeman d (fun f => f.setDesc q 3 ((f.descWord q 3 &&& ~~~1) ||| 0x10))
  (cancelWhere s d (fun t => decide (t.queue = q))).modForeman d (fun f => settleDrain f q)

def execTeardown (q : BitVec 4) (s : State) : Res := onForeman s (fun d => .next (tearDown s d q.toNat))

/-! ### Intake (R240 to R243) -/

def ringBase (f : Foreman) (q : Nat) : Nat := field (f.descWord q 0) 47 7 * 128
def tailPa (f : Foreman) (q : Nat) : Nat := field (f.descWord q 1) 47 3 * 8
def headPa (f : Foreman) (q : Nat) : Nat := field (f.descWord q 2) 47 3 * 8
def ringRecords (f : Foreman) (q : Nat) : Nat := 2 ^ (field (f.descWord q 3) 10 8 + 4)

/-- n bytes lie wholly in stack memory or in the host window (R241). -/
def stackOrHost (pa n : Nat) : Bool := decide (pa + n ≤ 0x8000000000 ∨ (hostBase ≤ pa ∧ pa + n ≤ remoteBase))

/-- The origin of a foreman's own accesses (14_system.md Table 14.2). -/
def foremanOrigin (d : Nat) : Origin := ownOrigin (768 + d)

/-- ENABLE does not stand: it is 0, and ERR is set. -/
def refuseQueue (f : Foreman) (q : Nat) : Foreman := f.setDesc q 3 ((f.descWord q 3 &&& ~~~1) ||| 4)

/-- The foreman reads the head counter of a queue that has been enabled; one that cannot be read leaves ENABLE 0 and ERR set
(R241; log 142). -/
def readHead (s : State) (d q : Nat) : State :=
  let read (f : Foreman) : Foreman := { f with reading := f.reading.filter (fun n => decide (n ≠ q)) }
  if (s.foreman d).enabled q = false then s.modForeman d read else
  let pa := headPa (s.foreman d) q
  match reach s pa 8 .read (foremanOrigin d) with
  | .wait s => s
  | .fault s _ => s.modForeman d (fun f => refuseQueue (read f) q)
  | .ready s key => s.modForeman d (fun f => { read f with head := Map.set 0 f.head q (readNat s key 8) })

/-- A write of ENABLE = 1: the checks of R241, and the head counter, as soon as it can be read. -/
def enableQueue (s : State) (d q : Nat) : State :=
  let f := s.foreman d
  if stackOrHost (ringBase f q) (16 * ringRecords f q) && stackOrHost (tailPa f q) 8 && stackOrHost (headPa f q) 8 then
    readHead (s.modForeman d (fun f =>
      { f.setDesc q 3 ((f.descWord q 3 &&& ~~~4) ||| 1) with reading := f.reading.filter (fun n => decide (n ≠ q)) ++ [q] })) d q
  else s.modForeman d (fun f => refuseQueue f q)

def execIntakeEnable (q : BitVec 4) (s : State) : Res := onForeman s (fun d => .next (enableQueue s d q.toNat))

/-- The head slot of a queue. -/
def headSlot (f : Foreman) (q : Nat) : Nat := ringBase f q + 16 * (Map.get 0 f.head q % ringRecords f q)

/-- The record in the head slot of a queue. -/
def headRecord (s : State) (f : Foreman) (q : Nat) : QWord := BitVec.ofNat 128 (readNat s (headSlot f q) 16)

/-- The queue that is served next: from the one after the last served, the first whose head slot holds a valid record (R243). -/
def nextQueue (s : State) (f : Foreman) : Option Nat :=
  ((List.range 16).map (fun i => (f.turn + i) % 16)).find? (fun q => f.enabled q && !f.reading.contains q && recValid (headRecord s f q))

/-- One record of a ring: taken, checked, its slot cleared and the head counter raised, each at its home (R243, R245, R249,
07_consistency.md R166, 14_system.md R303). Queues take turns. A record whose slot or counter cannot be accessed stays where it
is (log 142). -/
def execIntakeRecord (q : BitVec 4) (s : State) : Res :=
  onForeman s (fun d =>
    let f := s.foreman d
    let q := q.toNat
    let slot := headSlot f q
    if nextQueue s f ≠ some q ∨ f.full then .next s else
    match reachAll (foremanOrigin d) [(slot, 16, .read), (slot, 16, .write), (headPa f q, 8, .write)] s with
    | .wait s => .next s
    | .fault s _ => .next s
    | .ready s _ =>
      let r := headRecord s f q
      let asid := f.queueAsid q
      let h := (Map.get 0 f.head q + 1) % 2 ^ 64
      let ok := recordOk s d r asid true
      let s := perform (perform s slot (cellsOf 16 0)) (headPa f q) (cellsOf 8 h)
      let s := s.modForeman d (fun f => { f with head := Map.set 0 f.head q h, turn := (q + 1) % 16 })
      let origin := ownModule s + 4096 * d
      if ok then .next (admitRecord (raiseJob s (recJob r) asid) d q r asid origin false)
      else .next (rejectRecord s d q r asid origin false))

/-! ### Shapes and places (R253) -/

/-- The thread of core k waits in TAKE with no task bound to its core. -/
def waitsInTake (s : State) (k : Nat) : Bool :=
  let t := s.thread k
  decide (t.run = .running) && t.taking && t.stall.isSome && t.task.isNone && (s.core k).bound.isNone

/-- The context was loaded by the CLOAD block at IMAGE, in the ASID. -/
def holdsImage (x : Ctx) (image : Nat) (asid : BitVec 16) : Bool := x.copyOf.isNone && decide (field x.cmd 55 0 = image ∧ x.asid = asid)

/-- The longest contiguous run of unclaimed KiB among the 32 of a memory tile. -/
def freeRun (claims : List (Nat × Nat)) : Nat :=
  ((List.range 32).foldl (fun (acc : Nat × Nat) i =>
    if claims.any (fun c => decide (c.1 ≤ i ∧ i < c.1 + c.2)) then (0, acc.2) else (acc.1 + 1, Nat.max acc.2 (acc.1 + 1))) (0, 0)).2

/-- Each memory tile of the region has SCRATCH KiB in one run that no context but one of IMAGE claims. -/
def scratchOk (r : Region) (image : Nat) (asid : BitVec 16) (kib : Nat) : Bool :=
  r.rect.sites.all (fun (y, x) => !isMemTile y x ||
    decide (kib ≤ freeRun (r.ctxs.filterMap (fun e => match e.2 with
      | some c =>
        let w := (Map.get {} c.tiles (24 * y + x)).cfg
        if holdsImage c image asid then none else some (field w 31 27, field w 26 21)
      | none => none))))

/-- A copy of a load runs in the region. -/
def Region.hasCopy (r : Region) : Bool := r.ctxs.any (fun e => e.2.any (fun c => c.copyOf.isSome))

/-- The save slot of pool entry p (R263, Table 11.7), and its fields. -/
def saveSlot (f : Foreman) (p : Nat) : Nat := 1024 * f.saveBase + 1024 * p

/-- The accesses of the eight lines of a save slot, each at its home (R263, 06_memory.md R136, R137, 14_system.md R303). -/
def slotReach (s : State) (d p : Nat) (kd : Kind) : Acc :=
  reachAll (foremanOrigin d) ((List.range 8).map (fun i => (saveSlot (s.foreman d) p + 128 * i, 128, kd))) s

/-- The 1 KiB of a save slot is written. -/
def putSlot (s : State) (d p : Nat) (bytes : List Byte) : State :=
  (List.range 8).foldl (fun s i => perform s (saveSlot (s.foreman d) p + 128 * i) (((bytes.drop (128 * i)).take 128).map some)) s
def savedMask (s : State) (d p : Nat) : Nat := nfield (readNat s (saveSlot (s.foreman d) p + 24) 8) 23 20
def savedActive (s : State) (d p : Nat) : Nat := nfield (readNat s (saveSlot (s.foreman d) p + 24) 8) 19 18
def savedLoad (s : State) (d p c : Nat) : QWord := BitVec.ofNat 128 (readNat s (saveSlot (s.foreman d) p + 32 + 16 * c) 16)

/-- The context that a pre-empted task left in slot c still stands there in a region. -/
def stillHeld (t : Task) (r : Region) (c : Nat) : Bool := (r.ctx c).any (fun x => x.copyOf.isNone && t.left.contains (c, x.id))

/-- Each slot of the task's saved mask is empty in the region, or still holds what the task left there (R264). -/
def maskFits (s : State) (d p : Nat) (t : Task) (r : Region) : Bool :=
  (List.range 4).all (fun c => !(BitVec.ofNat 4 (savedMask s d p)).getLsbD c || (r.ctx c).isNone || stillHeld t r c)

/-- Region j of core k qualifies for pool entry p of foreman d (R253, R264). -/
def regionQualifies (s : State) (d p : Nat) (t : Task) (k j : Nat) : Bool :=
  let f := s.foreman d
  let y := recType t.record
  match s.region k j with
  | none => false
  | some r =>
    waitsInTake s k && decide (r.rect.height = f.height y ∧ r.rect.width = f.width y) && !r.hasCopy &&
      scratchOk r (f.image y) (f.typeAsid y) (f.scratch y) && (!t.saved || maskFits s d p t r)

/-- Where a task goes: the core, the region, the context slot, the rectangle, and how: 1 a region that holds IMAGE, 2 one
with a free slot, 3 a free placement, 4 a region whose least recently used context leaves first. -/
structure Spot where
  cls : Nat
  core : Nat
  region : Nat
  slot : Nat
  rect : Rect

/-- The cores of die d. -/
def coresOf (d : Nat) : List Nat := (List.range 96).map (fun n => 96 * d + n)

/-- The context of a region that was active longest ago, with its slot. -/
def oldestCtx (r : Region) : Option (Nat × Ctx) :=
  (r.ctxs.filterMap (fun e => e.2.map (fun x => (e.1, x)))).foldl (fun (acc : Option (Nat × Ctx)) e =>
    match acc with | some a => if e.2.used < a.2.used then some e else acc | none => some e) none

/-- The context serves a task that is bound or running. -/
def servesBound (f : Foreman) (x : Ctx) : Bool :=
  match x.task.bind f.entry with | some t => decide (t.state = .bound ∨ t.state = .running) | none => false

/-- The slot that a region offers in class 1, 2 or 4. -/
def slotIn (f : Foreman) (t : Task) (r : Region) (cls : Nat) : Option Nat :=
  let y := recType t.record
  match cls with
  | 1 => (List.range 4).find? (fun c => match r.ctx c with | some x => holdsImage x (f.image y) (f.typeAsid y) | none => false)
  | 2 => (List.range 4).find? (fun c => (r.ctx c).isNone)
  | _ => (oldestCtx r).bind (fun (c, x) => if servesBound f x then none else some c)

/-- The regions of a class in order: for a pre-empted task its former one first, then by core and region. -/
def regionSpots (s : State) (d p : Nat) (t : Task) (cls : Nat) : List Spot :=
  let all := (coresOf d).flatMap (fun k => if waitsInTake s k then (List.range 4).filterMap (fun j =>
    if regionQualifies s d p t k j then
      (match s.region k j with
       | some r => (slotIn (s.foreman d) t r cls).map (fun c => ⟨cls, k, j, c, r.rect⟩)
       | none => none)
    else none) else [])
  if t.saved then all.filter (fun z => decide (z.core = t.core ∧ z.region = t.region)) ++ all else all

/-- The free placements of a core for a shape, lowest y0 first and then lowest x0; `parity` none takes either. -/
def placements (s : State) (k h w : Nat) (parity : Option Nat) : List Spot :=
  if waitsInTake s k = false then [] else
  match (List.range 4).find? (fun j => (s.region k j).isNone) with
  | none => []
  | some j =>
    let used := (List.range 4).filterMap (fun i => (s.region k i).map (·.rect))
    ((List.range (17 - h)).flatMap (fun y0 => (List.range (25 - w)).map (fun x0 =>
      (⟨y0, x0, y0 + h - 1, x0 + w - 1⟩ : Rect)))).filterMap (fun r =>
        if r.ok && !used.any (fun u => u.meets r) && !r.streams.isEmpty &&
            (match parity with | some b => decide ((r.y0 + r.x0) % 2 = b) | none => true)
        then some ⟨3, k, j, 0, r⟩ else none)

def placeSpots (s : State) (d : Nat) (t : Task) (parity : Option Nat) : List Spot :=
  let f := s.foreman d
  let y := recType t.record
  (coresOf d).flatMap (fun k => (placements s k (f.height y) (f.width y) parity).take 1)

/-- The engine that reads for a foreman. -/
def foremanEng (d : Nat) : Eng := ⟨96 * d, 768 + d, cacheCore (96 * d), Config.otherOriginator, none, false⟩

/-- PARITY of the image that the CLOAD block at IMAGE names (13_encodings.md Table 13.10). -/
def readParity (s : State) (d : Nat) (asid : BitVec 16) (va : Nat) : Got Nat :=
  match engBlock s (foremanEng d) asid va with
  | .ok s b =>
    (match engRead s (foremanEng d) asid (blk b 0 8) 128 with
     | .ok s h => .ok s (imgAt h 8 1 % 2)
     | .wait s => .wait s
     | .fault s c va => .fault s c va)
  | .wait s => .wait s
  | .fault s c va => .fault s c va

/-- The place of a task: none, a place, or the fault of reading PARITY. -/
def findSpot (s : State) (d p : Nat) (t : Task) : Got (Option Spot) :=
  match regionSpots s d p t 1 ++ regionSpots s d p t 2 with
  | z :: _ => .ok s (some z)
  | [] =>
    let f := s.foreman d
    let y := recType t.record
    let last := (regionSpots s d p t 4).head?
    if (placeSpots s d t none).isEmpty then .ok s last else
    match readParity s d (f.typeAsid y) (f.image y) with
    | .ok s b => .ok s ((placeSpots s d t (some b)).head?.or last)
    | .wait s => .wait s
    | .fault s c va => .fault s c va

/-! ### Priorities and binding (R253, R254, R264) -/

/-- Effective priority: a ready task ages, a bound or running one does not. -/
def effPrio (s : State) (f : Foreman) (t : Task) : Nat :=
  match t.state with
  | .ready | .preempted => Nat.min 3 (t.prio + (s.time - t.readyAt) / 1000 / Nat.max 1 f.age)
  | _ => t.prio

/-- Task a comes before task b: by effective priority, then the one ready for longer. -/
def before (s : State) (f : Foreman) (a b : Task) : Bool :=
  let pa := effPrio s f a
  let pb := effPrio s f b
  decide (pb < pa) || (decide (pa = pb) && (decide (a.readyAt < b.readyAt) ||
    (decide (a.readyAt = b.readyAt) && decide (a.order ≤ b.order))))

def insertTask (s : State) (f : Foreman) (x : Nat × Task) : List (Nat × Task) → List (Nat × Task)
  | [] => [x]
  | y :: t => if before s f x.2 y.2 then x :: y :: t else y :: insertTask s f x t

/-- The ready tasks, those of higher priority first, and among equals the older first. -/
def readyTasks (s : State) (f : Foreman) : List (Nat × Task) :=
  let l := f.pool.filterMap (fun e => match e.2 with
    | some t => if (t.state = .ready ∨ t.state = .preempted) ∧ ending f e.1 = false then some (e.1, t) else none
    | none => none)
  l.foldr (insertTask s f) []

/-- A command of the foreman's own. -/
def foremanWord (i : Cmd → Instr) (slot : Nat) (ops : Nat) : QWord :=
  (encodeCmd (i { waitEn := false, waitF := 0, sigEn := false, sigF := 0, sid := 0, bind := BitVec.ofNat 3 slot, flags := 0,
                  ops := BitVec.ofNat 96 ops })).getD 0

/-- The foreman puts a command into a queue of core k for pool entry p. -/
def foremanIssue (s : State) (k p : Nat) (asid : BitVec 16) (word : QWord) (given : Option (Nat × BitVec 5 × Nat)) : State :=
  { enqueueCmd s k { id := s.nextId, word, asid, ipc := 0, priv := true, byForeman := some p, given } with nextId := s.nextId + 1 }

/-- The loads of a pre-empted task that its place does not hold any more, in slot order, after a CRETIRE in class 4
(R253, R264). -/
def reissueLoads (s : State) (d p : Nat) (t : Task) (z : Spot) (y : Nat) : State :=
  let f := s.foreman d
  let s := if z.cls = 4 then foremanIssue s z.core p (f.typeAsid y) (foremanWord .cretire z.slot z.region) none else s
  let s := (List.range 4).foldl (fun s c =>
    let here := (s.region z.core z.region).any (fun r => stillHeld t r c) && !decide (z.cls = 4 ∧ z.slot = c)
    let s := if here then modCtx s z.core z.region c (fun x => { x with task := some p }) else s
    if (BitVec.ofNat 4 (savedMask s d p)).getLsbD c && !here then
      let w := savedLoad s d p c
      let given := if field w 55 0 = f.image y then (f.typeCage y, f.typeMode y, z.rect.pack) else (0, 0, z.rect.pack)
      foremanIssue s z.core p (f.typeAsid y) w (some given)
    else s) s
  let active : Option Nat := match s.region z.core z.region with | some r => r.active | none => none
  if active = some (savedActive s d p) ∨ savedMask s d p = 0 then s
  else foremanIssue s z.core p (f.typeAsid y) (foremanWord .cswitch (savedActive s d p) z.region) none

/-- The first load of a task at its place: the foreman's CLOAD of IMAGE, after a CRETIRE in class 4; in class 1 the context
of IMAGE that stands there serves the task as it is, in the MODE that it has and active or not (R246, R253, R256; log 144). -/
def issueLoads (s : State) (d p : Nat) (z : Spot) (y : Nat) : State :=
  let f := s.foreman d
  let asid := f.typeAsid y
  let s := if z.cls = 4 then foremanIssue s z.core p asid (foremanWord .cretire z.slot z.region) none else s
  if z.cls = 1 then modCtx s z.core z.region z.slot (fun x => { x with task := some p })
  else foremanIssue s z.core p asid (foremanWord .cload z.slot (f.image y)) (some (f.typeCage y, f.typeMode y, z.rect.pack))

/-- Binds pool entry p to a place. The foreman waits until the core's KQ has room for the commands (02_execution_model.md R45):
a CRETIRE, the loads, a CSWITCH. -/
def bindTask (s : State) (d p : Nat) (t : Task) (z : Spot) : State :=
  let y := recType t.record
  if queueRoom s z.core 1 (if t.saved then 6 else 2) = false then s else
  let s := if t.saved then reissueLoads s d p t z y else issueLoads s d p z y
  let t := { t with state := .bound, boundAt := s.time, core := z.core, region := z.region, slot := if t.saved then t.slot else z.slot }
  (s.modForeman d (fun f => f.setEntry p (some t))).modCore z.core (fun c => { c with bound := some p })

/-- A pre-empted task goes to another foreman of the module with its save slot: the 1 KiB stands at the slot of the entry it
takes there, its pins go with it, and its contexts serve no task any more (R264; log 72). -/
def handTask (s : State) (d p : Nat) (t : Task) (e q : Nat) : State :=
  let s := putSlot s e q (readMem s (saveSlot (s.foreman d) p) 1024)
  let s := releaseCtxs s d p
  let s := { s with pins := s.pins.map (fun (a, v, h) => (a, v, if h = Holder.task d p then Holder.task e q else h)) }
  let s := s.modForeman d (fun f => settleDrain (f.setEntry p none) t.queue)
  s.modForeman e (fun f => { f.setEntry q (some { t with queue := 16, order := f.nextOrder, takenAt := some (t.takenAt.getD d) })
                             with nextOrder := f.nextOrder + 1 })

/-- The foreman that a pre-empted task without a place goes to, and its entry there: of the module, not the task's own, with a
valid type at the same index of the same IMAGE and ENTRY, and with room (R264). -/
def handPlace (s : State) (d : Nat) (t : Task) : Option (Nat × Nat) :=
  let y := recType t.record
  let f := s.foreman d
  if t.saved && (f.typeWord y 6).getLsbD 1 then
    (Config.handsTo s.tick).bind (fun e =>
      let g := s.foreman e
      if e < 4 ∧ e ≠ d ∧ g.typeValid y ∧ g.image y = f.image y ∧ g.entryPc y = f.entryPc y then g.freeEntry.map (fun q => (e, q)) else none)
  else none

/-- Both save slots of a task that is handed on: it is read at the one and written at the other. -/
def handReach (s : State) (d p e q : Nat) : Acc :=
  match slotReach s d p .read with
  | .ready s _ => slotReach s e q .write
  | r => r

/-- The first ready task that has a place is bound, or is handed on; the save slot of a pre-empted one is read first, and one
that cannot be read ends the task FAILED with the code of its access (log 142). A task whose PARITY cannot be read ends FAILED
with a record, which names the first core of the die (R253, R264; log 143). -/
def bindFirst (d : Nat) : List (Nat × Task) → State → State
  | [], s => s
  | (p, t) :: rest, s =>
    match (if t.saved then slotReach s d p .read else .ready s 0) with
    | .wait s => bindFirst d rest s
    | .fault s c => endLater s d p .failed c
    | .ready s _ =>
      match findSpot s d p t with
      | .ok s (some z) => bindTask s d p t z
      | .ok s none => (match handPlace s d t with
        | some (e, q) =>
          (match handReach s d p e q with
           | .ready s _ => handTask s d p t e q
           | .wait s => s
           | .fault s _ => bindFirst d rest s)
        | none => bindFirst d rest s)
      | .wait s => bindFirst d rest s
      | .fault s c va =>
        let asid := (s.foreman d).typeAsid (recType t.record)
        let s := putRecord s { core := 96 * d, asid, code := c, final := true, queue := 1, va := BitVec.ofNat 64 va } .nothing
        endLater s d p .failed c

def execTaskBind (s : State) : Res :=
  onForeman s (fun d => .next (bindFirst d (readyTasks s (s.foreman d)) s))

/-! ### TAKE (R256, R264, R420) -/

/-- The argument VA, formed exactly. -/
def argVa (f : Foreman) (r : QWord) : Int :=
  let y := recType r
  let (sx, sy, sz) := f.strides y
  (f.param y : Int) + recX r * sx + recY r * sy + recZ r * sz

/-- g1 to gARGS (R256). -/
def argRegs (f : Foreman) (t : Task) : Map Word :=
  let r := t.record
  let v : List Nat := [recX r, recY r, recZ r, (argVa f r).toNat, (recJob r).toNat, t.region, t.slot]
  (List.range (f.args (recType r))).foldl (fun m i => Map.set 0 m (i + 1) (BitVec.ofNat 64 (v.getD i 0))) []

/-- The thread as a task's first TAKE leaves it. -/
def freshThread (f : Foreman) (p : Nat) (t : Task) (old : Thread) : Thread :=
  let y := recType t.record
  { throtLast := old.throtLast, throtPend := old.throtPend, run := .running, task := some p, g := argRegs f t
    pc := BitVec.ofNat 64 (f.entryPc y), asid := f.typeAsid y, tvec := BitVec.ofNat 64 f.trapPc, status := 8 }

/-- The thread as its save area gives it (10_faults_modes.md Table 10.9). -/
def savedThread (s : State) (f : Foreman) (p : Nat) (t : Task) (old : Thread) : Thread :=
  let a := saveSlot f p + 128
  let w := readNat s a 8
  { throtLast := old.throtLast, throtPend := old.throtPend, run := .running, task := some p
    g := (List.range 31).foldl (fun m i => Map.set 0 m (i + 1) (BitVec.ofNat 64 (readNat s (a + 8 * (i + 1)) 8))) []
    q := (List.range 8).foldl (fun m i => Map.set 0 m i (BitVec.ofNat 128 (readNat s (a + 256 + 16 * i) 16))) []
    p := BitVec.ofNat 8 (2 * nfield w 62 56), pc := BitVec.ofNat 64 (nfield w 55 0)
    asid := f.typeAsid (recType t.record), tvec := BitVec.ofNat 64 f.trapPc, status := if nfield w 63 63 = 1 then 8 else 0 }

/-- The stopped streams of a pre-empted task stand at its core again, with their commands. -/
def restorePorts (s : State) (k : Nat) (t : Task) : State :=
  let s := t.ports.foldl (fun s e => s.setPort (portKey k e.1) e.2) s
  t.cmds.foldl (fun s c => enqueueCmd s k c) s

/-- The bound task is taken by the thread. -/
def takeTask (s : State) (k d p : Nat) (t : Task) : State :=
  let f := s.foreman d
  let s := s.modCore k (fun c => { c with bound := none, flags := 0 })
  let s := s.modForeman d (fun f => f.setEntry p (some { t with state := .running, saved := false, ports := [], cmds := [], left := [] }))
  if t.saved then
    let flags := readNat s (saveSlot f p + 100) 1 % 32
    let s := s.modCore k (fun c => { c with flags := withRegionFlags c.flags t.region (BitVec.ofNat 5 flags) })
    restorePorts (s.modThread k (savedThread s f p t)) k t
  else s.modThread k (freshThread f p t)

def execTake (d : BitVec 5) (s : State) : Res :=
  onThread s (fun k =>
    if isPriv s k = false then .next (raise s k fcPRIV (wordOf (.take d)))
    else if (s.thread k).task.isSome then .next (raise s k fcQUEUE 0)
    else
      let die := coreDie k
      match (s.core k).bound.bind (fun p => ((s.foreman die).entry p).map (fun t => (p, t))) with
      | none => stallAt s k true d true
      | some (p, t) =>
        -- the commands of a pre-empted task's streams wait for room in SQ
        if queueRoom s k 0 t.cmds.length = false then stallAt s k true d true else
        -- a task that cannot be taken ends FAILED, and TAKE waits on
        let fails (s : State) (c : Code) : Res := stallAt (endLater (s.modCore k (fun c => { c with bound := none })) die p .failed c) k true d true
        let va := argVa (s.foreman die) t.record
        if t.saved then
          match slotReach s die p .read with
          | .wait s => stallAt s k true d true
          | .fault s c => fails s c
          | .ready s _ => .next (takeTask s k die p t)
        else if va < 0 ∨ (2 ^ 56 : Int) ≤ va then fails s fcXLATE
        else .next (takeTask s k die p t))

/-! ### Pre-emption (R232, R233, R263, R425, R439) -/

/-- Every command of the core has retired but programs of stopped streams, and no FIFO entry stands. -/
def onlyStopped (s : State) (k : Nat) : Bool :=
  (s.core k).fifos.isEmpty && (s.core k).queues.all (fun e => if e.1 = 0 then
    e.2.all (fun c => isProgram c && decide (c.phase = .started)) else e.2.isEmpty)

/-- The core's loads stand at a segment boundary with everything they stored performed. -/
def loadsStopped (s : State) (k : Nat) : Bool :=
  (List.range 4).all (fun j => atBoundary s k j && (match s.region k j with
    | some r => r.stopped.isNone && r.switching.isNone && r.ctxs.all (fun e => match e.2 with | some x => x.frozen || x.rerun.isNone | none => true)
    | none => true)) &&
  (List.range 32).all (fun n => let p := s.port (portKey k n); !p.isOpen || (!streamBusy s k n && p.closing.isNone &&
    (match p.prog with | some g => !g.inSeg | none => true)))

/-- R233 holds for the thread of core k. -/
def mayPreempt (s : State) (k : Nat) : Bool :=
  let t := s.thread k
  t.status &&& 0xC1 == 0 && t.pend.isEmpty && t.awaits.isNone && (match t.stall with | some x => x.edge | none => true) &&
    onlyStopped s k && loadsStopped s k

/-- Another task of equal or higher effective priority is ready for the shape of p, and no region qualifies for it. -/
def hasRival (s : State) (d p : Nat) (t : Task) : Bool :=
  let f := s.foreman d
  (readyTasks s f).any (fun (u, v) =>
    decide (u ≠ p ∧ f.height (recType v.record) = f.height (recType t.record) ∧ f.width (recType v.record) = f.width (recType t.record)) &&
    decide (effPrio s f t ≤ effPrio s f v) &&
    !(coresOf d).any (fun k => (List.range 4).any (fun j => regionQualifies s d u v k j)))

/-- A task's QUANT has elapsed and a rival is ready: its loads are stopped. -/
def execQuantExpiry (p : Nat) (s : State) : Res :=
  onForeman s (fun d =>
    let f := s.foreman d
    match f.entry p with
    | none => .next s
    | some t =>
      let quant := f.quant (recType t.record)
      if t.state = .running ∧ t.doomed = false ∧ quant ≠ 0 ∧ 1000 * quant ≤ s.time - t.boundAt ∧ hasRival s d p t then
        .next (s.modForeman d (fun f => f.setEntry p (some { t with stopping := true })))
      else .next s)

/-- The bytes of Table 10.9. -/
def threadBytes (t : Thread) : List Byte :=
  toBytes 8 (t.pc.toNat % 2 ^ 56 + 2 ^ 56 * (t.p.toNat / 2) + 2 ^ 63 * (t.status.getLsbD 3).toNat) ++
    (List.range 31).flatMap (fun i => toBytes 8 (Map.get 0 t.g (i + 1)).toNat) ++
    (List.range 8).flatMap (fun i => toBytes 16 (Map.get 0 t.q i).toNat)

/-- The bytes of Table 11.7 for pool entry p, which runs on core k. -/
def slotBytes (s : State) (k p : Nat) (t : Task) : List Byte :=
  let r := s.region k t.region
  let rect := match r with | some x => x.rect.pack | none => 0
  let active := match r with | some x => x.active.getD 0 | none => 0
  let slots := (List.range 4).map (fun c => (ctxAt s k t.region c).filter (fun x => decide (x.task = some p)))
  let mask := ((List.range 4).map (fun c => if (slots.getD c none).isSome then 2 ^ c else 0)).sum
  let openMask := ((List.range 32).map (fun n => if (s.port (portKey k n)).isOpen && !(s.port (portKey k n)).shut then 2 ^ n else 0)).sum
  toBytes 16 t.record.toNat ++ toBytes 8 t.origin ++ toBytes 8 (rect + 2 ^ 18 * active + 2 ^ 20 * mask) ++
    slots.flatMap (fun x => toBytes 16 (match x with | some c => c.cmd.toNat | none => 0)) ++
    toBytes 4 openMask ++ toBytes 1 (regionFlags (s.core k).flags t.region).toNat ++ toBytes 27 0 ++
    threadBytes (s.thread k) ++
    (List.range 32).flatMap (fun n =>
      let g := if (s.port (portKey k n)).isOpen then (s.port (portKey k n)).prog else none
      (List.range 4).flatMap (fun l => toBytes 4 (match g with | some g => (segCounters g g.segsDone).getD l 0 | none => 0)))

/-- The thread of core k is saved and returns to IDLEPC; its task is ready again from now on (R254, R263). -/
def saveThread (s : State) (k p : Nat) (t : Task) : State :=
  let d := coreDie k
  let s := putSlot s d p (slotBytes s k p t)
  let standing := (List.range 32).filter (fun n => (s.port (portKey k n)).isOpen && !(s.port (portKey k n)).shut)
  let ports := standing.map (fun n => (n, s.port (portKey k n)))
  let cmds := queueCmds s k 0
  let left := (List.range 4).filterMap (fun c => (ctxAt s k t.region c).bind (fun x => if x.task = some p then some (c, x.id) else none))
  let s := standing.foldl (fun s n => let x := s.port (portKey k n)
                                      s.setPort (portKey k n) { arriving := x.arriving }) (setQueue s k 0 [])
  let s := s.modForeman d (fun f => { f.setEntry p (some { t with
    state := .preempted, saved := true, stopping := false, readyAt := s.time, order := f.nextOrder, ports, cmds, left }) with nextOrder := f.nextOrder + 1 })
  goIdle s k

/-- The task that core k's thread holds. -/
def taskOf (s : State) (k : Nat) : Option (Nat × Task) :=
  (s.thread k).task.bind (fun p => ((s.foreman (coreDie k)).entry p).map (fun t => (p, t)))

/-- The thread is saved, once its save slot can be written; one whose slot cannot be written is not pre-empted, and its loads
go on (log 142). -/
def trySave (s : State) (k p : Nat) (t : Task) : State :=
  match slotReach s (coreDie k) p .write with
  | .wait s => s
  | .fault s _ => s.modForeman (coreDie k) (fun f => f.setEntry p (some { t with stopping := false }))
  | .ready s _ => saveThread s k p t

/-- At an eligible boundary a task whose loads have been stopped is saved, once every access it has issued is performed at
DEVICE scope (07_consistency.md R154). -/
def execThreadSave (s : State) : Res :=
  onThread s (fun k => match taskOf s k with
    | some (p, t) => if t.stopping && !t.doomed && mayPreempt s k && released s k 2 then .next (trySave s k p t) else .next s
    | none => .next s)

/-- YIELD: a pre-emption point; it retires whether or not the task is pre-empted there (R439). -/
def execYield (s : State) : Res :=
  onThread s (fun k => match taskOf s k with
    | some (p, t) =>
      if mayPreempt s k && !t.doomed && hasRival s (coreDie k) p t then
        (if released s k 2 = false then waitAt s k true
         else match slotReach s (coreDie k) p .write with
           | .wait s => waitAt s k true
           | .fault s _ => .next (retire s k)
           | .ready s _ => .next (saveThread (retire s k) k p t))
      else .next (retire s k)
    | none => .next (retire s k))

/-! ### Cloning (R49, R50, R255) -/

/-- A ready task has the shape of a region. -/
def shapeWanted (s : State) (d : Nat) (r : Region) : Bool :=
  let f := s.foreman d
  (readyTasks s f).any (fun (_, v) => decide (f.height (recType v.record) = r.rect.height ∧ f.width (recType v.record) = r.rect.width))

/-- The foreman may clone a load (R49, 10_faults_modes.md R239): it is declared clonable, its MODE allows it and is neither
PRECISE nor SYSTOLIC, it has fewer than four copies, no channel of it crosses to another region (log 94), it runs, and
under FREEZE its save area holds a part for one copy more. -/
def mayClone (s : State) (r : Region) (x : Ctx) : Bool :=
  x.clonable && x.mode.getLsbD 4 && !x.mode.getLsbD 1 && !x.mode.getLsbD 2 && decide (x.clones.length < 3) &&
    !x.chans.any (·.xr) && x.final.isNone && x.rerun.isNone && r.switching.isNone && r.stopped.isNone &&
    (!x.mode.getLsbD 0 || areaOk s x.asid r.rect (x.clones.length + 2) x.save)

/-- Where a copy goes: a place that no ready task wants and no bound task uses (R49, R255). -/
def copyPlace (s : State) (k j c : Nat) (r : Region) (x : Ctx) : Option (Nat × Rect) :=
  if shapeWanted s (coreDie k) r then none else
  (copySpots s k j c r x).find? (fun p => match s.region k p.1 with
    | some q => q.ctxs.all (fun e => !e.2.any (servesBound (s.foreman (coreDie k))))
    | none => true)

/-- A copy that the foreman adds enters once no segment of the load is in flight, and no SOT is emitted before (R50); a place
that has gone meanwhile ends the wish. -/
def addCopy (s : State) (k j c : Nat) (r : Region) (x : Ctx) : State :=
  match (if mayClone s r x then copyPlace s k j c r x else none) with
  | none => modCtx s k j c (fun x => { x with copyDue := false })
  | some p =>
    if (liveSegs s k j c).isEmpty then
      insertCopy (if x.mode.getLsbD 0 then pinArea s x.asid r.rect (x.clones.length + 2) x.save k j c else s) k j c p
    else modCtx s k j c (fun x => { x with copyDue := true })

/-- The load of a core of die d that waits for a copy at its boundary. -/
def copyDueAt (s : State) (d : Nat) : Option (Nat × Nat × Nat × Region × Ctx) :=
  (coresOf d).findSome? (fun k => (List.range 4).findSome? (fun j => (s.region k j).bind (fun r =>
    r.active.bind (fun c => (r.ctx c).bind (fun x =>
      if x.copyDue && x.copyOf.isNone && (liveSegs s k j c).isEmpty then some (k, j, c, r, x) else none)))))

/-- The foreman takes the last copy back, now if no segment is in flight, and else at the next boundary (R50, R255). -/
def takeCopyBack (s : State) (k j c : Nat) (x : Ctx) : State :=
  if (liveSegs s k j c).isEmpty then dropCopies s k j c (x.clones.length - 1)
  else modCtx s k j c (fun x => { x with lowWindows := 2 })

/-- The end of a window of 65,536 region cycles: the foreman adds a copy of a load that is the bottleneck, or takes one back
after two low windows or when a ready task needs its region (R255). -/
def execCloneWindow (region : BitVec 2) (entryWait exitWait : Nat) (s : State) : Res :=
  match s.self with
  | .core k =>
    let j := region.toNat
    (match s.region k j with
     | none => .next s
     | some r => match r.active.bind (fun c => (ctxAt s k j c).map (fun x => (c, x))) with
       | none => .next s
       | some (c, x) =>
         let low := if entryWait < 8192 then x.lowWindows + 1 else 0
         if x.clones ≠ [] ∧ (2 ≤ low ∨ shapeWanted s (coreDie k) r) then .next (takeCopyBack s k j c x)
         else
           let s := modCtx s k j c (fun x => { x with lowWindows := low })
           .next (if 32768 ≤ entryWait ∧ exitWait < 4096 then addCopy s k j c r x else s))
  | _ => .refused .wrongAgent

end Sys2Proof.Machine
end

