-- ==== Sys2Proof/Machine/Crypto.lean ====
section
/-!
DEFINITION. The cryptography of the headframe: SHA-512 (FIPS 180-4), HMAC and HKDF over it (RFC 5869) and Ed25519
(RFC 8032), which 14_system.md R310 to R312 name (log 51). Byte strings are lists of bytes.
-/
namespace Sys2Proof.Machine

open Sys2Proof

/-! ### SHA-512 -/

/-- The greatest n-th root of x, bit by bit below a bound 2 ^ fuel, above what is known of it. -/
def rootBelow (n x : Nat) : Nat → Nat → Nat
  | 0, r => r
  | fuel + 1, r => rootBelow n x fuel (if (r + 2 ^ fuel) ^ n ≤ x then r + 2 ^ fuel else r)

/-- The first 64 bits of the fractional part of the n-th root of a number below 512. -/
def rootFraction (n m : Nat) : BitVec 64 := BitVec.ofNat 64 (rootBelow n (m * 2 ^ (64 * n)) 74 0)

/-- The primes below 410, the first 80. -/
def somePrimes : List Nat :=
  (List.range 410).filter (fun m => decide (2 ≤ m) && (List.range 21).all (fun d => decide (d < 2 ∨ m = d ∨ m % d ≠ 0)))

/-- The bits of a word at several rotations, summed modulo 2. -/
def turnSum (x : BitVec 64) (turns : List Nat) : BitVec 64 := turns.foldr (fun n acc => x.rotateRight n ^^^ acc) 0

/-- What a message block has come to after some rounds: the newest four values of either half of the working state, the newest
first, and the sixteen message words that come next. -/
structure ShaRun where
  near : List (BitVec 64)
  far : List (BitVec 64)
  next : List (BitVec 64)

/-- The word that the schedule adds after the sixteen that come next. -/
def ShaRun.newWord (r : ShaRun) : BitVec 64 :=
  let at_ (i : Nat) := r.next.getD i 0
  at_ 0 + (turnSum (at_ 1) [1, 8] ^^^ (at_ 1 >>> 7)) + at_ 9 + (turnSum (at_ 14) [19, 61] ^^^ (at_ 14 >>> 6))

/-- One round under a constant. -/
def ShaRun.round (r : ShaRun) (k : BitVec 64) : ShaRun :=
  let u (i : Nat) := r.near.getD i 0
  let v (i : Nat) := r.far.getD i 0
  let pick := v 2 ^^^ (v 0 &&& (v 1 ^^^ v 2))
  let most := (u 0 &&& u 1) ||| (u 2 &&& (u 0 ||| u 1))
  let t := k + r.next.headD 0 + pick + turnSum (v 0) [14, 18, 41] + v 3
  { near := (t + most + turnSum (u 0) [28, 34, 39]) :: r.near.take 3
    far := (u 3 + t) :: r.far.take 3
    next := r.next.drop 1 ++ [r.newWord] }

/-- A block of 128 bytes changes the chaining value: the eight words of either half of the state. -/
def shaBlock (h : List (BitVec 64)) (block : List Byte) : List (BitVec 64) :=
  let words := (List.range 16).map (fun i => BitVec.ofNat 64 (ofBytes ((block.drop (8 * i)).take 8).reverse))
  let out := (somePrimes.map (rootFraction 3)).foldl ShaRun.round { near := h.take 4, far := h.drop 4, next := words }
  (h.zip (out.near ++ out.far)).map (fun e => e.1 + e.2)

/-- All blocks of a padded message, of which there are at most `fuel`. -/
def shaBlocks : Nat → List Byte → List (BitVec 64) → List (BitVec 64)
  | 0, _, h => h
  | fuel + 1, m, h => if m.isEmpty then h else shaBlocks fuel (m.drop 128) (shaBlock h (m.take 128))

/-- What follows a message of n bytes: a one bit, zeros up to the end of a block, and its length in bits in the last 16 bytes. -/
def shaTail (n : Nat) : List Byte :=
  let blocks := (n + 17 + 127) / 128
  0x80 :: (toBytes (128 * blocks - n - 1) (8 * n)).reverse

/-- SHA-512: 64 bytes. -/
def sha512 (m : List Byte) : List Byte :=
  let p := m ++ shaTail m.length
  (shaBlocks (p.length / 128) p ((somePrimes.take 8).map (rootFraction 2))).flatMap (fun w => (toBytes 8 w.toNat).reverse)

/-! ### HMAC and HKDF -/

def hmac (key m : List Byte) : List Byte :=
  let k := if 128 < key.length then sha512 key else key
  let k := k ++ List.replicate (128 - k.length) 0
  sha512 (k.map (· ^^^ 0x5C) ++ sha512 (k.map (· ^^^ 0x36) ++ m))

/-- HKDF with no salt, of at most 64 bytes of output. -/
def hkdf (secret info : List Byte) (n : Nat) : List Byte :=
  (hmac (hmac (List.replicate 64 0) secret) (info ++ [1])).take n

/-! ### Ed25519 -/

def edP : Nat := 2 ^ 255 - 19
def edL : Nat := 2 ^ 252 + 27742317777372353535851937790883648493

/-- x ^ e modulo m, over the n low bits of e. -/
def powMod (m : Nat) : Nat → Nat → Nat → Nat
  | 0, _, _ => 1
  | n + 1, x, e => powMod m n (x * x % m) (e / 2) * (if e % 2 = 1 then x else 1) % m

def edInv (x : Nat) : Nat := powMod edP 255 x (edP - 2)
def edSub (a b : Nat) : Nat := (a + edP - b % edP) % edP
def edD : Nat := edSub 0 121665 * edInv 121666 % edP

/-- A point in extended coordinates. -/
structure EdPt where
  x : Nat
  y : Nat
  z : Nat
  t : Nat
  deriving DecidableEq, Repr

def edZero : EdPt := ⟨0, 1, 1, 0⟩

def edAdd (p q : EdPt) : EdPt :=
  let a := edSub p.y p.x * edSub q.y q.x % edP
  let b := (p.y + p.x) * (q.y + q.x) % edP
  let c := 2 * p.t * q.t * edD % edP
  let d := 2 * p.z * q.z % edP
  let e := edSub b a
  let f := edSub d c
  let g := (d + c) % edP
  let h := (b + a) % edP
  ⟨e * f % edP, g * h % edP, f * g % edP, e * h % edP⟩

/-- k times a point, over the n low bits of k. -/
def edMul : Nat → Nat → EdPt → EdPt
  | 0, _, _ => edZero
  | n + 1, k, p =>
    let r := edMul n (k / 2) (edAdd p p)
    if k % 2 = 1 then edAdd r p else r

/-- A square root of u / v, if there is one (RFC 8032 section 5.1.3). -/
def edRoot (u v : Nat) : Option Nat :=
  let v3 := v * v % edP * v % edP
  let x := u * v3 % edP * powMod edP 252 (u * v3 % edP * v3 % edP * v % edP) ((edP - 5) / 8) % edP
  let w := v * (x * x % edP) % edP
  if w = u % edP then some x
  else if w = edSub 0 u then some (x * powMod edP 253 2 ((edP - 1) / 4) % edP)
  else none

/-- The point that 32 bytes encode. -/
def edDecode (l : List Byte) : Option EdPt :=
  let n := ofBytes (l.take 32)
  let y := n % 2 ^ 255
  let sign := n / 2 ^ 255 % 2
  if edP ≤ y then none else
  match edRoot (edSub (y * y % edP) 1) ((edD * (y * y % edP) + 1) % edP) with
  | none => none
  | some x =>
    if x = 0 ∧ sign = 1 then none
    else
      let x := if x % 2 = sign then x else edSub 0 x
      some ⟨x, y, 1, x * y % edP⟩

def edEncode (p : EdPt) : List Byte :=
  let zi := edInv p.z
  let x := p.x * zi % edP
  let y := p.y * zi % edP
  toBytes 32 (y + 2 ^ 255 * (x % 2))

/-- The base point: y is 4/5, x is even. -/
def edBase : EdPt :=
  (edDecode (toBytes 32 (4 * edInv 5 % edP))).getD edZero

def edSame (p q : EdPt) : Bool :=
  decide (p.x * q.z % edP = q.x * p.z % edP ∧ p.y * q.z % edP = q.y * p.z % edP)

/-- The secret scalar and the prefix of a seed. -/
def edExpand (seed : List Byte) : Nat × List Byte :=
  let h := sha512 seed
  let a := ofBytes (h.take 32)
  (a % 2 ^ 254 / 8 * 8 + 2 ^ 254, h.drop 32)

def edPublic (seed : List Byte) : List Byte := edEncode (edMul 256 (edExpand seed).1 edBase)

/-- The signature of a message: 64 bytes. -/
def edSign (seed m : List Byte) : List Byte :=
  let (a, pre) := edExpand seed
  let pub := edPublic seed
  let r := ofBytes (sha512 (pre ++ m)) % edL
  let rp := edEncode (edMul 256 r edBase)
  let k := ofBytes (sha512 (rp ++ pub ++ m)) % edL
  rp ++ toBytes 32 ((r + k * a) % edL)

/-- A signature verifies: [S]B = R + [k]A, with S below the group order. -/
def edVerify (pub m sig : List Byte) : Bool :=
  match edDecode pub, edDecode (sig.take 32) with
  | some a, some r =>
    let sc := ofBytes (sig.drop 32)
    let k := ofBytes (sha512 (sig.take 32 ++ pub ++ m)) % edL
    decide (sig.length = 64 ∧ pub.length = 32 ∧ sc < edL) && edSame (edMul 256 sc edBase) (edAdd r (edMul 256 k a))
  | _, _ => false

end Sys2Proof.Machine
end

