-- ==== Sys2Proof/Machine/Headframe.lean ====
section
/-!
DEFINITION. The headframe: measurement, the mailbox requests, resets and bring-up, and the control-register writes
(14_system.md R300 to R302, R307, R309 to R314, 08_assayers.md R174, R175, 10_faults_modes.md R212, 11_scheduling.md R240,
R241, R246, R247).
-/
namespace Sys2Proof.Machine

open Sys2Proof

/-- The module's own step; any other agent refuses it. -/
def onModule (s : State) (r : Res) : Res :=
  match s.self with
  | .module => r
  | _ => .refused .wrongAgent

/-- What a request of the host or of the headframe is answered. -/
def answer (s : State) (pa : Nat) (a : HostAns) : State := { s with head := { s.head with answers := s.head.answers ++ [(pa, a)] } }

/-! ### Measurement (R311) -/

def logFull (s : State) : Bool := decide (8192 ≤ s.head.log.length)
def mrBytes (s : State) (i : Nat) : List Byte := toBytes 64 (Map.get 0 s.head.mr i).toNat
def digestBits (d : List Byte) : BitVec 512 := BitVec.ofNat 512 (ofBytes d)

/-- MRi := SHA-512(MRi ‖ d), and (i, ASID, address, d) goes to the log, which has room. -/
def extendMr (s : State) (i : Nat) (asid : BitVec 16) (addr : BitVec 64) (d : List Byte) : State :=
  { s with head := { s.head with
      mr := Map.set 0 s.head.mr i (digestBits (sha512 (mrBytes s i ++ d)))
      log := s.head.log ++ [{ index := BitVec.ofNat 8 i, asid, epoch := s.head.epoch, addr, digest := digestBits d }] } }

/-- Bytes at a virtual address of an ASID, as the headframe reads them; none where a page cannot be read. -/
def readVirtual (s : State) (asid : BitVec 16) (va n : Nat) : Option (List Byte) :=
  (linesOf va n).foldl (fun acc (a, m) => match acc, walk s asid a .read with
    | some l, .ok f => (match placeOf s f.pa with | .ok p => some (l ++ readMem s p.key m) | .error _ => none)
    | _, _ => none) (some [])

/-- The configuration image that a CLOAD block names, over its LENGTH bytes, with its VA. -/
def imageAt (s : State) (asid : BitVec 16) (block : Nat) : Option (Nat × List Byte) :=
  match readVirtual s asid block 64 with
  | none => none
  | some b =>
    let va := imgAt b 0 8
    match readVirtual s asid va 128 with
    | none => none
    | some h => (readVirtual s asid va (imgAt h 28 4)).map (fun l => (va, l))

/-! ### Task types (11_scheduling.md R246) -/

/-- A write of VALID = 1: the checks, and the measurement of the image into MR2; with a full log it takes no effect. An image
that cannot be read cannot be measured: VALID stays 0, and ERR is set (log 76). -/
def validateType (s : State) (d t : Nat) : State :=
  let f := s.foreman d
  if f.typeValid t then s else
  let w := f.typeWord t 6
  if f.image t % 64 = 0 ∧ f.entryPc t % 4 = 0 ∧ 1 ≤ f.typeCage t ∧ f.typeCage t ≤ 64 ∧ f.scratch t ≤ 32 then
    let valid (s : State) : State := s.modForeman d (fun f => f.setType t 6 ((w &&& ~~~4) ||| 1))
    match imageAt s (f.typeAsid t) (f.image t) with
    | some (va, bytes) => if logFull s then s else valid (extendMr s 2 (f.typeAsid t) (BitVec.ofNat 64 va) (sha512 bytes))
    | none => s.modForeman d (fun f => f.setType t 6 (w ||| 4))
  else s.modForeman d (fun f => f.setType t 6 (w ||| 4))

def execTaskTypeValid (t : BitVec 10) (s : State) : Res := onForeman s (fun d => .next (validateType s d t.toNat))

/-! ### Handler entries (08_assayers.md R175) -/

/-- No tag carries entry n any more (R176). -/
def dropTags (s : State) (i n : Nat) : State :=
  s.modSlice i (fun x => { x with
    sets := x.sets.map (fun (a, c) => (a, { c with ways := c.ways.map (fun (b, w) => (b, w.map (fun y =>
      if y.tag = n then { y with tag := 16 } else y))) }))
    misses := x.misses.map (fun m => if m.tag = n then { m with tag := 16 } else m) })

/-- A write of VALID = 0. -/
def clearEntry (s : State) (i n : Nat) : State :=
  dropTags (s.setEntryWord i n 0 (s.entryWord i n 0 &&& ~~~1)) i n

def execHandlerValidClear (e : BitVec 4) (s : State) : Res :=
  match s.self with
  | .slice i => .next (clearEntry s i e.toNat)
  | _ => .refused .wrongAgent

/-- Words 0 to 7 of an entry, their writable bits. -/
def entryMask (w : Nat) : BitVec 64 :=
  match w with
  | 0 => 0xFFFF003E
  | 1 => 0xFFFFFF
  | _ => if w < 8 then BitVec.allOnes 64 else 0

def rangesMeet (a b : Nat × Nat) : Bool := decide (a.1 < b.2 ∧ b.1 < a.2)

/-- The used ranges of an entry, in pages. -/
def usedRanges (s : State) (i n : Nat) : List (Nat × Nat) :=
  ((List.range 4).map (fun r => s.entryWord i n (4 + r))).filterMap (fun w =>
    if field w 23 0 = 0 then none else some (field w 63 24, field w 63 24 + field w 23 0))

/-- No two ranges of a list meet. -/
def apart : List (Nat × Nat) → Bool
  | [] => true
  | a :: t => t.all (fun b => !rangesMeet a b) && apart t

/-- The checks of R175 on entry n of slice i. -/
def entryOk (s : State) (i n : Nat) : Bool :=
  let w1 := s.entryWord i n 1
  let others := (List.range 16).filter (fun m => decide (m ≠ n) && entryValid s i m)
  decide (1 ≤ field w1 10 5 ∧ field w1 4 0 + field w1 10 5 ≤ 32 ∧ 2 ≤ field w1 23 17 ∧ field w1 16 11 + field w1 23 17 ≤ 64) &&
    others.all (fun m => !rangesMeet (imemWin s i n) (imemWin s i m) && !rangesMeet (dmemWin s i n) (dmemWin s i m)) &&
    (List.range 4).all (fun h => !(s.entryWord i n 0).getLsbD (2 + h) ||
      decide (hookPc s i n h % 2 = 0 ∧ hookPc s i n h < 1024 * field w1 10 5 ∧ hookBudget s i n h ≠ 0)) &&
    (usedRanges s i n).all (fun r => decide (r.2 ≤ 2 ^ 40)) &&
    apart (usedRanges s i n ++ (others.filter (fun m => decide (entryAsid s i m = entryAsid s i n))).flatMap (usedRanges s i))

/-- The words and the image of a HANDLER request on one slice: the words while VALID is 0, then the windows, filled up with
zeros, all bytes at once (log 145). A window that leaves its memory has its bytes past the end left out, and the check of R175
refuses its entry (log 146). -/
def placeHandler (s : State) (i n : Nat) (r : HandlerReq) : State :=
  let s := if entryValid s i n then s else
    (List.range 8).foldl (fun s w => s.setEntryWord i n w (r.words.getD w 0 &&& entryMask w)) s
  let fill (l : List Byte) (n : Nat) : List Byte := l ++ List.replicate (n - l.length) 0
  let iw := imemWin s i n
  let dw := dmemWin s i n
  writeMem (writeMem s (imemAt i iw.1) ((fill r.imem (iw.2 - iw.1)).take (Nat.min iw.2 0x8000 - iw.1))) (dmemAt i dw.1)
    ((fill r.dmem (dw.2 - dw.1)).take (Nat.min dw.2 0x4000 - dw.1))

/-- VALID = 1 is refused on one slice: ERR is set, and the entry is not left VALID (R175, R309). -/
def refuseEntry (s : State) (i n : Nat) : State :=
  let s := clearEntry s i n
  s.setEntryWord i n 0 (s.entryWord i n 0 ||| 0x40)

/-- VALID = 1 on one slice, or ERR. -/
def validateEntry (s : State) (i n : Nat) : State :=
  let w := s.entryWord i n 0
  if entryOk s i n then s.setEntryWord i n 0 ((w &&& ~~~0x40) ||| 1) else refuseEntry s i n

/-! ### The mailbox (R309) -/

/-- A request ends: STATUS, BUSY and vector 0. -/
def mboxDone (s : State) (status : Nat) : State :=
  { s with head := { s.head with busy := false, mboxStatus := BitVec.ofNat 64 status, msix := s.head.msix ++ [0] } }

/-- The host port is trained, or the headframe is in recovery (R310, R313). -/
def mboxLive (s : State) : Bool := decide (5 ≤ s.head.step) || s.head.recovery

/-- CODE of the request that stands in the mailbox. -/
def mboxCode (s : State) : Nat := field s.head.mboxReq 7 0

/-- A mailbox request of a code, once GO has been written with that code in the mailbox: its effect with its STATUS. In
recovery only 0x06 and 0x08 are served (R309, R310). Where its operands stand in bytes 8 to 63 is not said: the step carries
them (log 147). -/
def mbox (s : State) (code : Nat) (f : State × Nat) : Res :=
  onModule s (if !mboxLive s || !s.head.busy || decide (mboxCode s ≠ code) then .next s
    else if s.head.recovery ∧ code ≠ 6 ∧ code ≠ 8 then .next (mboxDone s 1)
    else .next (mboxDone f.1 f.2))

/-- A request that MR3 takes: measured as its 64 bytes stand in the mailbox, or refused with a full log. -/
def measured (s : State) (asid : BitVec 16) (f : State → State) : State × Nat :=
  if logFull s then (s, 2)
  else (f (extendMr s 3 asid (Config.measureAddr s.tick) (sha512 (toBytes 64 s.head.mboxReq.toNat))), 0)

/-- The limits of a descriptor (10_faults_modes.md R212, Table 10.1). -/
def descOk (b : List Byte) : Bool :=
  let f (lo n : Nat) : Nat := imgAt b lo n
  let sizes := f 72 4
  decide (nfield (f 0 8) 16 1 = 0 ∧ nfield (f 0 8) 63 48 = 0 ∧ f 8 8 % 4096 = 0 ∧ f 24 8 % 8 = 0 ∧ f 40 8 % 16 = 0 ∧ f 56 8 % 64 = 0) &&
    decide (7 ≤ nfield sizes 4 0 ∧ nfield sizes 4 0 ≤ 24 ∧ 4 ≤ nfield sizes 12 8 ∧ nfield sizes 12 8 ≤ 20 ∧
      4 ≤ nfield sizes 20 16 ∧ nfield sizes 20 16 ≤ 16 ∧ 4 ≤ nfield sizes 28 24 ∧ nfield sizes 28 24 ≤ 16) &&
    decide (nfield sizes 7 5 = 0 ∧ nfield sizes 15 13 = 0 ∧ nfield sizes 23 21 = 0 ∧ nfield sizes 31 29 = 0 ∧
      f 76 4 < 4 ∧ f 80 48 = 0)

/-- ASIDSET: the descriptor at a host address, checked and made VALID. -/
def execAsidset (asid : BitVec 16) (hostPa : Nat) (s : State) : Res :=
  mbox s 1
    (let b := readMem s (hostBase + hostPa) 128
     if 2 ^ 47 < hostPa + 128 then (s, 1)
     else if descOk b = false then (s, 2)
     else measured s asid (fun s => writeMem s (descAddr s asid) (toBytes 8 (imgAt b 0 8 / 2 * 2 + 1) ++ b.drop 8)))

/-- HANDLER on the slices of a mask of one die. With a full log nothing is written and every slice refuses the VALID
(R175, R311; log 121). -/
def execHandler (r : HandlerReq) (s : State) : Res :=
  mbox s 2
    (let slices := ((List.range 64).filter (fun i => r.mask.getLsbD i)).map (fun i => 64 * r.die.toNat + i)
     let n := r.entry.toNat
     let w1 := r.words.getD 1 0
     if 1024 * field w1 10 5 < r.imem.length ∨ 256 * field w1 23 17 < r.dmem.length then (s, 1)
     else if logFull s then (slices.foldl (fun s i => refuseEntry s i n) s, 2)
     else
       let s := slices.foldl (fun s i => placeHandler s i n r) s
       let s := extendMr s 1 ((r.words.getD 0 0).extractLsb' 16 16) (Config.measureAddr s.tick) (sha512 (r.imem ++ r.dmem))
       let s := slices.foldl (fun s i => validateEntry s i n) s
       if slices.all (fun i => entryValid s i n) then (s, 0)
       else (slices.foldl (fun s i => clearEntry s i n) s, 2))

/-- One window of an access-table entry (Table 14.3). -/
def entryWindow (entry : BitVec 512) (w : Nat) (core : Bool) : Window :=
  let o := 128 * w
  { base := field entry (o + 47) (o + 7), last := field entry (o + 111) (o + 71), perm := entry.extractLsb' o 4
    en := entry.getLsbD (o + 64), push := core && decide (w = 0) && entry.getLsbD (o + 63) }

def isCoreTarget (t : Nat) : Bool := decide (256 ≤ t ∧ t < 640)

/-- ACCESS: one entry of one table; the targets are numbered as the model numbers them. -/
def execAccess (target_ : Nat) (master : BitVec 10) (entry : BitVec 512) (s : State) : Res :=
  mbox s 3
    (if 669 ≤ target_ then (s, 1)
     else measured s 0 (fun s => (List.range 4).foldl (fun s w =>
       s.setWindow target_ master.toNat w (entryWindow entry w (isCoreTarget target_))) s))

def apertureMask : BitVec 64 := 0xFF0FFF0001

def execAperture (a : BitVec 6) (entry : BitVec 64) (s : State) : Res :=
  mbox s 4 (measured s 0 (fun s =>
    { s with head := { s.head with apertures := Map.set 0 s.head.apertures a.toNat (entry &&& apertureMask) } }))

def execRoute (m : BitVec 12) (mask : BitVec 16) (s : State) : Res :=
  mbox s 5 (measured s 0 (fun s => { s with head := { s.head with routes := Map.set 0 s.head.routes m.toNat mask } }))

/-! ### Firmware and attestation (R310, R312) -/

/-- A slot of the boot flash is accepted: slot A is false, slot B true. -/
def slotAccepted (b : Bool) : Bool :=
  (List.range 4).any (fun i => !Config.fuseRevoked i && decide (sha512 (Config.firmwareKey b) = Config.fuseKey i)) &&
    edVerify (Config.firmwareKey b) (Config.firmwareHeader b) (Config.firmwareSig b) &&
    decide (sha512 (Config.firmwareBody b) = Config.firmwareDigest b ∧ Config.fuseCounter ≤ Config.firmwareVersion b)

def acceptedSlot : Option Bool := if slotAccepted false then some false else if slotAccepted true then some true else none

/-- "Hafepa identity". -/
def identityInfo : List Byte := [0x48, 0x61, 0x66, 0x65, 0x70, 0x61, 0x20, 0x69, 0x64, 0x65, 0x6E, 0x74, 0x69, 0x74, 0x79]
def identitySeed : List Byte := hkdf Config.fuseSecret identityInfo 32

/-- The first 320 bytes of a report. -/
def reportBody (s : State) (nonce : BitVec 256) : List Byte :=
  toBytes 32 nonce.toNat ++ (List.range 4).flatMap (mrBytes s) ++ toBytes 8 s.head.log.length ++
    toBytes 8 (4 * s.head.moduleNo.toNat + Config.reportCluster.toNat) ++ toBytes 8 (Config.firmwareVersion (acceptedSlot.getD false)) ++ toBytes 8 0

def execAttest (nonce : BitVec 256) (hostPa : Nat) (s : State) : Res :=
  mbox s 6
    (if 2 ^ 47 < hostPa + 384 then (s, 1)
     else
       let b := reportBody s nonce
       (writeMem s (hostBase + hostPa) (b ++ edSign identitySeed b), 0))

/-- MODULE, before step 6; which STATUS a later one ends with is not said. -/
def execModule (m : BitVec 12) (s : State) : Res :=
  mbox s 7
    (if s.head.step < 6 then ({ s with head := { s.head with moduleNo := m, moduleSet := true } }, 0)
     else (s, if Config.eitherOf s.tick then 1 else 2))

/-- RELEASE ends the hold after step 5. -/
def execRelease (s : State) : Res :=
  mbox s 9
    (if s.head.holding then ({ s with head := { s.head with holding := false } }, 0) else (s, 1))

def execMailboxUnlistedCode (code : BitVec 8) (s : State) : Res :=
  if 1 ≤ code.toNat ∧ code.toNat ≤ 9 then onModule s (.next s) else mbox s code.toNat (s, 1)

/-! ### Resets and bring-up (R313, R314) -/

/-- What a reset leaves alone: the schedule, the host's and other modules' memory and the drives. -/
def State.cold (s : State) : State :=
  { State.reset with
    agenda := s.agenda, self := s.self, tick := s.tick, nextId := s.nextId, cycleFrom := s.tick
    mem := s.mem.filter (fun e => decide (e.1 < 0x8000000000 ∨ hostBase ≤ e.1))
    poison := s.poison.filter (fun e => decide (hostBase / 8 ≤ e.1)), drives := s.drives }

def execColdReset (s : State) : Res := onModule s (.next s.cold)

/-- The host's CXL.mem requests that stand at a slice are answered with poison. -/
def poisonHost (s : State) : State :=
  (s.slices.flatMap (fun e => e.2.inside.filter (fun x => decide (x.who.master = 1016)))).foldl (fun s x => answer s (128 * x.line) .poisoned) s

/-- The stack writes on their way at a warm reset: each 64-byte chunk holds the old or the new value. -/
def tearWrites (s : State) : List Req → State
  | [] => s
  | r :: rest =>
    let s := if r.outcome.isSome ∨ 0x8000000000 ≤ r.pa then s
      else writeCells s r.pa (r.cells.mapIdx (fun i c => if Config.byteIsNew s.tick ((r.pa + i) / 64) then c else none))
    tearWrites s rest

/-- Warm reset: the stacks, with the scanned-out state that stands in them, the log, MR0 and TIME stay; the marker is
appended, and steps 4 to 7 follow. The bytes of a line that stood dirty in a slice are kept (log 148). -/
def warmReset (s : State) : State :=
  let s := poisonHost (tearWrites s s.egress)
  let epoch := s.head.epoch + 1
  { s.cold with
    time := s.time, timeFrom := s.time
    saves := s.saves.filter (fun e => decide (e.1 < 0x8000000000))
    poison := s.poison.filter (fun e => decide (e.1 < 0x1000000000 ∨ hostBase / 8 ≤ e.1))
    head := { step := 3, epoch, mr := Map.set 0 [] 0 (Map.get 0 s.head.mr 0), recovery := s.head.recovery, failure := s.head.failure, answers := s.head.answers
              log := s.head.log ++ [{ index := 0xFF, asid := 0, epoch, addr := 0, digest := 0 }] } }

/-- RESET; with a full log it takes no effect. -/
def execReset (s : State) : Res :=
  mbox s 8 (if logFull s then (s, 2) else (warmReset s, 0))

/-- The bring-up state has changed: vector 3. -/
def stepDone (s : State) (n : Nat) : State :=
  { s with head := { s.head with step := n, msix := s.head.msix ++ [3] } }

/-- A step fails: its code is recorded, and vectors 3 and 2 are raised (R305, R313; log 149). -/
def stepFails (s : State) (code : BitVec 32) : State :=
  { s with head := { s.head with failure := some code, msix := s.head.msix ++ [3, 2] } }

/-- Step 2: a firmware slot is accepted and measured with the ROM, or the step fails and the headframe stays in recovery. -/
def loadFirmware (s : State) : State :=
  match acceptedSlot with
  | none => stepFails { s with head := { s.head with recovery := true } } Config.bootFailure
  | some b =>
    let s := extendMr s 0 0 (Config.measureAddr s.tick) (sha512 Config.romImage)
    stepDone (extendMr s 0 0 (Config.measureAddr (s.tick + 1)) (sha512 (Config.firmware b))) 2

/-- Step 7: every thread runs at IDLEPC. -/
def releaseThreads (s : State) : State := (List.range 384).foldl goIdle s

/-- The work of bring-up step n (Table 14.8). -/
def bringup (s : State) (n : Nat) : State :=
  match n with
  | 2 => loadFirmware s
  | 3 => stepDone { s with mem := s.mem.filter (fun e => decide (0x8000000000 ≤ e.1))
                           poison := s.poison.filter (fun e => decide (0x1000000000 ≤ e.1)) } 3
  | 5 => let s := stepDone s 5
         { s with head := { s.head with holding := true } }
  | 6 => stepDone { s with head := { s.head with
           deadPorts := 0, retries := [], moduleNo := if s.head.moduleSet then s.head.moduleNo else Config.flashModule } } 6
  | 7 => stepDone (releaseThreads s) 7
  | _ => stepDone s n

/-- The step after the last completed one completes, or fails with a code, which stops the sequence. -/
def execBringupStep (failure : Option (BitVec 32)) (s : State) : Res :=
  onModule s
    (if 7 ≤ s.head.step ∨ s.head.holding ∨ s.head.recovery ∨ s.head.failure.isSome then .next s
     else match failure with
       | some c => .next (stepFails s c)
       | none => .next (bringup s (s.head.step + 1)))

/-! ### Control-register writes (R300, Table 14.1) -/

/-- The block that an offset lies in, and the offset within it. -/
inductive RegBlock where
  | slice (i off : Nat)
  | foreman (d off : Nat)
  | core (k off : Nat)
  | base (j off : Nat)
  | pithead (off : Nat)
  | unassigned
  deriving DecidableEq, Repr

def regBlock (o : Nat) : RegBlock :=
  let c := o / 0x10000000
  let b := o % 0x10000000
  if c < 4 then
    if b < 0x4000000 then .slice (64 * c + b / 0x100000) (b % 0x100000)
    else if 0x4000000 ≤ b ∧ b < 0x4100000 then .foreman c (b - 0x4000000)
    else if 0x8000000 ≤ b ∧ b < 0x8000000 + 96 * 0x100000 then .core (96 * c + (b - 0x8000000) / 0x100000) (b % 0x100000)
    else .unassigned
  else if 0x40000000 ≤ o ∧ o < 0x48000000 then .base ((o - 0x40000000) / 0x1000000) (o % 0x1000000)
  else if 0x80000000 ≤ o ∧ o < 0x90000000 then .pithead (o - 0x80000000)
  else .unassigned

/-- A write into the access table of a target. -/
def writeTable (s : State) (t off : Nat) (v : BitVec 64) : State :=
  let id := off / 64
  let w := off % 64 / 16
  let x := s.window t id w
  s.setWindow t id w (if off % 16 < 8 then
      { x with base := field v 47 7, perm := v.extractLsb' 0 4, push := isCoreTarget t && decide (w = 0) && v.getLsbD 63 }
    else { x with last := field v 47 7, en := v.getLsbD 0 })

/-- A write into a denial log: COUNT clears with a write of 0. -/
def writeDenial (s : State) (t off : Nat) (v : BitVec 64) : State :=
  if off = 0 ∧ field v 31 0 = 0 then { s with denials := Map.modify {} s.denials t (fun d => { d with count := 0 }) } else s

/-- The two tables at +0x8_0000 and +0x9_0000 of a target's block. -/
def writeTables (s : State) (t off : Nat) (v : BitVec 64) : State :=
  if 0x80000 ≤ off ∧ off < 0x90000 then writeTable s t (off - 0x80000) v
  else if 0x90000 ≤ off ∧ off < 0x90018 then writeDenial s t (off - 0x90000) v
  else s

/-- A handler-table word (08_assayers.md Table 8.2); only HANDLER sets VALID. -/
def writeHandlerWord (s : State) (i n w : Nat) (v : BitVec 64) : State :=
  if w = 8 then
    let old := s.entryWord i n 8
    s.setEntryWord i n 8 (BitVec.ofNat 64 ((if field v 63 32 = 0 then 0 else field old 63 32) * 2 ^ 32 +
      (if field v 31 0 = 0 then 0 else field old 31 0)))
  else if 9 ≤ w then s
  else
    let s := if entryValid s i n then s
      else s.setEntryWord i n w ((s.entryWord i n w &&& ~~~entryMask w) ||| (v &&& entryMask w))
    if w = 0 ∧ v.getLsbD 0 = false then clearEntry s i n else s

def writeSlice (s : State) (i off : Nat) (v : BitVec 64) : State :=
  if off < 0x800 then writeHandlerWord s i (off / 128) (off % 128 / 8) v
  else if off = 0x800 then s.modSlice i (fun x => { x with unmatched := v })
  else if (0x10000 ≤ off ∧ off < 0x18000) ∨ (0x20000 ≤ off ∧ off < 0x24000) then writeNat s (sliceBlock i + off) 8 v.toNat
  else writeTables s i off v

/-- A word of an intake descriptor (11_scheduling.md Table 11.1). -/
def writeDesc (s : State) (d q w : Nat) (v : BitVec 64) : State :=
  let f := s.foreman d
  let on := f.enabled q
  let old := f.descWord q w
  let put (x : BitVec 64) : State := s.modForeman d (fun f => f.setDesc q w x)
  match w with
  | 0 => if on then s else put (v &&& 0xFFFFFFFFFF80)
  | 1 | 2 => if on then s else put (v &&& 0xFFFFFFFFFFF8)
  | _ =>
    let rejects := if field v 63 32 = 0 then 0 else field old 63 32
    let set := if on then field old 31 6 else field v 31 16 * 2 ^ 10 + field v 10 8 * 4 + field v 7 6
    let low := set * 64 + field old 5 4 * 16 + field old 2 2 * 4 + (if v.getLsbD 0 then field old 0 0 else 0)
    let s := put (BitVec.ofNat 64 (rejects * 2 ^ 32 + low))
    if v.getLsbD 3 then tearDown s d q
    else if v.getLsbD 0 && !on then enableQueue s d q
    else s

/-- A foreman register (Table 11.4). -/
def writeForemanReg (f : Foreman) (w : Nat) (v : BitVec 64) : Foreman :=
  match w with
  | 0 => if field v 31 16 = 0 then f else { f with age := field v 31 16 }
  | 1 => { f with idlePc := field v 55 0 }
  | 2 => { f with trapPc := field v 55 0 }
  | 3 => { f with saveBase := field v 47 10 }
  | _ => if v.getLsbD 0 then f else { f with keyOvf := false }

/-- The writable bits of words 0 to 5 of a task-type entry (Table 11.3). -/
def typeMask (w : Nat) : BitVec 64 :=
  match w with
  | 0 | 1 | 2 => 0xFFFFFFFFFFFFFF
  | 3 | 5 => BitVec.allOnes 64
  | 4 => 0xFFFF0000FFFFFFFF
  | _ => 0

def writeType (s : State) (d t w : Nat) (v : BitVec 64) : State :=
  let f := s.foreman d
  if w = 6 then
    let s := if f.typeValid t then s.modForeman d (fun f => if v.getLsbD 0 then f else f.setType t 6 (f.typeWord t 6 &&& ~~~1))
      else s.modForeman d (fun f => f.setType t 6 ((f.typeWord t 6 &&& ~~~2) ||| (v &&& 2)))
    if v.getLsbD 0 then validateType s d t else s
  else if f.typeValid t then s
  else s.modForeman d (fun f => f.setType t w (v &&& typeMask w))

/-- The foreman's tables that the host may write too. -/
def foremanTables (off : Nat) : Bool := decide (off < 0x228 ∨ (0x10000 ≤ off ∧ off < 0x20000))

def writeForeman (s : State) (d off : Nat) (v : BitVec 64) : State :=
  if off < 0x200 then writeDesc s d (off / 32) (off % 32 / 8) v
  else if off < 0x228 then s.modForeman d (fun f => writeForemanReg f ((off - 0x200) / 8) v)
  else if 0x10000 ≤ off ∧ off < 0x20000 then writeType s d ((off - 0x10000) / 64) (off % 64 / 8) v
  else writeTables s (tgtForeman d) off v

/-- The mailbox: the request's bytes, and GO, which a request in progress answers with STATUS 3 (R309). -/
def writeMailbox (s : State) (off : Nat) (v : BitVec 64) : State :=
  if off < 0x40 then
    let m : BitVec 512 := (BitVec.allOnes 64).zeroExtend 512 <<< (8 * off)
    { s with head := { s.head with mboxReq := (s.head.mboxReq &&& ~~~m) ||| (v.zeroExtend 512 <<< (8 * off)) } }
  else if off = 0x40 ∧ v.getLsbD 0 then
    { s with head := if s.head.busy then { s.head with mboxStatus := 3 } else { s.head with busy := true } }
  else s

def writePithead (s : State) (off : Nat) (v : BitVec 64) : State :=
  if off < 0x50 then writeMailbox s off v
  else if 0x2000 ≤ off ∧ off < 0x2200 then
    { s with head := { s.head with apertures := Map.set 0 s.head.apertures ((off - 0x2000) / 8) (v &&& apertureMask) } }
  else if 0x10000 ≤ off ∧ off < 0x12000 then
    { s with head := { s.head with routes := (List.range 4).foldl (fun m i =>
        Map.set 0 m ((off - 0x10000) / 2 + i) (v.extractLsb' (16 * i) 16)) s.head.routes } }
  else if 0x108000 ≤ off ∧ off < 0x118000 then writeTable s tgtHost (off - 0x108000) v
  else if 0x118000 ≤ off ∧ off < 0x118018 then writeDenial s tgtHost (off - 0x118000) v
  else if 0x200000 ≤ off ∧ off < 0x1200000 then
    let n := (off - 0x200000) / 0x100000
    let o := (off - 0x200000) % 0x100000
    if o < 0x10000 then writeTable s (tgtAdit n) o v
    else if o < 0x10018 then writeDenial s (tgtAdit n) (o - 0x10000) v
    else s
  else s

/-- The target whose log takes the denial of a request to a block; the pithead's and that of an offset which nothing is
assigned go to the host window's (log 60). -/
def blockTarget : RegBlock → Nat
  | .slice i _ => i
  | .foreman d _ => tgtForeman d
  | .core k _ => tgtCore k
  | .base j _ => tgtBase j
  | .pithead _ => tgtHost
  | .unassigned => tgtHost

/-- A request to the control-register space that is turned away: it performs nothing, and the host's is logged (R300, R304). -/
def refuseReg (s : State) (master offset : Nat) (kind : BitVec 2) : State :=
  answer (if master = 1016 then deny s (blockTarget (regBlock offset)) 1016 (regsBase + offset) kind else s) (regsBase + offset) .refused

/-- The host may write the foreman tables and the mailbox. -/
def hostMayWrite : RegBlock → Bool
  | .foreman _ off => foremanTables off
  | .pithead off => decide (off < 0x50)
  | _ => false

/-- A write that is permitted. -/
def writeBlock (s : State) (b : RegBlock) (v : BitVec 64) : State :=
  match b with
  | .slice i off => writeSlice s i off v
  | .foreman d off => writeForeman s d off v
  | .core k off => writeTables s (tgtCore k) off v
  | .base j off => writeTables s (tgtBase j) off v
  | .pithead off => writePithead s off v
  | .unassigned => s

/-- The BARs and HDM are exposed: from bring-up step 5 on (R305, Table 14.8). -/
def exposed (s : State) : Bool := decide (5 ≤ s.head.step)

/-- The host reaches a block: every one once the BARs are exposed, in recovery the mailbox and the status block alone
(R305, R310). -/
def hostReaches (s : State) (b : RegBlock) : Bool :=
  if s.head.recovery then (match b with | .pithead off => decide (off < 0x50 ∨ (0x1000 ≤ off ∧ off < 0x2000)) | _ => false)
  else exposed s

/-- An 8-byte write to the control-register space: the headframe's, or the host's where it may; the host's others perform
nothing and are logged (R300). -/
def execRegisterWrite (w : RegWrite) (s : State) : Res :=
  onModule s
    (let b := regBlock w.offset
     if w.offset % 8 ≠ 0 then .next s
     else if w.master = 1008 then .next (if b = .unassigned then refuseReg s 1008 w.offset Kind.write.denial else writeBlock s b w.value)
     else if w.master = 1016 ∧ hostReaches s b then
       (if hostMayWrite b then .next (writeBlock s b w.value) else .next (refuseReg s 1016 w.offset Kind.write.denial))
     else .next s)

/-! ### Control-register reads (R300, Table 14.1) -/

/-- Bytes off to off + 7 of a list. -/
def wordOfBytes (l : List Byte) (off : Nat) : BitVec 64 := BitVec.ofNat 64 (ofBytes ((l.drop off).take 8))

/-- A word of the access table of a target (Table 14.3). -/
def readTable (s : State) (t off : Nat) : BitVec 64 :=
  let w := off % 64 / 16
  let x := s.window t (off / 64) w
  if off % 16 < 8 then BitVec.ofNat 64 ((x.push && isCoreTarget t && decide (w = 0)).toNat * 2 ^ 63 + x.base * 128 + x.perm.toNat)
  else BitVec.ofNat 64 (x.last * 128 + x.en.toNat)

/-- A word of a denial log (Table 14.4). -/
def readDenial (s : State) (t off : Nat) : BitVec 64 :=
  let d := Map.get {} s.denials t
  match off / 8 with
  | 0 => d.count.zeroExtend 64
  | 1 => BitVec.ofNat 64 (d.kind.toNat * 2 ^ 10 + d.master.toNat)
  | _ => d.addr.zeroExtend 64

def readTables (s : State) (t off : Nat) : Option (BitVec 64) :=
  if 0x80000 ≤ off ∧ off < 0x90000 then some (readTable s t (off - 0x80000))
  else if 0x90000 ≤ off ∧ off < 0x90018 then some (readDenial s t (off - 0x90000))
  else none

/-- A handler-table word: BUSY reads 1 while a handler of the entry runs or an event for it is queued (08_assayers.md
Table 8.2). -/
def readEntry (s : State) (i n w : Nat) : BitVec 64 :=
  if w = 0 then (s.entryWord i n 0 &&& 0xFFFF007F) ||| (if entryBusy s i n then 0x80 else 0)
  else if 10 ≤ w then 0
  else s.entryWord i n w

def readSlice (s : State) (i off : Nat) : Option (BitVec 64) :=
  if off < 0x800 then some (readEntry s i (off / 128) (off % 128 / 8))
  else if off = 0x800 then some (s.slice i).unmatched
  else if (0x10000 ≤ off ∧ off < 0x18000) ∨ (0x20000 ≤ off ∧ off < 0x24000) then some (BitVec.ofNat 64 (readNat s (sliceBlock i + off) 8))
  else readTables s i off

/-- A descriptor word: FULL reads 1 in each while the pool has no room, and TEARDOWN and reserved bits read 0
(11_scheduling.md Table 11.1, R252). -/
def readDesc (f : Foreman) (q w : Nat) : BitVec 64 :=
  if w = 3 then (f.descWord q 3 &&& 0xFFFFFFFFFFFF07D5) ||| (if f.full then 0x20 else 0) else f.descWord q w

/-- A foreman register; POOLUSED is the number of pool entries held (Table 11.4). -/
def readForemanReg (f : Foreman) (w : Nat) : BitVec 64 :=
  match w with
  | 0 => BitVec.ofNat 64 (f.age * 2 ^ 16)
  | 1 => BitVec.ofNat 64 f.idlePc
  | 2 => BitVec.ofNat 64 f.trapPc
  | 3 => BitVec.ofNat 64 (f.saveBase * 2 ^ 10)
  | _ => BitVec.ofNat 64 (f.pool.length * 2 ^ 10 + f.keyOvf.toNat)

def readForeman (s : State) (d off : Nat) : Option (BitVec 64) :=
  let f := s.foreman d
  if off < 0x200 then some (readDesc f (off / 32) (off % 32 / 8))
  else if 0x200 ≤ off ∧ off < 0x228 then some (readForemanReg f ((off - 0x200) / 8))
  else if 0x10000 ≤ off ∧ off < 0x20000 then some (f.typeWord ((off - 0x10000) / 64) (off % 64 / 8))
  else readTables s (tgtForeman d) off

/-- The 128 bytes of a measurement-log entry (R311). -/
def logBytes (e : LogEntry) : List Byte :=
  toBytes 1 e.index.toNat ++ toBytes 1 0 ++ toBytes 2 e.asid.toNat ++ toBytes 4 e.epoch.toNat ++ toBytes 8 e.addr.toNat ++
    toBytes 64 e.digest.toNat ++ toBytes 48 0

def readPithead (s : State) (off : Nat) : Option (BitVec 64) :=
  let h := s.head
  if off < 0x40 then some (BitVec.ofNat 64 (h.mboxReq.toNat / 256 ^ off))
  else if off = 0x40 then some (if h.busy then 2 else 0)
  else if off = 0x48 then some h.mboxStatus
  else if 0x1000 ≤ off ∧ off < 0x2000 then some (Config.statusWord (off - 0x1000) h.step h.failure)
  else if 0x2000 ≤ off ∧ off < 0x2200 then some (Map.get 0 h.apertures ((off - 0x2000) / 8))
  else if 0x10000 ≤ off ∧ off < 0x12000 then
    some (BitVec.ofNat 64 (ofBytes ((List.range 4).flatMap (fun i => toBytes 2 (Map.get 0 h.routes ((off - 0x10000) / 2 + i)).toNat))))
  else if 0x108000 ≤ off ∧ off < 0x118000 then some (readTable s tgtHost (off - 0x108000))
  else if 0x118000 ≤ off ∧ off < 0x118018 then some (readDenial s tgtHost (off - 0x118000))
  else if 0x200000 ≤ off ∧ off < 0x1200000 then
    let n := (off - 0x200000) / 0x100000
    let o := (off - 0x200000) % 0x100000
    if o < 0x10000 then some (readTable s (tgtAdit n) o)
    else if o < 0x10018 then some (readDenial s (tgtAdit n) (o - 0x10000))
    else none
  else if 0x2000000 ≤ off ∧ off < 0x2100000 then
    some (match h.log[(off - 0x2000000) / 128]? with | some e => wordOfBytes (logBytes e) ((off - 0x2000000) % 128) | none => 0)
  else none

/-- The word that stands at an offset of a block; none where Table 14.1 assigns nothing, which faults the reader with ACCESS. -/
def readBlockWord (s : State) (b : RegBlock) : Option (BitVec 64) :=
  match b with
  | .slice i off => readSlice s i off
  | .foreman d off => readForeman s d off
  | .core k off => readTables s (tgtCore k) off
  | .base j off => readTables s (tgtBase j) off
  | .pithead off => readPithead s off
  | .unassigned => none

/-- The host reads every block except IMEM and DMEM. -/
def hostMayRead : RegBlock → Bool
  | .slice _ off => decide (¬ ((0x10000 ≤ off ∧ off < 0x18000) ∨ (0x20000 ≤ off ∧ off < 0x24000)))
  | _ => true

/-- What an 8-byte read of the control-register space answers: the headframe reads every block, the host those that it may and
reaches; a read that is turned away performs nothing, and the host's is logged (R300, R304, R310). -/
def readRegister (s : State) (master offset : Nat) : State × Option (BitVec 64) :=
  let b := regBlock offset
  if offset % 8 ≠ 0 then (s, none)
  else if master = 1008 then (s, readBlockWord s b)
  else if master = 1016 ∧ hostReaches s b then
    (if hostMayRead b ∧ (readBlockWord s b).isSome then (s, readBlockWord s b)
     else (deny s (blockTarget b) 1016 (regsBase + offset) Kind.read.denial, none))
  else (s, none)

/-- The step of a read of the control-register space. -/
def readStep (s : State) (master offset : Nat) : State :=
  match readRegister s master offset with
  | (s, some v) => answer s (regsBase + offset) (.done (toBytes 8 v.toNat))
  | (s, none) => answer s (regsBase + offset) .refused

/-- An atomic to the control-register space performs nothing: ACCESS for the headframe, Completer Abort and a denial for the
host (R300). -/
def atomicStep (s : State) (master offset : Nat) : State :=
  if master = 1008 ∨ (master = 1016 ∧ hostReaches s (regBlock offset)) then refuseReg s master offset Kind.atomic.denial else s

end Sys2Proof.Machine
end

