-- ==== Sys2Proof/Machine/Matrix.lean ====
section
/-!
DEFINITION. The matrix ops, the systolic firing, row merges and score modification (17_ref_m_r.md R370 to R376, R382, R383,
03_fabric.md R81, 09_attention.md R207 to R210).
-/
namespace Sys2Proof.Machine

open Sys2Proof
open Sys2Proof.Float (Fl Val fOVF)

/-! ### Elements (Table 17.1) -/

def mfmt (f : Slot) : Nat := field f.m 8 6
def elemBits (fmt : Nat) : Nat := if fmt = 3 ∨ fmt = 6 then 4 else if fmt = 4 then 16 else 8
def groupLen (fmt : Nat) : Nat := if fmt = 4 then 8 else 32
def isIntFmt (fmt : Nat) : Bool := decide (fmt = 5 ∨ fmt = 6)
def chunksOf (fmt : Nat) : Nat := if fmt = 4 then 32 else if fmt = 3 ∨ fmt = 6 then 8 else 16

/-- Bits of element i of a payload whose invalid lanes read 0. -/
def mElem (fmt : Nat) (p : Lanes) (i : Nat) : Nat := (p.toNat >>> (elemBits fmt * i)) % 2 ^ elemBits fmt
def mElemValid (fmt : Nat) (v : BitVec 16) (i : Nat) : Bool := v.getLsbD (elemBits fmt * i / 32)

def mVal (fmt c : Nat) : Val :=
  match fmt with
  | 0 => Float.decode Float.e4m3 c
  | 1 => Float.decode Float.e5m2 c
  | 2 => Float.tap8 c
  | 3 => Float.decode Float.e2m1 c
  | _ => Float.decode Float.bf16 c
def mInt (fmt c : Nat) : Int := sextN c (elemBits fmt)

/-- Formats in one row of Table 4.7. -/
def compatible (a b : Nat) : Bool := decide (a = b) || (decide (a ≤ 1) && decide (b ≤ 1))

/-- A group added to an accumulator lane. -/
def addGroup (fa fb acc : Nat) (pairs : List (Nat × Nat)) (sa sb : Nat) : Nat × Fl :=
  if isIntFmt fa then Float.groupAddInt acc (pairs.map (fun p => (mInt fa p.1, mInt fb p.2)))
  else if fa = 4 then Float.groupAdd acc (pairs.map (fun p => (mVal fa p.1, mVal fb p.2))) (some 0) (some 0)
  else Float.groupAdd acc (pairs.map (fun p => (mVal fa p.1, mVal fb p.2))) (Float.e8m0 sa) (Float.e8m0 sb)

/-! ### Weights (R370, R371) -/

def weight (t : Tile) (k n : Nat) : Nat := (Map.get 0 t.ws (16 * k + n)).toNat
def weightScale (t : Tile) (n : Nat) : Nat := (Map.get 0 t.wsc n).toNat

def execMldw (f : Slot) (s : State) : Res :=
  onTile s (fun st => fireAt s st { srcs := [f.a], dests := [(15, 1)], next := f.n } (fun k =>
    let t := tok k 0
    if f.m.getLsbD 0 then
      if t.valid &&& 0xF ≠ 0xF then .error fcTOKEN
      else .ok (k.s.modTile st.key (fun ti => { ti with
        wsc := (List.range 16).foldl (fun m n => Map.set 0 m n (payByte t.payload n)) ti.wsc }), [])
    else
      let fmt := mfmt f
      let sl := slotSt k.s st
      let c := sl.ptr
      if chunksOf fmt ≤ c ∨ (0 < c ∧ fmt ≠ (k.s.tile st.key).wf) then .error fcTOKEN
      else
        let rr := 32 / elemBits fmt
        let p := maskLanes t.valid t.payload
        let s := k.s.modTile st.key (fun ti =>
          let ws := (List.range (16 * rr)).foldl (fun m i => Map.set 0 m (16 * rr * c + i) (BitVec.ofNat 16 (mElem fmt p i))) ti.ws
          if c = 0 then { ti with ws, wf := fmt, wsc := (List.range 16).foldl (fun m n => Map.set 0 m n 0x7F) ti.wsc }
          else { ti with ws })
        .ok (setSlotSt s st { sl with ptr := c + 1 }, [])))

/-! ### MMA, MMAS and the systolic firing (R372, R373, R81) -/

/-- Groups of a firing: the pairs of row and element code of each, present or not, and its scale code. -/
structure MGroup where
  pairs : List (Nat × Nat)
  present : Bool
  sa : Nat

/-- Table 17.2. -/
def mmaGroups (f : Slot) (t : Token) : List MGroup :=
  let fmt := mfmt f
  let opt := field f.m 1 0
  let p := maskLanes t.valid t.payload
  let ng := if fmt = 3 ∨ fmt = 6 then 2 else 1
  let G := groupLen fmt
  let row0 := if fmt ≤ 2 ∨ fmt = 5 then 32 * (opt % 2) else if fmt = 4 then 8 * (4 * field f.m 2 2 + opt) else 0
  (List.range ng).map (fun g =>
    { pairs := (List.range G).map (fun i => (row0 + G * g + i, mElem fmt p (G * g + i)))
      present := (List.range G).any (fun i => mElemValid fmt t.valid (G * g + i))
      sa := if opt / 2 = 1 then nfield (lane p 8).toNat (8 * g + 7) (8 * g) else 0x7F })

/-- Lane n of a firing that starts from acc. -/
def mmaLane (ti : Tile) (fmt : Nat) (gs : List MGroup) (acc n : Nat) : Nat × Fl :=
  gs.foldl (fun (a : Nat × Fl) g =>
    if g.present then
      let (r, fl) := addGroup fmt ti.wf a.1 (g.pairs.map (fun e => (e.2, weight ti e.1 n))) g.sa (weightScale ti n)
      (r, a.2 ||| fl)
    else a) (0 + acc, 0)

/-- What the accumulator holds before each group of a firing that is added to it (R69). -/
def mmaSteps (ti : Tile) (fmt : Nat) (gs : List MGroup) (start : Nat → Nat) : List Lanes :=
  ((List.range gs.length).filter (fun i => (gs[i]?).any (·.present))).map (fun i =>
    ofLanes (fun n => BitVec.ofNat 32 (mmaLane ti fmt (gs.take i) (start n) n).1))

/-- A firing of MMA or MMAS with its groups: the result, the accumulator when source B is 14, the flags. -/
def mmaFire (f : Slot) (k : Taken) (st : Site) (gs : List MGroup) : Fired :=
  let ti := k.s.tile st.key
  if compatible (mfmt f) ti.wf = false then .error fcTOKEN
  else
    let b := tok k 1
    -- from source 14 it adds to the accumulator, whose every earlier addition it follows (17_ref_m_r.md R376)
    let b := if f.b = 14 then { b with payload := Map.get 0 ti.m (accOf f) } else b
    let start (n : Nat) : Nat := if f.b = 15 then 0 else if b.valid.getLsbD n then (lane b.payload n).toNat else 0
    let out := (List.range 16).map (fun n => mmaLane ti (mfmt f) gs (start n) n)
    let pay := ofLanes (fun n => BitVec.ofNat 32 (out.getD n (0, 0)).1)
    let s := raiseFlags k.s st.k st.j (out.foldl (fun m e => m ||| e.2) 0)
    let s := if f.b = 14 then addAcc s st.key (accOf f) (mmaSteps ti (mfmt f) gs start) pay else s
    .ok (s, [(f.d.toNat, resultTok s f 0xFFFF pay)])

def mmaSrcs (f : Slot) : List (BitVec 4) := if f.b = 15 then [f.a] else [f.a, f.b]

def execMma (f : Slot) (s : State) : Res :=
  onTile s (fun st => fireAt s st { srcs := mmaSrcs f, acc := accOf f, dests := [(f.d.toNat, 1)], next := f.n } (fun k =>
    mmaFire f k st (mmaGroups f (tok k 0))))

/-- The header and the groups of a sparse operand; none where it breaks a rule of R373. -/
def mmasGroups (f : Slot) (t : Token) : Option (List MGroup) :=
  let h := (lane t.payload 12).toNat
  let N := nfield h 18 16 + 1
  let mc := nfield h 20 19
  let M := 4 * 2 ^ mc
  if t.valid &&& 0x1FFF ≠ 0x1FFF ∨ mc = 3 ∨ M / 2 < N ∨ nfield h 31 21 ≠ 0 then none
  else
    let V := 64 * N / M
    let idx (i : Nat) : Nat := nfield t.payload.toNat (256 + 4 * i + 3) (256 + 4 * i)
    let okRun (i : Nat) : Bool := decide (idx i < M) && (decide (i % N = 0) || decide (idx (i - 1) < idx i))
    if (List.range V).all okRun then
      let row (i : Nat) : Nat := M * (i / N) + idx i
      some ((List.range 2).map (fun g =>
        { pairs := ((List.range V).filter (fun i => decide (row i / 32 = g))).map (fun i => (row i, mElem (mfmt f) t.payload i))
          present := true
          sa := if field f.m 1 1 = 1 then nfield h (8 * g + 7) (8 * g) else 0x7F }))
    else none

def execMmas (f : Slot) (s : State) : Res :=
  onTile s (fun st => fireAt s st { srcs := mmaSrcs f, acc := accOf f, dests := [(f.d.toNat, 1)], next := f.n } (fun k =>
    match mmasGroups f (tok k 0) with
    | none => .error fcTOKEN
    | some gs => mmaFire f k st gs))

/-- A systolic tile fires slot 0, whatever slot its tokens name: partial sums to S, the W token unchanged on to the next tile
of its array; with a NULL on an input the sums are a NULL (R81, R56). -/
def execSystolicFire (s : State) : Res :=
  onTile s (fun st =>
    let f := slotFields (slotWord st 0)
    let st := { st with n := 0 }
    if isSystolic st = false then .next s else
    let east := forwardsEast st
    fireAt s st { srcs := mmaSrcs f, dests := (f.d.toNat, 1) :: (if east then [(1, 1)] else []), next := f.n, nullOk := true } (fun k =>
      let on : List (Nat × Token) := if east then [(1, tok k 0)] else []
      if k.toks.any (fun t => t.kind == kNULL) then
        .ok (k.s, (f.d.toNat, { kind := kNULL, slot := f.n, tag := Config.resultTag k.s.tick }) :: on)
      else match mmaFire f k st (mmaGroups f (tok k 0)) with
      | .error c => .error c
      | .ok (s, outs) => .ok (s, outs ++ on)))

/-! ### MDOT and MACC (R374, R375) -/

def execMdot (f : Slot) (s : State) : Res :=
  onTile s (fun st => fireAt s st { srcs := [f.a, f.b], how := 0, dests := [(15, 1)], next := f.n } (fun k =>
    let fmt := mfmt f
    let sc := f.m.getLsbD 0
    let a := tok k 0
    let b := tok k 1
    let pa := maskLanes a.valid a.payload
    let pb := maskLanes b.valid b.payload
    let G := groupLen fmt
    let E := if sc then (if fmt = 3 then 64 else 32) else 512 / elemBits fmt
    let sl := slotSt k.s st
    let j := sl.ptr
    let m := Map.get 0 (k.s.tile st.key).m (accOf f)
    let scale (p : Lanes) (g : Nat) : Nat := if sc then nfield (lane p 8).toNat (8 * g + 7) (8 * g) else 0x7F
    let (r, fl) := (List.range (E / G)).foldl (fun (acc : Nat × Fl) g =>
      if (List.range G).any (fun i => mElemValid fmt (a.valid &&& b.valid) (G * g + i)) then
        let (x, e) := addGroup fmt fmt acc.1 ((List.range G).map (fun i => (mElem fmt pa (G * g + i), mElem fmt pb (G * g + i))))
          (scale pa g) (scale pb g)
        (x, acc.2 ||| e)
      else acc) ((lane m j).toNat, (0 : Fl))
    let m' := ofLanes (fun i => if i = j then BitVec.ofNat 32 r else lane m i)
    let s := raiseFlags k.s st.k st.j fl
    -- a reader sees this lane whole (R374)
    let s := s.modTile st.key (fun t => { t with
      m := Map.set 0 t.m (accOf f) m'
      partials := t.partials.map (fun e => if e.acc = accOf f
        then { e with value := ofLanes (fun i => if i = j then BitVec.ofNat 32 r else lane e.value i) } else e) })
    .ok (setSlotSt s st { sl with ptr := (j + 1) % 16 }, [])))

/-- A lane of MACC (Table 17.3). -/
def maccLane (opt : Nat) (int : Bool) (x : BitVec 32) (a : Option (BitVec 32)) : Nat × Fl :=
  match opt, a with
  | 2, _ => (0, 0)
  | _, none => (x.toNat, 0)
  | 0, some v => if int then finInt 3 true (x.toInt + v.toInt) else Float.add Float.fp32 .rne x.toNat v.toNat
  | 1, some v => (v.toNat, 0)
  | _, some v => Float.mul Float.fp32 .rne x.toNat v.toNat

def execMacc (f : Slot) (s : State) : Res :=
  let opt := field f.m 1 0
  let int := f.m.getLsbD 6
  onTile s (fun st => fireAt s st { srcs := if opt = 2 then [] else [f.a], how := if int then 2 else 0,
                                    dests := [(f.d.toNat, 1)], next := f.n } (fun k =>
    let a := tok k 0
    let m := Map.get 0 (k.s.tile st.key).m (accOf f)
    let out := (List.range 16).map (fun i =>
      maccLane opt int (lane m i) (if a.valid.getLsbD i then some (lane a.payload i) else none))
    let m' := ofLanes (fun i => BitVec.ofNat 32 (out.getD i (0, 0)).1)
    let s := raiseFlags k.s st.k st.j (out.foldl (fun x e => x ||| e.2) 0)
    let s := addAcc s st.key (accOf f) [m] m'
    .ok (s, [(f.d.toNat, resultTok s f 0xFFFF (if opt = 2 then m else m'))])))

/-! ### MTRI (R383, R210) -/

/-- The tokens of a record: one header and D / 16 others. -/
def recordLen (f : Slot) : Nat := 1 + 2 * 2 ^ field f.m 1 0

/-- A floating operation on FP32 codes with its flags gathered. -/
def fp (g : Nat → Nat → Nat × Fl) (x y : Nat × Fl) : Nat × Fl := let r := g x.1 y.1; (r.1, x.2 ||| y.2 ||| r.2)
def fma32 (x y z : Nat × Fl) : Nat × Fl :=
  let r := Float.fma Float.fp32 .rne x.1 y.1 z.1
  (r.1, x.2 ||| y.2 ||| z.2 ||| r.2)
def mul32 : Nat × Fl → Nat × Fl → Nat × Fl := fp (Float.mul Float.fp32 .rne)

/-- e_n of a header: exp2(m_n - m), dropped below -θ when KILL is 1. -/
def mtriWeight (kill : Bool) (theta : Val) (mn m : Nat) : Nat × Fl :=
  if Float.decode Float.fp32 mn = .inf true then (0, 0)
  else
    let (d, f1) := Float.sub Float.fp32 .rne mn m
    if kill && decide (Float.cmpV (Float.decode Float.fp32 d) theta.neg < 0) then (0, f1)
    else let (e, f2) := Float.exp2 d; (e, f1 ||| f2)

def nan32 : Nat := 0x7FC00000

/-- A NULL on either input is passed on in place of a result; the record position of an input counts the tokens of a record,
and a NULL is none of them (R56, R210; log 116). -/
def execMtri (f : Slot) (s : State) : Res :=
  onTile s (fun st => fireAt s st { srcs := [f.a, f.b], dests := [(f.d.toNat, 1)], next := f.n, nullOk := true } (fun k =>
    let a := tok k 0
    let b := tok k 1
    let sl := slotSt k.s st
    let advance (sl : SlotSt) : SlotSt :=
      { sl with posA := (sl.posA + 1) % recordLen f, posB := (sl.posB + 1) % recordLen f }
    let ln (t : Token) (i : Nat) : Nat := if t.valid.getLsbD i then (lane t.payload i).toNat else 0
    if k.toks.any (fun t => t.kind == kNULL) then
      .ok (setSlotSt k.s st { sl with
          posA := if a.kind = kNULL then sl.posA else (sl.posA + 1) % recordLen f
          posB := if b.kind = kNULL then sl.posB else (sl.posB + 1) % recordLen f },
        [(f.d.toNat, { kind := kNULL, slot := f.n, tag := Config.resultTag k.s.tick })])
    else if sl.posA ≠ sl.posB then .error fcTOKEN
    else if sl.posA = 0 then
      if a.valid &&& 3 ≠ 3 ∨ b.valid &&& 3 ≠ 3 then .error fcTOKEN
      else
        let theta := Float.decode Float.bf16 st.imm.toNat
        let v1 := Float.decode Float.fp32 (ln a 0)
        let v2 := Float.decode Float.fp32 (ln b 0)
        if v1.isNan || v2.isNan || v1 == .inf false || v2 == .inf false then
          let sig : Fl := if v1.sig || v2.sig then Float.fINV else 0
          let s := raiseFlags (setSlotSt k.s st (advance { sl with bad := true })) st.k st.j sig
          .ok (s, [(f.d.toNat, resultTok s f 3 (ofLanes (fun _ => BitVec.ofNat 32 nan32)))])
        else
          let (m, f0) := Float.minmax Float.fp32 true (ln a 0) (ln b 0)
          let e1 := mtriWeight (f.m.getLsbD 6) theta (ln a 0) m
          let e2 := mtriWeight (f.m.getLsbD 6) theta (ln b 0) m
          let l := fma32 (ln b 1, 0) e2 (mul32 (ln a 1, 0) e1)
          let s := setSlotSt k.s st (advance { sl with bad := false, e1 := BitVec.ofNat 32 e1.1, e2 := BitVec.ofNat 32 e2.1 })
          let s := raiseFlags s st.k st.j (f0 ||| l.2)
          .ok (s, [(f.d.toNat, resultTok s f 3 (ofLanes (fun i => BitVec.ofNat 32 (if i = 0 then m else l.1))))])
    else
      let v := a.valid ||| b.valid
      let out := (List.range 16).map (fun i =>
        if sl.bad then (nan32, 0) else fma32 (ln b i, 0) (sl.e2.toNat, 0) (mul32 (ln a i, 0) (sl.e1.toNat, 0)))
      let fl := (List.range 16).foldl (fun m i => if v.getLsbD i then m ||| (out.getD i (0, 0)).2 else m) 0
      let s := raiseFlags (setSlotSt k.s st (advance sl)) st.k st.j fl
      .ok (s, [(f.d.toNat, resultTok s f v (ofLanes (fun i => BitVec.ofNat 32 (out.getD i (0, 0)).1)))])))

/-! ### MSCM (R382, R207, R208) -/

/-- Registers v0 to v7 of a lane. -/
abbrev SmRegs := List (BitVec 32)

/-- One micro-operation: the registers, flags, how many words were read, and whether the program goes on. -/
def smStep (prog : Nat → BitVec 16) (i : Nat) (v : SmRegs) : SmRegs × Fl × Nat × Bool :=
  let w := prog i
  let d := field w 11 9
  let va := v.getD (field w 8 6) 0
  let vb := v.getD (field w 5 3) 0
  let int := w.getLsbD 0
  let set (x : BitVec 32) : SmRegs := v.set d x
  let fl2 (g : Nat → Nat → Nat × Fl) : SmRegs × Fl × Nat × Bool :=
    let r := g va.toNat vb.toNat
    (set (BitVec.ofNat 32 r.1), r.2, 1, true)
  let done (x : BitVec 32) : SmRegs × Fl × Nat × Bool := (set x, 0, 1, true)
  match field w 15 12 with
  | 0 => (v, 0, 1, true)
  | 1 => if int then done (va + vb) else fl2 (Float.add Float.fp32 .rne)
  | 2 => if int then done (va - vb) else fl2 (Float.sub Float.fp32 .rne)
  | 3 => if int then done (va * vb) else fl2 (Float.mul Float.fp32 .rne)
  | 4 => if int then done (if vb.slt va then vb else va) else fl2 (Float.minmax Float.fp32 false)
  | 5 => if int then done (if va.slt vb then vb else va) else fl2 (Float.minmax Float.fp32 true)
  | 6 => if int then done (if va.slt 0 then -va else va)
    else let r := Float.ofVal Float.fp32 .rne (Float.decode Float.fp32 va.toNat).abs; (set (BitVec.ofNat 32 r.1), r.2, 1, true)
  | 7 => if int then done (if va.slt vb then 1 else 0)
    else
      let a := Float.decode Float.fp32 va.toNat
      let b := Float.decode Float.fp32 vb.toNat
      (set (if !(a.isNan || b.isNan) && decide (Float.cmpV a b < 0) then 1 else 0),
       if a.sig || b.sig then Float.fINV else 0, 1, true)
  | 8 => done (if va ≠ 0 then vb else v.getD (field w 2 0) 0)
  | 9 => done (va &&& vb)
  | 10 => done (if int then va.sshiftRight (vb.toNat % 32) else va >>> (vb.toNat % 32))
  | 11 => (set ((prog (i + 1)).zeroExtend 32 ||| (prog (i + 2)).zeroExtend 32 <<< 16), 0, 3, true)
  | 12 => if va ≠ 0 then done 0xFF800000 else (v, 0, 1, true)
  | 13 =>
    let mag := vb &&& 0x7FFFFFFF
    let r1 := Float.minmax Float.fp32 true va.toNat (mag ||| 0x80000000).toNat
    let r2 := Float.minmax Float.fp32 false r1.1 mag.toNat
    (set (BitVec.ofNat 32 r2.1), r1.2 ||| r2.2, 1, true)
  | _ => (v, 0, 1, false)

/-- Runs the program from word i with fuel for the words left. -/
def smRun (prog : Nat → BitVec 16) : Nat → Nat → SmRegs → Fl → SmRegs × Fl
  | 0, _, v, fl => (v, fl)
  | n + 1, i, v, fl =>
    if 16 ≤ i then (v, fl)
    else
      let (v, f1, len, go) := smStep prog i v
      if go then smRun prog n (i + len) v (fl ||| f1) else (v, fl ||| f1)

def execMscm (f : Slot) (s : State) : Res :=
  onTile s (fun st => fireAt s st { srcs := [f.a, f.b], how := 2, dests := [(f.d.toNat, 1)], next := f.n } (fun k =>
    let a := tok k 0
    let b := tok k 1
    let q := Map.get 0 (k.s.tile st.key).a (field f.m 8 6)
    let ok (i : Nat) : Bool := a.valid.getLsbD i && b.valid.getLsbD i
    let out := (List.range 16).map (fun i => if ok i then
      smRun (fun n => Map.get 0 st.cfg.sm n) 16 0 [lane a.payload i, lane q i, lane b.payload i, st.imm.zeroExtend 32, 0, 0, 0, 0] 0
      else ([], 0))
    let s := raiseFlags k.s st.k st.j (out.foldl (fun m e => m ||| e.2) 0)
    .ok (s, [(f.d.toNat, resultTok s f (ofFlags ok) (ofLanes (fun i => (out.getD i ([], 0)).1.getD 0 0)))])))

end Sys2Proof.Machine
end

