-- ==== Sys2Proof/Machine/System.lean ====
section
/-!
DEFINITION. What reaches the machine from outside a core: accesses at a window port, the host's CXL requests, requests that
arrive on Adit, failing links and soft errors (06_memory.md R131, R135, 07_consistency.md R168, 10_faults_modes.md R236,
11_scheduling.md R243, R249, R259, 14_system.md R303 to R307).
-/
namespace Sys2Proof.Machine

open Sys2Proof

/-! ### The window port of a memory tile (06_memory.md R135) -/

/-- The physical address of a cluster scratch address of die d. -/
def csaPa (d csa : Nat) : Nat := scratchBase + d * 0x40000000 + csa % 2 ^ 30

/-- An access of at most 64 bytes, within one aligned 64-byte chunk of a tile that exists: it crosses the mesh to the die, is
checked, and, for a write, performed; the host's goes through BAR2, once that is exposed (01_device.md R13, R305). -/
def windowStep (s : State) (d : Nat) (r : WindowReq) : State :=
  let pa := csaPa d r.csa
  let n := r.bytes.length
  if n = 0 ∨ 64 < r.csa % 64 + n then s else
  let answered (s : State) (a : HostAns) : State := if r.master = 1016 ∨ r.master = 1008 then answer s pa a else s
  if r.master = 1016 ∧ exposed s = false then s else
  match reach s pa n (if r.write then .write else .read) (ownOrigin r.master.toNat) with
  | .wait s => s
  | .fault s c => answered s (if c = fcECC then .poisoned else .refused)
  | .ready s key => if r.write then answered (writeMem s key r.bytes) (.done []) else answered s (.done (readMem s key n))

/-- The window port of the tile that the address names serves an access. -/
def execWindowAccess (r : WindowReq) (s : State) : Res :=
  match s.self with
  | .tile k y x _ =>
    let lsa := nfield r.csa 22 0
    if nfield r.csa 29 23 = coreNum k ∧ memTileSite (nfield lsa 22 15) = (y, x) then .next (windowStep s (coreDie k) r) else .next s
  | _ => .refused .wrongAgent

/-! ### Requests of the host (R168) -/

/-- A host request lies in one line of stack memory. -/
def oneLine (addr n : Nat) : Bool := decide (0 < n ∧ addr % 128 + n ≤ 128 ∧ addr + n ≤ 0x8000000000)

/-- A host CXL.mem request is performed at its home slice as one access, once HDM is exposed; an uncorrectable error answers
poison (R305, 10_faults_modes.md R236). -/
def execHostCxlMemRequest (r : HostReq) (s : State) : Res :=
  match s.self with
  | .slice i =>
    if exposed s && oneLine r.addr r.bytes.length && decide (homeSlice r.addr = i) then
      .next (match reach s r.addr r.bytes.length (if r.write then .write else .read) (rawOrigin 5 1016) with
        | .wait s => s
        | .fault s c => answer s r.addr (if c = fcECC then .poisoned else .refused)
        | .ready s key => if r.write then answer (perform s key (r.bytes.map some)) r.addr (.done [])
                          else answer s r.addr (.done (readMem s key r.bytes.length)))
    else .next s
  | _ => .refused .wrongAgent

/-- The host writes a line of its memory that the device holds shared: the new bytes stand there, and what watches the
line reads them on its next turn. -/
def execCxlCacheSnoop (hostAddr : Nat) (bytes : List (BitVec 8)) (s : State) : Res :=
  onModule s
    (if hostAddr % 128 + bytes.length ≤ 128 ∧ hostAddr + bytes.length ≤ 2 ^ 47 then .next (writeMem s (hostBase + hostAddr) bytes)
     else .next s)

/-! ### Requests that arrive on Adit (R307) -/

/-- A remote request to memory at its home, as master 960 + n: no scratch and no control register is reached that way
(06_memory.md Table 6.1). What it does once it is performed follows. -/
def remoteReach (s : State) (port addr n : Nat) (kd : Kind) (f : State → Nat → State) : State :=
  if n = 0 ∨ 128 < addr % 128 + n then s else
  match target addr with
  | .scratch _ _ => s
  | _ => match reach s addr n kd (rawOrigin Config.otherOriginator (960 + port)) with
    | .ready s key => f s key
    | .wait s => s
    | .fault s _ => s

def remoteAccess (s : State) (port addr : Nat) (bytes : List Byte) (write : Bool) : State :=
  remoteReach s port addr bytes.length (if write then .write else .read) (fun s key => if write then perform s key (bytes.map some) else s)

/-- An atomic of another module, performed indivisibly here at the remote home (07_consistency.md R156). -/
def remoteAtomic (s : State) (port addr : Nat) (size : BitVec 1) (new : Nat → Option Nat) : State :=
  let n := amoSize size
  if addr % n ≠ 0 then s else
  remoteReach s port addr n .atomic (fun s key => match new (readNat s key n) with
    | some v => perform s key (cellsOf n v)
    | none => s)

def endOf (how : BitVec 2) : EndKind := if how = 0 then .completed else if how = 1 then .failed else .cancelled

/-- An ENQ of another module: it crosses the mesh to the foreman and is checked there as master 960 + n; a full pool makes it
wait (16_ref_d_l.md R351). -/
def remoteEnq (s : State) (port d q : Nat) (record : QWord) (asid : BitVec 16) (origin : Nat) : State :=
  match crossFrom s 4 d 0 with
  | (s, true) => s
  | (s, false) =>
  if permitted s (tgtForeman d) (960 + port) (descLine d q) 128 .write = false then
    deny s (tgtForeman d) (960 + port) (descLine d q) Kind.write.denial
  else if (s.foreman d).full then s
  else deliverRecord s d q record asid (origin + 4096 * jobCluster (recJob record))

def execAditRequest (r : AditReq) (s : State) : Res :=
  onModule s (.next (match r with
    | .read port addr len => remoteAccess s port.toNat addr (List.replicate len 0) false
    | .write port addr bytes => remoteAccess s port.toNat addr bytes true
    | .fetch port addr => if addr % 4 = 0 then remoteReach s port.toNat addr 4 .fetch (fun s _ => s) else s
    | .amo port addr op size b =>
      remoteAtomic s port.toNat addr size (fun old => some (amoNew op (amoSize size) old (b.toNat % 2 ^ (8 * amoSize size))))
    | .cas port addr size d b =>
      remoteAtomic s port.toNat addr size (fun old => if old = d.toNat % 2 ^ (8 * amoSize size) then some b.toNat else none)
    | .enq port cluster queue record asid origin => remoteEnq s port.toNat cluster.toNat queue.toNat record asid origin.toNat
    | .cancel _ job origin =>
      (List.range 4).foldl (fun s d => tell s 4 d (.cancel job origin.toNat)) s
    | .decrement _ job how code => tell s 4 (jobCluster job) (.decrement job (endOf how) code)))

/-! ### Links and soft errors (10_faults_modes.md R236, 14_system.md R306) -/

/-- The flit that a request on its way puts on link k stands there: on Adit port k below 16, once it has crossed the mesh, or
on edge k - 16 of the mesh, to its home or, as its completion, back (R236, 01_device.md R13, 06_memory.md R139). -/
def onLink (s : State) (k : Nat) (r : Req) : Bool :=
  let h := reqHome s r
  let there := reqEdges r.core h
  let back := meshEdges (homeDie h) (coreDie r.core)
  if k < 16 then r.left && r.outcome.isNone && decide (there.length ≤ r.hops) && decide (portOf s r.pa = some k)
  else if r.outcome.isNone then r.left && decide (there[r.hops]? = some (k - 16))
  else decide (back[r.back]? = some (k - 16))

/-- LINK is charged to the access of a request, or to one whose completion reports no fault of its own. -/
def linkFails (r : Req) : Req := { r with outcome := some (match r.outcome with | some 0 => fcLINK | some c => c | none => fcLINK) }

/-- A retransmission on link k fails (16 to 21 the edges of the mesh, from 22 on the links of the fabric, `linkNo`): of the flit of a
request that stands there, or of another's. The seventh of one flit
charges LINK to its access, and an Adit port is live no more (R236, 14_system.md R306). -/
def execLinkRetransmit (k : Nat) (s : State) : Res :=
  onModule s
    (let dead (s : State) : State := if k < 16 then { s with head := { s.head with
       retries := Map.set 0 s.head.retries k 0, deadPorts := s.head.deadPorts ||| (1 <<< k) } } else s
     match s.egress.findIdx? (onLink s k) with
     | some i =>
       (match s.egress[i]? with
        | some r =>
          if r.resent < 6 then .next { s with egress := s.egress.set i { r with resent := r.resent + 1 } }
          else .next (dead { s with egress := s.egress.set i { linkFails r with resent := 0 } })
        | none => .next s)
     | none =>
       if k < 16 then
         (let n := Map.get 0 s.head.retries k + 1
          .next (if n < 7 then { s with head := { s.head with retries := Map.set 0 s.head.retries k n } } else dead s))
       else .next { s with resent := Map.set 0 s.resent (k - 16) (Map.get 0 s.resent (k - 16) + 1) })

/-- An uncorrectable error in an L2 or memory-tile word poisons it. -/
def execEccError (addr : Nat) (s : State) : Res :=
  onModule s (.next (match target addr with
    | .slice _ | .scratch _ _ => { s with poison := Map.set false s.poison (addr / 8) true }
    | _ => s))

end Sys2Proof.Machine
end

