-- ==== Sys2Proof/Machine/Dispatch.lean ====
section
/-!
DEFINITION. One arm per constructor of Instr: the meaning of each instruction, command and machine step.
-/
namespace Sys2Proof.Machine

open Sys2Proof

def exec (i : Instr) (s : State) : Host.Outcome State Fault Refusal :=
  match i with
  | .add x0 x1 x2 => Sys2Proof.Machine.execAdd x0 x1 x2 s
  | .sub x0 x1 x2 => Sys2Proof.Machine.execSub x0 x1 x2 s
  | .mul x0 x1 x2 => Sys2Proof.Machine.execMul x0 x1 x2 s
  | .mulh x0 x1 x2 => Sys2Proof.Machine.execMulh x0 x1 x2 s
  | .div x0 x1 x2 => Sys2Proof.Machine.execDiv x0 x1 x2 s
  | .divu x0 x1 x2 => Sys2Proof.Machine.execDivu x0 x1 x2 s
  | .rem x0 x1 x2 => Sys2Proof.Machine.execRem x0 x1 x2 s
  | .remu x0 x1 x2 => Sys2Proof.Machine.execRemu x0 x1 x2 s
  | .and x0 x1 x2 => Sys2Proof.Machine.execAnd x0 x1 x2 s
  | .or x0 x1 x2 => Sys2Proof.Machine.execOr x0 x1 x2 s
  | .xor x0 x1 x2 => Sys2Proof.Machine.execXor x0 x1 x2 s
  | .shl x0 x1 x2 => Sys2Proof.Machine.execShl x0 x1 x2 s
  | .shr x0 x1 x2 => Sys2Proof.Machine.execShr x0 x1 x2 s
  | .sar x0 x1 x2 => Sys2Proof.Machine.execSar x0 x1 x2 s
  | .min x0 x1 x2 => Sys2Proof.Machine.execMin x0 x1 x2 s
  | .max x0 x1 x2 => Sys2Proof.Machine.execMax x0 x1 x2 s
  | .minu x0 x1 x2 => Sys2Proof.Machine.execMinu x0 x1 x2 s
  | .maxu x0 x1 x2 => Sys2Proof.Machine.execMaxu x0 x1 x2 s
  | .clz x0 x1 => Sys2Proof.Machine.execClz x0 x1 s
  | .popc x0 x1 => Sys2Proof.Machine.execPopc x0 x1 s
  | .sext x0 x1 x2 => Sys2Proof.Machine.execSext x0 x1 x2 s
  | .zext x0 x1 x2 => Sys2Proof.Machine.execZext x0 x1 x2 s
  | .randk x0 x1 x2 => Sys2Proof.Machine.execRandk x0 x1 x2 s
  | .nop => Sys2Proof.Machine.execNop s
  | .addi x0 x1 x2 => Sys2Proof.Machine.execAddi x0 x1 x2 s
  | .andi x0 x1 x2 => Sys2Proof.Machine.execAndi x0 x1 x2 s
  | .ori x0 x1 x2 => Sys2Proof.Machine.execOri x0 x1 x2 s
  | .xori x0 x1 x2 => Sys2Proof.Machine.execXori x0 x1 x2 s
  | .shli x0 x1 x2 => Sys2Proof.Machine.execShli x0 x1 x2 s
  | .shri x0 x1 x2 => Sys2Proof.Machine.execShri x0 x1 x2 s
  | .sari x0 x1 x2 => Sys2Proof.Machine.execSari x0 x1 x2 s
  | .lih x0 x1 x2 => Sys2Proof.Machine.execLih x0 x1 x2 s
  | .addpc x0 x1 => Sys2Proof.Machine.execAddpc x0 x1 s
  | .madd x0 x1 x2 x3 => Sys2Proof.Machine.execMadd x0 x1 x2 x3 s
  | .bitf x0 x1 x2 x3 x4 => Sys2Proof.Machine.execBitf x0 x1 x2 x3 x4 s
  | .biti x0 x1 x2 x3 => Sys2Proof.Machine.execBiti x0 x1 x2 x3 s
  | .cmpCc x0 x1 x2 x3 => Sys2Proof.Machine.execCmpCc x0 x1 x2 x3 s
  | .cmpiCc x0 x1 x2 x3 => Sys2Proof.Machine.execCmpiCc x0 x1 x2 x3 s
  | .pand x0 x1 x2 => Sys2Proof.Machine.execPand x0 x1 x2 s
  | .por x0 x1 x2 => Sys2Proof.Machine.execPor x0 x1 x2 s
  | .pnot x0 x1 => Sys2Proof.Machine.execPnot x0 x1 s
  | .sel x0 x1 x2 x3 => Sys2Proof.Machine.execSel x0 x1 x2 x3 s
  | .brCc x0 x1 x2 x3 => Sys2Proof.Machine.execBrCc x0 x1 x2 x3 s
  | .bp x0 x1 => Sys2Proof.Machine.execBp x0 x1 s
  | .bpn x0 x1 => Sys2Proof.Machine.execBpn x0 x1 s
  | .jmp x0 => Sys2Proof.Machine.execJmp x0 s
  | .jal x0 x1 => Sys2Proof.Machine.execJal x0 x1 s
  | .jalr x0 x1 x2 => Sys2Proof.Machine.execJalr x0 x1 x2 s
  | .loop x0 x1 => Sys2Proof.Machine.execLoop x0 x1 s
  | .ld x0 x1 x2 x3 => Sys2Proof.Machine.execLd x0 x1 x2 x3 s
  | .ldu x0 x1 x2 x3 => Sys2Proof.Machine.execLdu x0 x1 x2 x3 s
  | .st x0 x1 x2 x3 => Sys2Proof.Machine.execSt x0 x1 x2 x3 s
  | .ldq x0 x1 x2 => Sys2Proof.Machine.execLdq x0 x1 x2 s
  | .stq x0 x1 x2 => Sys2Proof.Machine.execStq x0 x1 x2 s
  | .pref x0 x1 => Sys2Proof.Machine.execPref x0 x1 s
  | .amo x0 x1 x2 x3 x4 x5 x6 => Sys2Proof.Machine.execAmo x0 x1 x2 x3 x4 x5 x6 s
  | .cas x0 x1 x2 x3 x4 x5 => Sys2Proof.Machine.execCas x0 x1 x2 x3 x4 x5 s
  | .lda x0 x1 x2 x3 x4 => Sys2Proof.Machine.execLda x0 x1 x2 x3 x4 s
  | .str x0 x1 x2 x3 x4 => Sys2Proof.Machine.execStr x0 x1 x2 x3 x4 s
  | .fence x0 => Sys2Proof.Machine.execFence x0 s
  | .barInit x0 x1 => Sys2Proof.Machine.execBarInit x0 x1 s
  | .barArv x0 x1 => Sys2Proof.Machine.execBarArv x0 x1 s
  | .barDrp x0 x1 => Sys2Proof.Machine.execBarDrp x0 x1 s
  | .barWait x0 x1 => Sys2Proof.Machine.execBarWait x0 x1 s
  | .tkpush x0 => Sys2Proof.Machine.execTkpush x0 s
  | .tkpop x0 x1 => Sys2Proof.Machine.execTkpop x0 x1 s
  | .watch x0 x1 x2 => Sys2Proof.Machine.execWatch x0 x1 x2 s
  | .amsg x0 x1 => Sys2Proof.Machine.execAmsg x0 x1 s
  | .qset x0 x1 x2 => Sys2Proof.Machine.execQset x0 x1 x2 s
  | .qseti x0 x1 x2 => Sys2Proof.Machine.execQseti x0 x1 x2 s
  | .qmov x0 x1 => Sys2Proof.Machine.execQmov x0 x1 s
  | .issue x0 => Sys2Proof.Machine.execIssue x0 s
  | .issuew x0 => Sys2Proof.Machine.execIssuew x0 s
  | .enq x0 x1 => Sys2Proof.Machine.execEnq x0 x1 s
  | .take x0 => Sys2Proof.Machine.execTake x0 s
  | .done x0 => Sys2Proof.Machine.execDone x0 s
  | .join x0 x1 => Sys2Proof.Machine.execJoin x0 x1 s
  | .cancel x0 => Sys2Proof.Machine.execCancel x0 s
  | .csrr x0 x1 => Sys2Proof.Machine.execCsrr x0 x1 s
  | .csrw x0 x1 x2 => Sys2Proof.Machine.execCsrw x0 x1 x2 s
  | .csrs x0 x1 x2 => Sys2Proof.Machine.execCsrs x0 x1 x2 s
  | .csrc x0 x1 x2 => Sys2Proof.Machine.execCsrc x0 x1 x2 s
  | .trap x0 => Sys2Proof.Machine.execTrap x0 s
  | .sysret => Sys2Proof.Machine.execSysret s
  | .exit x0 => Sys2Proof.Machine.execExit x0 s
  | .bkpt x0 => Sys2Proof.Machine.execBkpt x0 s
  | .yield => Sys2Proof.Machine.execYield s
  | .asyncFaultDelivery => Sys2Proof.Machine.execAsyncFaultDelivery s
  | .singleStep => Sys2Proof.Machine.execSingleStep s
  | .sload x0 => Sys2Proof.Machine.execSload x0 s
  | .sloadPush x0 => Sys2Proof.Machine.execSloadPush x0 s
  | .sstore x0 => Sys2Proof.Machine.execSstore x0 s
  | .sgather x0 => Sys2Proof.Machine.execSgather x0 s
  | .sscatter x0 => Sys2Proof.Machine.execSscatter x0 s
  | .kvadmit x0 => Sys2Proof.Machine.execKvadmit x0 s
  | .sclose x0 => Sys2Proof.Machine.execSclose x0 s
  | .sbar x0 => Sys2Proof.Machine.execSbar x0 s
  | .sown x0 => Sys2Proof.Machine.execSown x0 s
  | .sseg x0 => Sys2Proof.Machine.execSseg x0 s
  | .cload x0 => Sys2Proof.Machine.execCload x0 s
  | .cswitch x0 => Sys2Proof.Machine.execCswitch x0 s
  | .cretire x0 => Sys2Proof.Machine.execCretire x0 s
  | .csave x0 => Sys2Proof.Machine.execCsave x0 s
  | .crestore x0 => Sys2Proof.Machine.execCrestore x0 s
  | .hcopy x0 => Sys2Proof.Machine.execHcopy x0 s
  | .hfill x0 => Sys2Proof.Machine.execHfill x0 s
  | .selpred x0 => Sys2Proof.Machine.execSelpred x0 s
  | .seltopk x0 => Sys2Proof.Machine.execSeltopk x0 s
  | .seampack x0 => Sys2Proof.Machine.execSeampack x0 s
  | .collred x0 => Sys2Proof.Machine.execCollred x0 s
  | .collgath x0 => Sys2Proof.Machine.execCollgath x0 s
  | .collscat x0 => Sys2Proof.Machine.execCollscat x0 s
  | .pgpin x0 => Sys2Proof.Machine.execPgpin x0 s
  | .pgrel x0 => Sys2Proof.Machine.execPgrel x0 s
  | .migrate x0 => Sys2Proof.Machine.execMigrate x0 s
  | .meterCeil x0 => Sys2Proof.Machine.execMeterCeil x0 s
  | .meterCeilall x0 => Sys2Proof.Machine.execMeterCeilall x0 s
  | .meterPoint x0 => Sys2Proof.Machine.execMeterPoint x0 s
  | .meterCut x0 => Sys2Proof.Machine.execMeterCut x0 s
  | .commandRetire => Sys2Proof.Machine.execCommandRetire s
  | .vadd x0 => Sys2Proof.Machine.execVadd x0 s
  | .vsub x0 => Sys2Proof.Machine.execVsub x0 s
  | .vmul x0 => Sys2Proof.Machine.execVmul x0 s
  | .vfma x0 => Sys2Proof.Machine.execVfma x0 s
  | .vmin x0 => Sys2Proof.Machine.execVmin x0 s
  | .vmax x0 => Sys2Proof.Machine.execVmax x0 s
  | .vabs x0 => Sys2Proof.Machine.execVabs x0 s
  | .vneg x0 => Sys2Proof.Machine.execVneg x0 s
  | .vcmp x0 => Sys2Proof.Machine.execVcmp x0 s
  | .vsel x0 => Sys2Proof.Machine.execVsel x0 s
  | .vand x0 => Sys2Proof.Machine.execVand x0 s
  | .vor x0 => Sys2Proof.Machine.execVor x0 s
  | .vxor x0 => Sys2Proof.Machine.execVxor x0 s
  | .vshl x0 => Sys2Proof.Machine.execVshl x0 s
  | .vshr x0 => Sys2Proof.Machine.execVshr x0 s
  | .vsar x0 => Sys2Proof.Machine.execVsar x0 s
  | .vcvt x0 => Sys2Proof.Machine.execVcvt x0 s
  | .vpswap x0 => Sys2Proof.Machine.execVpswap x0 s
  | .vperm x0 => Sys2Proof.Machine.execVperm x0 s
  | .vbcast x0 => Sys2Proof.Machine.execVbcast x0 s
  | .vredadd x0 => Sys2Proof.Machine.execVredadd x0 s
  | .vredmax x0 => Sys2Proof.Machine.execVredmax x0 s
  | .vsinpi x0 => Sys2Proof.Machine.execVsinpi x0 s
  | .vcospi x0 => Sys2Proof.Machine.execVcospi x0 s
  | .vexp2 x0 => Sys2Proof.Machine.execVexp2 x0 s
  | .vrcp x0 => Sys2Proof.Machine.execVrcp x0 s
  | .vrsq x0 => Sys2Proof.Machine.execVrsq x0 s
  | .vclamp x0 => Sys2Proof.Machine.execVclamp x0 s
  | .vscale x0 => Sys2Proof.Machine.execVscale x0 s
  | .vmov x0 => Sys2Proof.Machine.execVmov x0 s
  | .vcnt x0 => Sys2Proof.Machine.execVcnt x0 s
  | .vpack x0 => Sys2Proof.Machine.execVpack x0 s
  | .vrand x0 => Sys2Proof.Machine.execVrand x0 s
  | .viota x0 => Sys2Proof.Machine.execViota x0 s
  | .denc x0 => Sys2Proof.Machine.execDenc x0 s
  | .ddec x0 => Sys2Proof.Machine.execDdec x0 s
  | .dadd x0 => Sys2Proof.Machine.execDadd x0 s
  | .dsub x0 => Sys2Proof.Machine.execDsub x0 s
  | .dmul x0 => Sys2Proof.Machine.execDmul x0 s
  | .ddiv x0 => Sys2Proof.Machine.execDdiv x0 s
  | .dsqrt x0 => Sys2Proof.Machine.execDsqrt x0 s
  | .dscl x0 => Sys2Proof.Machine.execDscl x0 s
  | .dmaxk x0 => Sys2Proof.Machine.execDmaxk x0 s
  | .dsign x0 => Sys2Proof.Machine.execDsign x0 s
  | .dthr x0 => Sys2Proof.Machine.execDthr x0 s
  | .dfork x0 => Sys2Proof.Machine.execDfork x0 s
  | .mdot x0 => Sys2Proof.Machine.execMdot x0 s
  | .mma x0 => Sys2Proof.Machine.execMma x0 s
  | .mmas x0 => Sys2Proof.Machine.execMmas x0 s
  | .mldw x0 => Sys2Proof.Machine.execMldw x0 s
  | .macc x0 => Sys2Proof.Machine.execMacc x0 s
  | .mtri x0 => Sys2Proof.Machine.execMtri x0 s
  | .mscm x0 => Sys2Proof.Machine.execMscm x0 s
  | .steer x0 => Sys2Proof.Machine.execSteer x0 s
  | .merge x0 => Sys2Proof.Machine.execMerge x0 s
  | .ordmerge x0 => Sys2Proof.Machine.execOrdmerge x0 s
  | .split x0 => Sys2Proof.Machine.execSplit x0 s
  | .nullt x0 => Sys2Proof.Machine.execNullt x0 s
  | .pass x0 => Sys2Proof.Machine.execPass x0 s
  | .drop x0 => Sys2Proof.Machine.execDrop x0 s
  | .tagset x0 => Sys2Proof.Machine.execTagset x0 s
  | .tagchk x0 => Sys2Proof.Machine.execTagchk x0 s
  | .framest x0 => Sys2Proof.Machine.execFramest x0 s
  | .segmark x0 => Sys2Proof.Machine.execSegmark x0 s
  | .lutop x0 => Sys2Proof.Machine.execLutop x0 s
  | .trd x0 => Sys2Proof.Machine.execTrd x0 s
  | .twr x0 => Sys2Proof.Machine.execTwr x0 s
  | .tswap x0 => Sys2Proof.Machine.execTswap x0 s
  | .tfe x0 => Sys2Proof.Machine.execTfe x0 s
  | .systolicFire => Sys2Proof.Machine.execSystolicFire s
  | .passStage => Sys2Proof.Machine.execPassStage s
  | .ayLdl x0 x1 x2 => Sys2Proof.Machine.execAyLdl x0 x1 x2 s
  | .ayStl x0 x1 x2 => Sys2Proof.Machine.execAyStl x0 x1 x2 s
  | .ayFill x0 x1 x2 => Sys2Proof.Machine.execAyFill x0 x1 x2 s
  | .ayPush x0 x1 x2 => Sys2Proof.Machine.execAyPush x0 x1 x2 s
  | .ayEvict x0 x1 x2 => Sys2Proof.Machine.execAyEvict x0 x1 x2 s
  | .ayMsg x0 x1 => Sys2Proof.Machine.execAyMsg x0 x1 s
  | .ayLock x0 x1 x2 => Sys2Proof.Machine.execAyLock x0 x1 x2 s
  | .ayStat x0 x1 x2 => Sys2Proof.Machine.execAyStat x0 x1 x2 s
  | .ayRet x0 => Sys2Proof.Machine.execAyRet x0 s
  | .ayBudget x0 => Sys2Proof.Machine.execAyBudget x0 s
  | .assayerRiscvInstruction x0 => Sys2Proof.Machine.execAssayerRiscvInstruction x0 s
  | .budgetExpiry => Sys2Proof.Machine.execBudgetExpiry s
  | .missEvent x0 => Sys2Proof.Machine.execMissEvent x0 s
  | .fillEvent x0 => Sys2Proof.Machine.execFillEvent x0 s
  | .evictEvent x0 => Sys2Proof.Machine.execEvictEvent x0 s
  | .msgEvent x0 => Sys2Proof.Machine.execMsgEvent x0 s
  | .l2Access x0 => Sys2Proof.Machine.execL2Access x0 s
  | .l2FillComplete x0 => Sys2Proof.Machine.execL2FillComplete x0 s
  | .engineProbe x0 => Sys2Proof.Machine.execEngineProbe x0 s
  | .accessReply x0 => Sys2Proof.Machine.execAccessReply x0 s
  | .deepFetchComplete x0 x1 => Sys2Proof.Machine.execDeepFetchComplete x0 x1 s
  | .windowAccess x0 => Sys2Proof.Machine.execWindowAccess x0 s
  | .pushArrival => Sys2Proof.Machine.execPushArrival s
  | .streamTokenEmit => Sys2Proof.Machine.execStreamTokenEmit s
  | .streamTokenAbsorb => Sys2Proof.Machine.execStreamTokenAbsorb s
  | .streamBarrierResume x0 => Sys2Proof.Machine.execStreamBarrierResume x0 s
  | .coalesceTimeout x0 => Sys2Proof.Machine.execCoalesceTimeout x0 s
  | .controlTokenForward => Sys2Proof.Machine.execControlTokenForward s
  | .reconfEmit x0 => Sys2Proof.Machine.execReconfEmit x0 s
  | .cswitchSettle x0 => Sys2Proof.Machine.execCswitchSettle x0 s
  | .killApply x0 => Sys2Proof.Machine.execKillApply x0 s
  | .killForward x0 => Sys2Proof.Machine.execKillForward x0 s
  | .frameWrite x0 => Sys2Proof.Machine.execFrameWrite x0 s
  | .frameOperandSend => Sys2Proof.Machine.execFrameOperandSend s
  | .fifoTilePass x0 => Sys2Proof.Machine.execFifoTilePass x0 s
  | .lineBufferEmit x0 => Sys2Proof.Machine.execLineBufferEmit x0 s
  | .replayRerun x0 => Sys2Proof.Machine.execReplayRerun x0 s
  | .freezeScanComplete x0 => Sys2Proof.Machine.execFreezeScanComplete x0 s
  | .watchdog x0 => Sys2Proof.Machine.execWatchdog x0 s
  | .collectiveInstance x0 => Sys2Proof.Machine.execCollectiveInstance x0 s
  | .intakeRecord x0 => Sys2Proof.Machine.execIntakeRecord x0 s
  | .taskBind => Sys2Proof.Machine.execTaskBind s
  | .taskEnd x0 => Sys2Proof.Machine.execTaskEnd x0 s
  | .jobDecrement x0 => Sys2Proof.Machine.execJobDecrement x0 s
  | .cancelArrival x0 => Sys2Proof.Machine.execCancelArrival x0 s
  | .quantExpiry x0 => Sys2Proof.Machine.execQuantExpiry x0 s
  | .threadSave => Sys2Proof.Machine.execThreadSave s
  | .cloneWindow x0 x1 x2 => Sys2Proof.Machine.execCloneWindow x0 x1 x2 s
  | .throttleNotice x0 => Sys2Proof.Machine.execThrottleNotice x0 s
  | .powerMeasurement x0 => Sys2Proof.Machine.execPowerMeasurement x0 s
  | .currentEstimate x0 => Sys2Proof.Machine.execCurrentEstimate x0 s
  | .rateRamp => Sys2Proof.Machine.execRateRamp s
  | .canarySample x0 x1 => Sys2Proof.Machine.execCanarySample x0 x1 s
  | .trip x0 x1 => Sys2Proof.Machine.execTrip x0 x1 s
  | .tripEnd x0 => Sys2Proof.Machine.execTripEnd x0 s
  | .voltageSlewDone x0 => Sys2Proof.Machine.execVoltageSlewDone x0 s
  | .linkRetransmit x0 => Sys2Proof.Machine.execLinkRetransmit x0 s
  | .eccError x0 => Sys2Proof.Machine.execEccError x0 s
  | .hostCxlMemRequest x0 => Sys2Proof.Machine.execHostCxlMemRequest x0 s
  | .aditRequest x0 => Sys2Proof.Machine.execAditRequest x0 s
  | .registerWrite x0 => Sys2Proof.Machine.execRegisterWrite x0 s
  | .intakeEnable x0 => Sys2Proof.Machine.execIntakeEnable x0 s
  | .teardown x0 => Sys2Proof.Machine.execTeardown x0 s
  | .taskTypeValid x0 => Sys2Proof.Machine.execTaskTypeValid x0 s
  | .handlerValidClear x0 => Sys2Proof.Machine.execHandlerValidClear x0 s
  | .asidset x0 x1 => Sys2Proof.Machine.execAsidset x0 x1 s
  | .handler x0 => Sys2Proof.Machine.execHandler x0 s
  | .access x0 x1 x2 => Sys2Proof.Machine.execAccess x0 x1 x2 s
  | .aperture x0 x1 => Sys2Proof.Machine.execAperture x0 x1 s
  | .route x0 x1 => Sys2Proof.Machine.execRoute x0 x1 s
  | .attest x0 x1 => Sys2Proof.Machine.execAttest x0 x1 s
  | .module x0 => Sys2Proof.Machine.execModule x0 s
  | .reset => Sys2Proof.Machine.execReset s
  | .release => Sys2Proof.Machine.execRelease s
  | .mailboxUnlistedCode x0 => Sys2Proof.Machine.execMailboxUnlistedCode x0 s
  | .coldReset => Sys2Proof.Machine.execColdReset s
  | .bringupStep x0 => Sys2Proof.Machine.execBringupStep x0 s
  | .cxlCacheSnoop x0 x1 => Sys2Proof.Machine.execCxlCacheSnoop x0 x1 s
  | .apertureWatchPoll => Sys2Proof.Machine.execApertureWatchPoll s
  | .translationCacheDrop x0 x1 => Sys2Proof.Machine.execTranslationCacheDrop x0 x1 s
  | .moveToDeepTier x0 x1 x2 x3 => Sys2Proof.Machine.execMoveToDeepTier x0 x1 x2 x3 s

end Sys2Proof.Machine
end

