-- ==== Sys2Proof/Machine/Loads.lean ====
section
/-!
DEFINITION. Outstanding loads of the control thread: which registers an instruction reads and writes, a plain load that is
left outstanding, and the end of one (07_consistency.md R154, 15_ref_a_c.md R315).
-/
namespace Sys2Proof.Machine

open Sys2Proof

/-- A register that a load may be awaited in: a command register where the first part is true. -/
abbrev RegName := Bool × Nat

def gReg (r : BitVec 5) : RegName := (false, r.toNat)
def qReg (r : BitVec 3) : RegName := (true, r.toNat)

/-- The registers that an instruction of a control thread reads (R315). -/
def readRegs : Instr → List RegName
  | .add _ a b | .sub _ a b | .mul _ a b | .mulh _ a b | .div _ a b | .divu _ a b | .rem _ a b | .remu _ a b
  | .and _ a b | .or _ a b | .xor _ a b | .shl _ a b | .shr _ a b | .sar _ a b | .min _ a b | .max _ a b
  | .minu _ a b | .maxu _ a b | .randk _ a b | .sel _ a b _ | .watch _ a b => [gReg a, gReg b]
  | .clz _ a | .popc _ a | .sext _ a _ | .zext _ a _ | .addi _ a _ | .andi _ a _ | .ori _ a _ | .xori _ a _
  | .shli _ a _ | .shri _ a _ | .sari _ a _ | .bitf _ a _ _ _ | .jalr _ a _ | .ld _ a _ _ | .ldu _ a _ _
  | .lda _ a _ _ _ | .join _ a | .csrw _ a _ | .csrs _ a _ | .csrc _ a _ => [gReg a]
  | .ldq _ a _ => [gReg a]
  | .lih d _ _ => [gReg d]
  | .biti d a _ _ => [gReg d, gReg a]
  | .madd _ a b c => [gReg a, gReg b, gReg c]
  | .cmpCc _ a b _ => [gReg a, gReg b]
  | .cmpiCc _ a _ _ => [gReg a]
  | .brCc a b _ _ => [gReg a, gReg b]
  | .loop a _ => [gReg a]
  | .st g a _ _ => [gReg g, gReg a]
  | .str g a _ _ _ => [gReg g, gReg a]
  | .stq q a _ => [qReg q, gReg a]
  | .pref a _ => [gReg a]
  | .amo _ a b _ _ _ _ => [gReg a, gReg b]
  | .cas d a b _ _ _ => [gReg d, gReg a, gReg b]
  | .barInit a b | .barWait a b => [gReg a, gReg b]
  | .barArv d a | .barDrp d a => [gReg d, gReg a]
  | .amsg a b => [gReg a, qReg b]
  | .qset q a _ => [qReg q, gReg a]
  | .qseti q _ _ => [qReg q]
  | .qmov _ s => [qReg s]
  | .issue q | .issuew q => [qReg q]
  | .enq q a => [qReg q, gReg a]
  | .done a | .cancel a | .exit a => [gReg a]
  | _ => []

/-- The registers that an instruction of a control thread writes. -/
def writtenRegs : Instr → List RegName
  | .add d _ _ | .sub d _ _ | .mul d _ _ | .mulh d _ _ | .div d _ _ | .divu d _ _ | .rem d _ _ | .remu d _ _
  | .and d _ _ | .or d _ _ | .xor d _ _ | .shl d _ _ | .shr d _ _ | .sar d _ _ | .min d _ _ | .max d _ _
  | .minu d _ _ | .maxu d _ _ | .randk d _ _ | .sel d _ _ _ | .watch d _ _ => [gReg d]
  | .clz d _ | .popc d _ | .sext d _ _ | .zext d _ _ | .addi d _ _ | .andi d _ _ | .ori d _ _ | .xori d _ _
  | .shli d _ _ | .shri d _ _ | .sari d _ _ | .bitf d _ _ _ _ | .jalr d _ _ | .ld d _ _ _ | .ldu d _ _ _
  | .lda d _ _ _ _ | .join d _ | .csrw d _ _ | .csrs d _ _ | .csrc d _ _ => [gReg d]
  | .ldq q _ _ => [qReg q]
  | .lih d _ _ | .addpc d _ | .jal d _ | .biti d _ _ _ | .madd d _ _ _ | .amo d _ _ _ _ _ _ | .cas d _ _ _ _ _ => [gReg d]
  | .loop a _ => [gReg a]
  | .barArv d _ | .barDrp d _ | .tkpop d _ | .csrr d _ => [gReg d]
  | .qset q _ _ | .qseti q _ _ | .qmov q _ => [qReg q]
  -- TAKE loads every register
  | .take _ => (List.range 32).map (fun r => (false, r)) ++ (List.range 8).map (fun r => (true, r))
  | _ => []

def Load.dest (l : Load) : RegName := (l.cmd, l.reg)

/-- A load's value reaches its register. -/
def writeLoad (s : State) (k : Nat) (l : Load) (v : Nat) : State :=
  if l.cmd then wq s k (BitVec.ofNat 3 l.reg) (BitVec.ofNat 128 v)
  else wg s k (BitVec.ofNat 5 l.reg) (if l.signed then sextBytes l.n v else zextBytes l.n v)

/-- The outstanding loads whose registers an instruction is about to write end first, with the values that they had when
they were made; no load may write after it. -/
def endLoads (s : State) (k : Nat) (regs : List RegName) : State :=
  let l := (s.thread k).loads
  let s := (l.filter (fun x => regs.contains x.dest)).foldl (fun s x => writeLoad s k x x.value) s
  s.modThread k (fun t => { t with loads := t.loads.filter (fun x => !regs.contains x.dest) })

/-- An instruction that reads an awaited register waits for it; no other instruction does (R315). -/
def awaitLoads (s : State) (k : Nat) (i : Instr) : State × Option Instr :=
  let l := (s.thread k).loads
  if l.isEmpty then (s, some i)
  else if l.any (fun x => (readRegs i).contains x.dest) then (s, none)
  else (endLoads s k (writtenRegs i), some i)

/-- A plain load that may be made now is left outstanding: the thread goes on, and the load is performed later, or has been
performed with the value that it finds here (07_consistency.md R154). -/
def leaveLoad (s : State) (k : Nat) (cmd : Bool) (reg n : Nat) (signed : Bool) (va : Word) : Res :=
  accessAt s k va n .read (fun s key =>
    let pa := match (locate s k (s.thread k).asid va.toNat .read false).2 with | .ok (pa, _) => pa | .error _ => key
    let l : Load := { cmd, reg, n, signed, asid := (s.thread k).asid, va := va.toNat, pa, key, value := readNat s key n }
    .next (retire (s.modThread k (fun t => { t with loads := if reg = 0 ∧ cmd = false then t.loads else t.loads ++ [l] })) k))

/-- At most eight loads of a thread are outstanding at a time (log 20). -/
def mayLeave (s : State) (k : Nat) : Bool := decide ((s.thread k).loads.length < 8)

/-- The plain loads (07_consistency.md Table 7.3). -/
def leavePlain (s : State) (k : Nat) : Instr → Option Res
  | .ld d a z o => some (leaveLoad s k false d.toNat (sizeOf2 z) true (ea s k a o))
  | .ldu d a z o => some (leaveLoad s k false d.toNat (sizeOf2 z) false (ea s k a o))
  | .ldq q a o => some (leaveLoad s k true q.toNat 16 false (ea s k a o))
  | _ => none

/-- An outstanding load is performed: with the value that its home holds now, or, where that word has been poisoned since,
with the value it had when it was made. It waits while a handler holds the line (R154, R166). -/
def performLoad (s : State) (k n : Nat) : State :=
  match (s.thread k).loads[n]? with
  | none => s
  | some l =>
    if paHeld s l.pa then s
    else
      let v := if poisoned s l.key l.n then l.value else readNat s l.key l.n
      writeLoad (s.modThread k (fun t => { t with loads := t.loads.eraseIdx n })) k l v

end Sys2Proof.Machine
end

