-- ==== Sys2Proof/Machine/Fetch.lean ====
section
/-!
DEFINITION. What an agent runs on its turn: the control thread's fetch (06_memory.md R138, 02_execution_model.md R28).
-/
namespace Sys2Proof.Machine

open Sys2Proof

/-- The outcome of looking for work: an instruction to run, or a state in which the turn has ended. -/
abbrev Look := State × Option Instr

/-- The words after pc, fetched ahead as far as the page goes and the instruction cache has their lines: at most eight are
held (06_memory.md R138; log 9). -/
def fetchAhead (s : State) (k key : Nat) (asid : BitVec 16) (va : Nat) : State :=
  let ahead := ((List.range 7).map (fun i => 4 * (i + 1))).filter (fun o =>
    decide (va % 65536 + o < 65536) && (decide ((key + o) / 128 = key / 128) || (s.core k).icache.contains ((key + o) / 128)))
  let new := (ahead.map (fun o => (asid, va + o, BitVec.ofNat 32 (readNat s (key + o) 4)))).filter (fun e =>
      !(s.thread k).fetched.any (fun f => decide (f.1 = e.1 ∧ f.2.1 = e.2.1)))
  s.modThread k (fun t => { t with fetched := ((t.fetched ++ new).reverse.take 8).reverse })

/-- The word that executes at pc: the one in memory, or one fetched before it was written (R138). -/
def fetchedWord (s : State) (k : Nat) (asid : BitVec 16) (va : Nat) (now : BitVec 32) : State × BitVec 32 :=
  match (s.thread k).fetched.find? (fun f => decide (f.1 = asid ∧ f.2.1 = va)) with
  | some (_, _, old) =>
    (s.modThread k (fun t => { t with fetched := t.fetched.filter (fun f => decide (¬ (f.1 = asid ∧ f.2.1 = va))) }),
     if old ≠ now ∧ Config.runsStale s.tick then old else now)
  | none => (s, now)

/-- The instruction cache takes a line: 256 of them fill it, and then one goes that the spec does not name (R138; log 95). -/
def fillFetch (s : State) (k line : Nat) : State :=
  s.modCore k (fun c =>
    let l := if c.icache.length < 256 then c.icache else c.icache.eraseIdx (Config.cacheVictim s.tick % c.icache.length)
    { c with icache := l ++ [line] })

/-- The bytes at a fetch address: from the instruction cache, where the thread's own stores to the line that have left the
core go before it, or from the home (R138, R177, 10_faults_modes.md R236). -/
def fetchAt (s : State) (k pa : Nat) (va : Word) : Acc :=
  let line := pa / 128
  let cacheable := match target pa with | .slice _ => true | _ => false
  if cacheable && (s.core k).icache.contains line then
    if s.egress.any (fun r => decide (r.core = k ∧ r.left = true ∧ r.outcome = none ∧ r.pa / 128 = line)) then .wait s else .ready s pa
  else match placeOf s pa with
    | .error c => .fault s c
    | .ok p =>
      if behind s k p.home then .wait s else
      match reach s pa 4 .fetch (threadOrigin s k va) with
      | .ready s key => .ready (if cacheable then fillFetch s k line else s) key
      | r => r

/-- The instruction at pc of core k's thread; a fault of the fetch is a trap with EPC and EVAL the pc, an unassigned word
raises ILLEGAL (10_faults_modes.md R215, R220, 14_system.md R303; no fetch is made in the scratch window, log 8). -/
def fetchThread (s : State) (k : Nat) : Look :=
  let t := s.thread k
  let va := t.pc.toNat
  if va % 4 ≠ 0 then (raise s k fcALIGN t.pc, none) else
  if va < 2 ^ 56 ∧ inWindow va then (raise s k fcACCESS t.pc, none) else
  match walkFor s (cacheCore k) t.asid va with
  | .fault s c => (raise s k c t.pc, none)
  | .wait s => (s, none)
  | .ready s _ =>
    match translate s (cacheCore k) t.asid va .fetch true with
    | (s, .bad c) => (raise s k c t.pc, none)
    | (s, .ok pa _) =>
      match target pa with
      | .scratch _ _ => (raise s k fcACCESS t.pc, none)
      | _ =>
        match fetchAt s k pa t.pc with
        | .fault s c => (raise s k c t.pc, none)
        | .wait s => (s, none)
        | .ready s key =>
          let (s, w) := fetchedWord s k t.asid va (BitVec.ofNat 32 (readNat s key 4))
          let s := fetchAhead s k key t.asid va
          match decodeThread w with
          | .ok i => awaitLoads s k i
          | .error _ => (raise s k fcILLEGAL (w.zeroExtend 64), none)

/-- The thread stands at an instruction boundary: no instruction has begun, or one whose wait leaves it there. -/
def atEdge (t : Thread) : Bool := t.awaits.isNone && (match t.stall with | some x => x.edge | none => true)

/-- The turn of a control thread: the trap of a single step, the end of an abandoned task once its work has ended
(11_scheduling.md R261), a pre-emption (R263), a pending fault at a boundary, or the instruction at pc
(10_faults_modes.md R220, R235). A thread that is held or parked executes nothing. -/
def heldThread (s : State) (k : Nat) : Look :=
  let t := s.thread k
  if t.run ≠ .running ∨ trapDue s k then (s, none)
  else
    let doomed := match taskOf s k with | some (_, x) => x.doomed | none => false
    let code := (taskOf s k).bind (fun (_, x) => x.doomCode)
    let stopping := match taskOf s k with | some (_, x) => x.stopping | none => false
    if doomed && atEdge t then (if workLeft s k then stopWork s k else endTask s k (if code.isSome then .failed else .cancelled) (code.getD 0), none)
    else if t.stepDue then (s, some .singleStep)
    else if stopping && mayPreempt s k && released s k 2 && !s.records.any (fun e => decide (e.core = k)) then (s, some .threadSave)
    else if t.stall.isNone && t.awaits.isNone && t.status.getLsbD 3 && !t.pend.isEmpty then (s, some .asyncFaultDelivery)
    else fetchThread s k

/-- The turn of a control thread in which a plain load that may be made is left outstanding (07_consistency.md R154); any
other instruction runs as in its own turn. -/
def aheadThread (s : State) (k : Nat) : Look :=
  match heldThread { s with self := .thread k } k with
  | (s, some i) =>
    (match (if mayLeave s k then leavePlain s k i else none) with
     | some (.next t) => (t, none)
     | _ => (s, some i))
  | r => r

end Sys2Proof.Machine
end

