-- ==== Sys2Proof/Machine/Turn.lean ====
section
/-!
DEFINITION. The schedule, what each agent runs on its turn, and where a word is placed so that the next step runs it.
-/
namespace Sys2Proof.Machine

open Sys2Proof

/-- The turn that comes next: the head of the agenda, or one that nothing fixes (log 2). -/
def nextTurn (s : State) : Turn := s.agenda.headD (Config.freeTurn s.tick)

/-- A row of the opcode table that has no word: a machine step, which an agenda may name. -/
def isEvent (i : Instr) : Bool := (encode i).isNone

/-- What a memory tile in FIFO, line-buffer or frame mode, or a pass stage, does outside its op table. -/
def heldMemTile (s : State) (st : Site) : Option Instr :=
  let data := (List.range 4).find? (fun d => match plainHead s st d with | some t => !t.isControl | none => false)
  if inRect st st.y st.x then some .passStage
  else if isFrames st then
    if (passFrameControl s st).isSome then some .controlTokenForward
    else match data with
      | some d => some (.frameWrite (BitVec.ofNat 2 d))
      | none => some .frameOperandSend
  else if isLineBuffer st then data.map (fun d => .lineBufferEmit (BitVec.ofNat 2 d))
  else if isFifo st then
    let r := rangeOf s st.key st.c
    let next := if r.out.isEmpty then r.fifo.head?.map (·.1) else none
    ((List.range 4).find? (fun d => (fromElastic s st d).isSome)).or next |>.map (fun d => .fifoTilePass (BitVec.ofNat 2 d))
  else none

/-- The KILL that stands at an output of the tile, and what it does there (05_online_arithmetic.md R125, R126). -/
def heldKill (s : State) (st : Site) : Option Instr :=
  ((List.range 4).filterMap (fun d => match takeKill s st d with
    | some (t, _) => some (if forwardsKills st ∨ passSlots s st d t.tag ≠ [] then .killForward (BitVec.ofNat 2 d) else .killApply (BitVec.ofNat 2 d))
    | none => none)).head?

/-- What slot n of a tile does: a control token passes before the op fires; a data token for a slot with no op raises TOKEN
(02_execution_model.md R35 to R37, 03_fabric.md R63). -/
def heldSlot (s : State) (st : Site) : Look :=
  let w := wordOf' st
  let ctl := match controlReady s st w with | .no => false | _ => true
  if ctl then (s, some .controlTokenForward)
  else if isSystolic st then (s, some .systolicFire)
  else match decodeSlot w with
    | .ok i => (s, some i)
    | .error _ =>
      match (List.range 4).findSome? (fun d => match headFor s st d with | some (_, t) => if t.isData then some t.seg else none | none => none) with
      | some seg => (tileFault s st fcTOKEN seg, none)
      | none => (s, none)

/-- A tile has taken a token, or raised a fault. -/
def hasMoved (s t : State) (st : Site) : Bool :=
  let a := s.tile st.key
  let b := t.tile st.key
  decide (a.inp ≠ b.inp) || decide (a.fch ≠ b.fch) || decide ((rangeOf s st.key st.c).out ≠ (rangeOf t st.key st.c).out) ||
    decide (s.cores ≠ t.cores)

/-- The firing condition of a slot holds: its step would have an effect (R36). -/
def mayFire (s : State) (st : Site) : Bool :=
  let s := { s with self := .tile st.k st.y st.x st.n }
  match heldSlot s st with
  | (_, some i) => (match exec i s with | .next t => hasMoved s t st | _ => false)
  | (t, none) => hasMoved s t st

/-- The arrival number of the last token that a slot takes from direction d: of as many as one firing consumes (R36). -/
def lastTaken (s : State) (st : Site) (d : Nat) : Option Nat :=
  (headFor s st d).map (fun e => match (standing s st d)[Nat.max 1 (rateIn st d) - 1]? with | some x => x.1 | none => e.1)

/-- When a slot's firing condition was completed, and by which input: the arrival number of the last token or frame operand
that it takes, and the direction it came from; 4 where no input brought any (R38). -/
def completedBy (s : State) (st : Site) : Nat × Nat :=
  let w := wordOf' st
  let cnt := [field w 24 21, field w 20 17].countP (fun v => decide (v = 12))
  let frames := ((s.tile st.key).fch.filter (fun e => decide (e.node = st.n))).take cnt
  (frames.map (fun e => (e.at_, e.dir)) ++
    (List.range 4).filterMap (fun d => if ((slotInputs w).isEmpty && decide (cnt = 0)) || (slotInputs w).contains d then
      (lastTaken s st d).map (fun n => (n, d)) else none)).foldl (fun m e => if m.1 < e.1 then e else m) (0, 4)

/-- Slot n takes its place among slots in the order in which their conditions were completed; at one time the inputs come in
the order N, E, S, W, then what is internal (R38). -/
def insertDue (s : State) (st : Site) (n : Nat) : List Nat → List Nat
  | [] => [n]
  | m :: l =>
    let a := completedBy s { st with n }
    let b := completedBy s { st with n := m }
    if a.1 < b.1 ∨ (a.1 = b.1 ∧ a.2 < b.2) then n :: m :: l else m :: insertDue s st n l

/-- The slots of a tile that may fire now, the one whose condition became true earliest first: those that have been found so
before, then the others (R38; log 122). -/
def dueSlots (s : State) (st : Site) : List Nat :=
  let named (n : Nat) : Bool := decide (opOf (slotWord st n) ≠ 0) || (List.range 4).any (fun d => (headFor s { st with n } d).isSome)
  let ready := (if isSystolic st then [0] else (List.range 16).filter named).filter (fun n => mayFire s { st with n })
  let kept := (s.tile st.key).due.filter (fun n => ready.contains n)
  kept ++ (ready.filter (fun n => !kept.contains n)).foldr (insertDue s st) []

/-- The tiles at which a step of an agent can complete a firing condition: its own, and those at the other ends of its links,
which get a token or room from it. -/
def nearTiles : Who → List (Nat × Nat × Nat)
  | .tile k y x _ => (k, y, x) :: (List.range 4).filterMap (fun d => (neighbour y x d).map (fun p => (k, p.1, p.2)))
  | .ag k n => [(k, (agSite n).1, (agSite n).2.1)]
  | _ => []

/-- A tile's slots that may fire now are put in order behind those that might before (R38). -/
def noteDue (s : State) (t : Nat × Nat × Nat) : State :=
  match siteOf s t.1 t.2.1 t.2.2 0 with
  | some st => let due := dueSlots s st; if due = (s.tile st.key).due then s else s.modTile st.key (fun x => { x with due })
  | none => s

/-- The state in which a turn begins: what the step before has made ready to fire is noted, the turn's agent is `self`, the
step count and TIME have advanced (log 3). -/
def begin_ (s : State) (t : Turn) : State :=
  let s := (nearTiles s.self).foldl noteDue s
  { s with agenda := s.agenda.drop 1, self := t.who, tick := s.tick + 1, time := s.time + Config.stepNs s.tick }

/-- The turn of a tile: a KILL, what an earlier firing has left to send, its work outside the op table, and then the slot
that is due; in a turn of another slot it does nothing, and where none is due the slot's own step has no effect. -/
def heldTile (s : State) (st : Site) : Look :=
  match heldKill s st with
  | some i => (s, some i)
  | none =>
    if (leavingAt s st).isSome then (s, some .controlTokenForward) else
    match (if isMemTile st.y st.x then heldMemTile s st else none) with
    | some i => (s, some i)
    | none => match dueSlots s st with
      | [] => heldSlot (s.modTile st.key (fun t => { t with due := [] })) st
      | n :: rest =>
        if n = st.n then heldSlot (s.modTile st.key (fun t => { t with due := rest })) st
        else (s.modTile st.key (fun t => { t with due := n :: rest }), none)

/-- The turn of the command at a place of a queue: its retirement at the head, or its engine's next step (R45, R46). -/
def heldQueue (s : State) (k q pos : Nat) : Option Instr :=
  match (queueCmds s k q)[pos]? with
  | none => none
  | some c => match c.phase with
    | .done _ => if pos = 0 then some .commandRetire else none
    | _ => (decodeCmd c.word).toOption

/-- The turn of an AG tile (18_ref_s.md R406, R408; 06_memory.md R141). -/
def heldAg (s : State) (k n : Nat) : Option Instr :=
  let p := s.port (portKey k n)
  if !p.arriving.isEmpty then some .pushArrival
  else if p.isOpen = false ∧ p.inp.isEmpty then none
  else if p.entry then some .streamTokenEmit else some .streamTokenAbsorb

/-- The turn of a slice: an event that may be dispatched, a stack read in progress, or a request on its way
(08_assayers.md R185, 06_memory.md R137, R140). -/
def heldSlice (s : State) (i : Nat) : Option Instr :=
  let evs := (s.slice i).events
  match (List.range evs.length).findSome? (fun k => match evs[k]? with
    | some e => if eventDue s i k e then some (k, e.hook) else none
    | none => none) with
  | some (k, 0) => some (.missEvent k)
  | some (k, 1) => some (.fillEvent k)
  | some (k, 2) => some (.evictEvent k)
  | some (k, _) => some (.msgEvent k)
  | none =>
    match ((s.slice i).misses.filter (fun m => decide (m.stage = .fetch ∧ m.hart = none))).map (·.line) ++ (s.slice i).writebacks with
    | l :: _ => some (.l2FillComplete l)
    | [] => (s.egress.findIdx? (fun r => r.outcome.isNone && decide (reqHome s r = i))).map .l2Access

/-- The turn of a foreman: the head counters that it still has to read, a copy of a load that has come to its boundary, its
oldest message, or a binding (11_scheduling.md R241, R249, R251, R253, R255, R259). -/
def heldForeman (s : State) (d : Nat) : Look :=
  let s := (s.foreman d).reading.foldl (fun s q => readHead s d q) s
  match copyDueAt s d with
  | some (k, j, c, r, x) => (addCopy s k j c r x, none)
  | none => match (s.foreman d).inbox with
    | .ended _ _ _ :: _ => (s, some (.taskEnd 0))
    | .decrement _ _ _ :: _ => (s, some (.jobDecrement 0))
    | .cancel _ _ :: _ => (s, some (.cancelArrival 0))
    | [] => (s, some .taskBind)

/-- The turn of a core's egress: an entry on its way to a ring, or the reply to an access (10_faults_modes.md R213). -/
def heldCore (s : State) (k : Nat) : Look :=
  let t := postRecord s k
  if t.records ≠ s.records then (t, none)
  else (t, (t.egress.findIdx? (fun r => r.outcome.isSome && decide (r.core = k))).map .accessReply)

/-- The turn of the module: one of a request beyond the compute dies, a page release and a page on its way to the deep tier,
in no fixed order (09_attention.md R202). -/
def heldModule (s : State) : Look :=
  let far := s.egress.findIdx? (fun r => r.outcome.isNone && decide (256 ≤ reqHome s r))
  let a := far.toList.length
  let b := a + s.releasing.length
  let n := Config.pieceOrder s.tick % (b + s.descents.length)
  if n < a then (s, far.map .l2Access)
  else if n < b then (releaseStep s (n - a), none)
  else (descend s (n - b), none)

/-- The turn of a request from outside that is no event of the table (14_system.md R300). -/
def heldOutside (s : State) : Outside → State
  | .readReg m o => readStep s m.toNat o
  | .atomicReg m o => atomicStep s m.toNat o

/-- What the agent `self` runs on its turn, where the agenda names no step of its own. -/
def held (s : State) : Look :=
  match s.self with
  | .thread k => heldThread s k
  | .ahead k => aheadThread s k
  | .loaded k n => (performLoad s k n, none)
  | .tile k y x n => (match siteOf s k y x n with | some st => heldTile s st | none => (s, none))
  | .queue k q pos => (s, heldQueue s k q pos)
  | .ag k n => (s, heldAg s k n)
  | .hart i c => heldHart s (4 * i + c)
  | .slice i => let s := admitWaiting s i; (s, heldSlice s i)
  | .foreman d => heldForeman s d
  | .stack j => (s, ((List.range 16).find? (fun e => (Map.get none (s.baseDie j).ise e).isSome || !(s.baseDie j).iseQueue.isEmpty)).map .engineProbe)
  | .core k => heldCore s k
  | .module => heldModule s
  | .outside r => (heldOutside s r, none)

/-! ### Placing a word -/

/-- Where placeWord puts the tables, the code and the descriptor of ASID 0 (log 5). -/
def placeRoot : Nat := 0x100000
def placeL2 : Nat := 0x120000
def placeL3 : Nat := 0x130000
def placeCode : Nat := 0x140000

/-- A control-thread word at virtual address 0 of ASID 0, readable, writable and executable, with thread 0 running there and its page in the core's translation cache. -/
def placeThread (s : State) (w : BitVec 32) : State :=
  let s := writeNat s (descAddr s 0) 8 (placeRoot + 1)
  let s := writeNat s placeRoot 8 (placeL2 + 1)
  let s := writeNat s placeL2 8 (placeL3 + 1)
  let s := writeNat s placeL3 8 (placeCode + 0x7D)
  let s := writeNat s placeCode 4 w.toNat
  let s := s.setWindow (homeSlice placeCode) (coreMaster 0) 0 { base := 0, last := 2 ^ 41 - 1, perm := 15, en := true }
  let s := s.modThread 0 (fun t => { t with run := .running, pc := 0, asid := 0, stall := none, awaits := none,
                                            stepDue := false, pend := [], fetched := [] })
  let s := s.modCore 0 (fun c => { c with icache := [placeCode / 128] })
  { s with agenda := [⟨.thread 0, none⟩], tcaches := [(0, [⟨0, 0, placeCode / 65536, 0x7D⟩])] }

/-- A slot word in slot 0 of the compute tile (0, 0) of core 0, in a context of a region of that one tile, with an empty
WORD token at the head of each input for slot 0. -/
def placeSlot (s : State) (w : BitVec 32) : State :=
  let x : Ctx := { tiles := Map.set {} [] 0 { ops := Map.set 0 [] 0 w }, segs := [{ n := 0 }], begun := true }
  let r : Region := { y0 := 0, x0 := 0, y1 := 0, x1 := 0, active := some 0, ctxs := Map.set none [] 0 (some x) }
  let s := s.setRegion 0 0 (some r)
  let s := s.setTile (tileKey 0 0 0) { ctx := 0, inp := [(0, [(0, {})]), (1, [(1, {})]), (2, [(2, {})]), (3, [(3, {})])], arrivals := 4 }
  { s with agenda := [⟨.tile 0 0 0 0, none⟩] }

/-- An assayer word at byte 0 of IMEM of slice 0, whose handler-table entry 1 gives both windows whole, with context 0
running a MISS handler there. -/
def placeAssayer (s : State) (w : BitVec 32) : State :=
  let s := writeNat s (imemAt 0 0) 4 w.toNat
  let s := s.modSlice 0 (fun x => { x with table := Map.set 0 (Map.set 0 x.table (16 * 1 + 1) 0x800400#64) (16 * 1 + 3) (BitVec.allOnes 64) })
  let s := s.setHart 0 { ev := some { hook := 0, entry := 1, line := 0, way := 0, va := 0, asid := 0, okind := 0, master := 0 } }
  { s with agenda := [⟨.hart 0 0, none⟩] }

/-- A stream command at the head of its queue of core 0, issued by the thread in privileged mode. -/
def placeCmd (s : State) (w : QWord) : State :=
  let c : QCmd := { id := s.nextId, word := w, asid := 0, ipc := 0, priv := true }
  let q := queueOf (cmdOpcode w)
  { setQueue s 0 q (c :: queueCmds s 0 q) with nextId := s.nextId + 1, agenda := [⟨.queue 0 q 0, none⟩] }

/-- The word placed with the agent that reads it (log 4, log 5). -/
def placeWord (s : State) (nbits w : Nat) : State :=
  if nbits = 32 then
    match reading (BitVec.ofNat 32 w) with
    | some (.slot, _) => placeSlot s (BitVec.ofNat 32 w)
    | some (.assayer, _) => placeAssayer s (BitVec.ofNat 32 w)
    | _ => placeThread s (BitVec.ofNat 32 w)
  else if nbits = 128 then placeCmd s (BitVec.ofNat 128 w)
  else s

end Sys2Proof.Machine
end

