-- ==== Sys2Proof/Machine/Step.lean ====
section
/-!
DEFINITION. One step of the module: the next turn of the schedule.
-/
namespace Sys2Proof.Machine

open Sys2Proof

/-- One step: the next agent of the agenda (any agent when it is empty) runs what it holds, or makes the step the agenda
names; the step count and TIME advance. -/
def step (s : State) : Host.Outcome State Fault Refusal :=
  let t := nextTurn s
  let s := begin_ s t
  match t.what with
  | some i => if isEvent i then exec i s else .next s
  | none =>
    match held s with
    | (s, some i) => exec i s
    | (s, none) => .next s

/-- s with the instruction whose bits are w placed where the next step fetches it (log 5). -/
def State.withFetchWord (s : State) (nbits w : Nat) : State := placeWord s nbits w

end Sys2Proof.Machine
end

