-- ==== Sys2Proof/Safety.lean ====
section
/-!
DEFINITION. What a safe state is, and the words the statements are made of: where an access of a thread reaches its
bytes, when a slot fires, and what a frame leaves alone.
-/
namespace Sys2Proof

open Sys2Proof.Machine

/-- Memory stands in its canonical form: addresses strictly rising, no entry equal to the 0 of an unlisted address. -/
abbrev Memory.wf (m : Map Byte) : Bool := Map.wf 0 m

/-- The bits of STATUS that no field has read 0 (10_faults_modes.md Table 10.5). -/
def statusLegal (st : Word) : Bool := st &&& ~~~(0xDB : Word) == 0

/-- The bits of FLAGS that no field has read 0 (04_formats.md Table 4.10). -/
def flagsLegal (f : Word) : Bool := f &&& ~~~flagsMask == 0

/-- A token FIFO holds 0 to 15 entries (02_execution_model.md R46). -/
def fifosLegal (c : Core) : Bool := c.fifos.all (fun e => decide (e.2.length ≤ 15))

/-- A state the spec allows: memory canonical, reserved bits of every thread's STATUS and every core's FLAGS zero. -/
def Safe (s : State) : Prop :=
  Memory.wf s.mem = true ∧ (∀ k, statusLegal (s.thread k).status = true) ∧ (∀ k, flagsLegal (s.core k).flags = true)

/-- The instructions of the control thread that work on its registers, on memory, and on the trap state. -/
def threadForm (i : Instr) : Bool :=
  match i with
  | .ld .. | .ldu .. | .ldq .. | .lda .. | .st .. | .stq .. | .str .. | .amo .. | .cas .. | .fence _ | .barInit .. | .barArv ..
  | .barDrp .. | .barWait .. | .tkpush _ | .tkpop .. | .csrr .. | .csrw .. | .csrs .. | .csrc .. | .trap _ | .bkpt _ | .sysret
  | .nop | .brCc .. | .bp .. | .bpn .. | .jmp _ | .add .. | .sub .. | .mul .. | .mulh .. | .div .. | .divu .. | .rem .. | .remu ..
  | .and .. | .or .. | .xor .. | .shl .. | .shr .. | .sar .. | .min .. | .max .. | .minu .. | .maxu .. | .clz .. | .popc ..
  | .sext .. | .zext .. | .randk .. | .addi .. | .andi .. | .ori .. | .xori .. | .shli .. | .shri .. | .sari .. | .lih .. | .addpc ..
  | .madd .. | .bitf .. | .biti .. | .sel .. | .jal .. | .jalr .. | .loop .. | .cmpCc .. | .cmpiCc .. | .pand .. | .por .. | .pnot ..
  | .qset .. | .qseti .. | .qmov .. => true
  | _ => false

/-! ### Accesses of a thread -/

/-- The access of n bytes at va by core k's thread is aligned, translates, is permitted and stands behind nothing: it is
answered at memory key `key`, in state s' (16_ref_d_l.md R366, 15_ref_a_c.md R319, 07_consistency.md R151, R154). -/
def reaches (s : State) (k : Nat) (va : Word) (n : Nat) (kd : Kind) (s' : State) (key : Nat) : Prop :=
  va.toNat % n = 0 ∧
    ∃ s0 w s1 pa seam p, threadWalk s k va = .ready s0 w ∧ locate s0 k (s0.thread k).asid va.toNat kd true = (s1, .ok (pa, seam)) ∧
      placeOf s1 pa = .ok p ∧ behind s1 k p.home = false ∧ ownAhead s1 k pa n = false ∧ reach s1 pa n kd (threadOrigin s1 k va) = .ready s' key

/-- The store at va is aligned and its address has a place: p at physical address pa, in state s1 (18_ref_s.md R415). -/
def storePlace (s : State) (k : Nat) (va : Word) (n : Nat) (s1 : State) (pa : Nat) (p : Place) : Prop :=
  va.toNat % n = 0 ∧ ∃ s0 w seam, threadWalk s k va = .ready s0 w ∧
    locate s0 k (s0.thread k).asid va.toNat .write true = (s1, .ok (pa, seam)) ∧ placeOf s1 pa = .ok p

/-! ### Frames -/

/-- s and t differ in nothing but thread k. -/
def onlyThread (s t : State) (k : Nat) : Prop := t = { s with threads := t.threads } ∧ ∀ j, j ≠ k → t.thread j = s.thread j

/-- Two threads differ in nothing but g, p, q, the pc and what an instruction in progress holds. -/
def sameButFile (u v : Thread) : Prop :=
  v = { u with g := v.g, p := v.p, q := v.q, pc := v.pc, stepDue := v.stepDue, stall := v.stall, taking := v.taking
               awaits := v.awaits, watching := v.watching, joining := v.joining, loads := v.loads }

/-- The general register, predicate and command register that a register instruction writes. -/
def destG : Instr → Option (BitVec 5)
  | .add d _ _ | .sub d _ _ | .mul d _ _ | .mulh d _ _ | .div d _ _ | .divu d _ _ | .rem d _ _ | .remu d _ _
  | .and d _ _ | .or d _ _ | .xor d _ _ | .shl d _ _ | .shr d _ _ | .sar d _ _ | .min d _ _ | .max d _ _
  | .minu d _ _ | .maxu d _ _ | .clz d _ | .popc d _ | .sext d _ _ | .zext d _ _ | .randk d _ _ | .addi d _ _
  | .andi d _ _ | .ori d _ _ | .xori d _ _ | .shli d _ _ | .shri d _ _ | .sari d _ _ | .lih d _ _ | .addpc d _
  | .madd d _ _ _ | .bitf d _ _ _ _ | .biti d _ _ _ | .sel d _ _ _ | .jal d _ | .jalr d _ _ | .loop d _ => some d
  | _ => none

def destP : Instr → Option (BitVec 3)
  | .cmpCc p _ _ _ | .cmpiCc p _ _ _ | .pand p _ _ | .por p _ _ | .pnot p _ => some p
  | _ => none

def destQ : Instr → Option (BitVec 3)
  | .qset q _ _ | .qseti q _ _ | .qmov q _ => some q
  | _ => none

/-- The instructions of the control thread that work on registers and the pc alone. -/
def registerForm (i : Instr) : Bool :=
  (destG i).isSome || (destP i).isSome || (destQ i).isSome ||
    (match i with | .nop | .brCc _ _ _ _ | .bp _ _ | .bpn _ _ | .jmp _ => true | _ => false)

/-! ### Firings -/

/-- What a slot takes as it fires, and the state then: the tile has fired once more (03_fabric.md R69). -/
def takes (s : State) (st : Site) (t : Takes) : Option Taken :=
  (gather s st t.srcs t.how t.acc).map (fun k => { k with s := aged k.s st.key })

/-- No link that leaves the tile has failed for what crosses it next (10_faults_modes.md R236). -/
def linksUp (s : State) (st : Site) : Bool := (List.range 4).all (fun d => !linkDown s (linkNo st.key d))

/-- A slot of a tile fires: it is the tile's turn, its sources have the tokens k takes, every destination has room and its
links are up, and every token taken is a WORD (02_execution_model.md R36, R38). -/
structure Fires (s : State) (st : Site) (t : Takes) (k : Taken) : Prop where
  turn : s.self = .tile st.k st.y st.x st.n
  site : siteOf s st.k st.y st.x st.n = some st
  room : ∀ d ∈ t.dests, hasRoom s st d.1 d.2 = true
  links : linksUp s st = true
  taken : takes s st t = some k
  words : ∀ x ∈ k.toks, x.kind = kWORD

/-- What a word op takes that writes one result. -/
def wordTakes (f : Slot) (srcs : List (BitVec 4)) (how : Nat) : Takes :=
  { srcs, how, acc := accOf f, dests := [(f.d.toNat, 1)], next := f.n }

/-- The state after a word op: the tokens are gone, the flags are raised in the region, and the result of the given valid
lanes and payload has left by the destination (19_ref_t_z.md R428). -/
def wordFired (st : Site) (f : Slot) (k : Taken) (r : BitVec 16 × Lanes × BitVec 5) : State :=
  emit (raiseFlags k.s st.k st.j r.2.2) st f.d.toNat { resultTok k.s f r.1 r.2.1 with seg := segOf k.toks }

/-- A slot of a tile fires on tokens of any data kind, where its op passes NULL and DIGIT tokens (02_execution_model.md R54, R57). -/
structure Ready (s : State) (st : Site) (t : Takes) (k : Taken) : Prop where
  turn : s.self = .tile st.k st.y st.x st.n
  site : siteOf s st.k st.y st.x st.n = some st
  room : ∀ d ∈ t.dests, hasRoom s st d.1 d.2 = true
  links : linksUp s st = true
  taken : takes s st t = some k
  data : ∀ x ∈ k.toks, x.isData = true

/-- What a routing op, a digit op or a memory-tile op takes. -/
def routeTakes (f : Slot) (srcs : List (BitVec 4)) (dests : List Nat) : Takes :=
  { srcs, dests := dests.map (fun d => (d, 1)), next := f.n, nullOk := true, digitOk := true }

/-- The state after the tokens of a firing have left by their destinations, with the segment of the tokens taken. -/
def sends (st : Site) (k : Taken) (s : State) (outs : List (Nat × Token)) : State :=
  outs.foldl (fun s o => emit s st o.1 { o.2 with seg := segOf k.toks }) s

/-- A digit op takes group g of its instance (05_online_arithmetic.md R108, R109): the groups are DIGIT tokens of one chain
that follow the ones held, with no code 10, and the op's result has an exponent in range. -/
structure DigitGroup (s : State) (st : Site) (f : Slot) (two : Bool) (dests : List Nat) (k : Taken) (i : Inst) : Prop where
  ready : Ready s st (routeTakes f (if two then [f.a, f.b] else [f.a]) dests) k
  empty : encoding s st = false
  kindA : (tok k 0).kind = kDIGIT
  kindB : two = true → (tok k 1).kind = kDIGIT
  nextA : tokG (tok k 0) = (slotSt k.s st).digit.ga.length
  nextB : two = true → tokG (tok k 1) = (slotSt k.s st).digit.ga.length ∧ (tok k 1).tag = (tok k 0).tag
  short : (slotSt k.s st).digit.ga.length < groupsOf f
  chainA : ∀ t, (slotSt k.s st).digit.ga.head? = some t → tokE t = tokE (tok k 0) ∧ t.tag = (tok k 0).tag
  chainB : two = true → ∀ t, (slotSt k.s st).digit.gb.head? = some t → tokE t = tokE (tok k 1)
  goodA : badDigits (tok k 0) = false
  goodB : two = true → badDigits (tok k 1) = false
  range : -512 ≤ i.e ∧ i.e ≤ 511

/-- The groups that an instance holds with those just taken. -/
def groupsA (st : Site) (k : Taken) : List Token := (slotSt k.s st).digit.ga ++ [tok k 0]
def groupsB (st : Site) (two : Bool) (k : Taken) : List Token := if two then (slotSt k.s st).digit.gb ++ [tok k 1] else []

/-! ### Commands -/

/-- Command c, whose word is i, has its turn at its place of a queue and has begun (02_execution_model.md R45). -/
structure Begun (s : State) (i : Instr) (k q pos : Nat) (c : QCmd) : Prop where
  turn : s.self = .queue k q pos
  here : (queueCmds s k q)[pos]? = some c
  word : decodeCmd c.word = .ok i
  phase : c.phase = .started

/-- A command at the head of its queue, bound there to the contexts that its slot holds (02_execution_model.md R30). -/
def atHead (s : State) (k : Nat) (c : QCmd) : State × QCmd := if c.headed then (s, c) else comeToHead s k c

/-- Command c, whose word is i, has its turn and may leave its queue, or does so in turns: it waits for no token, earlier
commands let it go, and its binding names a resident context where it must, which no final fault has stopped
(02_execution_model.md R30, R45, R46, 10_faults_modes.md R226, 13_encodings.md R286). -/
structure Leaves (s : State) (i : Instr) (k q pos : Nat) (c : QCmd) : Prop where
  turn : s.self = .queue k q pos
  here : (queueCmds s k q)[pos]? = some c
  word : decodeCmd c.word = .ok i
  phase : c.phase = .queued ∨ (c.phase = .ready ∧ c.headed = true)
  first : mayIssue s k q pos = true
  free : c.phase = .ready ∨ (cmdFields c.word).waitEn = false
  bound : c.headed = true ∨ bindOk s k (cmdFields c.word) (cmdOpcode c.word) = true
  live : stoppedBy (atHead s k c).1 k (atHead s k c).2 = none

/-- The state, and the command, once it has left its queue. -/
def released1 (s : State) (k : Nat) (c : QCmd) : State := setPhase (atHead s k c).1 k c.id .ready
def leftQueue (s : State) (k : Nat) (c : QCmd) : QCmd := { (atHead s k c).2 with phase := .ready }

/-! ### Handlers -/

/-- Context h runs the handler of event e, may issue, and an instruction of cyc cycles ends within the budget; the
instruction after it lies in the IMEM window (08_assayers.md R171, R173, R184). -/
structure HandlerTurn (s : State) (h : Nat) (e : SliceEv) (cyc : Nat) : Prop where
  turn : s.self = .hart (h / 4) (h % 4)
  runs : (s.hart h).ev = some e
  issue : canIssue s h e = true
  time : usedCycles s h + cyc ≤ budgetOf s h e
  next : pcOk s h e ((s.hart h).pc + 4) = true

end Sys2Proof
end

