-- ==== Sys2Proof/Certificates/Slice0/Obligations.lean ====
section
/-!
DEFINITION. The statements for the provers. Each follows the rules of spec/ that its docstring names.
-/

set_option linter.unusedVariables false

open Sys2Proof Sys2Proof.Machine

/-! ### Control thread: registers -/

/-- The F-R words of major 0x01 (R316, R348, R378, R395, R438, R93): gd takes the result and the instruction retires.
The forms with one source (R316, R378, R395, R438): CLZ counts the zero bits above the highest set bit, POPC the one
bits; SEXT and ZEXT keep the low 8, 16 or 32 bits. -/
def Obligations.AluResults : Prop :=
  (∀ (d a b : BitVec 5) (s : State) (k : Nat), s.self = .thread k →
     let x := rg s k a
     let y := rg s k b
     let put (v : Word) : Res := .next (retire (wg s k d v) k)
     exec (.add d a b) s = put (x + y) ∧
     exec (.sub d a b) s = put (x - y) ∧
     exec (.mul d a b) s = put (x * y) ∧
     exec (.mulh d a b) s = put ((x.signExtend 128 * y.signExtend 128).extractLsb' 64 64) ∧
     exec (.div d a b) s = put (if y = 0 then BitVec.allOnes 64 else x.sdiv y) ∧
     exec (.divu d a b) s = put (if y = 0 then BitVec.allOnes 64 else x / y) ∧
     exec (.rem d a b) s = put (if y = 0 then x else x.srem y) ∧
     exec (.remu d a b) s = put (if y = 0 then x else x % y) ∧
     exec (.and d a b) s = put (x &&& y) ∧
     exec (.or d a b) s = put (x ||| y) ∧
     exec (.xor d a b) s = put (x ^^^ y) ∧
     exec (.shl d a b) s = put (x <<< (y.toNat % 64)) ∧
     exec (.shr d a b) s = put (x >>> (y.toNat % 64)) ∧
     exec (.sar d a b) s = put (BitVec.ofInt 64 (x.toInt / 2 ^ (y.toNat % 64))) ∧
     exec (.min d a b) s = put (if x.toInt ≤ y.toInt then x else y) ∧
     exec (.max d a b) s = put (if x.toInt ≤ y.toInt then y else x) ∧
     exec (.minu d a b) s = put (if x.toNat ≤ y.toNat then x else y) ∧
     exec (.maxu d a b) s = put (if x.toNat ≤ y.toNat then y else x) ∧
     exec (.randk d a b) s = put ((Float.gen (x.extractLsb' 0 32) y).zeroExtend 64) ∧
     exec (.nop) s = .next (retire s k)) ∧
  (∀ (d a w : BitVec 5) (s : State) (k : Nat), s.self = .thread k →
     let x := rg s k a
     let put (v : Word) : Res := .next (retire (wg s k d v) k)
     (∃ n : Nat, n ≤ 64 ∧ exec (.clz d a) s = put (BitVec.ofNat 64 n) ∧ x.toNat < 2 ^ (64 - n) ∧
       (n < 64 → 2 ^ (63 - n) ≤ x.toNat)) ∧
     exec (.popc d a) s = put (BitVec.ofNat 64 ((List.range 64).countP (fun i => x.getLsbD i))) ∧
     (w = 0 → exec (.sext d a w) s = put ((x.truncate 8).signExtend 64) ∧ exec (.zext d a w) s = put ((x.truncate 8).zeroExtend 64)) ∧
     (w = 1 → exec (.sext d a w) s = put ((x.truncate 16).signExtend 64) ∧ exec (.zext d a w) s = put ((x.truncate 16).zeroExtend 64)) ∧
     (w = 2 → exec (.sext d a w) s = put ((x.truncate 32).signExtend 64) ∧ exec (.zext d a w) s = put ((x.truncate 32).zeroExtend 64)))

/-- The immediate forms and bit fields (R318, R327, R367, R377, R385, R395, R438); a field that runs past bit 63 is
Obligations.IllegalFieldsTrap's. -/
def Obligations.ImmediateResults : Prop :=
  ∀ (d a b c : BitVec 5) (i : BitVec 16) (n p w : BitVec 6) (h : BitVec 2) (o : BitVec 21) (s : State) (k : Nat),
    s.self = .thread k →
    let x := rg s k a
    let put (v : Word) : Res := .next (retire (wg s k d v) k)
    exec (.ori d a i) s = put (x ||| i.zeroExtend 64) ∧
    exec (.xori d a i) s = put (x ^^^ i.zeroExtend 64) ∧
    exec (.shli d a n) s = put (x <<< n.toNat) ∧
    exec (.shri d a n) s = put (x >>> n.toNat) ∧
    exec (.sari d a n) s = put (BitVec.ofInt 64 (x.toInt / 2 ^ n.toNat)) ∧
    (∃ v : Word, exec (.lih d h i) s = put v ∧ ∀ j : Nat, j < 64 → v.getLsbD j =
      if 16 * h.toNat ≤ j ∧ j < 16 * h.toNat + 16 then i.getLsbD (j - 16 * h.toNat) else (rg s k d).getLsbD j) ∧
    exec (.addpc d o) s = put ((pcOf s k &&& 0xFFFFFFFFFFFFFF) + 4 * o.signExtend 64) ∧
    exec (.madd d a b c) s = put (x * rg s k b + rg s k c) ∧
    (p.toNat + w.toNat + 1 ≤ 64 →
      (∃ v : Word, exec (.bitf d a 0 p w) s = put v ∧ ∀ j : Nat, j < 64 → v.getLsbD j =
        (decide (j ≤ w.toNat) && x.getLsbD (p.toNat + j))) ∧
      (∃ v : Word, exec (.bitf d a 1 p w) s = put v ∧ ∀ j : Nat, j < 64 → v.getLsbD j =
        x.getLsbD (p.toNat + Nat.min j w.toNat)) ∧
      (∃ v : Word, exec (.biti d a p w) s = put v ∧ ∀ j : Nat, j < 64 → v.getLsbD j =
        if p.toNat ≤ j ∧ j ≤ p.toNat + w.toNat then x.getLsbD (j - p.toNat) else (rg s k d).getLsbD j))

/-- R317: the words of ADDI and ANDI and what they set. -/
def Obligations.AddiAndiWordAndResult : Prop :=
  ∀ (d a : BitVec 5) (i : BitVec 16) (s : State) (k : Nat), s.self = .thread k →
    (encodeThread (.addi d a i)).map (·.toNat) = some (0x02 * 2 ^ 26 + d.toNat * 2 ^ 21 + a.toNat * 2 ^ 16 + i.toNat) ∧
    (encodeThread (.andi d a i)).map (·.toNat) = some (0x03 * 2 ^ 26 + d.toNat * 2 ^ 21 + a.toNat * 2 ^ 16 + i.toNat) ∧
    exec (.addi d a i) s = .next (retire (wg s k d (rg s k a + i.signExtend 64)) k) ∧
    exec (.andi d a i) s = .next (retire (wg s k d (rg s k a &&& i.zeroExtend 64)) k)

/-- R400: the word of SEL and what it sets. -/
def Obligations.SelWordAndResult : Prop :=
  ∀ (d a b : BitVec 5) (p : BitVec 3) (s : State) (k : Nat), s.self = .thread k →
    (encodeThread (.sel d a b p)).map (·.toNat) =
      some (0x44000000 + d.toNat * 2 ^ 21 + a.toNat * 2 ^ 16 + b.toNat * 2 ^ 11 + p.toNat * 2 ^ 8) ∧
    (∀ w : BitVec 32, w.extractLsb' 26 6 = 0x11#6 → w.extractLsb' 0 8 ≠ 0 → decodeThread w = .error .reservedField) ∧
    exec (.sel d a b p) s = .next (retire (wg s k d (if rp s k p then rg s k a else rg s k b)) k)

/-- Predicates (R336 with Table 15.4, R386): the conditions of CMP and CMPI, and PAND, POR and PNOT. -/
def Obligations.PredicateResults : Prop :=
  ∀ (p q r : BitVec 3) (a b : BitVec 5) (i : BitVec 14) (s : State) (k : Nat), s.self = .thread k →
    let x := rg s k a
    let put (v : Bool) : Res := .next (retire (wp s k p v) k)
    let cmp (c : BitVec 4) (v : Word → Bool) : Prop :=
      exec (.cmpCc p a b c) s = put (v (rg s k b)) ∧
      exec (.cmpiCc p a c i) s = put (v (if c = 4 ∨ c = 5 ∨ c = 8 ∨ c = 9 then i.zeroExtend 64 else i.signExtend 64))
    cmp 0 (fun y => x == y) ∧ cmp 1 (fun y => x != y) ∧
    cmp 2 (fun y => decide (x.toInt < y.toInt)) ∧ cmp 3 (fun y => decide (y.toInt ≤ x.toInt)) ∧
    cmp 4 (fun y => decide (x.toNat < y.toNat)) ∧ cmp 5 (fun y => decide (y.toNat ≤ x.toNat)) ∧
    cmp 6 (fun y => decide (x.toInt ≤ y.toInt)) ∧ cmp 7 (fun y => decide (y.toInt < x.toInt)) ∧
    cmp 8 (fun y => decide (x.toNat ≤ y.toNat)) ∧ cmp 9 (fun y => decide (y.toNat < x.toNat)) ∧
    exec (.pand p q r) s = put (rp s k q && rp s k r) ∧
    exec (.por p q r) s = put (rp s k q || rp s k r) ∧
    exec (.pnot p q) s = put (!rp s k q)

/-- R391: the words of QSET, QSETI and QMOV and the bits of qd they write. -/
def Obligations.CommandRegisterWrites : Prop :=
  ∀ (q r c : BitVec 3) (a : BitVec 5) (h : BitVec 1) (i : BitVec 16) (s : State) (k : Nat), s.self = .thread k →
    (encodeThread (.qset q a h)).map (·.toNat) = some (0x9C000000 + q.toNat * 2 ^ 23 + a.toNat * 2 ^ 18 + h.toNat) ∧
    (encodeThread (.qseti q c i)).map (·.toNat) = some (0xA0000000 + q.toNat * 2 ^ 23 + c.toNat * 2 ^ 18 + i.toNat) ∧
    (encodeThread (.qmov q r)).map (·.toNat) = some (0xA4000000 + q.toNat * 2 ^ 23 + r.toNat * 2 ^ 15) ∧
    (∃ v : QWord, exec (.qset q a h) s = .next (retire (wq s k q v) k) ∧ ∀ j : Nat, j < 128 → v.getLsbD j =
      if 64 * h.toNat ≤ j ∧ j < 64 * h.toNat + 64 then (rg s k a).getLsbD (j - 64 * h.toNat) else (rq s k q).getLsbD j) ∧
    (∃ v : QWord, exec (.qseti q c i) s = .next (retire (wq s k q v) k) ∧ ∀ j : Nat, j < 128 → v.getLsbD j =
      if 16 * c.toNat ≤ j ∧ j < 16 * c.toNat + 16 then i.getLsbD (j - 16 * c.toNat) else (rq s k q).getLsbD j) ∧
    exec (.qmov q r) s = .next (retire (wq s k q (rq s k r)) k)

/-- g0 and p0 discard writes and read 0 and true; every other register reads what was written, and no other changes
(00_scope.md R9). -/
def Obligations.RegistersReadWhatWasWritten : Prop :=
  ∀ (s : State) (k : Nat) (d r : BitVec 5) (v : Word) (p q : BitVec 3) (b : Bool) (x y : BitVec 3) (w : QWord),
    rg (wg s k d v) k r = (if r = 0 then 0 else if r = d then v else rg s k r) ∧
    rp (wp s k p b) k q = (if q = 0 then true else if q = p then b else rp s k q) ∧
    rq (wq s k x w) k y = (if y = x then w else rq s k y)

/-- Branches and jumps (R329, R330, R361, R368). A JALR whose target is not word-aligned raises ALIGN and leaves gd. -/
def Obligations.BranchesAndJumps : Prop :=
  ∀ (d a b : BitVec 5) (c : BitVec 4) (p : BitVec 3) (o12 : BitVec 12) (o20 : BitVec 20) (o21 : BitVec 21) (i : BitVec 16)
    (s : State) (k : Nat), s.self = .thread k →
    let pc := pcOf s k
    let target (x : Word) : Res := .next (retireTo s k (pc + 4 * x))
    (c.toNat ≤ 9 → exec (.brCc a b c o12) s = if holds c (rg s k a) (rg s k b) then target (o12.signExtend 64) else .next (retire s k)) ∧
    exec (.bp p o20) s = (if rp s k p then target (o20.signExtend 64) else .next (retire s k)) ∧
    exec (.bpn p o20) s = (if rp s k p then .next (retire s k) else target (o20.signExtend 64)) ∧
    exec (.jmp o21) s = target (o21.signExtend 64) ∧
    exec (.jal d o21) s = .next (retireTo (wg s k d (pc + 4)) k (pc + 4 * o21.signExtend 64)) ∧
    (let t := rg s k a + i.signExtend 64
     exec (.jalr d a i) s = if t.toNat % 4 = 0 then .next (retireTo (wg s k d (pc + 4)) k t) else .next (raise s k fcALIGN t)) ∧
    (2 ≤ o12.toNat → o12.toNat ≤ 2047 →
      exec (.loop a o12) s = if rg s k a = 0 then target (o12.signExtend 64) else .next (retire (wg s k a (rg s k a - 1)) k))

/-- A word whose condition, width, bit field, distance or CSR number the encoding leaves unassigned raises ILLEGAL with
the word in EVAL, and writes nothing else (13_encodings.md R281, 10_faults_modes.md R220). -/
def Obligations.IllegalFieldsTrap : Prop :=
  ∀ (d a b : BitVec 5) (p : BitVec 3) (c : BitVec 4) (i : BitVec 14) (g : BitVec 1) (po w : BitVec 6) (o : BitVec 12)
    (n : BitVec 16) (s : State) (k : Nat), s.self = .thread k →
    let ill (x : Instr) : Prop := exec x s = .next (raise s k fcILLEGAL (wordOf x))
    (10 ≤ c.toNat → ill (.cmpCc p a b c) ∧ ill (.cmpiCc p a c i) ∧ ill (.brCc a b c o)) ∧
    (3 ≤ b.toNat → ill (.sext d a b) ∧ ill (.zext d a b)) ∧
    (64 < po.toNat + w.toNat + 1 → ill (.bitf d a g po w) ∧ ill (.biti d a po w)) ∧
    ((o.toNat < 2 ∨ 2047 < o.toNat) → ill (.loop a o)) ∧
    (csrListed n = false → ill (.csrr d n) ∧ ill (.csrw d a n) ∧ ill (.csrs d a n) ∧ ill (.csrc d a n))

/-- The frame of the register instructions: when the answer is a next state that is not a trap, nothing but thread k has
changed, and of it nothing but the destination, the pc and what an instruction in progress holds. -/
def Obligations.RegisterFormsFrame : Prop :=
  ∀ (i : Instr) (s t : State) (k : Nat), registerForm i = true → s.self = .thread k → exec i s = .next t →
    (∃ c v, t = raise s k c v) ∨
    (onlyThread s t k ∧ sameButFile (s.thread k) (t.thread k) ∧
      (∀ r : BitVec 5, destG i ≠ some r → rg t k r = rg s k r) ∧
      (∀ r : BitVec 3, destP i ≠ some r → rp t k r = rp s k r) ∧
      (∀ r : BitVec 3, destQ i ≠ some r → rq t k r = rq s k r))

/-! ### Control thread: memory -/

/-- LD, LDU, LDQ and LDA give the bytes at the address, the lowest first, sign- or zero-extended (R365, R2). -/
def Obligations.LoadsGiveTheBytes : Prop :=
  ∀ (d a : BitVec 5) (z sc : BitVec 2) (q : BitVec 3) (o : BitVec 14) (o12 : BitVec 12) (s s' : State) (k key : Nat),
    s.self = .thread k →
    let n := 2 ^ z.toNat
    let value (m : Nat) : Nat := ((List.range m).map (fun i => (readByte s (key + i)).toNat * 256 ^ i)).sum
    (reaches s k (rg s k a + o.signExtend 64) n .read s' key →
      exec (.ld d a z o) s = .next (retire (wg s' k d (BitVec.ofInt 64 (sextN (value n) (8 * n)))) k) ∧
      exec (.ldu d a z o) s = .next (retire (wg s' k d (BitVec.ofNat 64 (value n))) k)) ∧
    (reaches s k (rg s k a + o12.signExtend 64) n .read s' key →
      exec (.lda d a z sc o12) s = .next (retire (wg s' k d (BitVec.ofInt 64 (sextN (value n) (8 * n)))) k)) ∧
    (reaches s k (rg s k a + o.signExtend 64) 16 .read s' key →
      exec (.ldq q a o) s = .next (retire (wq s' k q (BitVec.ofNat 128 (value 16))) k))

/-- An access that is answered changes nothing but the translation caches, the tags of the slices and the counts of failed
retransmissions: no byte, no register, no other agent (06_memory.md R137, 10_faults_modes.md R216, R236). -/
def Obligations.AnsweredAccessChangesTagsOnly : Prop :=
  ∀ (s s' : State) (k : Nat) (va : Word) (n : Nat) (kd : Kind) (key : Nat), reaches s k va n kd s' key →
    s' = { s with tcaches := s'.tcaches, slices := s'.slices, resent := s'.resent, head := { s.head with retries := s'.head.retries } }

/-- ST, STQ and STR (R414, R415, R155): a store to a memory tile that its target permits lands at once, any other leaves
toward its home with its bytes, lowest first, and the thread goes on, behind the thread's own earlier accesses to the same
bytes (R154); a store over Adit with no usable port is an asynchronous LINK fault; STR waits until every earlier access of the
thread is performed at its scope. -/
def Obligations.StoresLandOrLeave : Prop :=
  ∀ (g a : BitVec 5) (q : BitVec 3) (z sc : BitVec 2) (o : BitVec 14) (o12 : BitVec 12) (s s1 s2 : State) (k pa key : Nat) (p : Place),
    s.self = .thread k →
    let n := 2 ^ z.toNat
    let bytes (m v : Nat) : List (Option Byte) := (List.range m).map (fun i => some (BitVec.ofNat 8 (v / 256 ^ i)))
    let leaves (va : Word) (cells : List (Option Byte)) : State :=
      retire { s1 with
        egress := s1.egress ++ [{ id := s1.nextId, core := k, sid := none, cmdId := none, asid := (s1.thread k).asid,
                                  va := va.toNat, pa, cells, pc := pcOf s1 k, left := false }]
        nextId := s1.nextId + 1 } k
    let stores (va : Word) (m v : Nat) (i : Instr) : Prop :=
      (storePlace s k va m s1 pa p →
        ((s1.thread k).loads.any (fun l => decide (l.pa < pa + m ∧ pa < l.pa + l.n)) = false → isTileHome p.home = false →
          exec i s = .next (leaves va (bytes m v))) ∧
        (ownAhead s1 k pa m = false → isTileHome p.home = true → reach s1 pa m .write (threadOrigin s1 k va) = .ready s2 key →
          exec i s = .next (retire (perform s2 key (bytes m v)) k)) ∧
        (∀ c, ownAhead s1 k pa m = false → isTileHome p.home = true → reach s1 pa m .write (threadOrigin s1 k va) = .fault s2 c →
          exec i s = .next (retire (pendFault s2 { core := k, asid := (s2.thread k).asid, code := c, va, ipc := pcOf s2 k }) k))) ∧
      (∀ s0 w seam, va.toNat % m = 0 → threadWalk s k va = .ready s0 w →
        locate s0 k (s0.thread k).asid va.toNat .write true = (s1, .ok (pa, seam)) → placeOf s1 pa = .error fcLINK →
        exec i s = .next (retire (pendFault s1 { core := k, asid := (s1.thread k).asid, code := fcLINK, va, ipc := pcOf s1 k }) k))
    stores (rg s k a + o.signExtend 64) n (rg s k g).toNat (.st g a z o) ∧
    stores (rg s k a + o.signExtend 64) 16 (rq s k q).toNat (.stq q a o) ∧
    (released s k sc.toNat = true → stores (rg s k a + o12.signExtend 64) n (rg s k g).toNat (.str g a z sc o12)) ∧
    (released s k sc.toNat = false → ∃ t, exec (.str g a z sc o12) s = .next t ∧ t.mem = s.mem ∧ t.egress = s.egress ∧ pcOf t k = pcOf s k)

/-- AMO and CAS (R319, R332): one indivisible read, change and write at the home; gd takes the old value, zero-extended
for MAXU and sign-extended otherwise. -/
def Obligations.AtomicsReadChangeWrite : Prop :=
  ∀ (d a b : BitVec 5) (op : BitVec 3) (sc r : BitVec 2) (z : BitVec 1) (s s' : State) (k key : Nat), s.self = .thread k →
    (r.getLsbD 1 = true → released s k sc.toNat = true) →
    let n := if z = 0 then 4 else 8
    reaches s k (rg s k a) n .atomic s' key →
    let old := readNat s' key n
    let y := (rg s k b).toNat % 2 ^ (8 * n)
    let new : Nat :=
      if op = 0 then y else if op = 1 then (old + y) % 2 ^ (8 * n) else if op = 2 then old &&& y else if op = 3 then old ||| y
      else if op = 4 then old ^^^ y else if op = 5 then (if sextN old (8 * n) ≤ sextN y (8 * n) then old else y)
      else if op = 6 then (if sextN old (8 * n) ≤ sextN y (8 * n) then y else old) else (if old ≤ y then y else old)
    exec (.amo d a b op sc z r) s = .next (retire (wg (perform s' key ((toBytes n new).map some)) k d
      (if op = 7 then BitVec.ofNat 64 old else BitVec.ofInt 64 (sextN old (8 * n)))) k) ∧
    exec (.cas d a b sc z r) s = .next (retire (wg
      (if old = (rg s k d).toNat % 2 ^ (8 * n) then perform s' key ((toBytes n (rg s k b).toNat).map some) else s') k d
      (BitVec.ofInt 64 (sextN old (8 * n)))) k)

/-- The bytes and registers that the loading and waiting forms leave alone: every byte of memory, and every register but
the destination. A trap handler's own faults end its task and stand apart.
What a waiting form holds of its wait is the model's own (log 97). -/
def Obligations.LoadingFormsFrame : Prop :=
  ∀ (d a b : BitVec 5) (q : BitVec 3) (z sc : BitVec 2) (o : BitVec 14) (o12 : BitVec 12) (s t : State) (k : Nat),
    s.self = .thread k → inTrap s k = false →
    let keeps (i : Instr) (dst : Option (BitVec 5)) : Prop := exec i s = .next t →
      (∀ x, readByte t x = readByte s x) ∧ t.egress = s.egress ∧ (∀ r, dst ≠ some r → rg t k r = rg s k r) ∧
      (t.thread k).p = (s.thread k).p ∧ (∀ j, j ≠ k → t.thread j = s.thread j) ∧ t.cores = s.cores ∧ t.tiles = s.tiles
    keeps (.ld d a z o) (some d) ∧ keeps (.ldu d a z o) (some d) ∧ keeps (.lda d a z sc o12) (some d) ∧
    keeps (.ldq q a o) none ∧ keeps (.pref a o) none ∧ keeps (.fence sc) none ∧ keeps (.barWait a b) none ∧
    keeps (.watch d a b) (some d) ∧
    (∀ q', q' ≠ q → exec (.ldq q a o) s = .next t → rq t k q' = rq s k q')

/-- The bytes and registers that the storing forms leave alone: with the address a form stores to computed as its meaning
computes it, every byte outside the stored ones, and every general register but an atomic's destination. -/
def Obligations.StoringFormsFrame : Prop :=
  ∀ (d a b : BitVec 5) (q op : BitVec 3) (z sc r : BitVec 2) (z1 : BitVec 1) (o : BitVec 14) (o12 : BitVec 12) (s t : State) (k : Nat),
    s.self = .thread k → inTrap s k = false →
    let store (i : Instr) (va : Word) (n : Nat) : Prop := exec i s = .next t →
      (∀ g, rg t k g = rg s k g) ∧
      (∀ s1 pa p, storePlace s k va n s1 pa p → isTileHome p.home = false → ∀ x, readByte t x = readByte s x) ∧
      (∀ s1 pa p s2 key, storePlace s k va n s1 pa p → isTileHome p.home = true →
        reach s1 pa n .write (threadOrigin s1 k va) = .ready s2 key →
        ∀ x, (x < key ∨ key + n ≤ x) → readByte t x = readByte s x) ∧
      ((¬ ∃ s1 pa p, storePlace s k va n s1 pa p) → ∀ x, readByte t x = readByte s x)
    let atomic (i : Instr) (dst : Option (BitVec 5)) (va : Word) (n : Nat) : Prop := exec i s = .next t →
      (∀ g, dst ≠ some g → rg t k g = rg s k g) ∧
      (∀ s' key, reaches s k va n .atomic s' key → ∀ x, (x < key ∨ key + n ≤ x) → readByte t x = readByte s x) ∧
      ((¬ ∃ s' key, reaches s k va n .atomic s' key) → ∀ x, readByte t x = readByte s x)
    store (.st d a z o) (rg s k a + o.signExtend 64) (2 ^ z.toNat) ∧
    store (.stq q a o) (rg s k a + o.signExtend 64) 16 ∧
    store (.str d a z sc o12) (rg s k a + o12.signExtend 64) (2 ^ z.toNat) ∧
    atomic (.amo d a b op sc z1 r) (some d) (rg s k a) (if z1 = 0 then 4 else 8) ∧
    atomic (.cas d a b sc z1 r) (some d) (rg s k a) (if z1 = 0 then 4 else 8) ∧
    atomic (.barInit a b) none (rg s k a) 16 ∧
    atomic (.barArv d a) (some d) (rg s k a) 16 ∧
    atomic (.barDrp d a) (some d) (rg s k a) 16

/-- An address that is no multiple of the access's size raises ALIGN with the address in EVAL, and the instruction takes
no effect (R366, R415, R319, R325). -/
def Obligations.MisalignedAccessTraps : Prop :=
  ∀ (d a b : BitVec 5) (q op : BitVec 3) (z sc : BitVec 2) (z1 : BitVec 1) (o : BitVec 14) (o12 : BitVec 12) (s : State) (k : Nat),
    s.self = .thread k →
    let traps (va : Word) (n : Nat) (i : Instr) : Prop := va.toNat % n ≠ 0 → exec i s = .next (raise s k fcALIGN va)
    let va := rg s k a + o.signExtend 64
    let va12 := rg s k a + o12.signExtend 64
    traps va (2 ^ z.toNat) (.ld d a z o) ∧ traps va (2 ^ z.toNat) (.ldu d a z o) ∧ traps va12 (2 ^ z.toNat) (.lda d a z sc o12) ∧
    traps va 16 (.ldq q a o) ∧ traps va (2 ^ z.toNat) (.st d a z o) ∧ traps va 16 (.stq q a o) ∧
    traps (rg s k a) (if z1 = 0 then 4 else 8) (.amo d a b op sc z1 0) ∧
    traps (rg s k a) (if z1 = 0 then 4 else 8) (.cas d a b sc z1 0) ∧
    (released s k 2 = true → traps (rg s k a) 16 (.barInit a b) ∧ traps (rg s k a) 16 (.barArv d a) ∧ traps (rg s k a) 16 (.barDrp d a) ∧
      traps (rg s k a) 128 (.amsg a q)) ∧
    traps (rg s k a) 16 (.barWait a b)

/-- Barrier objects (R324, R325): INIT sets phase 0, gb expected, none arrived; ARV and DRP at the current phase count, and
complete it when all have arrived; WAIT goes on once the phase is not behind gb. Counts and phases outside these raise BARRIER. -/
def Obligations.BarrierObjectsCount : Prop :=
  ∀ (d a b : BitVec 5) (s s' : State) (k key : Nat), s.self = .thread k → reaches s k (rg s k a) 16 .atomic s' key →
    let phase := readNat s' key 8
    let expect := readNat s' (key + 8) 4
    let arrived := readNat s' (key + 12) 4
    let write (ph ex ar : Nat) : State := perform s' key ((toBytes 8 ph ++ toBytes 4 ex ++ toBytes 4 ar).map some)
    (released s k 2 = true →
      (0 < (rg s k b).toNat → (rg s k b).toNat < 2 ^ 32 →
        exec (.barInit a b) s = .next (retire (write 0 (rg s k b).toNat 0) k)) ∧
      ((rg s k b).toNat = 0 ∨ 2 ^ 32 ≤ (rg s k b).toNat → exec (.barInit a b) s = .next (raise s' k fcBARRIER 0)) ∧
      (expect ≠ 0 → (rg s k d).toNat = phase →
        exec (.barArv d a) s = .next (retire (wg (if arrived + 1 = expect then write ((phase + 1) % 2 ^ 64) expect 0
          else write phase expect (arrived + 1)) k d (BitVec.ofNat 64 (phase + 1))) k) ∧
        exec (.barDrp d a) s = .next (retire (wg (if arrived = expect - 1 then write ((phase + 1) % 2 ^ 64) (expect - 1) 0
          else write phase (expect - 1) arrived) k d (BitVec.allOnes 64)) k)) ∧
      (expect = 0 ∨ (rg s k d).toNat ≠ phase →
        exec (.barArv d a) s = .next (raise s' k fcBARRIER 0) ∧ exec (.barDrp d a) s = .next (raise s' k fcBARRIER 0))) ∧
    ((phase + 2 ^ 64 - (rg s k b).toNat) % 2 ^ 64 < 2 ^ 63 → exec (.barWait a b) s = .next (retire s' k))

/-- Token FIFOs and FENCE (R424, R46, R48, R354): TKPUSH appends 0x00 once the thread's earlier accesses are performed, there
is room and no command's push goes first; TKPOP takes the oldest entry into gd unless a waiting command's pop goes first; a
thread that may not go on stalls, as any that waits; FENCE discards the fetched words once they are performed at its scope. -/
def Obligations.TokenFifosAndFence : Prop :=
  ∀ (n : BitVec 3) (d : BitVec 5) (sc : BitVec 2) (e : BitVec 8) (rest : List (BitVec 8)) (s : State) (k : Nat), s.self = .thread k →
    (released s k 2 = true → (fifo s k n.toNat).length < 15 → pushAhead s k n.toNat 6 = false →
      exec (.tkpush n) s = .next (retire (setFifo s k n.toNat (fifo s k n.toNat ++ [0])) k)) ∧
    (released s k 2 = true → (15 ≤ (fifo s k n.toNat).length ∨ pushAhead s k n.toNat 6 = true) →
      exec (.tkpush n) s = stallAt s k true 0 false) ∧
    (fifo s k n.toNat = [] ∨ popAhead s k n.toNat 6 = true → exec (.tkpop d n) s = stallAt s k true d false) ∧
    (fifo s k n.toNat = e :: rest → popAhead s k n.toNat 6 = false →
      exec (.tkpop d n) s = .next (retire (wg (setFifo s k n.toNat rest) k d (e.zeroExtend 64)) k)) ∧
    (∀ l, fifo (setFifo s k n.toNat l) k n.toNat = l) ∧
    (released s k sc.toNat = true →
      exec (.fence sc) s = .next (retire (s.modThread k (fun t => { t with fetched := [] })) k))

/-- PREF, WATCH and AMSG complete (R390, R437, R321). PREF retires whatever its address, once its translation waits no more,
changing no byte, and begins the miss of an absent stack line it may read while fewer than 16 are in progress. WATCH of 8 bytes that differ from gb returns them and retires, and in an aperture does so
at a poll. AMSG of an aligned stack line that the core may read hands its home slice a MSG event and retires. -/
def Obligations.PrefWatchAmsg : Prop :=
  ∀ (d a b : BitVec 5) (q : BitVec 3) (o : BitVec 14) (s s' : State) (k key : Nat), s.self = .thread k →
    ((∀ s0, threadWalk s k (rg s k a + o.signExtend 64) ≠ .wait s0) →
      ∃ t, exec (.pref a o) s = .next (retire t k) ∧ t.mem = s.mem ∧ t.threads = s.threads ∧
      (∀ i pa seam s0 w s1, inWindow (rg s k a + o.signExtend 64).toNat = false →
        threadWalk s k (rg s k a + o.signExtend 64) = .ready s0 w → prefsBusy s k < 16 →
        translate s0 (cacheCore k) (s0.thread k).asid (rg s k a + o.signExtend 64).toNat .read false = (s1, .ok pa seam) →
        target pa = .slice i → permitted s1 i (coreMaster k) (pa / 128 * 128) 128 .read = true → wayOf s1 i (pa / 128) = none →
        (s1.slice i).misses.any (fun m => decide (m.line = pa / 128)) = false →
        t = joinMiss s1 i (pa / 128) { threadOrigin s1 k
          (BitVec.ofNat 64 (128 * ((rg s k a + o.signExtend 64).toNat / 128))) with pref := true })) ∧
    ((s.thread k).watching = none → reaches s k (rg s k a) 8 .read s' key →
      BitVec.ofNat 64 (readNat s' key 8) ≠ rg s k b →
      exec (.watch d a b) s = .next (retire (wg s' k d (BitVec.ofNat 64 (readNat s' key 8))) k)) ∧
    ((s.thread k).watching = some (d, a, b) → reaches s k (rg s k a) 8 .read s' key →
      BitVec.ofNat 64 (readNat s' key 8) ≠ rg s k b →
      exec .apertureWatchPoll s = .next (retire (wg s' k d (BitVec.ofNat 64 (readNat s' key 8))) k)) ∧
    (∀ pa seam s0 w s1 u s2 i, released s k 2 = true → (rg s k a).toNat % 128 = 0 → threadWalk s k (rg s k a) = .ready s0 w →
      locate s0 k (s0.thread k).asid (rg s k a).toNat .read true = (s1, .ok (pa, seam)) → target pa = .slice i →
      crossMesh s1 (coreMaster k) i pa = (u, false) → targetCheck u (coreMaster k) pa 128 .read = (s2, none) →
      exec (.amsg a q) s = .next (retire (sendMsg s2 i (s2.thread k).asid (rg s k a).toNat (pa / 128) 0 (coreMaster k) (rq s2 k q)) k))

/-! ### Control thread: traps, CSRs, commands -/

/-- Taking an exception (R220): outside a trap handler, a fault of an instruction saves the pc in EPC and STATUS's PRIV and
AIE in PPRIV and PAIE, sets PRIV and INTRAP, clears AIE, and goes to TVEC with bits [1:0] cleared; ECAUSE names the code,
EVAL the value; registers, STEP and every other agent stay. -/
def Obligations.TrapEntrySavesAndEnters : Prop :=
  ∀ (s : State) (k : Nat) (c : Code) (v : Word), inTrap s k = false →
    let t := (raise s k c v).thread k
    let u := s.thread k
    onlyThread s (raise s k c v) k ∧
    t.epc = u.pc ∧ t.eval = v ∧ t.pc = u.tvec &&& ~~~(3 : Word) ∧
    t.ecause.extractLsb' 0 8 = c ∧ t.ecause.extractLsb' 8 4 = 0 ∧ t.ecause.extractLsb' 14 3 = 7 ∧ t.ecause.extractLsb' 32 32 = BitVec.allOnes 32 ∧
    t.status.getLsbD 0 = true ∧ t.status.getLsbD 1 = u.status.getLsbD 0 ∧ t.status.getLsbD 3 = false ∧
    t.status.getLsbD 4 = u.status.getLsbD 3 ∧ t.status.getLsbD 6 = u.status.getLsbD 6 ∧ t.status.getLsbD 7 = true ∧
    t.g = u.g ∧ t.p = u.p ∧ t.q = u.q ∧ t.asid = u.asid ∧ t.tvec = u.tvec ∧ t.pend = u.pend ∧ t.task = u.task

/-- TRAP raises TRAPI and BKPT raises BKPT, with EVAL 0 (R426, R328); SYSRET restores PRIV, AIE and the pc and clears INTRAP
(R417), and in user mode raises PRIV with its word in EVAL; TAKE in user mode does the same (R420, R260). -/
def Obligations.TrapBkptSysret : Prop :=
  ∀ (i : BitVec 16) (d : BitVec 5) (s : State) (k : Nat), s.self = .thread k →
    exec (.trap i) s = .next (raise s k fcTRAPI 0) ∧
    exec (.bkpt i) s = .next (raise s k fcBKPT 0) ∧
    (isPriv s k = true → ∃ t, exec .sysret s = .next t ∧ onlyThread s t k ∧
      (t.thread k).pc = (s.thread k).epc &&& ~~~(3 : Word) ∧
      (t.thread k).status.getLsbD 0 = (s.thread k).status.getLsbD 1 ∧
      (t.thread k).status.getLsbD 3 = (s.thread k).status.getLsbD 4 ∧ (t.thread k).status.getLsbD 7 = false ∧
      (t.thread k).g = (s.thread k).g ∧ (t.thread k).epc = (s.thread k).epc) ∧
    (isPriv s k = false → exec .sysret s = .next (raise s k fcPRIV 0xD4000000) ∧
      exec (.take d) s = .next (raise s k fcPRIV (BitVec.ofNat 64 (0xB0000000 + d.toNat * 2 ^ 21))))

/-- A fault within a trap handler stops the thread (R220): with no task it is parked, and with one the task ends FAILED with
the code and the thread continues at IDLEPC in the idle state (R222).
At a boundary the oldest pending fault is delivered while AIE is 1, with EPC the pc (R220); a single step ends in a BKPT
trap with ECAUSE.STEP; where the completion of an earlier command has arrived, the trap has ASYNC too and is taken once its
record, with the PC of the command's ISSUE, stands in the ring (R235; that it waits for the record is log 117). -/
def Obligations.LaterFaultsAndSingleStep : Prop :=
  (∀ (s : State) (k : Nat) (c : Code) (v : Word), inTrap s k = true →
     ((s.thread k).task = none → raise s k c v = s.modThread k (fun t => { t with run := .parked })) ∧
     (∀ p, (s.thread k).task = some p →
       ((raise s k c v).thread k).pc = BitVec.ofNat 64 (s.foreman (coreDie k)).idlePc ∧
       ((raise s k c v).thread k).status = 1 ∧ ((raise s k c v).thread k).task = none ∧
       Msg.ended p .failed c ∈ ((raise s k c v).foreman (coreDie k)).inbox)) ∧
  (∀ (f : PendFault) (rest : List PendFault) (s : State) (k : Nat), s.self = .thread k →
     ((s.thread k).run = .running → (s.thread k).status.getLsbD 3 = true → (s.thread k).stall = none → (s.thread k).awaits = none →
       (s.thread k).pend = f :: rest → (s.thread k).more = false →
       ∃ t, exec .asyncFaultDelivery s = .next t ∧ (t.thread k).pend = rest ∧ (t.thread k).epc = (s.thread k).pc ∧
         (t.thread k).ecause = f.ecause ∧ (t.thread k).eval = f.eval ∧ (t.thread k).pc = (s.thread k).tvec &&& ~~~(3 : Word) ∧
         (t.thread k).status.getLsbD 3 = false ∧ (t.thread k).status.getLsbD 4 = true ∧ (t.thread k).status.getLsbD 7 = true) ∧
     ((s.thread k).stepDue = true → trapDue s k = false → (s.thread k).pend = [] →
       (inTrap s k = false → (s.thread k).finished = none →
         ∃ t, exec .singleStep s = .next t ∧ (t.thread k).epc = (s.thread k).pc ∧ (t.thread k).ecause.extractLsb' 0 8 = fcBKPT ∧
           (t.thread k).ecause.getLsbD 10 = true ∧ (t.thread k).ecause.getLsbD 8 = false ∧
           (t.thread k).pc = (s.thread k).tvec &&& ~~~(3 : Word) ∧ (t.thread k).stepDue = false) ∧
       (∀ q n ipc, (s.thread k).finished = some (q, n, ipc) →
         let r : FRec := { core := k, asid := (s.thread k).asid, code := fcBKPT, step := true, queue := q, stream := n, ipc }
         ∃ t, exec .singleStep s = .next t ∧ t.records = s.records ++
             [{ core := k, asid := (s.thread k).asid, fault := some r, time := s.time, after := .trap (s.thread k).pc }] ∧
           ∀ (u : State) (e : Nat), let v := (afterRecord u r e (.trap (s.thread k).pc)).thread k
             v.epc = (s.thread k).pc ∧ v.ecause.extractLsb' 0 8 = fcBKPT ∧ v.ecause.getLsbD 10 = true ∧ v.ecause.getLsbD 8 = true ∧
             v.ecause.extractLsb' 32 32 = BitVec.ofNat 32 e ∧ v.pc = (u.thread k).tvec &&& ~~~(3 : Word))))

/-- CSRR, CSRW, CSRS and CSRC (R343): gd takes the old value, and the written CSR the new one where its fields allow it; a
user-mode write of a privileged field raises PRIV. CSRS and CSRC with ga = g0 write nothing. -/
def Obligations.CsrReadsAndWrites : Prop :=
  ∀ (d a : BitVec 5) (c : BitVec 16) (s : State) (k : Nat), s.self = .thread k → csrListed c = true →
    let old := readCsr s k c
    let write (v : Word) : State := writeCsr (retire (wg s k d old) k) k c v
    exec (.csrr d c) s = .next (retire (wg s k d old) k) ∧
    ((isPriv s k = true ∨ csrPriv c old (rg s k a) = false) → exec (.csrw d a c) s = .next (write (rg s k a))) ∧
    (a ≠ 0 → (isPriv s k = true ∨ csrPriv c old (old ||| rg s k a) = false) → exec (.csrs d a c) s = .next (write (old ||| rg s k a))) ∧
    (a ≠ 0 → (isPriv s k = true ∨ csrPriv c old (old &&& ~~~(rg s k a)) = false) →
      exec (.csrc d a c) s = .next (write (old &&& ~~~(rg s k a)))) ∧
    (a = 0 → exec (.csrs d a c) s = .next (retire (wg s k d old) k) ∧ exec (.csrc d a c) s = .next (retire (wg s k d old) k)) ∧
    (isPriv s k = false → csrPriv c old (rg s k a) = true → exec (.csrw d a c) s = .next (raise s k fcPRIV (wordOf (.csrw d a c)))) ∧
    (∀ v, readCsr (writeCsr s k 0x011 v) k 0x011 = v ∧ readCsr (writeCsr s k 0x012 v) k 0x012 = v ∧ readCsr (writeCsr s k 0x014 v) k 0x014 = v ∧
      readCsr (writeCsr s k 0x022 v) k 0x022 = v &&& 0x1F1F1F1F ∧
      (readCsr (writeCsr s k 0x010 v) k 0x010).getLsbD 7 = (s.thread k).status.getLsbD 7)

/-- ISSUE and ISSUEW (R359): a word that is no command raises CMD; otherwise, while the queue has room, the command is
appended to the queue of its opcode with the thread's ASID and mode; ISSUE goes on, ISSUEW waits for its retirement.
A command's retirement (R45, R46): the head of a queue whose effects are over, an SCLOSE or CRETIRE once the records and page
releases of what it closed are complete (R202, R217, R218), leaves it, and its code is appended to its
signal FIFO while that has room and no queue of lower number pushes there first (R48); one whose task has ended signals nothing (R425).
That a command of an ended task signals nothing is read from R425 (log 105). -/
def Obligations.CommandsEnterAndRetireInOrder : Prop :=
  (∀ (q : BitVec 3) (s : State) (k : Nat), s.self = .thread k → (s.thread k).awaits = none →
     let w := rq s k q
     let n := queueOf (cmdOpcode w)
     (∀ e, decodeCmd w = .error e → exec (.issue q) s = .next (raise s k fcCMD 0) ∧ exec (.issuew q) s = .next (raise s k fcCMD 0)) ∧
     (issueFault s k w = none → (queueCmds s k n).length < 16 →
       (∃ t, exec (.issuew q) s = .next t ∧ pcOf t k = pcOf s k ∧ (t.thread k).awaits = some s.nextId ∧
         ∃ c, queueCmds t k n = queueCmds s k n ++ [c] ∧ c.id = s.nextId ∧ c.word = w ∧ c.asid = (s.thread k).asid ∧
           c.priv = isPriv s k ∧ c.ipc = pcOf s k ∧ c.phase = .queued ∧ c.waited = true) ∧
       (isPrecise s k (cmdFields w) (cmdOpcode w) = false →
         ∃ t, exec (.issue q) s = .next (retire t k) ∧ t.threads = s.threads ∧
           ∃ c, queueCmds t k n = queueCmds s k n ++ [c] ∧ c.id = s.nextId ∧ c.word = w ∧ c.asid = (s.thread k).asid ∧
             c.priv = isPriv s k ∧ c.ipc = pcOf s k ∧ c.phase = .queued ∧ c.waited = false))) ∧
  (∀ (s : State) (k q pos : Nat) (c : QCmd) (rest : List QCmd) (code : Code), s.self = .queue k q pos → queueCmds s k q = c :: rest →
     c.phase = .done code → (closes (cmdOpcode c.word) = true → closing s k = false) →
     ((cmdFields c.word).sigEn = false ∨ c.orphan = true → ∃ t, exec .commandRetire s = .next t ∧ queueCmds t k q = rest ∧
       (t.core k).fifos = (s.core k).fifos ∧ t.mem = s.mem ∧ (c.orphan = true → t = setQueue s k q rest)) ∧
     ((cmdFields c.word).sigEn = true → c.orphan = false → (fifo s k (cmdFields c.word).sigF.toNat).length < 15 →
         pushAhead s k (cmdFields c.word).sigF.toNat q = false →
       ∃ t, exec .commandRetire s = .next t ∧ queueCmds t k q = rest ∧
         fifo t k (cmdFields c.word).sigF.toNat = fifo s k (cmdFields c.word).sigF.toNat ++ [code]) ∧
     ((cmdFields c.word).sigEn = true → c.orphan = false →
       (15 ≤ (fifo s k (cmdFields c.word).sigF.toNat).length ∨ pushAhead s k (cmdFields c.word).sigF.toNat q = true) →
       exec .commandRetire s = .next s))

/-! ### Tasks and foremen -/

/-- ENQ, JOIN and CANCEL (R351, R362, R331, R258, R259): ENQ raises the job's count and hands its record to the foreman it
names, or sends it to its module; JOIN of a job with count 0 frees the entry and returns its status word, and of an entry that
is not open returns TASK, and otherwise waits; CANCEL sets CANCELLING and sends the cancel to the four foremen and to every module that has received
an ENQ of the job. A wrong ID raises QUEUE.
TAKE, DONE, EXIT and YIELD (R420, R256, R349, R257, R353, R439): TAKE of a bound task enters it at its entry with its
arguments, waits while none is bound, and raises PRIV in user mode and QUEUE beside a task; DONE and EXIT end the task with the low byte of ga and return to the idle state; EXIT with no task parks a
privileged thread and raises QUEUE in user mode; DONE waits for the core's commands; YIELD with no rival goes on. -/
def Obligations.JobAndTaskInstructions : Prop :=
  (∀ (q : BitVec 3) (d a : BitVec 5) (s : State) (k : Nat), s.self = .thread k →
     let j := (rg s k a).extractLsb' 0 16
     let e := (s.foreman (jobCluster j)).job (jobIndex j)
     let r := rq s k q
     let n := enqDest (rg s k a)
     (∀ u, n.ok = true → senderOk s n r (s.thread k).asid = true → n.remote = false → toForeman s k n.cluster = (u, false) →
       permitted u (tgtForeman n.cluster) (coreMaster k) (descLine n.cluster n.queue) 128 .write = true →
       (u.foreman n.cluster).full = false → enqElder u k n.cluster = false → released u k 2 = true →
       exec (.enq q a) s = .next (retire (deliverRecord (raiseJob u (recJob r) (s.thread k).asid) n.cluster n.queue r (s.thread k).asid
         (s.head.moduleNo.toNat + 4096 * coreDie k)) k)) ∧
     (∀ u, n.ok = true → senderOk s n r (s.thread k).asid = true → n.remote = true → crossFrom s (coreDie k) 4 0 = (u, false) →
         (aditPort u n.module 0).isSome = true → released u k 3 = true →
         ∃ t, exec (.enq q a) s = .next t ∧ (Config.remoteAnswer s.tick ≠ 1 → Config.remoteAnswer s.tick ≠ 2 → Config.remoteAnswer s.tick ≠ 3 →
           ∃ v, t = retire v k ∧ v.threads = s.threads ∧
             (n.module, AditMsg.enq n.cluster n.queue r (s.thread k).asid (s.head.moduleNo.toNat + 4096 * coreDie k)) ∈ v.sent)) ∧
     ((n.ok = false ∨ senderOk s n r (s.thread k).asid = false) → exec (.enq q a) s = .next (raise s k fcQUEUE 0)) ∧
     (jobDenied s k j = true → exec (.join d a) s = .next (raise s k fcQUEUE 0) ∧ exec (.cancel a) s = .next (raise s k fcQUEUE 0)) ∧
     (jobDenied s k j = false →
       ((e.isOpen = false ∨ e.gen ≠ jobGen j) → exec (.join d a) s = .next (retire (wg s k d 0x13) k)) ∧
       (e.isOpen = true → e.gen = jobGen j → e.count = 0 → ∃ t, exec (.join d a) s = .next t ∧ pcOf t k = pcOf s k + 4 ∧
         rg t k d = (if d = 0 then 0 else BitVec.ofNat 64 (e.first.toNat + 2 ^ 8 * e.anyCancel.toNat + 2 ^ 16 * e.failed)) ∧
         (t.foreman (jobCluster j)).job (jobIndex j) = {}) ∧
       (e.isOpen = true → e.gen = jobGen j → e.count ≠ 0 →
         exec (.join d a) s = stallAt (s.modThread k (fun t => { t with joining := some j })) k true d false) ∧
       (e.isOpen = true → e.gen = jobGen j → (∀ l, Map.get 0 s.resent l < 7) →
         ∃ t, exec (.cancel a) s = .next (retire t k) ∧ t.threads = s.threads ∧
         ((t.foreman (jobCluster j)).job (jobIndex j)).cancelling = true ∧
         (∀ f, f < 4 → Msg.cancel j s.head.moduleNo.toNat ∈ (t.foreman f).inbox) ∧
         ∀ w, (j, w) ∈ (s.foreman (jobCluster j)).sentTo → (w, AditMsg.cancel j s.head.moduleNo.toNat) ∈ t.sent))) ∧
  (∀ (d a : BitVec 5) (s : State) (k p : Nat) (x : Task), s.self = .thread k →
     (isPriv s k = true → (s.thread k).task = none → (s.core k).bound = some p → (s.foreman (coreDie k)).entry p = some x →
       x.saved = false → (queueCmds s k 0).length + x.cmds.length ≤ 16 → 0 ≤ argVa (s.foreman (coreDie k)) x.record → argVa (s.foreman (coreDie k)) x.record < 2 ^ 56 →
       ∃ t, exec (.take d) s = .next t ∧ (t.thread k).task = some p ∧
         pcOf t k = BitVec.ofNat 64 ((s.foreman (coreDie k)).entryPc (recType x.record)) ∧ (t.thread k).status = 8 ∧
         (t.thread k).asid = (s.foreman (coreDie k)).typeAsid (recType x.record) ∧
         (1 ≤ (s.foreman (coreDie k)).args (recType x.record) → rg t k 1 = BitVec.ofNat 64 (recX x.record)) ∧
         (t.core k).bound = none ∧ ∃ y, (t.foreman (coreDie k)).entry p = some y ∧ y.state = .running ∧ y.record = x.record) ∧
     (isPriv s k = false → exec (.take d) s = .next (raise s k fcPRIV (wordOf (.take d)))) ∧
     (isPriv s k = true → (s.thread k).task = some p → exec (.take d) s = .next (raise s k fcQUEUE 0)) ∧
     (isPriv s k = true → (s.thread k).task = none → (s.core k).bound = none → exec (.take d) s = stallAt s k true d true) ∧
     ((s.thread k).task = some p → noCommands s k = false → exec (.done a) s = waitAt s k true) ∧
     ((s.thread k).task = none → isPriv s k = false → exec (.exit a) s = .next (raise s k fcQUEUE 0)) ∧
     ((s.thread k).task = some p → noCommands s k = true → workLeft s k = false → released s k (endScope s k) = true →
       ∃ t, exec (.done a) s = .next t ∧ (t.thread k).task = none ∧ (t.thread k).status = 1 ∧
         pcOf t k = BitVec.ofNat 64 (s.foreman (coreDie k)).idlePc ∧
         Msg.ended p (if (rg s k a).extractLsb' 0 8 = 0 then .completed else .failed) ((rg s k a).extractLsb' 0 8) ∈ (t.foreman (coreDie k)).inbox) ∧
     ((s.thread k).task = some p → released s k (endScope s k) = true → (rg s k a).extractLsb' 0 8 ≠ 0 →
       ∃ t, exec (.exit a) s = .next t ∧ (t.thread k).task = none ∧ (t.thread k).status = 1 ∧
         Msg.ended p .failed ((rg s k a).extractLsb' 0 8) ∈ (t.foreman (coreDie k)).inbox) ∧
     ((s.thread k).task = none → isPriv s k = true → exec (.exit a) s = .next (s.modThread k (fun t => { t with run := .parked }))) ∧
     ((s.thread k).task = none → exec (.done a) s = .next (raise s k fcQUEUE 0)) ∧
     (taskOf s k = some (p, x) → hasRival s (coreDie k) p x = false → exec .yield s = .next (retire s k)) ∧
     (∀ u key, taskOf s k = some (p, x) → hasRival s (coreDie k) p x = true → mayPreempt s k = true → x.doomed = false →
       released s k 2 = true → slotReach s (coreDie k) p .write = .ready u key →
       exec .yield s = .next (saveThread (retire u k) k p x)) ∧
     (∀ u key, taskOf s k = some (p, x) → x.stopping = true → x.doomed = false → mayPreempt s k = true → released s k 2 = true →
       slotReach s (coreDie k) p .write = .ready u key → exec .threadSave s = .next (saveThread u k p x)))

/-- The messages of a foreman (R251, R249, R259): the end of a task frees its entry and tells its job, in its module; a decrement lowers the
job's count by 1; a cancel reaches the tasks of the job that its origin sent.
The intake of a foreman (R241, R243, R262): ENABLE = 1 checks the ring's places and reads the head counter at its home, or sets
the error bit; the queues with a valid record take turns, and the record is taken and the head counter raised by 1; TEARDOWN clears ENABLE and sets DRAINING. -/
def Obligations.IntakeAndForemanMessages : Prop :=
  (∀ (s : State) (d p : Nat) (how : EndKind) (code : Code) (j : BitVec 16) (origin : Nat) (rest : List Msg), s.self = .foreman d →
     ((s.foreman d).inbox = .ended p how code :: rest → (∀ l, Map.get 0 s.resent l < 7) → ∀ x, (s.foreman d).entry p = some x →
       ∃ t, exec (.taskEnd 0) s = .next t ∧ (t.foreman d).entry p = none ∧
         (x.origin % 4096 = s.head.moduleNo.toNat → recJob x.record ≠ 0 →
           Msg.decrement (recJob x.record) how code ∈ (t.foreman (jobCluster (recJob x.record))).inbox) ∧
         (x.origin % 4096 ≠ s.head.moduleNo.toNat → recJob x.record ≠ 0 →
           (x.origin % 4096, AditMsg.decrement (recJob x.record) how code) ∈ t.sent)) ∧
     ((s.foreman d).inbox = .decrement j how code :: rest →
       let e := (s.foreman (jobCluster j)).job (jobIndex j)
       e.isOpen = true → e.gen = jobGen j →
       ∃ t, exec (.jobDecrement 0) s = .next t ∧
         let e' := (t.foreman (jobCluster j)).job (jobIndex j)
         e'.count = e.count - 1 ∧ e'.isOpen = true ∧ (how = .completed → e'.failed = e.failed ∧ e'.anyCancel = e.anyCancel) ∧
         (how = .cancelled → e'.anyCancel = true) ∧ (how = .failed → e.failed < 2 ^ 32 - 1 → e'.failed = e.failed + 1)) ∧
     ((s.foreman d).inbox = .cancel j origin :: rest →
       exec (.cancelArrival 0) s = .next (cancelWhere (s.modForeman d (fun f => { f with inbox := rest })) d
         (fun t => decide (t.origin % 4096 = origin ∧ recJob t.record = j))))) ∧
  (∀ (s : State) (d : Nat) (q : BitVec 4), s.self = .foreman d →
     let f := s.foreman d
     let n := q.toNat
     (∃ t, exec (.intakeEnable q) s = .next t ∧
       (stackOrHost (ringBase f n) (16 * ringRecords f n) && stackOrHost (tailPa f n) 8 && stackOrHost (headPa f n) 8 →
         ∃ v, t = readHead v d n ∧ (v.foreman d).enabled n = true ∧ headPa (v.foreman d) n = headPa f n ∧
           ∀ u key, reach v (headPa f n) 8 .read (foremanOrigin d) = .ready u key →
             (t.foreman d).enabled n = true ∧ Map.get 0 (t.foreman d).head n = readNat u key 8) ∧
       ((stackOrHost (ringBase f n) (16 * ringRecords f n) && stackOrHost (tailPa f n) 8 && stackOrHost (headPa f n) 8) = false →
         (t.foreman d).enabled n = false ∧ ((t.foreman d).descWord n 3).getLsbD 2 = true)) ∧
     (∀ u key, nextQueue s f = some n → f.full = false →
       reachAll (foremanOrigin d) [(headSlot f n, 16, .read), (headSlot f n, 16, .write), (headPa f n, 8, .write)] s = .ready u key →
       ∃ t, exec (.intakeRecord q) s = .next t ∧ (t.foreman d).turn = (n + 1) % 16 ∧ Map.get 0 (t.foreman d).head n = (Map.get 0 f.head n + 1) % 2 ^ 64 ∧
         (∀ x, (x < headSlot f n ∨ headSlot f n + 16 ≤ x) → (x < headPa f n ∨ headPa f n + 8 ≤ x) → readByte t x = readByte s x) ∧
         readNat t (headPa f n) 8 = (Map.get 0 f.head n + 1) % 2 ^ 64) ∧
     exec (.teardown q) s = .next (tearDown s d n) ∧
     ((tearDown s d n).foreman d).enabled n = false)

/-- Binding, pre-emption by QUANT and cloning (R253, R263, R255): the first ready task that has a place is bound there, once
the core's KQ has room; a running task whose QUANT has elapsed with a rival ready is to be stopped; at the end of a window a
bottleneck's load gets a copy where one fits, at its next segment boundary (R50), and one that has had two low windows loses one.
Which slot and rectangle are taken, and which loads get copies, are the model's readings (logs 71, 94). -/
def Obligations.BindingQuantCloning : Prop :=
  ∀ (s s' : State) (d k p : Nat) (x : Task) (z : Spot) (later : List (Nat × Task)) (region : BitVec 2) (ew xw : Nat),
    (∀ u key, s.self = .foreman d → readyTasks s (s.foreman d) = (p, x) :: later →
      (if x.saved then slotReach s d p .read else .ready s 0) = .ready u key → findSpot u d p x = .ok s' (some z) →
      exec .taskBind s = .next (bindTask s' d p x z) ∧
      ((queueCmds s' z.core 1).length + 6 ≤ 16 → ((bindTask s' d p x z).core z.core).bound = some p ∧
        ∃ y, ((bindTask s' d p x z).foreman d).entry p = some y ∧ y.state = .bound ∧ y.record = x.record ∧ y.core = z.core)) ∧
    (s.self = .foreman d → (s.foreman d).entry p = some x → x.state = .running → x.doomed = false →
      (s.foreman d).quant (recType x.record) ≠ 0 → 1000 * (s.foreman d).quant (recType x.record) ≤ s.time - x.boundAt →
      hasRival s d p x = true →
      ∃ t, exec (.quantExpiry p) s = .next t ∧ (t.foreman d).entry p = some { x with stopping := true }) ∧
    (s.self = .core k → ∀ r c y, s.region k region.toNat = some r → r.active = some c → ctxAt s k region.toNat c = some y →
      let u := modCtx s k region.toNat c (fun x => { x with lowWindows := 0 })
      (∀ z, y.clones = [] → 32768 ≤ ew → xw < 4096 → mayClone u r y = true →
        copyPlace u k region.toNat c r y = some z → y.mode.getLsbD 0 = false →
        exec (.cloneWindow region ew xw) s = .next (if (liveSegs u k region.toNat c).isEmpty then insertCopy u k region.toNat c z
          else modCtx u k region.toNat c (fun x => { x with copyDue := true }))) ∧
      (y.clones ≠ [] → ew < 8192 → 1 ≤ y.lowWindows → exec (.cloneWindow region ew xw) s = .next (takeCopyBack s k region.toNat c y)) ∧
      (y.clones = [] → 8192 ≤ ew → ew < 32768 → exec (.cloneWindow region ew xw) s = .next u))

/-! ### Fabric: word ops -/

/-- What an elementwise op makes (R428): an element is valid where every operand's element is, an invalid lane carries 0,
a 32-bit lane carries the low 32 bits of the op's value, and the flags are those of valid elements alone. -/
def Obligations.ElementwiseResult : Prop :=
  ∀ (ty : Nat) (o : List Token) (g : List Nat → Nat × Float.Fl), ty ≠ 5 →
    let r := elementwise ty o g
    (∀ i : Nat, i < 16 → r.1.getLsbD i = o.all (fun t => t.valid.getLsbD i)) ∧
    (∀ i : Nat, i < 16 → r.1.getLsbD i = true →
      lane r.2.1 i = BitVec.ofNat 32 (g (o.map (fun t => rawElem ty t.payload i))).1) ∧
    (∀ i : Nat, i < 16 → r.1.getLsbD i = false → lane r.2.1 i = 0) ∧
    (∀ b : Nat, r.2.2.getLsbD b = true ↔ ∃ i < 16, r.1.getLsbD i = true ∧
      (g (o.map (fun t => rawElem ty t.payload i))).2.getLsbD b = true)

/-- The arithmetic word ops (R427, R430): a floating element is rounded once in the slot's mode, an integer element is
formed exactly and wraps, or clamps with OVF where SAT is set; a minimum or maximum takes the first operand on a tie.
The conditions of VCMP on integers: EQ, NE, LT, LE on the elements' values (R430, Table 19.3). -/
def Obligations.WordArithmetic : Prop :=
  (∀ (f : Slot) (s : State) (st : Site) (k : Taken),
     let E := typeE f
     let T := typeT f
     let one (i : Instr) (g : List Nat → Nat × Float.Fl) : Prop := Fires s st (wordTakes f [f.a] (immHow E)) k →
       exec i s = .next (wordFired st f k (elementwise E k.opnds g))
     let two (i : Instr) (g : List Nat → Nat × Float.Fl) : Prop := Fires s st (wordTakes f [f.a, f.b] (immHow E)) k →
       exec i s = .next (wordFired st f k (elementwise E k.opnds g))
     let three (i : Instr) (g : List Nat → Nat × Float.Fl) : Prop := Fires s st (wordTakes f [f.a, f.b, thirdOf f] (immHow T)) k →
       exec i s = .next (wordFired st f k (elementwise T k.opnds g))
     let m := modeOf st f
     two (.vadd f) (fun l => if E ≤ 2 then Sys2Proof.Float.add (fmtOf E) m (arg l 0) (arg l 1)
       else finInt E (satOf f) (intElem E (arg l 0) + intElem E (arg l 1))) ∧
     two (.vsub f) (fun l => if E ≤ 2 then Sys2Proof.Float.sub (fmtOf E) m (arg l 0) (arg l 1)
       else finInt E (satOf f) (intElem E (arg l 0) - intElem E (arg l 1))) ∧
     two (.vmul f) (fun l => if E ≤ 2 then Sys2Proof.Float.mul (fmtOf E) m (arg l 0) (arg l 1)
       else finInt E (satOf f) (intElem E (arg l 0) * intElem E (arg l 1))) ∧
     three (.vfma f) (fun l => if T ≤ 2 then Sys2Proof.Float.fma (fmtOf T) m (arg l 0) (arg l 1) (arg l 2)
       else finInt T (satOf f) (intElem T (arg l 0) * intElem T (arg l 1) + intElem T (arg l 2))) ∧
     two (.vmin f) (fun l => if E ≤ 2 then Float.minmax (fmtOf E) false (arg l 0) (arg l 1)
       else (placeInt E (if intElem E (arg l 1) < intElem E (arg l 0) then intElem E (arg l 1) else intElem E (arg l 0)), 0)) ∧
     two (.vmax f) (fun l => if E ≤ 2 then Float.minmax (fmtOf E) true (arg l 0) (arg l 1)
       else (placeInt E (if intElem E (arg l 0) < intElem E (arg l 1) then intElem E (arg l 1) else intElem E (arg l 0)), 0)) ∧
     one (.vabs f) (fun l => if E ≤ 2 then Float.ofVal (fmtOf E) .rne (Float.decode (fmtOf E) (arg l 0)).abs
       else finInt E (satOf f) |intElem E (arg l 0)|) ∧
     one (.vneg f) (fun l => if E ≤ 2 then Float.ofVal (fmtOf E) .rne (Float.decode (fmtOf E) (arg l 0)).neg
       else finInt E (satOf f) (-(intElem E (arg l 0)))) ∧
     two (.vcmp f) (fun l =>
       let c := cmpElem E (if frameNode f then 0 else f.m.toNat % 4) (arg l 0) (arg l 1)
       (if c.1 then (if E = 5 then 2 ^ 64 - 1 else 2 ^ 32 - 1) else 0, c.2)) ∧
     three (.vclamp f) (fun l =>
       let lo := minMax T true (arg l 0) (arg l 1)
       let hi := minMax T false (lo.1 % 2 ^ widthOf T) (arg l 2)
       (hi.1, lo.2 ||| hi.2)) ∧
     one (.vsinpi f) (fun l => viaFp32 (Float.sincospi false) E (arg l 0)) ∧
     one (.vcospi f) (fun l => viaFp32 (Float.sincospi true) E (arg l 0)) ∧
     one (.vexp2 f) (fun l => viaFp32 Sys2Proof.Float.exp2 E (arg l 0)) ∧
     one (.vrcp f) (fun l => Float.rcp (fmtOf E) (arg l 0)) ∧
     one (.vrsq f) (fun l => Float.rsq (fmtOf E) (arg l 0))) ∧
  (∀ (ty x y : Nat), 3 ≤ ty → ty ≤ 7 →
     cmpElem ty 0 x y = (decide (intElem ty x = intElem ty y), 0) ∧ cmpElem ty 1 x y = (decide (intElem ty x ≠ intElem ty y), 0) ∧
     cmpElem ty 2 x y = (decide (intElem ty x < intElem ty y), 0) ∧ cmpElem ty 3 x y = (decide (intElem ty x ≤ intElem ty y), 0))

/-- The word ops on bit patterns and the moves of lanes (R430, R431): a lane of a result is valid where the lanes it is
made from are, shifts take the low five bits of the second lane, VSEL takes A's lane where C's is not 0, VPERM takes the
lane that B names, VBCAST one lane for all, VIOTA lane 0 plus the lane's number times 1, 2, 4 or 8. -/
def Obligations.WordBitAndLaneOps : Prop :=
  ∀ (f : Slot) (s : State) (st : Site) (k : Taken),
    let A := k.opnds.getD 0 {}
    let B := k.opnds.getD 1 {}
    let C := k.opnds.getD 2 {}
    let gives (i : Instr) (srcs : List (BitVec 4)) (how : Nat) (v : Nat → Bool) (x : Nat → BitVec 32) : Prop :=
      Fires s st (wordTakes f srcs how) k → exec i s = .next (wordFired st f k (ofFlags v, ofLanes (fun l => if v l then x l else 0), 0))
    let bits (i : Instr) (g : BitVec 32 → BitVec 32 → BitVec 32) : Prop :=
      gives i [f.a, f.b] 2 (fun l => A.valid.getLsbD l && B.valid.getLsbD l) (fun l => g (lane A.payload l) (lane B.payload l))
    bits (.vand f) (· &&& ·) ∧ bits (.vor f) (· ||| ·) ∧ bits (.vxor f) (· ^^^ ·) ∧
    bits (.vshl f) (fun a b => a <<< (b.toNat % 32)) ∧ bits (.vshr f) (fun a b => a >>> (b.toNat % 32)) ∧
    bits (.vsar f) (fun a b => a.sshiftRight (b.toNat % 32)) ∧
    gives (.vmov f) [f.a] 2 (fun l => A.valid.getLsbD l) (fun l => lane A.payload l) ∧
    gives (.vcnt f) [f.a] 2 (fun l => A.valid.getLsbD l) (fun l => BitVec.ofNat 32
      (if f.m.toNat % 4 = 0 then popCount 32 (lane A.payload l).toNat else if f.m.toNat % 4 = 1 then leadZeros 32 (lane A.payload l).toNat
       else trailZeros 32 (lane A.payload l).toNat)) ∧
    gives (.vsel f) [f.a, f.b, thirdOf f] (immHow (typeT f))
      (fun l => C.valid.getLsbD l && (if lane C.payload l ≠ 0 then A.valid.getLsbD l else B.valid.getLsbD l))
      (fun l => if lane C.payload l ≠ 0 then lane A.payload l else lane B.payload l) ∧
    gives (.vperm f) [f.a, f.b] 2 (fun l => B.valid.getLsbD l && A.valid.getLsbD ((lane B.payload l).toNat % 16))
      (fun l => lane A.payload ((lane B.payload l).toNat % 16)) ∧
    gives (.vbcast f) [f.a] 2 (fun _ => A.valid.getLsbD (f.m.toNat / 4 % 16)) (fun _ => lane A.payload (f.m.toNat / 4 % 16)) ∧
    gives (.viota f) [f.a] 2 (fun _ => A.valid.getLsbD 0) (fun l => lane A.payload 0 + BitVec.ofNat 32 (l * 2 ^ (f.m.toNat % 4))) ∧
    gives (.vpswap f) [f.a] 2 (fun l => A.valid.getLsbD (l ^^^ 2 ^ (f.m.toNat / 64 % 8)))
      (fun l => if l < l ^^^ 2 ^ (f.m.toNat / 64 % 8) ∧ f.m.getLsbD 0 = true
        then negLane (f.m.getLsbD 1) (lane A.payload (l ^^^ 2 ^ (f.m.toNat / 64 % 8)))
        else lane A.payload (l ^^^ 2 ^ (f.m.toNat / 64 % 8)))

/-- VSCALE, VCVT, VRAND and the reductions (R430, R433, R435, R436): VSCALE multiplies by 2 to the clamped lane of B; VCVT
converts each lane, with the counter's bits where SR is set, and then counts its firing if it rounded a valid lane so; VRAND runs the generator on each
lane of A; VREDADD sums exactly and rounds once, VREDMAX takes the greatest. -/
def Obligations.WordScaleConvertReduce : Prop :=
  ∀ (f : Slot) (s : State) (st : Site) (k : Taken),
    let A := k.opnds.getD 0 {}
    let B := k.opnds.getD 1 {}
    let E := typeE f
    let es := validElems E A
    (Fires s st (wordTakes f [f.a, f.b] (immHow E)) k → E ≤ 2 →
      ∃ r : WordRes, exec (.vscale f) s = .next (wordFired st f k r) ∧ ∀ i : Nat, i < 16 →
        (r.1.getLsbD i = (A.valid.getLsbD i && B.valid.getLsbD i)) ∧ (r.1.getLsbD i = true → lane r.2.1 i = BitVec.ofNat 32
          (scaleElem (fmtOf E) (modeOf st f) (rawElem E A.payload i) (lane B.payload i).toInt).1)) ∧
    (Fires s st (wordTakes f [f.a] (immHow (f.m.toNat / 64 % 8))) k → f.m.getLsbD 1 = false →
      ∃ r : WordRes, exec (.vcvt f) s = .next (wordFired st f k r) ∧
        (2 * (f.m.toNat / 16 % 4) + f.m.toNat % 2 ≠ 5 → ∀ i : Nat, i < 16 → (r.1.getLsbD i = A.valid.getLsbD i) ∧
          (r.1.getLsbD i = true → lane r.2.1 i = BitVec.ofNat 32 (convElem (f.m.toNat / 64 % 8)
            (2 * (f.m.toNat / 16 % 4) + f.m.toNat % 2) (Float.mode (f.m.toNat / 4 % 4)) (rawElem (f.m.toNat / 64 % 8) A.payload i)).1))) ∧
    (Fires s st (wordTakes f [f.a] (immHow (f.m.toNat / 64 % 8))) k → f.m.getLsbD 1 = true →
      let source := f.m.toNat / 64 % 8
      let dest := 2 * (f.m.toNat / 16 % 4) + f.m.toNat % 2
      let rounds : Bool := decide (source ≠ dest) && (isFloat source || isFloat dest) && A.valid != 0
      ∃ (r : WordRes) (t : State), exec (.vcvt f) s = .next t ∧
        t = emit (if rounds = true then bumpSr (raiseFlags k.s st.k st.j r.2.2) st else raiseFlags k.s st.k st.j r.2.2) st f.d.toNat
          { resultTok k.s f r.1 r.2.1 with seg := segOf k.toks }) ∧
    (∀ srcs, srcs = (if f.b = 15 then [f.a] else [f.a, f.b]) → Fires s st (wordTakes f srcs 0) k → f.m.getLsbD 5 = false →
      ∃ r : WordRes, exec (.vpack f) s = .next (wordFired st f k r) ∧ ∀ l : Nat, l < 16 → r.1.getLsbD l =
        ((f.m.getLsbD 0 && decide (l = 8)) || (List.range 32).any (fun i =>
          (if i < 16 then A.valid.getLsbD i else decide (f.b ≠ 15) && B.valid.getLsbD (i - 16)) &&
            decide (((if f.m.getLsbD 1 = true then 128 else 0) + packBits (f.m.toNat / 64 % 8) * i) / 32 = l)))) ∧
    (f.b = 15 → Fires s st (wordTakes f [f.a] 2) k → f.m.getLsbD 0 = false →
      exec (.vrand f) s = .next (wordFired st f k (ofFlags (fun l => A.valid.getLsbD l),
        ofLanes (fun l => Float.gen (lane A.payload l) st.ctx.srkey), 0))) ∧
    (Fires s st (wordTakes f [f.a] (immHow E)) k → 3 ≤ E →
      exec (.vredadd f) s = .next (wordFired st f k
        ((reduced f E (finInt E (satOf f) (es.foldl (fun a e => a + intElem E e) 0)).1).1,
         (reduced f E (finInt E (satOf f) (es.foldl (fun a e => a + intElem E e) 0)).1).2,
         (finInt E (satOf f) (es.foldl (fun a e => a + intElem E e) 0)).2))) ∧
    (Fires s st (wordTakes f [f.a] (immHow E)) k → E ≤ 2 →
      exec (.vredadd f) s = .next (wordFired st f k
        ((reduced f E (sumFloat (fmtOf E) (modeOf st f) (es.map (Float.decode (fmtOf E)))).1).1,
         (reduced f E (sumFloat (fmtOf E) (modeOf st f) (es.map (Float.decode (fmtOf E)))).1).2,
         (sumFloat (fmtOf E) (modeOf st f) (es.map (Float.decode (fmtOf E)))).2))) ∧
    (∀ x, Fires s st (wordTakes f [f.a] (immHow E)) k → 3 ≤ E → es = [x] →
      exec (.vredmax f) s = .next (wordFired st f k ((reduced f E (placeInt E (intElem E x))).1, (reduced f E (placeInt E (intElem E x))).2, 0))) ∧
    (∀ x y, Fires s st (wordTakes f [f.a] (immHow E)) k → es = [x, y] →
      exec (.vredmax f) s = .next (wordFired st f k ((reduced f E (minMax E true (x % 2 ^ widthOf E) y).1).1,
        (reduced f E (minMax E true (x % 2 ^ widthOf E) y).1).2, 0 ||| (minMax E true (x % 2 ^ widthOf E) y).2)))

/-! ### Fabric: digit ops -/

/-- The digit ops (R346, R115 to R122): on group g of an instance, an op with no lookahead sends
group g, and one with lookahead group g - 1, or nothing for g = 0; the slot holds the groups taken. The last group of an op
with lookahead follows the one before it out of the tile, and the instance is over. What each op makes of
a lane: DADD and DSUB the online sum, DMUL and DSCL the online product, DDIV and DSQRT their recurrences, DMAXK, DSIGN and
DTHR their early decisions, DFORK the digits themselves. -/
def Obligations.DigitOpsSendGroups : Prop :=
  ∀ (f : Slot) (s : State) (st : Site) (k : Taken),
    st.ctx.mode.getLsbD 3 = false →
    let L := digitLen f
    let A := groupsA st k
    let sl : SlotSt := slotSt k.s st
    let g := sl.digit.ga.length
    let op (i : Instr) (two inv : Bool) (dests : List Nat) (x : Inst) : Prop :=
      DigitGroup s st f two dests k x →
      let B := groupsB st two k
      let dead := allKilled sl.digit (dests.flatMap dirsOf)
      let out (before : BitVec 16) (h : Nat) : Token × Float.Fl := groupOut f (tok k 0).tag x A B two before dead h
      let h := if x.ahead = true then g - 1 else g
      let sent : List (Token × Float.Fl) := if x.ahead = true ∧ g = 0 then [] else [out sl.digit.cleared h]
      let gone := if x.ahead = true ∧ g = 0 then sl.digit.cleared else clearedBy x sl.digit.cleared dead h
      let held : State := setSlotSt k.s st { sl with digit := { sl.digit with ga := A, gb := B, cleared := gone } }
      (g + 1 < groupsOf f → exec i s = .next (sends st k
        (if inv = true then raiseFlags held st.k st.j (sent.foldl (fun m e => m ||| e.2) 0) else held)
        (sent.flatMap (fun e => dests.map (fun d => (d, e.1)))))) ∧
      (g + 1 = groupsOf f → ∃ t, exec i s = .next (sends st k t (sent.flatMap (fun e => dests.map (fun d => (d, e.1))))) ∧
        (slotSt t st).digit = {} ∧
        (t.tile st.key).outbox = (k.s.tile st.key).outbox ++
          (if x.ahead = true then dests.map (fun d => (d, st.n, { (out gone g).1 with seg := segOf k.toks })) else []))
    let B := groupsB st true k
    let n := readyDigits f A
    let ea := headE A
    let eb := headE B
    let d := [f.d.toNat]
    op (.dadd f) true false d { e := (if ea < eb then eb else ea) + 1, ahead := true, lanes := fun i => { dig := daddDigit L (digitOf A i) ea (digitOf B i) eb false } } ∧
    op (.dsub f) true false d { e := (if ea < eb then eb else ea) + 1, ahead := true, lanes := fun i => { dig := daddDigit L (digitOf A i) ea (digitOf B i) eb true } } ∧
    op (.dmul f) true false d { e := ea + eb, ahead := true, lanes := fun i => ofOnline (onlineRun (dmulOnline (cutAt L (digitOf A i)) (cutAt L (digitOf B i))) n) } ∧
    op (.ddiv f) true true d { e := ea - eb + 1, ahead := true, lanes := fun i => ddivLane L n (digitOf A i) (digitOf B i) } ∧
    op (.dsqrt f) false true d { e := fdiv (ea + 1) 2, ahead := true, lanes := fun i => dsqrtLane L n (4 * A.length) (decide (ea % 2 ≠ 0)) (digitOf A i) } ∧
    (f.m.getLsbD 3 = true → op (.dscl f) false false d { e := ea, ahead := true, lanes := fun i => ofOnline (onlineRun (dsclOnline (sextN st.imm.toNat 12) (cutAt L (digitOf A i))) n) }) ∧
    (f.m.getLsbD 3 = false → op (.dscl f) false false d { e := ea + sextN st.imm.toNat 10, ahead := false, lanes := fun i => { dig := digitOf A i } }) ∧
    op (.dsign f) false false d { e := ea, ahead := false, lanes := fun i => { dig := fun j => if (match firstNonzero (digitOf A i) (4 * A.length) with
                              | some m => decide (digitOf A i m = -1) | none => false) = true then 0 else digitOf A i j } } ∧
    op (.dmaxk f) true false d { e := if ea < eb then eb else ea, ahead := false, lanes := fun i => { dig := fun j => (maxkRun
                             (delayed L ((if ea < eb then eb else ea) - ea).toNat (digitOf A i))
                             (delayed L ((if ea < eb then eb else ea) - eb).toNat (digitOf B i)) (4 * A.length)).2.getD (j - 1) 0 } } ∧
    op (.dfork f) false false [f.d.toNat, f.m.toNat % 4] { e := ea, ahead := false, lanes := fun i => { dig := digitOf A i }, copies := true } ∧
    (∃ x : Inst, x.e = ea ∧ x.ahead = false ∧ (∀ i, (x.lanes i).dig = digitOf A i) ∧ op (.dthr f) false false d x)

/-- DENC and DDEC (R347, R113, R114, R128): DENC turns each finite lane of a word into L digits under one exponent; group 0
leaves at once and the others follow in order; DDEC holds groups until the last one and then gives each lane's value, rounded once. -/
def Obligations.DigitEncodeDecode : Prop :=
  ∀ (f : Slot) (s : State) (st : Site) (k : Taken), encoding s st = false →
    (Ready s st { routeTakes f [f.a] [] with
        how := if f.m.toNat / 16 % 4 = 0 then 0 else if f.m.toNat / 16 % 4 = 3 then 2 else 1, dests := [(f.d.toNat, groupsOf f)] } k →
      (∀ x ∈ k.toks, x.kind = kWORD) → (tok k 0).kind = kWORD →
      let a := tok k 0
      let L := digitLen f
      let v (i : Nat) : Float.Val := wordVal (f.m.toNat / 16 % 4) (lane a.payload i)
      let logs := ((List.range 16).filter (fun i => a.valid.getLsbD i)).filterMap (fun i => logOf (v i))
      let e : Int := match logs with | [] => 0 | x :: r => 1 + r.foldl (fun m y => if m < y then y else m) x
      (∀ i, i < 16 → a.valid.getLsbD i = true → ∃ n m x, v i = .fin n m x) → -512 ≤ e → e ≤ 511 →
      ∃ (t : State) (dig : Nat → Nat → Int),
        let group (g : Nat) : Token := digitTok f (BitVec.ofNat 12 (slotSt k.s st).chain) e g a.valid dig
        exec (.denc f) s = .next (sends st k t [(f.d.toNat, group 0)]) ∧
        (t.tile st.key).outbox = (k.s.tile st.key).outbox ++
          (List.range (groupsOf f - 1)).map (fun g => (f.d.toNat, st.n, { group (g + 1) with seg := segOf k.toks })) ∧
        (slotSt t st).chain = (slotSt k.s st).chain + 1 ∧
        ∀ i, i < 16 → a.valid.getLsbD i = true → ∀ n m x, v i = .fin n m x → ∀ j, 1 ≤ j → j ≤ L →
          dig i j = if (cutVal m x (L - e)).1 / 2 ^ (L - j) % 2 = 1 then (if n = true then -1 else 1) else 0) ∧
    (Ready s st { routeTakes f [f.a] [] with dests := [(f.d.toNat, 1)] } k → (tok k 0).kind = kDIGIT →
      tokG (tok k 0) = (slotSt k.s st).digit.ga.length → (slotSt k.s st).digit.ga.length + 1 < groupsOf f →
      badDigits (tok k 0) = false → (∀ t, (slotSt k.s st).digit.ga.head? = some t → tokE t = tokE (tok k 0) ∧ t.tag = (tok k 0).tag) →
      exec (.ddec f) s = .next (setSlotSt k.s st { slotSt k.s st with
        digit := { (slotSt k.s st).digit with ga := groupsA st k } })) ∧
    (Ready s st { routeTakes f [f.a] [] with dests := [(f.d.toNat, 1)] } k → (tok k 0).kind = kDIGIT →
      (slotSt k.s st).digit.ga ≠ [] → tokG (tok k 0) = (slotSt k.s st).digit.ga.length →
      groupsOf f = (slotSt k.s st).digit.ga.length + 1 → badDigits (tok k 0) = false →
      (∀ t, (slotSt k.s st).digit.ga.head? = some t → tokE t = tokE (tok k 0) ∧ t.tag = (tok k 0).tag) →
      ∃ (t : State) (w : Token), exec (.ddec f) s = .next (sends st k t [(f.d.toNat, w)]) ∧ w.kind = kWORD ∧ w.slot = f.n ∧
        (slotSt t st).digit = {} ∧ ∀ i, i < 16 → (okUpTo (groupsA st k) (groupsOf f - 1)).getLsbD i = true →
          w.valid.getLsbD i = true ∧ lane w.payload i = BitVec.ofNat 32 (decodeLane (f.m.toNat / 16 % 4)
            (decide (prefixVal (digitOf (groupsA st k) i) (digitLen f) < 0))
            (prefixVal (digitOf (groupsA st k) i) (digitLen f)).natAbs (headE (groupsA st k) - 64)).1)

/-! ### Fabric: matrix ops -/

/-- MLDW, MMA, MMAS, MDOT and MACC (R370 to R375) and the systolic firing (R81): MLDW fills the weights of a chunk, or the
scales; MMA and MMAS add each group's products to a lane; MDOT adds to one accumulator lane and steps to the next; MACC
adds to, replaces, reads and clears, or scales the accumulator.
MTRI and MSCM (R383, R382): MTRI takes two records in step, makes the merged header from two headers and then weighs
each row by the factors its slot holds; MSCM runs the tile's program on each lane that is valid in both operands. -/
def Obligations.MatrixOps : Prop :=
  (∀ (f : Slot) (s : State) (st : Site) (k : Taken),
     let ti := k.s.tile st.key
     let B := tok k 1
     let start : Lanes := if f.b = 14 then Map.get 0 ti.m (accOf f) else B.payload
     let begins (n : Nat) : Nat := if f.b = 15 then 0 else if B.valid.getLsbD n = true then (lane start n).toNat else 0
     let result (gs : List MGroup) : Lanes := ofLanes (fun n => BitVec.ofNat 32 (mmaLane ti (mfmt f) gs (begins n) n).1)
     let flags (gs : List MGroup) : Float.Fl :=
       ((List.range 16).map (fun n => mmaLane ti (mfmt f) gs (begins n) n)).foldl (fun m e => m ||| e.2) 0
     let after (gs : List MGroup) : State :=
       if f.b = 14 then addAcc (raiseFlags k.s st.k st.j (flags gs)) st.key (accOf f) (mmaSteps ti (mfmt f) gs begins) (result gs)
       else raiseFlags k.s st.k st.j (flags gs)
     let taken (acc how : Nat) (srcs : List (BitVec 4)) (d : Nat) : Takes := { srcs, how, acc, dests := [(d, 1)], next := f.n }
     (Fires s st (taken (accOf f) 0 (mmaSrcs f) f.d.toNat) k → compatible (mfmt f) ti.wf = true →
       exec (.mma f) s = .next (sends st k (after (mmaGroups f (tok k 0)))
         [(f.d.toNat, resultTok (after (mmaGroups f (tok k 0))) f 0xFFFF (result (mmaGroups f (tok k 0))))]) ∧
       (∀ gs, mmasGroups f (tok k 0) = some gs → exec (.mmas f) s = .next (sends st k (after gs)
         [(f.d.toNat, resultTok (after gs) f 0xFFFF (result gs))])) ∧
       (mmasGroups f (tok k 0) = none → exec (.mmas f) s = .next (tileFault s st fcTOKEN (segOf k.toks)))) ∧
     (Fires s st (taken (accOf f) 0 (mmaSrcs f) f.d.toNat) k → compatible (mfmt f) ti.wf = false →
       exec (.mma f) s = .next (tileFault s st fcTOKEN (segOf k.toks))) ∧
     (Fires s st (taken 0 0 [f.a] 15) k → f.m.getLsbD 0 = true → (tok k 0).valid &&& 0xF = 0xF →
       ∃ t, exec (.mldw f) s = .next t ∧ ∀ n, n < 16 → weightScale (t.tile st.key) n = (payByte (tok k 0).payload n).toNat) ∧
     (Fires s st (taken 0 0 [f.a] 15) k → f.m.getLsbD 0 = false → (slotSt k.s st).ptr = 0 →
       ∃ t, exec (.mldw f) s = .next t ∧ (t.tile st.key).wf = mfmt f ∧ (slotSt t st).ptr = 1 ∧
         (∀ n, n < 16 → weightScale (t.tile st.key) n = 0x7F) ∧
         ∀ r n, r < 32 / elemBits (mfmt f) → n < 16 → weight (t.tile st.key) r n =
           mElem (mfmt f) (maskLanes (tok k 0).valid (tok k 0).payload) (16 * r + n)) ∧
     (Fires s st (taken 0 0 [f.a, f.b] 15) k → (slotSt k.s st).ptr < 16 →
       ∃ t, exec (.mdot f) s = .next t ∧ (slotSt t st).ptr = ((slotSt k.s st).ptr + 1) % 16 ∧
         (∀ i, i < 16 → i ≠ (slotSt k.s st).ptr →
           lane (Map.get 0 (t.tile st.key).m (accOf f)) i = lane (Map.get 0 ti.m (accOf f)) i) ∧
         (f.m.getLsbD 0 = false → (tok k 0).valid = 0xFFFF → (tok k 1).valid = 0xFFFF →
           lane (Map.get 0 (t.tile st.key).m (accOf f)) (slotSt k.s st).ptr = BitVec.ofNat 32
             ((List.range (512 / elemBits (mfmt f) / groupLen (mfmt f))).foldl (fun (x : Nat) g =>
               (addGroup (mfmt f) (mfmt f) x ((List.range (groupLen (mfmt f))).map (fun i =>
                 (mElem (mfmt f) (tok k 0).payload (groupLen (mfmt f) * g + i), mElem (mfmt f) (tok k 1).payload (groupLen (mfmt f) * g + i))))
                 0x7F 0x7F).1) (lane (Map.get 0 ti.m (accOf f)) (slotSt k.s st).ptr).toNat))) ∧
     (let opt := f.m.toNat % 4
      Fires s st (taken 0 (if f.m.getLsbD 6 = true then 2 else 0) (if opt = 2 then [] else [f.a]) f.d.toNat) k →
       let v (i : Nat) : Float.Fl × BitVec 32 :=
         let r := maccLane opt (f.m.getLsbD 6) (lane (Map.get 0 ti.m (accOf f)) i)
           (if (tok k 0).valid.getLsbD i = true then some (lane (tok k 0).payload i) else none)
         (r.2, BitVec.ofNat 32 r.1)
       ∃ (t : State) (w : Token), exec (.macc f) s = .next (sends st k t [(f.d.toNat, w)]) ∧ w.valid = 0xFFFF ∧
         (∀ i, i < 16 → lane (Map.get 0 (t.tile st.key).m (accOf f)) i = (v i).2) ∧
         (∀ i, i < 16 → lane w.payload i = if opt = 2 then lane (Map.get 0 ti.m (accOf f)) i else (v i).2)) ∧
     (let f0 := slotFields (slotWord st 0)
      st.n = 0 → f = f0 → isSystolic st = true → forwardsEast st = false →
       Fires s st (taken 0 0 (mmaSrcs f) f.d.toNat) k → compatible (mfmt f) ti.wf = true →
       exec .systolicFire s = .next (sends st k (after (mmaGroups f (tok k 0)))
         [(f.d.toNat, resultTok (after (mmaGroups f (tok k 0))) f 0xFFFF (result (mmaGroups f (tok k 0))))]) ∧
      (st.n = 0 → f = f0 → isSystolic st = true → forwardsEast st = true →
       Fires s st { srcs := mmaSrcs f, dests := [(f.d.toNat, 1), (1, 1)], next := f.n } k → compatible (mfmt f) ti.wf = true →
       exec .systolicFire s = .next (sends st k (after (mmaGroups f (tok k 0)))
         [(f.d.toNat, resultTok (after (mmaGroups f (tok k 0))) f 0xFFFF (result (mmaGroups f (tok k 0)))), (1, tok k 0)])))) ∧
  (∀ (f : Slot) (s : State) (st : Site) (k : Taken),
     let a := tok k 0
     let b := tok k 1
     let sl := slotSt k.s st
     let ln (t : Token) (i : Nat) : Nat := if t.valid.getLsbD i = true then (lane t.payload i).toNat else 0
     (Fires s st { srcs := [f.a, f.b], dests := [(f.d.toNat, 1)], next := f.n } k → sl.posA = sl.posB →
       (sl.posA ≠ 0 → sl.bad = false → ∃ (t : State) (w : Token), exec (.mtri f) s = .next (sends st k t [(f.d.toNat, w)]) ∧
         w.valid = a.valid ||| b.valid ∧ (slotSt t st).posA = (sl.posA + 1) % recordLen f ∧ (slotSt t st).posB = (sl.posA + 1) % recordLen f ∧
         ∀ i, i < 16 → w.valid.getLsbD i = true → lane w.payload i = BitVec.ofNat 32
           (Sys2Proof.Float.fma Float.fp32 .rne (ln b i) sl.e2.toNat (Sys2Proof.Float.mul Float.fp32 .rne (ln a i) sl.e1.toNat).1).1) ∧
       (sl.posA = 0 → a.valid &&& 3 = 3 → b.valid &&& 3 = 3 →
         (Float.decode Float.fp32 (ln a 0)).isNan = false → (Float.decode Float.fp32 (ln b 0)).isNan = false →
         Float.decode Float.fp32 (ln a 0) ≠ .inf false → Float.decode Float.fp32 (ln b 0) ≠ .inf false →
         ∃ (t : State) (w : Token), exec (.mtri f) s = .next (sends st k t [(f.d.toNat, w)]) ∧ w.valid = 3 ∧
           lane w.payload 0 = BitVec.ofNat 32 (Float.minmax Float.fp32 true (ln a 0) (ln b 0)).1 ∧
           (slotSt t st).bad = false ∧ (slotSt t st).posA = 1 % recordLen f)) ∧
     (Fires s st { srcs := [f.a, f.b], dests := [(f.d.toNat, 1)], next := f.n } k → sl.posA ≠ sl.posB →
       exec (.mtri f) s = .next (tileFault s st fcTOKEN (segOf k.toks))) ∧
     (Fires s st { srcs := [f.a, f.b], how := 2, dests := [(f.d.toNat, 1)], next := f.n } k →
       ∃ (t : State) (w : Token), exec (.mscm f) s = .next (sends st k t [(f.d.toNat, w)]) ∧
         (∀ i, i < 16 → w.valid.getLsbD i = (a.valid.getLsbD i && b.valid.getLsbD i)) ∧
         ∀ i, i < 16 → w.valid.getLsbD i = true → lane w.payload i = (smRun (fun n => Map.get 0 st.cfg.sm n) 16 0
           [lane a.payload i, lane (Map.get 0 (k.s.tile st.key).a (f.m.toNat / 64 % 8)) i, lane b.payload i, st.imm.zeroExtend 32, 0, 0, 0, 0] 0).1.getD 0 0))


/-! ### Fabric: routing, tile stores, tile events -/

/-- The routing ops (R379, R384, R399, R412, R416, R418, R419, R350, R355, R369): tokens keep their kind, tag, frame offset,
lanes and payload but for what the op changes; STEER picks a destination by a lane, DROP discards a token with no valid
lane, SEGMARK's control token follows its own, TAGSET gives a tag to all but a DIGIT (log 113) and waits for a free one that
no tile before it takes, TAGCHK compares two, LUTOP steps the fine-grain logic. STEER and SEGMARK raise TOKEN on a DIGIT they
test, TAGCHK raises TAG where two tags differ, and a WHOLE ORDMERGE raises TOKEN on data between segments. -/
def Obligations.RoutingOps : Prop :=
  ∀ (f : Slot) (s : State) (st : Site) (k : Taken),
    let A := tok k 0
    let B := tok k 1
    let F : Token := { A with slot := f.n }
    let d := f.d.toNat
    let d2 := f.m.toNat % 4
    let null (t : Token) : Token := { t with slot := f.n, kind := kNULL, valid := 0, payload := 0 }
    let after (t : Token) : State := k.s.modTile st.key (fun ti => { ti with outbox := ti.outbox ++ [(d, st.n, t)] })
    let route (i : Instr) (srcs : List (BitVec 4)) (dests : List Nat) (s' : State) (outs : List (Nat × Token)) : Prop :=
      Ready s st (routeTakes f srcs dests) k → exec i s = .next (sends st k s' outs)
    let faults (i : Instr) (srcs : List (BitVec 4)) (dests : List Nat) (code : Code) : Prop :=
      Ready s st (routeTakes f srcs dests) k → exec i s = .next (tileFault s st code (segOf k.toks))
    let here : Prop := s.self = .tile st.k st.y st.x st.n ∧ siteOf s st.k st.y st.x st.n = some st
    (A.kind ≠ kDIGIT → route (.pass f) [f.a] [d] k.s [(d, F)]) ∧
    (A.kind = kDIGIT → (slotSt k.s st).passTag = some A.tag → route (.pass f) [f.a] [d] k.s [(d, F)]) ∧
    (A.kind = kDIGIT → (slotSt k.s st).passTag ≠ some A.tag →
      route (.pass f) [f.a] [d] (setSlotSt k.s st { slotSt k.s st with passTag := some A.tag, passKill := [] }) [(d, F)]) ∧
    route (.nullt f) [f.a] [d] k.s [(d, null A)] ∧
    route (.drop f) [f.a] [d] k.s (if f.m.getLsbD 0 = true ∧ A.kind ≠ kNULL ∧ A.valid ≠ 0 then [(d, F)] else []) ∧
    route (.framest f) [f.a] [d] k.s [(d, { F with frame := BitVec.ofNat 8 (f.m.toNat % 16) })] ∧
    (A.kind ≠ kDIGIT → f.m.getLsbD 8 = false → route (.steer f) [f.a] [d, d2] k.s
      [(if A.kind ≠ kNULL ∧ A.valid.getLsbD (f.m.toNat / 4 % 16) = true ∧ lane A.payload (f.m.toNat / 4 % 16) ≠ 0 then d else d2, F)]) ∧
    (B.kind ≠ kDIGIT → f.m.getLsbD 8 = true → route (.steer f) [f.a, f.b] [d, d2] k.s
      [(if B.kind ≠ kNULL ∧ B.valid.getLsbD 0 = true ∧ lane B.payload 0 ≠ 0 then d else d2, F)]) ∧
    (A.kind = kDIGIT → f.m.getLsbD 8 = false → faults (.steer f) [f.a] [d, d2] fcTOKEN) ∧
    (B.kind = kDIGIT → f.m.getLsbD 8 = true → faults (.steer f) [f.a, f.b] [d, d2] fcTOKEN) ∧
    (A.tag ≠ B.tag → f.m.getLsbD 0 = false → faults (.tagchk f) [f.a, f.b] [d] fcTAG) ∧
    (A.tag = B.tag → route (.tagchk f) [f.a, f.b] [d] k.s [(d, F)]) ∧
    (A.tag ≠ B.tag → f.m.getLsbD 0 = true → route (.tagchk f) [f.a, f.b] [d] k.s [(d, null A)]) ∧
    (f.m.getLsbD 0 = true → A.kind ≠ kDIGIT → route (.tagset f) [f.a, f.b] [d] k.s [(d, { F with tag := B.tag })]) ∧
    (f.m.getLsbD 0 = true → A.kind = kDIGIT → route (.tagset f) [f.a, f.b] [d] k.s [(d, F)]) ∧
    (∀ g, f.m.getLsbD 0 = false → freeTag st.ctx = some g → allocAhead s st = false → A.kind ≠ kNULL → route (.tagset f) [f.a] [d]
      (modCtx k.s st.k st.j st.c (fun x => { x with tags := x.tags ++ [(g, A.seg)] }))
      [(d, if A.kind = kDIGIT then F else { F with tag := BitVec.ofNat 12 g })]) ∧
    (f.m.getLsbD 0 = false → (freeTag st.ctx).isSome = true → allocAhead s st = false → A.kind = kNULL →
      route (.tagset f) [f.a] [d] k.s [(d, { F with tag := 0 })]) ∧
    (here → f.m.getLsbD 0 = false → (freeTag st.ctx = none ∨ allocAhead s st = true) → exec (.tagset f) s = .next s) ∧
    (A.kind = kWORD → A.valid.getLsbD 0 = true → f.m.getLsbD 0 = true → route (.segmark f) [f.a] [d]
      (after { kind := kMARK, slot := f.n, tag := Config.resultTag k.s.tick, payload := (lane A.payload 0).zeroExtend 512, seg := A.seg })
      [(d, F)]) ∧
    (A.kind = kWORD → A.valid.getLsbD 0 = true → lane A.payload 0 ≠ 0 → f.m.getLsbD 0 = false → route (.segmark f) [f.a] [d]
      (after { kind := kORDER, slot := f.n, tag := Config.resultTag k.s.tick, seg := A.seg
               payload := (st.imm.zeroExtend 512 : Lanes) <<< (if f.m.getLsbD 1 = true then 16 else 0) }) [(d, F)]) ∧
    (A.kind = kNULL ∨ A.kind = kWORD ∧ (A.valid.getLsbD 0 = false ∨ f.m.getLsbD 0 = false ∧ lane A.payload 0 = 0) →
      route (.segmark f) [f.a] [d] k.s [(d, F)]) ∧
    (A.kind = kDIGIT → faults (.segmark f) [f.a] [d] fcTOKEN) ∧
    (here → f.m.getLsbD 0 = true → (slotSt s st).inSeg = none → (firstOf s st f).isSome = true →
      exec (.ordmerge f) s = .next (tileFault s st fcTOKEN (slotSt s st).expect)) ∧
    ((slotSt s st).second = false → route (.split f) [f.a] [d] k.s [(d, F)]) ∧
    ((slotSt s st).second = true → route (.split f) [f.a] [d2] k.s [(d2, F)]) ∧
    (∀ e, firstOf s st f = some e → route (.merge f) [BitVec.ofNat 4 e] [d] k.s [(d, F)] ∧
      (f.m.getLsbD 0 = false → route (.ordmerge f) [BitVec.ofNat 4 e] [d] k.s [(d, F)])) ∧
    (∀ e, f.m.getLsbD 0 = true → (slotSt s st).inSeg = some e → route (.ordmerge f) [BitVec.ofNat 4 e.toNat] [d] k.s [(d, F)]) ∧
    (Fires s st { srcs := [f.a], how := 2, dests := [(d, 1)], next := f.n } k →
      let q := (k.s.tile st.key).lutff
      let l := lutOut st.cfg.lut ((maskLanes A.valid A.payload).toNat % 2 ^ 128) q.toNat
      ∃ (t : State) (w : Token), exec (.lutop f) s = .next (sends st k t [(d, w)]) ∧ w.valid = 0xF ∧
        lane w.payload 0 = l.extractLsb' 0 32 ∧ lane w.payload 1 = l.extractLsb' 32 32 ∧
        lane w.payload 2 = q.extractLsb' 0 32 ∧ lane w.payload 3 = q.extractLsb' 32 32 ∧
        ∀ b, b < 64 → ((t.tile st.key).lutff.getLsbD b = if st.cfg.lut.enable.getLsbD b = true then l.getLsbD b else q.getLsbD b))

/-- The tile-store ops (R421, R422): TRD reads 64 bytes of the full buffer, TWR writes the valid lanes to the buffer being
filled, TSWAP does both to the full one, TFE frees it; without an address operand the pointer of their side steps 64. A slot
waits while its buffer is not ready. An offset outside the buffer or off its lines raises TOKEN, a poisoned line ECC, and a
DIGIT token where an address or data is read TOKEN; a NULL is answered by a NULL, and an address token whose lane 0 is invalid reads
and writes nothing. -/
def Obligations.TileStoreOps : Prop :=
  ∀ (f : Slot) (s : State) (st : Site) (k : Taken),
    let A := tok k 0
    let r := rangeOf s st.key st.c
    let d := f.d.toNat
    let ready (srcs : List (BitVec 4)) : Prop := Ready s st (routeTakes f srcs [d]) k ∧ A.kind = kWORD ∧ ∀ x ∈ k.toks, x.kind = kWORD
    let rd (o : Nat) : Nat := bufferAt st (r.ne % nbOf st.cfg.cfg) o
    let wr (o : Nat) : Nat := bufferAt st (r.nw % nbOf st.cfg.cfg) o
    let good (o : Nat) : Prop := o % 64 = 0 ∧ o < bufSize st.cfg.cfg
    let bytes (pa : Nat) : Token := { A with kind := kWORD, slot := f.n, valid := 0xFFFF, payload := BitVec.ofNat 512 (readNat k.s pa 64) }
    let stepR (t : State) : State := modRange t st.key st.c (fun r => { r with rp := r.rp + 64 })
    let stepW (t : State) : State := modRange t st.key st.c (fun r => { r with wp := r.wp + 64 })
    let F : Token := { A with slot := f.n }
    let null : Token := { F with kind := kNULL, valid := 0, payload := 0 }
    let fault (code : Code) : Host.Outcome State Fault Refusal := .next (tileFault s st code (segOf k.toks))
    let emptied (r : RangeSt) : RangeSt :=
      let b := r.ne % nbOf st.cfg.cfg
      { r with empties := Map.set 0 r.empties b (Map.get 0 r.empties b + 1), ne := r.ne + 1, rp := 0 }
    (ready [f.a] → readFull st.cfg.cfg r = true →
      (f.m.getLsbD 0 = true → good r.rp → poisoned k.s (rd r.rp) 64 = false →
        exec (.trd f) s = .next (sends st k (stepR k.s) [(d, bytes (rd r.rp))])) ∧
      (let o := (lane A.payload 0).toNat % 2 ^ 15
       f.m.getLsbD 0 = false → A.valid.getLsbD 0 = true → good o → poisoned k.s (rd o) 64 = false →
        exec (.trd f) s = .next (sends st k k.s [(d, bytes (rd o))])) ∧
      exec (.tfe f) s = .next (sends st k (modRange k.s st.key st.c emptied) [(d, F)])) ∧
    (f.b = 15 → ready [f.a] →
      (writeEmpty st.cfg.cfg r = true → good r.wp →
        exec (.twr f) s = .next (sends st k (stepW (writePay k.s (wr r.wp) A.valid A.payload)) [(d, F)])) ∧
      (readFull st.cfg.cfg r = true → good r.rp → poisoned k.s (rd r.rp) 64 = false →
        exec (.tswap f) s = .next (sends st k (stepR (writePay k.s (rd r.rp) A.valid A.payload)) [(d, bytes (rd r.rp))]))) ∧
    (f.b ≠ 15 → ready [f.a, f.b] → (tok k 1).valid.getLsbD 0 = true →
      let o := (lane (tok k 1).payload 0).toNat % 2 ^ 15
      good o →
      (writeEmpty st.cfg.cfg r = true → exec (.twr f) s = .next (sends st k (writePay k.s (wr o) A.valid A.payload) [(d, F)])) ∧
      (readFull st.cfg.cfg r = true → poisoned k.s (rd o) 64 = false →
        exec (.tswap f) s = .next (sends st k (writePay k.s (rd o) A.valid A.payload) [(d, bytes (rd o))]))) ∧
    (ready [f.a] → readFull st.cfg.cfg r = true → (f.m.getLsbD 0 = true ∨ A.valid.getLsbD 0 = true) →
      let o := if f.m.getLsbD 0 = true then r.rp else (lane A.payload 0).toNat % 2 ^ 15
      (¬good o → exec (.trd f) s = fault fcTOKEN) ∧ (good o → poisoned k.s (rd o) 64 = true → exec (.trd f) s = fault fcECC)) ∧
    (ready [f.a] → readFull st.cfg.cfg r = true → f.m.getLsbD 0 = false → A.valid.getLsbD 0 = false →
      exec (.trd f) s = .next (sends st k k.s [(d, null)])) ∧
    (Ready s st (routeTakes f [f.a] [d]) k → readFull st.cfg.cfg r = true → A.kind = kNULL →
      exec (.trd f) s = .next (sends st k (if f.m.getLsbD 0 = true then stepR k.s else k.s) [(d, null)]) ∧
      exec (.tfe f) s = .next (sends st k k.s [(d, null)])) ∧
    (Ready s st (routeTakes f [f.a] [d]) k → readFull st.cfg.cfg r = true → A.kind = kDIGIT → f.m.getLsbD 0 = false →
      exec (.trd f) s = fault fcTOKEN) ∧
    (let srcs := if f.b = 15 then [f.a] else [f.a, f.b]
     let o (p : Nat) : Nat := if f.b = 15 then p else (lane (tok k 1).payload 0).toNat % 2 ^ 15
     let named : Prop := f.b = 15 ∨ (tok k 1).valid.getLsbD 0 = true
     (Ready s st (routeTakes f srcs [d]) k → (∃ x ∈ k.toks, x.kind = kDIGIT) →
       (writeEmpty st.cfg.cfg r = true → exec (.twr f) s = fault fcTOKEN) ∧ (readFull st.cfg.cfg r = true → exec (.tswap f) s = fault fcTOKEN)) ∧
     (Ready s st (routeTakes f srcs [d]) k → (∀ x ∈ k.toks, x.kind ≠ kDIGIT) → A.kind = kNULL →
       (writeEmpty st.cfg.cfg r = true → exec (.twr f) s = .next (sends st k (if f.b = 15 then stepW k.s else k.s) [(d, null)])) ∧
       (readFull st.cfg.cfg r = true → exec (.tswap f) s = .next (sends st k (if f.b = 15 then stepR k.s else k.s) [(d, null)]))) ∧
     (ready srcs → named →
       (writeEmpty st.cfg.cfg r = true → ¬good (o r.wp) → exec (.twr f) s = fault fcTOKEN) ∧
       (readFull st.cfg.cfg r = true → ¬good (o r.rp) → exec (.tswap f) s = fault fcTOKEN) ∧
       (readFull st.cfg.cfg r = true → good (o r.rp) → poisoned k.s (rd (o r.rp)) 64 = true → exec (.tswap f) s = fault fcECC)) ∧
     (ready srcs → ¬named →
       (writeEmpty st.cfg.cfg r = true → exec (.twr f) s = .next (sends st k k.s [(d, F)])) ∧
       (readFull st.cfg.cfg r = true → exec (.tswap f) s = .next (sends st k k.s [(d, null)])))) ∧
    (s.self = .tile st.k st.y st.x st.n → siteOf s st.k st.y st.x st.n = some st →
      (readFull st.cfg.cfg r = false → exec (.trd f) s = .next s ∧ exec (.tswap f) s = .next s ∧ exec (.tfe f) s = .next s) ∧
      (writeEmpty st.cfg.cfg r = false → exec (.twr f) s = .next s)) ∧
    (∀ (t : State) (pa x : Nat), readByte (writePay t pa A.valid A.payload) x =
      if pa ≤ x ∧ x < pa + 64 ∧ A.valid.getLsbD ((x - pa) / 4) = true then payByte A.payload (x - pa) else readByte t x)

/-- The tile's own events (R35, R74 to R77, R80, R125, R126): a control token at a slot's one input passes to every
destination with the slot's next slot, and from two inputs only together, TOKEN where their kinds differ; a FIFO tile releases its oldest token; a line buffer sends the token above and the
arriving one; a frame tile stores a token at its slot, raises TOKEN, TAG or FRAME on one it cannot hold, and sends a complete operand; a pass stage forwards W to E and N to S;
a KILL marks the lanes of its chain, or goes on upstream. -/
def Obligations.TileEvents : Prop :=
  ∀ (s : State) (st : Site) (d : BitVec 2) (t : Token), s.self = .tile st.k st.y st.x st.n →
    siteOf s st.k st.y st.x st.n = some st → linksUp s st = true →
    let w := slotWord st st.n
    (isFrames st = false → isSystolic st = false → (s.tile st.key).outbox = [] → slotInputs w = [d.toNat] → controlHead s st d.toNat = some t →
      (t.kind = kORDER ∨ t.kind = kMARK ∨ t.kind = kSBARTOK) → opOf w ≠ 0x52 → opOf w ≠ 0x53 → isDigitOp (opOf w) = false →
      (opOf w = 0x45 → recordCut s st w = false) →
      (∀ e ∈ controlDirs st (slotSt s st) w t.kind, 1 ≤ credits s st.k st.y st.x e) →
      exec .controlTokenForward s = .next ((controlDirs st (slotSt s st) w t.kind).foldl
        (fun s e => sendFrom s st e { t with slot := BitVec.ofNat 4 (w.toNat / 2 ^ 9 % 16) }) (popInput s st d.toNat))) ∧
    (∀ d' t', isFrames st = false → isSystolic st = false → (s.tile st.key).outbox = [] → slotInputs w = [d.toNat, d'] →
      controlHead s st d.toNat = some t → controlHead s st d' = some t' → opOf w ≠ 0x52 → opOf w ≠ 0x53 → isDigitOp (opOf w) = false →
      (opOf w = 0x45 → recordCut s st w = false) →
      (t.kind ≠ t'.kind → exec .controlTokenForward s = .next (tileFault s st fcTOKEN t.seg)) ∧
      ((t.kind = kORDER ∨ t.kind = kMARK ∨ t.kind = kSBARTOK) → t'.kind = t.kind →
        (∀ e ∈ controlDirs st (slotSt s st) w t.kind, 1 ≤ credits s st.k st.y st.x e) →
        exec .controlTokenForward s = .next ((controlDirs st (slotSt s st) w t.kind).foldl
          (fun s e => sendFrom s st e { t with slot := BitVec.ofNat 4 (w.toNat / 2 ^ 9 % 16) }) (popInput (popInput s st d.toNat) st d')))) ∧
    (∀ rest, isFifo st = true → fromElastic s st d.toNat = none → (rangeOf s st.key st.c).fifo = (d.toNat, t) :: rest →
      (rangeOf s st.key st.c).out = [] → exec (.fifoTilePass d) s =
        .next (modRange s st.key st.c (fun r => { r with fifo := rest, out := [(d.toNat, t)] }))) ∧
    (isLineBuffer st = true → plainHead s st d.toNat = some t → t.isData = true →
      st.cfg.cfg.toNat / 2 ^ 16 % 8 = 2 → (rangeOf s st.key st.c).lines = [] → 0 < st.cfg.cfg.toNat / 2 ^ 4 % 2 ^ 12 →
      let v := slotWord st t.slot.toNat
      let next := BitVec.ofNat 4 (v.toNat / 2 ^ 9 % 16)
      hasRoom s st (v.toNat / 2 ^ 13 % 16) 2 = true → (∃ i, decodeSlot v = .ok i) →
      exec (.lineBufferEmit d) s = .next (modRange (tokenToBytes (emit (emit (popInput s st d.toNat) st (v.toNat / 2 ^ 13 % 16)
          { kind := kNULL, slot := next, tag := t.tag, frame := t.frame, seg := t.seg }) st (v.toNat / 2 ^ 13 % 16) { t with slot := next }) st 0 t)
        st.key st.c (fun r => { r with lines := r.lines ++ [t] }))) ∧
    (isFrames st = true → plainHead s st d.toNat = some t → t.kind = kWORD → t.frame.toNat < 16 →
      t.tag.toNat < poolSize st.ctx → frameHome st.ctx t.tag.toNat = some st.t →
      (Map.get {} (rangeOf s st.key st.c).frames t.tag.toNat).present.getLsbD t.frame.toNat = false →
      ∃ u, exec (.frameWrite d) s = .next u ∧ inputOf u st.key d.toNat = (inputOf s st.key d.toNat).drop 1 ∧
        readPay u (frameAt st t.tag.toNat t.frame.toNat) = t.payload ∧
        (∀ a, (a < frameAt st t.tag.toNat t.frame.toNat ∨ frameAt st t.tag.toNat t.frame.toNat + 64 ≤ a) → readByte u a = readByte s a) ∧
        (Map.get {} (rangeOf u st.key st.c).frames t.tag.toNat).present =
          (Map.get {} (rangeOf s st.key st.c).frames t.tag.toNat).present ||| (1#16 <<< t.frame.toNat)) ∧
    (isFrames st = true → plainHead s st d.toNat = some t → t.isControl = false →
      (t.kind ≠ kWORD ∨ 16 ≤ t.frame.toNat → exec (.frameWrite d) s = .next (tileFault s st fcTOKEN t.seg)) ∧
      (t.kind = kWORD → t.frame.toNat < 16 → (poolSize st.ctx ≤ t.tag.toNat ∨ frameHome st.ctx t.tag.toNat ≠ some st.t) →
        exec (.frameWrite d) s = .next (tileFault s st fcTAG t.seg)) ∧
      (t.kind = kWORD → t.frame.toNat < 16 → t.tag.toNat < poolSize st.ctx → frameHome st.ctx t.tag.toNat = some st.t →
        (Map.get {} (rangeOf s st.key st.c).frames t.tag.toNat).present.getLsbD t.frame.toNat = true →
        exec (.frameWrite d) s = .next (tileFault s st fcFRAME t.seg))) ∧
    (∀ y' x' slot first cnt tag i, isFrames st = true →
      neighbour st.y st.x (consumerDir st.cfg.cfg) = some (y', x') → (rangeOf s st.key st.c).sending = some (tag, slot, i) → i + 1 < cnt →
      poisoned s (frameAt st tag (first + i)) 64 = false → (nodesOf st).find? (fun m => decide (m.1 = slot)) = some (slot, first, cnt) →
      ((s.tile (tileKey st.k y' x')).fch.filter (fun e => decide (e.dir = opposite (consumerDir st.cfg.cfg)))).length < 4 →
      ∃ (u : State) (w : Token), exec .frameOperandSend s = .next u ∧
        w.payload = readPay s (frameAt st tag (first + i)) ∧ w.kind = kWORD ∧ w.valid = 0xFFFF ∧
        (u.tile (tileKey st.k y' x')).fch = (s.tile (tileKey st.k y' x')).fch ++
          [{ node := slot, dir := opposite (consumerDir st.cfg.cfg), at_ := (s.tile (tileKey st.k y' x')).arrivals, tok := w }] ∧
        (rangeOf u st.key st.c).sending = some (tag, slot, i + 1)) ∧
    (isMemTile st.y st.x = true → inRect st st.y st.x = true → t.kind ≠ kRECONF →
      (plainHead s st 3 = some t → 1 ≤ credits s st.k st.y st.x 1 → exec .passStage s = .next (sendFrom (popInput s st 3) st 1 t)) ∧
      (plainHead s st 3 = none → plainHead s st 0 = some t → 1 ≤ credits s st.k st.y st.x 2 →
        exec .passStage s = .next (sendFrom (popInput s st 0) st 2 t)) ∧
      (∀ s', takeKill s st d.toNat = some (t, s') → d = 1 →
        exec (.killForward d) s = .next (sendKill s' st 3 t.tag (killMask t) t.seg))) ∧
    (∀ s' m, takeKill s st d.toNat = some (t, s') → killedSlots s st d.toNat t.tag = [m] → st.ctx.mode.getLsbD 3 = false →
      (slotSt s { st with n := m }).digit.isChain t.tag = true →
      ∃ u, exec (.killApply d) s = .next u ∧ ∀ b : Nat, (Map.get 0 (slotSt u { st with n := m }).digit.killed d.toNat).getLsbD b =
        ((Map.get 0 (slotSt s { st with n := m }).digit.killed d.toNat).getLsbD b || (killMask t).getLsbD b))

/-! ### Streams -/

/-- The stream programs SLOAD, SLOAD with PUSH, SSTORE, SGATHER, SSCATTER, KVADMIT (R404 to R409, R363, R392, R393): a
command whose checks fail raises CMD; otherwise it is handed to its tile, which opens the port; once it is first there it
reads its block and begins; with its accesses performed it completes with code 0.
That a program waits for a shut port and for a stream in a save area is the model's choice (logs 101, 102). -/
def Obligations.StreamProgramsRun : Prop :=
  ∀ (m : Cmd) (s : State) (k q pos : Nat) (c : QCmd),
    let n := (cmdFields c.word).sid.toNat
    let r := released1 s k c
    let c1 := leftQueue s k c
    let program (i : Instr) (kind : ProgKind) : Prop :=
      (Leaves s i k q pos c → (r.port (portKey k n)).shut = false → programsAway r k n c1 = false →
        (programCheck r k c1 (isEntryKind kind) = true → tileRoom r k n = true →
          exec i s = .next (setPhase (openPort r k n c1 (isEntryKind kind)) k c.id .started)) ∧
        (programCheck r k c1 (isEntryKind kind) = false → exec i s = .next (faultCmd r k 0 c1 fcCMD 0))) ∧
      (Begun s i k q pos c →
        (∀ u b, c.progress = 0 → (s.port (portKey k n)).shut = false → programsAway s k n c = false → (s.port (portKey k n)).prog = none → (s.port (portKey k n)).redo = [] →
          firstAtTile s k n c.id = true → heldByEarlier s k n c.id = false →
          blockPart (openPort s k n c (isEntryKind kind)) k c (streamEng k) = .ok u b →
          exec i s = .next (beginProg u k c kind b)) ∧
        (c.progress = 2 → (∀ x ∈ s.egress, x.core ≠ k ∨ x.cmdId ≠ some c.id) →
          (∀ l ∈ (s.port (portKey k n)).lines, l.cmdId ≠ c.id) → (∀ h ∈ (s.port (portKey k n)).hold, ∀ l, h = .line l → l.cmdId ≠ c.id) → exec i s = .next (endCmd s k c.id 0)))
    program (.sload m) .load ∧ program (.sloadPush m) .push ∧ program (.sstore m) .store ∧
    program (.sgather m) .gather ∧ program (.sscatter m) .scatter ∧ program (.kvadmit m) .kvadmit

/-- SCLOSE, SSEG, SBAR and SOWN (R397, R413, R396, R411): SCLOSE of an idle port, or of one with nothing left, retires; SSEG
retires once its count of segments is complete; CMD ends it where the stream closes first; SBAR forms an instance, or with mask 0 retires at once; SOWN gives the
declared range at its base to the declared successor once the earlier programs and the stores of the stream that owned it as
SOWN began are over.
That a port shut by SCLOSE, and a stream in a save area, make later commands wait is the model's choice (logs 101, 102). -/
def Obligations.StreamControlCommands : Prop :=
  ∀ (m : Cmd) (s : State) (k q pos : Nat) (c : QCmd),
    let n := m.sid.toNat
    let r := released1 s k c
    let c1 := leftQueue s k c
    let count := m.ops.toNat % 2 ^ 32
    let base := m.ops.toNat % 2 ^ 56
    (Leaves s (.sclose m) k q pos c → programsAway r k n c1 = false →
      (r.port (portKey k n)).isOpen = false ∨ (r.port (portKey k n)).shut = true → exec (.sclose m) s = .next (endCmd r k c.id 0)) ∧
    (Leaves s (.sclose m) k q pos c → programsAway r k n c1 = false → (r.port (portKey k n)).isOpen = true → (r.port (portKey k n)).shut = false →
      (r.port (portKey k n)).bind ≠ m.bind.toNat →
      exec (.sclose m) s = .next (faultCmd r k 0 c1 fcCMD 0)) ∧
    (Begun s (.sclose m) k q pos c → programsAway s k n c = false → (s.port (portKey k n)).isOpen = true → (s.port (portKey k n)).shut = false →
      programsOver s k n c.id = true → (s.port (portKey k n)).prog = none → (s.port (portKey k n)).redo = [] →
      streamBusy s k n = false → ((s.port (portKey k n)).entry = false ∨ 4 ≤ (s.port (portKey k n)).bind) →
      exec (.sclose m) s = .next (endCmd (closeStream s k n) k c.id 0)) ∧
    (∀ j, Begun s (.sclose m) k q pos c → programsAway s k n c = false → (s.port (portKey k n)).isOpen = true → (s.port (portKey k n)).shut = false →
      programsOver s k n c.id = true → (s.port (portKey k n)).prog = none → (s.port (portKey k n)).redo = [] →
      streamBusy s k n = false → (s.port (portKey k n)).entry = true → (s.port (portKey k n)).bind < 4 → s.regionOfStream k n = some j →
      let u := compareCounts (closeStream s k n) k j (s.port (portKey k n)).bind n (some (0, c))
      exec (.sclose m) s = .next (endCmd u.1 k c.id u.2)) ∧
    (Leaves s (.sseg m) k q pos c → programsAway r k n c1 = false →
      (r.port (portKey k n)).isOpen = false ∨ (r.port (portKey k n)).shut = true → exec (.sseg m) s = .next (faultCmd r k 0 c1 fcCMD 0)) ∧
    (Leaves s (.sseg m) k q pos c → programsAway r k n c1 = false → (r.port (portKey k n)).isOpen = true → (r.port (portKey k n)).shut = false → count = 0 → exec (.sseg m) s = .next (endCmd r k c.id 0)) ∧
    (Begun s (.sseg m) k q pos c → programsAway s k n c = false → count ≤ segsComplete s k n → exec (.sseg m) s = .next (endCmd s k c.id 0)) ∧
    (Begun s (.sseg m) k q pos c → programsAway s k n c = false → segsComplete s k n < count →
      ((s.port (portKey k n)).isOpen = true → (s.port (portKey k n)).shut = false → exec (.sseg m) s = .next s) ∧
      ((s.port (portKey k n)).isOpen = false ∨ (s.port (portKey k n)).shut = true → exec (.sseg m) s = .next (faultCmd s k 0 c fcCMD 0))) ∧
    (Leaves s (.sbar m) k q pos c → count = 0 → exec (.sbar m) s = .next (endCmd r k c.id 0)) ∧
    (Leaves s (.sbar m) k q pos c → count ≠ 0 → ∃ t, exec (.sbar m) s = .next t ∧
      t = { setPhase r k c.id .started with
            nextId := r.nextId + 1
            barriers := r.barriers ++ [{ id := r.nextId, core := k, mask := BitVec.ofNat 32 count, reached := 0
                                         scope := m.flags.extractLsb' 0 2, cmdId := some c.id, key := 0, order := false }] }) ∧
    (∀ j w, Leaves s (.sown m) k q pos c → r.regionOfStream k n = some j → ownedAt r k j m.bind.toNat base = some w →
      (w.owner = n → exec (.sown m) s = .next (endCmd r k c.id 0)) ∧
      (w.owner ≠ n → w.succ ≠ some n → exec (.sown m) s = .next (faultCmd r k 0 c1 fcCMD 0)) ∧
      (w.owner ≠ n → w.succ = some n → exec (.sown m) s = .next (setProgress (setPhase r k c.id .started) k c.id (w.owner + 1)))) ∧
    (∀ j w old, Begun s (.sown m) k q pos c → s.regionOfStream k n = some j → ownedAt s k j m.bind.toNat base = some w → c.progress = old + 1 →
      (∀ x ∈ sqBefore s k c.id, isProgram x = true → (cmdFields x.word).sid.toNat = old → isDone x = true ∨ x.progress = 2) →
      (s.port (portKey k old)).lines = [] → (s.port (portKey k old)).hold = [] → (s.port (portKey k n)).lines = [] →
      exec (.sown m) s = .next (endCmd (modCtx s k j m.bind.toNat (fun x => { x with ranges := x.ranges.map (fun v =>
        if v.base = base then v.swap else v) })) k c.id 0))

/-- What an AG tile does on its turn (R31, R33, R34, R159, R408, R79, R141): an entry tile with room and tokens to spend
sends the SOT of a segment that may begin, the elements it has read, the EOT of one that is over, and reads its next line where
they are not there; it may read on first, past the segment's end too (R158; log 41); an exit tile takes RECONF and MARK, flushes at an EOT; a line that nothing has joined leaves, in the
order in which the lines were opened; a pushed line becomes two tokens. -/
def Obligations.StreamTileEvents : Prop :=
  ∀ (s : State) (k n : Nat) (a : AgSite) (g : Prog) (e : Edge) (t : Token) (rest : List Token), s.self = .ag k n →
    let p := s.port (portKey k n)
    let out (t : State) : Res := .next (firstDone s t k n)
    let cnt := Nat.min (64 / g.esize) (g.elems - g.pos)
    (p.entry = true → closeIfDue s k n = none → resend s k n = s → p.prog = some g → progSite s k n = some a → a.ctx.edge n = some e →
      agRoom s k n ≠ 0 → (meterTake s k n).isSome = true → linkDown s (linkOfAg (portKey k n)) = false → g.sbDue = false →
      (g.inSeg = false → maySot s a = true → exec .streamTokenEmit s =
        out (if Config.readsOn s.tick = true then betweenSegs s a g e.slot else emitSot s a g e.slot)) ∧
      (g.inSeg = false → maySot s a = false → exec .streamTokenEmit s = out (betweenSegs s a g e.slot)) ∧
      (g.inSeg = true → g.elems ≤ g.pos → exec .streamTokenEmit s = out (emitEot s a g e.slot)) ∧
      (g.inSeg = true → g.pos < g.elems → g.kind = .load → g.seam = false → g.toks < a.ctx.m →
        let from_ := g.segsDone * g.elems + g.pos
        (∀ bytes, g.unitsAt from_ cnt = some bytes → exec .streamTokenEmit s = out (if Config.readsOn s.tick = true then readAhead s a g else
          emitWord s a g e.slot bytes (progIter g 0)
            (fun g' => { g' with pos := g'.pos + cnt, fetched := g'.fetched.filter (fun e => decide (from_ + cnt ≤ e.1)) }))) ∧
        (g.unitsAt from_ cnt = none → exec .streamTokenEmit s = out (readAhead s a g)))) ∧
    (p.entry = false → closeIfDue s k n = none → resend s k n = s → p.hold = [] → scatterDone p = none → p.inp = t :: rest → agSiteOf s k n = some a →
      portHeld s p = false →
      (t.kind = kRECONF ∨ t.kind = kMARK → exec .streamTokenAbsorb s = out (popPort s k n)) ∧
      (t.kind = kORDER → exec .streamTokenAbsorb s = out (absorbOrder s a t)) ∧
      (t.kind = kSBARTOK → exec .streamTokenAbsorb s = out (absorbSbar s a t)) ∧
      (p.prog = some g → g.inSeg = true →
        (t.kind = kEOT → exec .streamTokenAbsorb s = out (absorbEot s a g t)) ∧
        (t.kind = kWORD ∨ t.kind = kNULL → exec .streamTokenAbsorb s = out (absorbData s a g t)) ∧
        (t.kind = kSOT → exec .streamTokenAbsorb s = out (agFault s a fcTOKEN g.open_ 0 (progIter g 0)))) ∧
      (p.prog = some g → g.inSeg = false → g.segsDone < g.segTotal → t.kind = kEOT ∨ t.kind = kWORD ∨ t.kind = kNULL →
        exec .streamTokenAbsorb s = out (agFault s a fcTOKEN p.segNo 0 (progIter g 0))) ∧
      (p.prog = some g → g.inSeg = false → g.segsDone < g.segTotal → t.kind = kSOT →
        exec .streamTokenAbsorb s = out (setProg (popPort s k n) k n { g with
          inSeg := true, pos := 0, sub := 0, toks := 0, marks := g.marks ++ [(t.number, g.segsDone, p.orders)] }))) ∧
    (∀ i l, p.lines[i]? = some l → agSiteOf s k n = some a → exec (.coalesceTimeout i) s =
      out (flushDue k n false 8 (s.setPort (portKey k n) { p with lines := p.lines.set i { l with due := true } }))) ∧
    (∀ x more, p.lines = x :: more → agSiteOf s k n = some a →
      (replayAt s k n = true → (∀ y ∈ more, y.due = false) → ∃ u, exec (.coalesceTimeout 0) s = .next u ∧
        (u.port (portKey k n)).lines = more ∧ (u.port (portKey k n)).hold = p.hold ++ [.line { x with due := true }]) ∧
      (∀ i l, x.due = false → more[i]? = some l → ∃ u, exec (.coalesceTimeout (i + 1)) s = .next u ∧
        (u.port (portKey k n)).lines = x :: more.set i { l with due := true } ∧ (u.port (portKey k n)).hold = p.hold)) ∧
    (∀ l more, p.arriving = l :: more → ∃ u, exec .pushArrival s = .next u ∧ (u.port (portKey k n)).arriving = more ∧
      (u.port (portKey k n)).pushed = if pushOpen s k n = true then p.pushed ++ [l.extractLsb' 0 512, l.extractLsb' 512 512] else p.pushed)

/-- Requests on their way (R151, R137, R13, R164, R220, R415, R159, R144): a request leaves its core, crosses the edges of its
route one by one, and its home performs it once nothing holds it back, or notes the code it refuses it with; the answer crosses
its own route and reaches the core, a refused store as an asynchronous fault; a complete barrier
instance ends and its SBAR retires; an idle element engine takes the next stream of its stack. -/
def Obligations.RequestsAndBarriers : Prop :=
  ∀ (s s' : State) (i j key : Nat) (r : Req), s.egress[i]? = some r →
    let o : Origin := { okind := 0, master := coreMaster r.core, asid := r.asid, va := r.va
                        full := r.cells.length == 128 && r.cells.all (·.isSome) }
    let edges := (reqEdges r.core j).length
    let back := (meshEdges (homeDie (reqHome s r)) (coreDie r.core)).length
    (s.self = .slice j → reqHome s r = j → r.outcome = none → r.left = false → olderStore s i r = false →
      exec (.l2Access i) s = .next { s with egress := s.egress.eraseIdx i ++ [{ r with left := true }] }) ∧
    (s.self = .slice j → j < 256 → reqHome s r = j → r.outcome = none → r.left = true → heldBack s i r = false → r.hops < edges →
      ∃ t, exec (.l2Access i) s = .next t ∧ t.mem = s.mem ∧ { r with hops := r.hops + 1, resent := 0 } ∈ t.egress ∧ t.egress.length = s.egress.length) ∧
    (s.self = .slice j → j < 256 → reqHome s r = j → r.outcome = none → r.sid = none → r.left = true → heldBack s i r = false → edges ≤ r.hops →
      (reachHome s r.pa r.cells.length .write o = .ready s' key → ∃ t, exec (.l2Access i) s = .next t ∧
        t.mem = (perform s' key r.cells).mem ∧
        t.egress = (perform s' key r.cells).egress.map (fun q => if q.id = r.id then { q with outcome := some 0 } else q)) ∧
      (∀ c, reachHome s r.pa r.cells.length .write o = .fault s' c → ∃ t, exec (.l2Access i) s = .next t ∧ t.mem = s'.mem ∧
        t.egress = s'.egress.map (fun q => if q.id = r.id then { q with outcome := some c } else q))) ∧
    (s.self = .slice j → reqHome s r = j → r.outcome = none → r.left = true → heldBack s i r = true → exec (.l2Access i) s = .next s) ∧
    (∀ c, s.self = .core r.core → r.outcome = some c →
      (r.back < back → exec (.accessReply i) s = .next { s with egress := s.egress.set i { r with back := r.back + 1, resent := 0 } }) ∧
      (back ≤ r.back → c = 0 → exec (.accessReply i) s = .next { s with egress := s.egress.eraseIdx i }) ∧
      (back ≤ r.back → c ≠ 0 → r.sid = none → exec (.accessReply i) s = .next (pendFault { s with egress := s.egress.eraseIdx i }
        { core := r.core, asid := r.asid, code := c, va := BitVec.ofNat 64 r.va, ipc := r.pc }))) ∧
    (∀ b h, s.self = .core j → s.barriers.find? (fun b => decide (b.id = h ∧ b.core = j)) = some b → barrierComplete s b = true →
      (b.cmdId = none → exec (.streamBarrierResume h) s = .next { s with barriers := s.barriers.filter (fun x => decide (x.id ≠ h)) }) ∧
      (∀ id, b.cmdId = some id → exec (.streamBarrierResume h) s =
        .next (endCmd { s with barriers := s.barriers.filter (fun x => decide (x.id ≠ h)) } j id 0))) ∧
    (∀ h x more, s.self = .stack j → h < 16 → Map.get none (s.baseDie j).ise h = none → (s.baseDie j).iseQueue = x :: more →
      ∃ t, exec (.engineProbe h) s = .next t ∧ Map.get none (t.baseDie j).ise h = some x ∧ (t.baseDie j).iseQueue = more)

/-! ### Commands of the other queues -/

/-- METER and the voltage slew (R277 to R279, R268, R269): CEIL and CEILALL set ceilings and bursts and retire; CUT and POINT
check their operands; POINT begins a slew, a lower frequency switching first, and its end sets the voltage and retires it. -/
def Obligations.MeterCommands : Prop :=
  ∀ (m : Cmd) (s : State) (k q pos : Nat) (c : QCmd),
    let r := released1 s k c
    let c1 := leftQueue s k c
    let o := m.ops.toNat
    let j := o % 4
    let fstep := o / 4 % 32
    let mv := o / 128 % 1024
    (Leaves s (.meterCeil m) k q pos c →
      exec (.meterCeil m) s = .next (endCmd (setCeil r k m.sid.toNat (o % 2 ^ 11) (o / 2 ^ 11 % 128)) k c.id 0)) ∧
    (Leaves s (.meterCeilall m) k q pos c → exec (.meterCeilall m) s = .next (endCmd
      ((List.range 32).foldl (fun s n => setCeil s k n (o % 2 ^ 11) (o / 2 ^ 11 % 128)) r) k c.id 0)) ∧
    (let bad : Prop := vfExists (r.core k) j = false ∨ 24 < fstep ∨ mv % 10 ≠ 0 ∨ mv < vmin (400 + 50 * fstep) ∨ 750 < mv
     Leaves s (.meterPoint m) k q pos c →
      (bad → exec (.meterPoint m) s = .next (faultCmd r k 1 c1 fcCMD 0)) ∧
      (¬ bad → ((r.core k).vfRegion j).fstep ≤ fstep → exec (.meterPoint m) s = .next (setPhase
        (r.modCore k (fun x => x.setVf j { x.vfRegion j with slew := some (c.id, fstep, mv) })) k c.id .started)) ∧
      (¬ bad → fstep < ((r.core k).vfRegion j).fstep → exec (.meterPoint m) s = .next (setPhase
        ((setFstep r k j fstep).modCore k (fun x => x.setVf j { x.vfRegion j with slew := some (c.id, fstep, mv) })) k c.id .started))) ∧
    (Leaves s (.meterCut m) k q pos c →
      ((∃ a b, a < 4 ∧ b < 4 ∧ residentIn r k a b = true) → exec (.meterCut m) s = .next (faultCmd r k 1 c1 fcCFG 0)) ∧
      ((∀ a b, a < 4 → b < 4 → residentIn r k a b = false) → ∃ t, exec (.meterCut m) s = .next t ∧
        (t.core k).vcut = BitVec.ofNat 2 (o % 4) ∧ (t.core k).hcut = decide (o / 4 % 2 = 1))) ∧
    (∀ i : BitVec 2, ∀ id f v, s.self = .core k → ((s.core k).vfRegion i.toNat).slew = some (id, f, v) →
      exec (.voltageSlewDone i) s = .next (endCmd ((setFstep s k i.toNat f).modCore k (fun x =>
        x.setVf i.toNat { x.vfRegion i.toNat with mv := v, slew := none })) k id 0))

/-- The context commands (R333, R334, R339 to R342, R345, R228): CLOAD, its block and image read, completes with the context
resident, and active in an idle region, or ends with the code of what it breaks; CSWITCH to the active context completes at
once, one into an idle region by activating, and any other begins the region's switch; CRETIRE completes by emptying a frozen
slot, or one whose streams are closed, an active context at its drained boundary; CSAVE begins to stop the active context, or
completes with CFG; CRESTORE claims its area by RESUMED, loads the context or finds it in place, stops the region's active one,
and then completes by reading its area and scanning it in; an area whose bytes software has changed ends it with CFG, which is
one of the two outcomes of R339 and the model's choice (log 34). -/
def Obligations.ContextCommands : Prop :=
  ∀ (m : Cmd) (s : State) (k q pos : Nat) (c : QCmd),
    let r := released1 s k c
    let c1 := leftQueue s k c
    let slot := m.bind.toNat
    let j := m.ops.toNat % 4
    (∀ u1 b, Leaves s (.cload m) k q pos c → blockPart r k c1 (loaderEng k) = .ok u1 b →
      let l := loadBlk b c1.given
      (loadBlkOk b l = false → exec (.cload m) s = .next (faultCmd u1 k 1 c1 fcCMD 0)) ∧
      (loadBlkOk b l = true → copiesInWay u1 k (unpackRect l.rect) = [] →
        (∀ u, readImage u1 k c1 l.image = .wait u → exec (.cload m) s = .next u) ∧
        (∀ u2 image u3 w, readImage u1 k c1 l.image = .ok u2 image →
          pagesRead c1.asid (if l.mode % 2 = 1 then areaPages (unpackRect l.rect) 1 l.save else []) u2 = .ready u3 w →
          (loadImage u3 k slot (unpackRect l.rect) c1.asid image l c1.word (loadTask u3 k c1) = none →
            exec (.cload m) s = .next (faultCmd u3 k 1 c1 fcCFG 0)) ∧
          (∀ i t g, loadImage u3 k slot (unpackRect l.rect) c1.asid image l c1.word (loadTask u3 k c1) = some (i, t) → t.region k i = some g →
            (g.active = none → g.switching = none → exec (.cload m) s = .next (endCmd (activate t k i slot) k c.id 0)) ∧
            (g.active.isSome = true ∨ g.switching.isSome = true → exec (.cload m) s = .next (endCmd t k c.id 0)))))) ∧
    (∀ g x, Leaves s (.cswitch m) k q pos c → r.region k j = some g → ctxAt r k j slot = some x →
      (x.frozen = true → exec (.cswitch m) s = .next (faultCmd r k 1 c1 fcCFG 0)) ∧
      (x.frozen = false → g.stopped = none → copiesInWay r k g.rect = [] →
        (g.active = some slot → exec (.cswitch m) s = .next (endCmd r k c.id 0)) ∧
        (g.active = none → exec (.cswitch m) s = .next (endCmd (activate r k j slot) k c.id 0)) ∧
        (∀ a, g.active = some a → a ≠ slot → exec (.cswitch m) s = .next (setPhase (r.setRegion k j
          (some { g with switching := some ⟨slot, c.id, false⟩ })) k c.id .started)))) ∧
    (∀ g x, Leaves s (.cretire m) k q pos c → r.region k j = some g → ctxAt r k j slot = some x →
      (x.frozen = true → let e := compareSaved (closeSaved r k x) k j slot x c1
        exec (.cretire m) s = .next (endCmd (emptyCtx e.1 k j slot) k c1.id e.2)) ∧
      (x.frozen = false → g.stopped = none → g.switching = none →
        let idle := setPhase r k c.id .started
        let held := setPhase (r.setRegion k j (some { g with pendCmd := some c.id })) k c.id .started
        (g.active ≠ some slot → boundPorts idle k j slot = [] →
          exec (.cretire m) s = .next (endCmd (emptyCtx idle k j slot) k c.id 0)) ∧
        (∀ u, g.active ≠ some slot → closeBound idle k j slot = (u, false) → exec (.cretire m) s = .next u) ∧
        (g.active = some slot → atBoundary held k j = true → x.rerun = none → drained held k j slot = true → boundPorts held k j slot = [] →
          exec (.cretire m) s = .next (endCmd (emptyCtx held k j slot) k c.id 0)))) ∧
    (∀ i g x u w, i = m.ops.toNat / 2 ^ 56 % 4 → Leaves s (.csave m) k q pos c → r.region k i = some g → ctxAt r k i slot = some x →
      let n := if x.mode.getLsbD 0 = true then x.clones.length + 1 else 1
      let va := m.ops.toNat % 2 ^ 56
      pagesRead c1.asid (areaPages g.rect n va) r = .ready u w → u.region k i = some g →
      (g.active ≠ some slot ∨ areaOk u c1.asid g.rect n va = false → exec (.csave m) s = .next (faultCmd u k 1 c1 fcCFG 0)) ∧
      (g.active = some slot → x.frozen = false → g.stopped = none → areaOk u c1.asid g.rect n va = true →
        ∃ t h, exec (.csave m) s = .next t ∧ t.region k i = some h ∧ h.pendCmd = some c.id ∧ h.active = some slot ∧
          h.stopped = if x.mode.getLsbD 0 = true then some (slot, none) else none)) ∧
    (∀ i g x, i = m.ops.toNat / 2 ^ 56 % 4 → Begun s (.csave m) k q pos c → s.region k i = some g → ctxAt s k i slot = some x →
      g.stopped = none →
      (x.mode.getLsbD 0 = true → exec (.csave m) s = .next (modRegion s k i (fun h => { h with stopped := some (slot, none) }))) ∧
      (x.mode.getLsbD 0 = false → atBoundary s k i = true → x.rerun = none →
        (∀ n, n < 32 → s.regionOfStream k n = some i → (s.port (portKey k n)).bind = slot → streamBusy s k n = false) →
        exec (.csave m) s = .next (modRegion (dropCopies s k i slot 0) k i (fun h => { h with stopped := some (slot, none) })))) ∧
    (∀ u bytes, Leaves s (.crestore m) k q pos c →
      let va := m.ops.toNat % 2 ^ 56
      let h := areaHdr bytes
      let rc := unpackRect (m.ops.toNat / 2 ^ 56 % 2 ^ 18)
      readPart r k c1 (loaderEng k) 0 [(va, 64)] = .ok u bytes →
      (c1.puts.contains (9, 0) = false →
        (restoreOk u k slot c1 rc va h (regionWith u k rc) = false → exec (.crestore m) s = .next (faultCmd u k 1 c1 fcCFG 0)) ∧
        (∀ u2 key, restoreOk u k slot c1 rc va h (regionWith u k rc) = true → copiesInWay u k rc = [] →
          engReach u (loaderEng k) c1.asid (va + 14) 1 .write = .ok u2 key →
          ((readByte u2 key).getLsbD 3 = true ∨ areaState u2 c1.asid va = none → exec (.crestore m) s = .next (faultCmd u2 k 1 c1 fcCFG 0)) ∧
          ((readByte u2 key).getLsbD 3 = false → (areaState u2 c1.asid va).isSome = true → exec (.crestore m) s =
            .next (modCmd (perform u2 key [some (readByte u2 key ||| 8)]) k c1.id (fun q => { q with puts := q.puts ++ [(9, 0)] }))))) ∧
      (c1.puts.contains (9, 0) = true →
        (∀ i, regionWith u k rc = some i → restoreInPlace u k i slot c1.asid va = true →
          exec (.crestore m) s = .next (stopFor u k i slot c1 va true)) ∧
        (∀ pa a u2 i t, regionWith u k rc = none → areaState u c1.asid va = some (pa, a) →
          reload u k c1 slot rc h (a.ctx.clones.length + 1) va = .ok u2 (some (i, t)) →
          exec (.crestore m) s = .next (stopFor t k i slot c1 va false)))) ∧
    (∀ i pa a u bytes, Begun s (.crestore m) k q pos c →
      let va := m.ops.toNat % 2 ^ 56
      let rc := unpackRect (m.ops.toNat / 2 ^ 56 % 2 ^ 18)
      (c.progress = 0 → exec (.crestore m) s = .next s) ∧
      (c.progress = 1 → regionWith s k rc = some i → areaState s c.asid va = some (pa, a) →
        readPart s k c (loaderEng k) 3 [(va, areaSize rc (a.ctx.clones.length + 1))] = .ok u bytes →
        (areaSame a bytes = true → copiesFit u k i slot a = true → exec (.crestore m) s = .next (endCmd (scanIn u k i slot pa a) k c.id 0)) ∧
        (areaSame a bytes = false → exec (.crestore m) s = .next (unresume u k c va (fun t =>
          faultCmd (if c.puts.contains (8, 0) then t else emptyCtx t k i slot) k 1 c fcCFG 0)))))

/-- The events of a region (R40, R226, R227, R237, R274, R340): at the boundary every entry tile emits RECONF, which its meter
charges, and the switch settles once none is left; a discarded segment runs again; a stopped context is scanned out line by line,
its fault is delivered or its CSAVE retires at the end, and a switch that waited for it goes on; a region
in which nothing has moved for 2^24 cycles raises WATCHDOG, and one with a tripped entry tile does not. -/
def Obligations.RegionEvents : Prop :=
  ∀ (d : BitVec 2) (s : State) (k : Nat) (g : Region), s.self = .core k → s.region k d.toNat = some g →
    let j := d.toNat
    (∀ w a x, g.switching = some w → g.active = some a → g.ctx a = some x → w.settling = false → g.stopped = none → x.rerun = none →
      atBoundary s k j = true → drained s k j a = true →
      (∀ e ∈ entryTiles s k x, agRoom s k e.1 ≠ 0 ∧ (meterTake s k e.1).isSome = true) →
      exec (.reconfEmit d) s = .next (modRegion ((entryTiles s k x).foldl (fun s e =>
          deliver (stirred ((meterTake s k e.1).getD s) k j) k (agSite e.1).1 (agSite e.1).2.1 (agSite e.1).2.2 (reconfTok e.2 w.slot))
        (dropCopies (dropSettled s k j a) k j a 0)) k j (fun r => { r with switching := some { w with settling := true } }))) ∧
    (∀ w a x, g.switching = some w → g.active = some a → g.ctx a = some x →
      (w.settling = true ∨ atBoundary s k j = false ∨ drained s k j a = false) → exec (.reconfEmit d) s = .next s) ∧
    (∀ w, g.switching = some w → w.settling = true → reconfLeft s k j g.rect = false →
      let t := modRegion (deactivate (parkActive s k j) k j) k j (fun r => { r with switching := none })
      (findCmd t k w.cmdId = none → exec (.cswitchSettle d) s = .next (activate t k j w.slot)) ∧
      (∀ q, findCmd t k w.cmdId = some q → cmdOpcode q.word ≠ 0x14 →
        exec (.cswitchSettle d) s = .next (endCmd (activate t k j w.slot) k q.id 0)) ∧
      (∀ q, findCmd t k w.cmdId = some q → cmdOpcode q.word = 0x14 → exec (.cswitchSettle d) s = .next (setProgress t k q.id 1))) ∧
    (∀ c x u, g.active = some c → g.ctx c = some x → x.rerun = some u →
      let t := modCtx s k j c (fun x => { x with rerun := none })
      (u.waits = none ∨ u.status = some 0 → exec (.replayRerun d) s = .next t) ∧
      (∀ code, u.waits.isSome = true → u.status = some code → code ≠ 0 →
        exec (.replayRerun d) s = .next (stopLoad (discard (deliverSeg t k j c u.fault true 0) k j c u.seg) k j c fcDEEP)) ∧
      (u.waits.isSome = true → u.status = none → exec (.replayRerun d) s = .next s)) ∧
    (let after (t : State) : State := match g.switching with | some w => finishSwitch t k j w | none => t
     let scans (c : Nat) (asid : BitVec 16) (va : Nat) (fin : State) : Prop :=
       (areaFree s k j = false → exec (.freezeScanComplete d) s = .next s) ∧
       (areaFree s k j = true → g.scanLeft = none → exec (.freezeScanComplete d) s = .next (modRegion s k j (fun h =>
         { h with scanLeft := some (List.range (areaSize g.rect (copiesAt s k j c + 1) / 128)), scanned := [] }))) ∧
       (∀ left i u key, areaFree s k j = true → g.scanLeft = some left → left[Config.pieceOrder s.tick % left.length]? = some i →
         engReach s (loaderEng k) asid (va + 128 * i) 128 .write = .ok u key →
         let line := areaLine u.tick i (headerOf u k j c)
         exec (.freezeScanComplete d) s = .next (modRegion (perform u key (line.map some)) k j (fun h =>
           { h with scanLeft := some (left.eraseIdx (Config.pieceOrder s.tick % left.length)), scanned := h.scanned ++ [(i, line)] }))) ∧
       (areaFree s k j = true → g.scanLeft = some [] → exec (.freezeScanComplete d) s = .next (after fin))
     (∀ c f x, g.stopped = some (c, some f) → ctxAt s k j c = some x → saveCmd s k g = none →
       scans c x.asid x.save (scanOut (deliverSeg s k j c f false x.save) k j c x.asid x.save)) ∧
     (∀ c q va, g.stopped = some (c, none) → saveCmd s k g = some (q, va) →
       scans c q.asid va (endCmd (scanOut (pinArea s q.asid g.rect (copiesAt s k j c + 1) va k j c) k j c q.asid va) k q.id 0))) ∧
    (∀ c, g.active = some c → g.stopped = none →
      (watchStill s k j = false → 2 ^ 24 ≤ watchCount s k j →
        (∀ e rest, (liveSegs s k j c).map (·.n) = e :: rest →
          exec (.watchdog d) s = .next (segFault s k j c { code := fcWATCHDOG, seg := rest.foldl Nat.min e })) ∧
        (liveSegs s k j c = [] → exec (.watchdog d) s = .next s)) ∧
      (watchStill s k j = true ∨ watchCount s k j < 2 ^ 24 → exec (.watchdog d) s = .next s))

/-- The hoist engines (R357, R358, R146): a command whose block is in order begins, moves one line of the destination after
another, and completes after the last; the lines of a destination cover its bytes once, and lie within one line each.
The sluice commands (R145, R398, R402, R403): each goes to its stack's queue and to an engine there. SEAMPACK reads and checks
its rows, and completes once its block and side record are written; SELPRED and SELTOPK read their block, look at one element
after another, and complete with their header written last: SELTOPK writes nothing before every line of its result is let in.
The order of lines where R146 and R149 give none is free (logs 16, 106), as the model chose. -/
def Obligations.HoistAndSluiceCommands : Prop :=
  (∀ (m : Cmd) (s : State) (k q pos : Nat) (c : QCmd),
     let r := released1 s k c
     let c1 := leftQueue s k c
     let hoist (i : Instr) (copy : Bool) : Prop :=
       (Leaves s i k q pos c → ((queueCmds r k 2).filter (fun x => decide (x.phase = .started))).length < 2 →
         ∀ u b, blockPart r k c1 (hoistEng k) = .ok u b →
           1 ≤ hoistLen b → hoistLen b ≤ 2 ^ 40 → blkZero b 24 64 = true → hoistDst b + hoistLen b ≤ 2 ^ 56 →
           (copy = true → hoistSrc b + hoistLen b ≤ 2 ^ 56) →
           exec i s = .next (modCmds u k (fun x => decide (x.id = c.id)) (fun x => { x with phase := .started, block := b }))) ∧
       (Begun s i k q pos c →
         let line := hoistLine s k c c.block copy (hoistOrder c.block copy (Config.copyDescends c.id) c.progress)
         (hoistCount (hoistDst c.block) (hoistLen c.block) ≤ c.progress → exec i s = .next (endCmd s k c.id 0)) ∧
         (c.progress < hoistCount (hoistDst c.block) (hoistLen c.block) →
           (∀ u, line = .wait u → exec i s = .next u) ∧
           (∀ u v, line = .ok u v → exec i s = .next (modCmd u k c.id (fun q => { q with progress := c.progress + 1, parts := [], puts := [] })))))
     hoist (.hcopy m) true ∧ hoist (.hfill m) false ∧
     (∀ d n x : Nat, d ≤ x → x < d + n → ∃ i, i < hoistCount d n ∧
       d + (hoistPiece d n i).1 ≤ x ∧ x < d + (hoistPiece d n i).1 + (hoistPiece d n i).2 ∧
       ∀ i', i' < hoistCount d n → d + (hoistPiece d n i').1 ≤ x → x < d + (hoistPiece d n i').1 + (hoistPiece d n i').2 → i' = i) ∧
     (∀ d n i : Nat, 0 < n → i < hoistCount d n → 0 < (hoistPiece d n i).2 ∧
       (d + (hoistPiece d n i).1) / 128 = (d + (hoistPiece d n i).1 + (hoistPiece d n i).2 - 1) / 128)) ∧
  (∀ (m : Cmd) (s : State) (k q pos : Nat) (c : QCmd),
     let r := released1 s k c
     let c1 := leftQueue s k c
     let j := stackField m
     let e := sluiceEng k j
     let seeks (i : Instr) : Prop :=
       (Leaves s i k q pos c → sluiceRun r j k c.id = none →
         (∀ u, (r.baseDie j).sluice.length < 16 → crossFrom r (coreDie k) (j / 2) 0 = (u, false) →
           exec i s = .next (setPhase (u.modBaseDie j (fun b => { b with sluice := b.sluice ++ [(k, c1.id)] })) k c1.id .started)) ∧
         (16 ≤ (r.baseDie j).sluice.length → exec i s = .next r)) ∧
       (∀ eng rest, Begun s i k q pos c → sluiceRun s j k c.id = none → (s.baseDie j).idle = eng :: rest →
         (s.baseDie j).sluice.head? = some (k, c.id) →
         exec i s = .next (s.modBaseDie j (fun b => { b with
           sluice := b.sluice.drop 1, idle := rest, runs := b.runs ++ [{ engine := eng, core := k, cmdId := c.id, block := 0 }] })))
     seeks (.seampack m) ∧ seeks (.selpred m) ∧ seeks (.seltopk m) ∧
     (∀ w u1 b u2 l, Begun s (.seampack m) k q pos c → sluiceRun s j k c.id = some w → blockPart s k c e = .ok u1 b → packOk b = true →
       let p := packArgs b
       let kr := chunks 256 p.ntok l
       let vr := chunks 256 p.ntok (l.drop (256 * p.ntok))
       readPart u1 k c e 1 (packRows p) = .ok u2 l →
       (packBad kr p.ntok = true ∨ packBad vr p.ntok = true →
         exec (.seampack m) s = .next (faultCmd (endRun u2 j w) k 3 c fcSEAM 0)) ∧
       (packBad kr p.ntok = false → packBad vr p.ntok = false →
         (∀ u v, c.progress = 0 → engChecks e c.asid .write ((packTo p).flatMap (fun x => linesOf x.1 x.2)) u2 = .ok u v →
           exec (.seampack m) s = .next (setProgress u k c.id 1)) ∧
         (c.progress ≠ 0 →
           let write := writePart u2 k c e 0 (packTo p) ((packBytes p kr vr).1 ++ (packBytes p kr vr).2)
           (∀ u, write = .wait u → exec (.seampack m) s = .next u) ∧
           (∀ u v, write = .ok u v → exec (.seampack m) s = .next (endCmd (endRun u j w) k c.id 0))))) ∧
     (let select (i : Instr) (topk : Bool) : Prop := ∀ w, Begun s i k q pos c → sluiceRun s j k c.id = some w →
          (∀ u b u2 l, c.progress = 0 → blockPart s k c e = .ok u b → selOk b topk = true →
            readPart u k c e 1 (if selMode b = 1 then [(selQva b, 256)] else []) = .ok u2 l →
            exec i s = .next (setProgress (setRun u2 j { w with block := b, query := l }) k c.id 1)) ∧
          (c.progress ≠ 0 → w.pos < selCount w.block → exec i s = .next (selScan s j k c w topk) ∧
            (selMode w.block ≠ 1 → w.buf ≠ [] →
              let raw := ofBytes (w.buf.take (selSize w.block))
              let next := { w with pos := w.pos + 1, buf := w.buf.drop (selSize w.block) }
              (topk = true → exec i s = .next (setRun s j { next with
                best := insertBest (selScore w.block) (selK w.block) (w.pos, raw, 0) w.best })) ∧
              (topk = false → selHolds w.block raw = false → exec i s = .next (setRun s j next)))) ∧
          (topk = false → c.progress ≠ 0 → selCount w.block ≤ w.pos → ∀ u v,
            writePart s k c e 1 [(selResult w.block, 64)] (selHeader w.count) = .ok u v → exec i s = .next (endCmd (endRun u j w) k c.id 0)) ∧
          (topk = true → selCount w.block ≤ w.pos →
            let recs := w.best.flatMap (selRecord w.block)
            let left := if c.sent.any (fun x => decide (x.1 ≠ 0)) then c.sent.filter (fun x => decide (x.1 ≠ 0)) else c.sent
            (∀ u l, c.progress = 1 → sendAll e c.asid (topkTo w.block recs.length) s [] = .ok u l →
              exec i s = .next (modCmd u k c.id (fun q => { q with progress := 2, sent := l }))) ∧
            (2 ≤ c.progress → left = [] → exec i s = .next (endCmd (endRun s j w) k c.id 0)) ∧
            (∀ x p, 2 ≤ c.progress → left[Config.pieceOrder s.tick % left.length]? = some x → (topkTo w.block recs.length)[x.1]? = some p →
              paHeld s x.2.2.1 = false → exec i s = .next (modCmd (perform s x.2.2.2
                ((((selHeader w.best.length ++ recs).drop (x.2.1 - selResult w.block)).take p.1.2).map some)) k c.id
                (fun q => { q with sent := q.sent.filter (fun y => decide (y.1 ≠ x.1)) }))))
      select (.selpred m) false ∧ select (.seltopk m) true))

/-- The collectives (R337, R338, R308): a command, its block and its group read, joins the group's instance; an instance
that has every member, agreeing in operation, type and length, reads all sources and then writes destination after destination;
each member's command ends with 0 once its own is written. COLLGATH gives every rank the sources in rank order, COLLSCAT its part of rank 0's. -/
def Obligations.CollectivesRun : Prop :=
  ∀ (m : Cmd) (s : State) (k q pos : Nat) (c : QCmd),
    let r := released1 s k c
    let c1 := leftQueue s k c
    let join (i : Instr) (op : Nat) : Prop := ∀ u1 b u2 head u3 ms, Leaves s i k q pos c →
      blockPart r k c1 (collEng k) = .ok u1 b → collBlockOk op b = true →
      readPart u1 k c1 (collEng k) 1 [(collGroup b, 16)] = .ok u2 head → groupOk head = true →
      let n := ofBytes (head.take 2)
      let rank := ofBytes ((head.drop 2).take 2)
      readPart u2 k c1 (collEng k) 2 [(collGroup b + 16, 4 * n)] = .ok u3 ms →
      let g : Group := { nmem := n, rank, gid := ofBytes ((head.drop 4).take 4)
                         members := (List.range n).map (fun i => ofBytes ((ms.drop (4 * i)).take 4)) }
      let x : Member := { rank, core := k, cmdId := c1.id, asid := c1.asid, opcode := op, block := b }
      (overlap (collSrc b) (collReads op rank n (collLen b)) (collDst b) (collWrites op n (collLen b)) = false →
        exec i s = .next (joinColl (setPhase u3 k c1.id .started) g.gid n g.members x (if groupNames u3 k g = true then none else some fcCMD))) ∧
      (overlap (collSrc b) (collReads op rank n (collLen b)) (collDst b) (collWrites op n (collLen b)) = true →
        exec i s = .next (joinColl (faultCmd u3 k 4 c1 fcCMD 0) g.gid n g.members x (some fcCMD)))
    join (.collred m) 0x30 ∧ join (.collgath m) 0x31 ∧ join (.collscat m) 0x32 ∧
    (∀ i (w : Coll), s.self = .module → s.colls[i]? = some w → w.code = none → farFault s w = none → w.nmem ≠ 0 →
      w.near s ≤ w.members.length → (w.far s = [] ∨ w.srcs.isSome = true ∨ Config.membersThere s.tick = true) →
      let ms := (List.range w.nmem).filterMap (fun r => w.members.find? (fun m => decide (m.rank = r)))
      let ended (t : State) : State := { t with colls := t.colls.eraseIdx i }
      w.near s ≤ ms.length →
      (∀ x, collOdd ms = some x → exec (.collectiveInstance i) s = .next (ended (collFail s w (some x) fcCMD 0))) ∧
      (collOdd ms = none → w.srcs = none →
        (∀ u x, collSources w.nmem (anyFirst s ms) s = (.wait u, x) → exec (.collectiveInstance i) s = .next u) ∧
        (∀ u y x, collSources w.nmem (anyFirst s ms) s = (.ok u y, x) → exec (.collectiveInstance i) s = .next { u with
          colls := u.colls.set i { w with srcs := some ((List.range w.nmem).map (fun r => (collKnown u w r).map (·.getD 0))) } })) ∧
      (∀ l, collOdd ms = none → w.srcs = some l →
        let srcs : List (List (Option Byte)) := l.map (fun b => b.map some)
        (∀ u x, collWrite w.nmem srcs (anyFirst s ms) s = (.wait u, x) → exec (.collectiveInstance i) s = .next u) ∧
        (∀ u y x, collWrite w.nmem srcs (anyFirst s ms) s = (.ok u y, x) → exec (.collectiveInstance i) s = .next (ended u)))) ∧
    (∀ i (w : Coll), s.self = .module → s.colls[i]? = some w → w.code = none → farFault s w = none → w.members.length < w.near s →
      exec (.collectiveInstance i) s = .next s) ∧
    (∀ n (srcs : List (List (Option Byte))) x rest c' u y, memberCmd s x = some c' →
      writePart s x.core c' (collEng x.core) 0 (collTo n x) ((memberResult x srcs).map (·.getD 0)) = .ok u y →
      collWrite n srcs (x :: rest) s = collWrite n srcs rest (endCmd u x.core x.cmdId 0)) ∧
    (∀ (len rank : Nat) (srcs : List (List (Option Byte))),
      collResult 0x31 0 0 len rank srcs = srcs.flatten ∧
      collResult 0x32 0 0 len rank srcs = ((srcs.getD 0 []).drop (rank * len)).take len)

/-- Pages (R387 to R389, R202, R169, R380, R147, R217): PGPIN completes with every page of its range pinned, or with XLATE at
the first that cannot be; PGREL releases its pages one after the other and completes once the accesses translated before are
performed; MIGRATE blocks translation, waits for the accesses on their way, copies the frame line by line, writes the PTE, shoots
the page down and completes; a fetch takes a frame, reads its drive line by line, stalls translation, and ends with its record; a
page that goes to the deep tier is blocked, read line by line and shot down; a cache may drop an entry. -/
def Obligations.PageCommands : Prop :=
  ∀ (m : Cmd) (s : State) (k q pos : Nat) (c : QCmd),
    let r := released1 s k c
    let c1 := leftQueue s k c
    let pages := (List.range (m.ops.toNat / 2 ^ 64 % 2 ^ 16)).map (fun i => m.ops.toNat % 2 ^ 56 + 65536 * i)
    (∀ u w h, Leaves s (.pgpin m) k q pos c → pagesRead c1.asid pages r = .ready u w → pinHolders u k m.bind.toNat = [h] →
      (∀ v, pinPages u c1.asid h true pages = .ok v → exec (.pgpin m) s = .next (endCmd v k c1.id 0)) ∧
      (∀ va, pinPages u c1.asid h true pages = .error va → exec (.pgpin m) s = .next (faultCmd u k 5 c1 fcXLATE va))) ∧
    (∀ u d, (Leaves s (.pgrel m) k q pos c ∧ u = setPhase r k c1.id .started ∧ d = c1) ∨
        (Begun s (.pgrel m) k q pos c ∧ u = setPhase s k c.id .started ∧ d = c) →
      let before := translatedTo u (fun asid va _ => decide (asid = d.asid) && d.puts.any (fun p => pages[p.2]? = some (va / 65536 * 65536)))
      (∀ page, d.block = 0 → pages[d.progress]? = some page →
        ((d.asid, page) ∈ u.blocked → exec (.pgrel m) s = .next u) ∧
        (∀ v w, (d.asid, page) ∉ u.blocked → pteRead u d.asid page = .ready v w →
          (∀ t, releasePage v d.asid page = .left t → exec (.pgrel m) s = .next (setProgress t k d.id (d.progress + 1))) ∧
          (∀ t, releasePage v d.asid page = .cleared t → exec (.pgrel m) s = .next (modCmd (setProgress t k d.id (d.progress + 1)) k d.id
            (fun x => { x with puts := x.puts ++ [(0, d.progress)] }))) ∧
          (∀ code, releasePage v d.asid page = .fault code → exec (.pgrel m) s = .next (modCmd v k d.id
            (fun x => { x with block := BitVec.ofNat 512 (256 * page + code.toNat) }))))) ∧
      (d.block ≠ 0 ∨ pages[d.progress]? = none →
        (before = true → exec (.pgrel m) s = .next u) ∧
        (before = false → d.block = 0 → exec (.pgrel m) s = .next (endCmd u k d.id 0)) ∧
        (before = false → d.block ≠ 0 → exec (.pgrel m) s =
          .next (faultCmd u k 5 d (BitVec.ofNat 8 d.block.toNat) (d.block.toNat / 256))))) ∧
    (∀ asid page at_ e, rawPte s asid page = .ok (some (at_, e, true)) → e % 2 = 1 →
      (pageLoose s asid page = true →
        releasePage s asid page = .cleared (shootdown (perform s at_ ((toBytes 8 (e - 1)).map some)) asid page)) ∧
      (pageLoose s asid page = false → releasePending s asid page = false →
        releasePage s asid page = .left { s with releasing := s.releasing ++ [{ asid, page }] })) ∧
    (let va := m.ops.toNat % 2 ^ 56
     let new := m.ops.toNat / 2 ^ 64 % 2 ^ 32
     (∀ u w l, Leaves s (.migrate m) k q pos c → (c1.asid, va) ∉ r.blocked → pteRead r c1.asid va = .ready u w → walkLeaf u c1.asid va = .ok l →
      let old := l.e / 2 ^ 16 % 2 ^ 32
      (l.small = false ∨ releasePending u c1.asid va = true → exec (.migrate m) s = .next (faultCmd u k 5 c1 fcXLATE va)) ∧
      (l.small = true → releasePending u c1.asid va = false → l.e / 2 ^ 7 % 2 = 0 → new < 2 ^ 23 →
        (new = old → exec (.migrate m) s = .next (endCmd u k c1.id 0)) ∧
        (new ≠ old → exec (.migrate m) s = .next (modCmd { u with blocked := u.blocked ++ [(c1.asid, va)] } k c1.id
          (fun c => { c with phase := .started, block := BitVec.ofNat 512 old }))))) ∧
     (Begun s (.migrate m) k q pos c →
      let old := c.block.toNat
      let left := (List.range 512).filter (fun i => !c.puts.contains (0, i))
      let busy := translatedTo s (fun _ _ pa => decide (pa / 65536 = old))
      (c.progress = 0 → (busy = true → exec (.migrate m) s = .next s) ∧ (busy = false → exec (.migrate m) s = .next (setProgress s k c.id 1))) ∧
      (∀ i u w, c.progress ≠ 0 → left[Config.pieceOrder s.tick % left.length]? = some i → copyReach s c.asid va old new i = .ready u w →
        exec (.migrate m) s = .next (modCmd (copyLine u old new i) k c.id (fun c => { c with puts := c.puts ++ [(0, i)] }))) ∧
      (∀ u w l, c.progress ≠ 0 → left = [] → pteRead s c.asid va = .ready u w → walkLeaf u c.asid va = .ok l →
        exec (.migrate m) s = .next (endCmd (unblock (shootdown (perform (moveSave u old new) l.pteAt
          ((toBytes 8 (l.e - l.e / 2 ^ 16 % 2 ^ 32 * 2 ^ 16 + new * 2 ^ 16)).map some)) c.asid va) c.asid va) k c.id 0))) ∧
     (∀ old i a, i < 512 → a < 128 →
      readByte (copyLine s old new i) (65536 * new + 128 * i + a) = readByte s (65536 * old + 128 * i + a))) ∧
    (∀ i f b, s.self = .module → s.fetches[i]? = some f →
      (∀ st, f.ended = some st → exec (.deepFetchComplete i b) s = .next (endFetch s i f st)) ∧
      (f.ended = none → f.frame = none → Config.drivePages f.port ≤ f.index → exec (.deepFetchComplete i b) s = .next (endFetch s i f 3)) ∧
      (∀ u w, f.ended = none → f.frame = none → f.index < Config.drivePages f.port → portReads s f.port < 64 → poolReach s f.asid = .ready u w →
        (takeFrame u f.asid = none → exec (.deepFetchComplete i b) s = .next (endFetch u i f 1)) ∧
        (∀ v frame, takeFrame u f.asid = some (v, frame) →
          exec (.deepFetchComplete i b) s = .next { v with fetches := v.fetches.set i { f with frame := some frame } })) ∧
      (∀ frame, f.ended = none → f.frame = some frame → f.stalled = false →
        exec (.deepFetchComplete i true) s = .next (endFetch s i f 2) ∧
        (∀ n u key, nextLine s f.moved = some n → reach s (65536 * frame + 128 * n) 128 .write { serviceOrigin with full := true } = .ready u key →
          ∃ t, exec (.deepFetchComplete i false) s = .next t ∧ t.mem = (perform u key ((driveLine u f.port f.index n).map some)).mem ∧
            t.fetches = (perform u key ((driveLine u f.port f.index n).map some)).fetches.set i { f with moved := f.moved ++ [n] }) ∧
        (nextLine s f.moved = none → exec (.deepFetchComplete i false) s = .next { s with fetches := s.fetches.set i { f with stalled := true } })) ∧
      (∀ frame u w, f.ended = none → f.frame = some frame → f.stalled = true → pteRead s f.asid f.page = .ready u w →
        exec (.deepFetchComplete i b) s = .next (endFetch (installPage u f frame) i f 0))) ∧
    (∀ cache n, s.self = .module → ∃ t, exec (.translationCacheDrop cache n) s = .next t ∧ t.mem = s.mem ∧
      Map.get [] t.tcaches cache = (Map.get [] s.tcaches cache).eraseIdx n) ∧
    (∀ asid va (port : BitVec 2) (index : BitVec 30) u w l, s.self = .module →
      let page := va / 65536 * 65536
      pteRead s asid page = .ready u w → walkLeaf u asid page = .ok l →
      l.small = true → l.e / 2 ^ 7 % 2 = 0 → releasePending u asid page = false → (asid, page) ∉ u.blocked →
      (∀ p ∈ u.pins, ¬ (p.1 = asid ∧ p.2.1 = page)) → index.toNat < Config.drivePages port.toNat →
      exec (.moveToDeepTier asid va port index) s = .next { u with
        blocked := u.blocked ++ [(asid, page)]
        descents := u.descents ++ [{ asid, page, port := port.toNat, index := index.toNat, frame := l.e / 2 ^ 16 % 2 ^ 32 }] }) ∧
    (∀ i d, s.descents[i]? = some d → (∀ p ∈ s.pins, ¬ (p.1 = d.asid ∧ p.2.1 = d.page)) →
      translatedTo s (fun _ _ pa => decide (pa / 65536 = d.frame)) = false →
      (∀ n u key, nextLine s d.moved = some n → reach s (65536 * d.frame + 128 * n) 128 .read serviceOrigin = .ready u key →
        descend s i = { putDriveLine u d.port d.index n (readMem u key 128) with descents := u.descents.set i { d with moved := d.moved ++ [n] } }) ∧
      (∀ u w l, nextLine s d.moved = none → pteRead s d.asid d.page = .ready u w → walkLeaf u d.asid d.page = .ok l →
        ∃ t, descend s i = t ∧ t.mem = (perform u l.pteAt ((toBytes 8 (d.port * 2 ^ 46 + d.index * 2 ^ 16 + l.e % 2 ^ 16 + 128)).map some)).mem ∧
          (d.asid, d.page) ∉ t.blocked))

/-! ### Assayers, slices and the system -/

/-- The instructions of a handler (R182, R183, R323, Tables 8.6 and 8.7): each completes with its register, the pc after it, its
cycles and one more in INSTRET; a refusal is a value in rd. -/
def Obligations.AssayerInstructions : Prop :=
  ∀ (g a d : BitVec 5) (s : State) (h : Nat) (e : SliceEv),
    let i := h / 4
    let v := hx s h a
    let r := hx s h g
    let w := s.way i (handleSet v) (handleWay v)
    let at_ := r.toNat
    let done (t : State) (cyc : Nat) (x : BitVec 32) : Res := .next (hartRetire (hartIssue t h) h cyc d.toNat x ((s.hart h).pc + 4))
    let stop (c : Nat) : Res := .next (abortHandler (hartIssue s h) h c)
    (HandlerTurn s h e 8 → dmemCheck s h e at_ 128 4 = none →
      (handleOk s h e v false = true → wayPoisoned s w = false →
        exec (.ayLdl g a d) s = done (dmemWrite s h at_ (wayBytes s w)) 8 (stateWord s h e v)) ∧
      (handleOk s h e v false = false ∨ wayPoisoned s w = true → exec (.ayLdl g a d) s = done s 8 0) ∧
      (∀ t, handleOk s h e v true = true → storeLine s h e v (dmemRead s h at_ 128) = some t →
        exec (.ayStl g a d) s = done t 8 (stateWord t h e v)) ∧
      (handleOk s h e v true = false → exec (.ayStl g a d) s = done s 8 0)) ∧
    (HandlerTurn s h e 8 → ∀ c, dmemCheck s h e at_ 128 4 = some c →
      exec (.ayLdl g a d) s = stop c ∧ exec (.ayStl g a d) s = stop c) ∧
    (HandlerTurn s h e 2 → dmemCheck s h e v.toNat 8 8 = none →
      let va := ofBytes (dmemRead s h v.toNat 8)
      (va % 128 = 0 → 1 ≤ r.toNat → r.toNat ≤ 16 →
        (∀ t got, fillLines h e r.toNat va s 0 = (t, some got) → exec (.ayFill g a d) s = done t 2 (BitVec.ofNat 32 got)) ∧
        (∀ t, fillLines h e r.toNat va s 0 = (t, none) → exec (.ayFill g a d) s = .next (hartIssue t h))) ∧
      (va % 128 ≠ 0 ∨ r.toNat = 0 ∨ 16 < r.toNat → exec (.ayFill g a d) s = stop acARG)) ∧
    (HandlerTurn s h e 2 → r.toNat < 96 * 32 →
      let k := 96 * (i / 64) + r.toNat / 32
      let n := r.toNat % 32
      (handleOk s h e v false = false ∨ wayPoisoned s w = true → exec (.ayPush g a d) s = done s 2 3) ∧
      (handleOk s h e v false = true → wayPoisoned s w = false →
        (mayPush s k (assayerMaster i) = false →
          exec (.ayPush g a d) s = done (deny s (tgtCore k) (assayerMaster i) (Config.pushAddr s.tick) 3) 2 2) ∧
        (mayPush s k (assayerMaster i) = true → pushOpen s k n = false → exec (.ayPush g a d) s = done s 2 1) ∧
        (mayPush s k (assayerMaster i) = true → pushOpen s k n = true → 0 < pushCredits (s.port (portKey k n)) →
          exec (.ayPush g a d) s = done (s.modPort (portKey k n) (fun p => { p with
            arriving := p.arriving ++ [BitVec.ofNat 1024 (ofBytes (wayBytes s w))] })) 2 0))) ∧
    (HandlerTurn s h e 2 → r.toNat < 2 →
      let set := handleSet v
      let way := handleWay v
      (∀ x, e.hook ≠ 2 → handleOk s h e v false = true → wayHeld s i set way = false → w = some x →
        exec (.ayEvict g a d) s = done ((writeBack s i w).setWay i set way (if r.toNat = 1 then some { x with dirty := false } else none)) 2 0) ∧
      (e.hook ≠ 2 → handleOk s h e v false = false ∨ wayHeld s i set way = true → exec (.ayEvict g a d) s = done s 2 1) ∧
      (e.hook = 2 → r.toNat = 0 → v.toNat < 2 ^ 15 → set = setOf e.line → way ≠ e.way → wayHeld s i set way = false →
        (wayReserved s i set way = false ∨ way = (s.hart h).victim) → (w = none ∨ taggedBy s i e.entry w = true) →
        exec (.ayEvict g a d) s = done (renameVictim s h set way) 2 0)) ∧
    (HandlerTurn s h e 2 → dmemCheck s h e v.toNat 24 8 = none →
      let va := ofBytes (dmemRead s h v.toNat 8)
      ∀ t0 t pa i', ayTranslate s h e va .read = .ok t0 pa → target pa = .slice i' → crossFrom t0 (i / 64) (i' / 64) pa = (t, false) →
      permitted t i' (assayerMaster i) (pa / 128 * 128) 128 .read = true →
      exec (.ayMsg a d) s = done (sendMsg t i' (entryAsid s i e.entry) va (pa / 128) 4
        (assayerMaster i) (BitVec.ofNat 128 (ofBytes (dmemRead s h (v.toNat + 8) 16)))) 2 0) ∧
    (HandlerTurn s h e 4 →
      (let va := ofBytes (dmemRead s h v.toNat 8)
       r.toNat = 1 → dmemCheck s h e v.toNat 8 8 = none → va % 128 = 0 →
        (∀ t pa, ayTranslate s h e va .read = .ok t pa → exec (.ayLock g a d) s = done (lockLine t h e va pa).1 4 (lockLine t h e va pa).2) ∧
        (∀ t, ayTranslate s h e va .read = .bad t → exec (.ayLock g a d) s = done t 4 0xFFFFFFFF)) ∧
      (∀ x, r.toNat = 0 → v.toNat < 2 ^ 15 → w = some x → x.locked = some h →
        exec (.ayLock g a d) s = done (s.setWay i (handleSet v) (handleWay v) (some { x with locked := none, lockW := false })) 4 0) ∧
      (r.toNat = 0 → w = none → exec (.ayLock g a d) s = done s 4 1)) ∧
    (HandlerTurn s h e 1 →
      (r = 0 → v ≠ 0 → handleOk s h e v false = true → exec (.ayStat g a d) s = done s 1 (stateWord s h e v)) ∧
      (r = 0 → v = 0 ∨ handleOk s h e v false = false → exec (.ayStat g a d) s = done s 1 0) ∧
      (r = 1 → exec (.ayStat g a d) s = done s 1 (BitVec.ofNat 32 (freeRegs s i))) ∧
      (r = 2 → exec (.ayStat g a d) s = done s 1 (BitVec.ofNat 32 (s.slice i).events.length)) ∧
      (r = 3 → exec (.ayStat g a d) s = done s 1 (BitVec.ofNat 32 i)) ∧
      (r = 4 → exec (.ayStat g a d) s = done s 1 (BitVec.ofNat 32 ((s.entryWord i e.entry 8).toNat % 2 ^ 32))) ∧
      (4 < r.toNat → exec (.ayStat g a d) s = stop acILL) ∧
      exec (.ayBudget d) s = done s 1 (BitVec.ofNat 32 (budgetOf s h e - usedCycles s h))) ∧
    (s.self = .hart i (h % 4) → (s.hart h).ev = some e → canIssue s h e = true →
      (actionOk s h e (v.toNat % 4) = true → exec (.ayRet a) s =
        .next (endHandler ((hartIssue s h).modSlice i (fun x => { x with instret := x.instret + 1 })) h e (decide (v.toNat % 4 = 2)))) ∧
      (actionOk s h e (v.toNat % 4) = false → exec (.ayRet a) s = stop acRET))

/-- A handler's base instructions, its budget, and the events that start handlers (R170 to R173, R177 to R180, R184 to R187, R175,
R140): ADDI adds its immediate, and an unlisted instruction aborts with ILL; a count at the budget aborts; an event whose line
nothing holds starts its handler in an idle context with the registers of Table 8.3.
Which cycles the budget counts is read from R184 (log 58). -/
def Obligations.AssayerEvents : Prop :=
  ∀ (s : State) (h i c k : Nat) (e : SliceEv),
    (HandlerTurn s h e 1 → ∀ (rd rs : BitVec 5) (imm : BitVec 12) (w : BitVec 32),
      w.toNat = imm.toNat * 2 ^ 20 + rs.toNat * 2 ^ 15 + rd.toNat * 2 ^ 7 + 0x13 →
      exec (.assayerRiscvInstruction w) s = .next (hartRetire (hartIssue s h) h 1 rd.toNat (hx s h rs + imm.signExtend 32) ((s.hart h).pc + 4))) ∧
    (HandlerTurn s h e 1 → exec (.assayerRiscvInstruction 0xFFFFFFFF) s = .next (abortHandler (hartIssue s h) h acILL)) ∧
    (s.self = .hart (h / 4) (h % 4) → (s.hart h).ev = some e → (s.hart h).start.isSome = true →
      (budgetOf s h e ≤ usedCycles s h → exec .budgetExpiry s = .next (abortHandler s h acBUDGET)) ∧
      (usedCycles s h < budgetOf s h e → exec .budgetExpiry s = .next s)) ∧
    (s.self = .slice i → (s.slice i).events[k]? = some e → dispatchable s i k e = true → idleHarts s i = [c] →
      (e.hook = 0 → exec (.missEvent k) s = .next (startHandler (s.modSlice i (fun x => { x with events := x.events.eraseIdx k })) i c e)) ∧
      (e.hook = 1 → exec (.fillEvent k) s = .next (startHandler (s.modSlice i (fun x => { x with events := x.events.eraseIdx k })) i c e)) ∧
      (e.hook = 2 → exec (.evictEvent k) s = .next (startHandler (s.modSlice i (fun x => { x with events := x.events.eraseIdx k })) i c e)) ∧
      (∀ w, e.hook = 3 → wayOf s i e.line = some w → exec (.msgEvent k) s =
        .next (startHandler (s.modSlice i (fun x => { x with events := x.events.eraseIdx k })) i c { e with way := w })) ∧
      (e.hook = 3 → wayOf s i e.line = none → exec (.msgEvent k) s = .next (joinMiss s i e.line (msgOrigin e)))) ∧
    (s.self = .slice i → (s.slice i).events[k]? = some e → dispatchable s i k e = false →
      exec (.missEvent k) s = .next s ∧ exec (.fillEvent k) s = .next s ∧ exec (.evictEvent k) s = .next s ∧ exec (.msgEvent k) s = .next s) ∧
    (let t := startHandler s i c e
     (t.hart (4 * i + c)).pc = BitVec.ofNat 32 ((imemWin s i e.entry).1 + hookPc s i e.entry e.hook) ∧
      hx t (4 * i + c) 10 = BitVec.ofNat 32 (handleOf e) ∧ hx t (4 * i + c) 11 = BitVec.ofNat 32 ((dmemWin s i e.entry).2 - 128 + 32 * c) ∧
      hx t (4 * i + c) 12 = BitVec.ofNat 32 e.hook ∧ hx t (4 * i + c) 13 = BitVec.ofNat 32 (dmemWin s i e.entry).1 ∧
      hx t (4 * i + c) 14 = BitVec.ofNat 32 ((dmemWin s i e.entry).2 - (dmemWin s i e.entry).1) ∧ hx t (4 * i + c) 1 = 0) ∧
    (∀ line, s.self = .slice i →
      let t := s.modSlice i (fun x => { x with writebacks := x.writebacks.filter (fun l => decide (l ≠ line)) })
      (∀ m, (s.slice i).misses.find? (fun m => decide (m.line = line ∧ m.stage = .fetch ∧ m.hart = none)) = some m →
        exec (.l2FillComplete line) s = .next (admitWaiting (missInstall t i m) i)) ∧
      ((∀ m ∈ (s.slice i).misses, ¬ (m.line = line ∧ m.stage = .fetch ∧ m.hart = none)) → exec (.l2FillComplete line) s = .next (admitWaiting t i))) ∧
    (∀ n : BitVec 4, s.self = .slice i → ∃ t, exec (.handlerValidClear n) s = .next t ∧ t.mem = s.mem ∧ entryValid t i n.toNat = false ∧
      ∀ set way x, t.way i set way = some x → x.tag ≠ n.toNat)

/-- What reaches the machine from outside a core (R135, R168, R303, R307, R306, R236): a window access and a host request that
are permitted are performed and answered, once the ports are exposed, a host snoop changes its line, a remote decrement goes to
its foreman and a remote cancel to all four, a remote atomic or compare-and-swap is performed at its home, the seventh failed retransmission of one flit charges LINK to its access, and an Adit port is live no more, an error poisons its word. -/
def Obligations.AccessesFromOutside : Prop :=
  ∀ (s s' : State) (k y x n i : Nat) (key : Nat),
    (∀ r : WindowReq, s.self = .tile k y x n → r.csa / 2 ^ 23 % 2 ^ 7 = coreNum k → memTileSite (r.csa / 2 ^ 15 % 2 ^ 8) = (y, x) →
      1 ≤ r.bytes.length → r.csa % 64 + r.bytes.length ≤ 64 → (r.master = 1016 → 5 ≤ s.head.step) →
      let pa := csaPa (coreDie k) r.csa
      let answers (t : State) (l : List Byte) : State := if r.master = 1016 ∨ r.master = 1008 then answer t pa (.done l) else t
      reach s pa r.bytes.length (if r.write then .write else .read) (ownOrigin r.master.toNat) = .ready s' key →
      exec (.windowAccess r) s =
        .next (if r.write = true then answers (writeMem s' key r.bytes) [] else answers s' (readMem s' key r.bytes.length))) ∧
    (∀ r : HostReq, s.self = .slice i → 5 ≤ s.head.step → 1 ≤ r.bytes.length → r.addr % 128 + r.bytes.length ≤ 128 →
      r.addr + r.bytes.length ≤ 2 ^ 39 → homeSlice r.addr = i →
      let at_ := reach s r.addr r.bytes.length (if r.write then .write else .read) (rawOrigin 5 1016)
      (at_ = .ready s' key → exec (.hostCxlMemRequest r) s = .next (if r.write = true then answer (perform s' key (r.bytes.map some)) r.addr (.done [])
        else answer s' r.addr (.done (readMem s' key r.bytes.length)))) ∧
      (∀ c, at_ = .fault s' c → exec (.hostCxlMemRequest r) s = .next (answer s' r.addr (if c = fcECC then .poisoned else .refused)))) ∧
    (∀ (a : Nat) (bytes : List (BitVec 8)), s.self = .module → a % 128 + bytes.length ≤ 128 → a + bytes.length ≤ 2 ^ 47 →
      exec (.cxlCacheSnoop a bytes) s = .next (writeMem s (hostBase + a) bytes)) ∧
    (∀ port job how code, s.self = .module → exec (.aditRequest (.decrement port job how code)) s =
      .next (tell s 4 (jobCluster job) (.decrement job (endOf how) code))) ∧
    (∀ (p : BitVec 4) a op z b, s.self = .module → a % amoSize z = 0 → (∀ d l, target a ≠ .scratch d l) →
      a % 128 + amoSize z ≤ 128 → reach s a (amoSize z) .atomic (rawOrigin Config.otherOriginator (960 + p.toNat)) = .ready s' key →
      exec (.aditRequest (.amo p a op z b)) s = .next (perform s' key
        (cellsOf (amoSize z) (amoNew op (amoSize z) (readNat s' key (amoSize z)) (b.toNat % 2 ^ (8 * amoSize z)))))) ∧
    (∀ (p : BitVec 4) a z (d b : BitVec 64), s.self = .module → a % amoSize z = 0 → (∀ d l, target a ≠ .scratch d l) →
      a % 128 + amoSize z ≤ 128 → reach s a (amoSize z) .atomic (rawOrigin Config.otherOriginator (960 + p.toNat)) = .ready s' key →
      exec (.aditRequest (.cas p a z d b)) s = .next (if readNat s' key (amoSize z) = d.toNat % 2 ^ (8 * amoSize z)
        then perform s' key (cellsOf (amoSize z) b.toNat) else s')) ∧
    (∀ port job origin, s.self = .module → exec (.aditRequest (.cancel port job origin)) s =
      .next ((List.range 4).foldl (fun s d => tell s 4 d (.cancel job origin.toNat)) s)) ∧
    (∀ port a, s.self = .module → a % 4 ≠ 0 → exec (.aditRequest (.fetch port a)) s = .next s) ∧
    (∀ (a : Nat) (bytes : List (BitVec 8)) (p : BitVec 4), s.self = .module →
      exec (.aditRequest (.write p a bytes)) s = .next (remoteAccess s p.toNat a bytes true)) ∧
    (∀ l, s.self = .module →
      (∀ r : Req, s.egress.findIdx? (onLink s l) = some i → s.egress[i]? = some r →
        (r.resent < 6 → exec (.linkRetransmit l) s = .next { s with egress := s.egress.set i { r with resent := r.resent + 1 } }) ∧
        (6 ≤ r.resent → ∃ t, exec (.linkRetransmit l) s = .next t ∧ t.egress = s.egress.set i { linkFails r with resent := 0 } ∧
          t.head.deadPorts = if l < 16 then s.head.deadPorts ||| (1 <<< l) else s.head.deadPorts)) ∧
      ((∀ r ∈ s.egress, onLink s l r = false) → l < 16 →
        (Map.get 0 s.head.retries l < 6 → ∃ t, exec (.linkRetransmit l) s = .next t ∧ t.egress = s.egress ∧
          Map.get 0 t.head.retries l = Map.get 0 s.head.retries l + 1 ∧ t.head.deadPorts = s.head.deadPorts) ∧
        (6 ≤ Map.get 0 s.head.retries l → ∃ t, exec (.linkRetransmit l) s = .next t ∧ t.egress = s.egress ∧
          Map.get 0 t.head.retries l = 0 ∧ t.head.deadPorts = s.head.deadPorts ||| (1 <<< l))) ∧
      ((∀ r ∈ s.egress, onLink s l r = false) → 16 ≤ l → exec (.linkRetransmit l) s =
        .next { s with resent := Map.set 0 s.resent (l - 16) (Map.get 0 s.resent (l - 16) + 1) })) ∧
    (∀ a j, s.self = .module → target a = .slice j → ∃ t, exec (.eccError a) s = .next t ∧ t.mem = s.mem ∧
      ∀ b, Map.get false t.poison b = if b = a / 8 then true else Map.get false s.poison b)

/-- Power and trips (R271 to R275, R265): a measured average above 4.5 kW lowers phi-cap by 16 to no less than 8, one below 4.4 kW
raises it by 8 to no more than 255; a current above 8.8 kA takes a quarter of it; a rate rises by a 32nd of PMAX; a region at
110 C trips, and ten cool samples end it; a notice reaches the thread, or stays pending, unless one of the same or a higher
reason reached the thread in the last 1 ms.
P1 before 100 samples exist is the model's reading (log 31). -/
def Obligations.PowerEvents : Prop :=
  ∀ (s : State) (k : Nat),
    (∀ mw, s.self = .module →
      let l := (mw :: s.head.power).take 100
      let t : State := { s with head := { s.head with power := l } }
      (4500000 < l.sum / l.length → exec (.powerMeasurement mw) s = .next (setPhiCap t (Nat.max 8 (s.head.phiCap - 16)))) ∧
      (l.sum / l.length < 4400000 → exec (.powerMeasurement mw) s = .next (setPhiCap t (Nat.min 255 (s.head.phiCap + 8)))) ∧
      (4400000 ≤ l.sum / l.length → l.sum / l.length ≤ 4500000 → exec (.powerMeasurement mw) s = .next t)) ∧
    (∀ ma, s.self = .module →
      (8800000 < ma → exec (.currentEstimate ma) s = .next (setPhiCap s (Nat.max 8 (3 * s.head.phiCap / 4)))) ∧
      (ma ≤ 8800000 → exec (.currentEstimate ma) s = .next s)) ∧
    (∀ v, (setPhiCap s v).head = { s.head with phiCap := v }) ∧
    (∀ n, s.self = .ag k n → ((s.core k).meter n).rate < targetRate s k n → ∃ t, exec .rateRamp s = .next t ∧
      ((t.core k).meter n).rate = Nat.min (targetRate s k n) (((s.core k).meter n).rate + ((s.core k).vfRegion (vfOfStream s k n)).mhz / 32)) ∧
    (∀ n, s.self = .ag k n → targetRate s k n ≤ ((s.core k).meter n).rate → exec .rateRamp s = .next s) ∧
    (∀ (j : BitVec 2) (q : Int), s.self = .core k → vfExists (s.core k) j.toNat = true →
      (∃ t, exec (.canarySample j q) s = .next t ∧
        ((t.core k).vfRegion j.toNat).history = (canaryWeight q :: ((s.core k).vfRegion j.toNat).history).take 100000 ∧
        ((t.core k).vfRegion j.toNat).cool = if q ≤ 400 then ((s.core k).vfRegion j.toNat).cool + 1 else 0) ∧
      (440 ≤ q → ((s.core k).vfRegion j.toNat).tripped = false →
        ∃ t, exec (.trip j q) s = .next t ∧ ((t.core k).vfRegion j.toNat).tripped = true ∧ ((t.core k).vfRegion j.toNat).cool = 0) ∧
      (q < 440 → exec (.trip j q) s = .next s)) ∧
    (∀ j : BitVec 2, s.self = .core k →
      (((s.core k).vfRegion j.toNat).tripped = true → 10 ≤ ((s.core k).vfRegion j.toNat).cool →
        ∃ t, exec (.tripEnd j) s = .next t ∧ ((t.core k).vfRegion j.toNat).tripped = false) ∧
      (((s.core k).vfRegion j.toNat).cool < 10 → exec (.tripEnd j) s = .next s)) ∧
    (∀ r : BitVec 2, s.self = .core k → r ∈ (s.core k).noticeDue →
      (notedLately s k r = false → (s.thread k).stall = none → ∃ t, exec (.throttleNotice r) s = .next t ∧
        (t.core k).noticeDue = (s.core k).noticeDue.erase r ∧ Map.get none (t.core k).notices r.toNat = some s.time ∧
        (t.thread k).throtPend = if (s.thread k).throtPend < r then r else (s.thread k).throtPend) ∧
      (notedLately s k r = true → exec (.throttleNotice r) s =
        .next (s.modCore k (fun c => { c with noticeDue := c.noticeDue.erase r }))))

/-- The mailbox (R309, R311, R312): outside recovery, with the host port trained, its code in the mailbox, GO written, and room
in the log, each request takes its effect and ends with its STATUS; a full log refuses what it would measure; an unlisted code ends with 1. -/
def Obligations.MailboxRequests : Prop :=
  ∀ (s : State), s.self = .module → mboxLive s = true → s.head.recovery = false → s.head.busy = true →
    let asks (code : Nat) : Prop := s.head.mboxReq.toNat % 256 = code
    let put (asid : BitVec 16) : State := extendMr s 3 asid (Config.measureAddr s.tick) (sha512 (toBytes 64 s.head.mboxReq.toNat))
    (logFull s = false →
      (∀ t m (entry : BitVec 512), t < 669 → asks 3 → exec (.access t m entry) s = .next (mboxDone ((List.range 4).foldl (fun u w =>
        u.setWindow t m.toNat w (entryWindow entry w (isCoreTarget t))) (put 0)) 0)) ∧
      (∀ (a : BitVec 6) (entry : BitVec 64), asks 4 → exec (.aperture a entry) s = .next (mboxDone
        { put 0 with head := { (put 0).head with apertures := Map.set 0 (put 0).head.apertures a.toNat (entry &&& apertureMask) } } 0)) ∧
      (∀ (m : BitVec 12) (mask : BitVec 16), asks 5 → exec (.route m mask) s = .next (mboxDone
        { put 0 with head := { (put 0).head with routes := Map.set 0 (put 0).head.routes m.toNat mask } } 0)) ∧
      (∀ (asid : BitVec 16) pa, asks 1 → pa + 128 ≤ 2 ^ 47 → descOk (readMem s (hostBase + pa) 128) = true →
        exec (.asidset asid pa) s = .next (mboxDone (writeMem (put asid) (descAddr (put asid) asid)
          (toBytes 8 (imgAt (readMem s (hostBase + pa) 128) 0 8 / 2 * 2 + 1) ++ (readMem s (hostBase + pa) 128).drop 8)) 0)) ∧
      (∀ (asid : BitVec 16) pa, asks 1 → pa + 128 ≤ 2 ^ 47 → descOk (readMem s (hostBase + pa) 128) = false →
        exec (.asidset asid pa) s = .next (mboxDone s 2)) ∧
      (∀ r : HandlerReq, asks 2 → r.imem.length ≤ 1024 * ((r.words.getD 1 0).toNat / 2 ^ 5 % 64) → r.dmem.length ≤ 256 * ((r.words.getD 1 0).toNat / 2 ^ 17 % 128) →
        let slices := ((List.range 64).filter (fun i => r.mask.getLsbD i)).map (fun i => 64 * r.die.toNat + i)
        let u := slices.foldl (fun s i => placeHandler s i r.entry.toNat r) s
        let v := slices.foldl (fun s i => validateEntry s i r.entry.toNat)
          (extendMr u 1 ((r.words.getD 0 0).extractLsb' 16 16) (Config.measureAddr u.tick) (sha512 (r.imem ++ r.dmem)))
        exec (.handler r) s = .next (if slices.all (fun i => entryValid v i r.entry.toNat) = true then mboxDone v 0
          else mboxDone (slices.foldl (fun s i => clearEntry s i r.entry.toNat) v) 2)) ∧
      (asks 8 → exec .reset s = .next (mboxDone (warmReset s) 0))) ∧
    (logFull s = true →
      (∀ (m : BitVec 12) (mask : BitVec 16), asks 5 → exec (.route m mask) s = .next (mboxDone s 2)) ∧
      (∀ (a : BitVec 6) (entry : BitVec 64), asks 4 → exec (.aperture a entry) s = .next (mboxDone s 2)) ∧ (asks 8 → exec .reset s = .next (mboxDone s 2)) ∧
      (∀ r : HandlerReq, asks 2 → r.imem.length ≤ 1024 * ((r.words.getD 1 0).toNat / 2 ^ 5 % 64) → r.dmem.length ≤ 256 * ((r.words.getD 1 0).toNat / 2 ^ 17 % 128) →
        exec (.handler r) s = .next (mboxDone ((((List.range 64).filter (fun i => r.mask.getLsbD i)).map (fun i => 64 * r.die.toNat + i)).foldl
          (fun s i => refuseEntry s i r.entry.toNat) s) 2))) ∧
    (∀ nonce pa, asks 6 → pa + 384 ≤ 2 ^ 47 → exec (.attest nonce pa) s = .next (mboxDone (writeMem s (hostBase + pa)
      (reportBody s nonce ++ edSign identitySeed (reportBody s nonce))) 0)) ∧
    (∀ m : BitVec 12, asks 7 → s.head.step < 6 → exec (.module m) s = .next (mboxDone { s with head := { s.head with moduleNo := m, moduleSet := true } } 0)) ∧
    (asks 9 → s.head.holding = true → exec .release s = .next (mboxDone { s with head := { s.head with holding := false } } 0)) ∧
    (asks 9 → s.head.holding = false → exec .release s = .next (mboxDone s 1)) ∧
    (∀ code : BitVec 8, code = 0 ∨ 9 < code.toNat → asks code.toNat → exec (.mailboxUnlistedCode code) s = .next (mboxDone s 1)) ∧
    (∀ v, (mboxDone s v).head.busy = false ∧ (mboxDone s v).head.mboxStatus = BitVec.ofNat 64 v ∧ (mboxDone s v).head.msix = s.head.msix ++ [0])

/-- Resets, bring-up, task types and register writes (R300, R313, R314, R310, R246): a cold reset gives the state of reset but for
what lies outside; each bring-up step completes or fails; a task type whose fields break a rule gets ERR; the headframe writes
every register, the host only the foreman's tables and the mailbox, once its port is exposed and in recovery the mailbox alone, and
its other writes and reads are logged; reads answer the words of the tables, BUSY, FULL and POOLUSED as they stand, and reserved
bits as 0. Which log takes the host's denial at the pithead, or where nothing is assigned, is the model's choice (log 60). -/
def Obligations.ResetAndRegisters : Prop :=
  ∀ (s : State), s.self = .module →
    (∃ t, exec .coldReset s = .next t ∧ t.threads = State.reset.threads ∧ t.cores = State.reset.cores ∧ t.tiles = State.reset.tiles ∧
      t.ports = State.reset.ports ∧ t.harts = State.reset.harts ∧ t.head = State.reset.head ∧ t.egress = [] ∧
      ∀ x, x < 0x8000000000 ∨ hostBase ≤ x → readByte t x = readByte s x) ∧
    (s.head.step < 7 → s.head.holding = false → s.head.recovery = false → s.head.failure = none →
      (∀ c, exec (.bringupStep (some c)) s = .next { s with head := { s.head with failure := some c, msix := s.head.msix ++ [3, 2] } }) ∧
      exec (.bringupStep none) s = .next (bringup s (s.head.step + 1)) ∧
      (s.head.step = 2 → ∃ t, exec (.bringupStep none) s = .next t ∧ t.head.step = 3 ∧ ∀ x, x < 0x8000000000 → readByte t x = 0) ∧
      (s.head.step = 4 → ∃ t, exec (.bringupStep none) s = .next t ∧ t.head.step = 5 ∧ t.head.holding = true)) ∧
    (7 ≤ s.head.step ∨ s.head.holding = true ∨ s.head.recovery = true ∨ s.head.failure.isSome = true →
      ∀ c, exec (.bringupStep c) s = .next s) ∧
    (∀ w : RegWrite, w.offset % 8 = 0 →
      let blk := regBlock w.offset
      (w.master = 1008 → blk ≠ .unassigned → exec (.registerWrite w) s = .next (writeBlock s blk w.value)) ∧
      (w.master = 1016 → hostReaches s blk = true → hostMayWrite blk = true → exec (.registerWrite w) s = .next (writeBlock s blk w.value)) ∧
      (w.master = 1016 → hostReaches s blk = true → hostMayWrite blk = false → exec (.registerWrite w) s = .next (answer
        (deny s (blockTarget blk) 1016 (regsBase + w.offset) Kind.write.denial) (regsBase + w.offset) .refused))) ∧
    (∀ off, off % 8 = 0 →
      let blk := regBlock off
      readRegister s 1008 off = (s, readBlockWord s blk) ∧
      (hostReaches s blk = true → hostMayRead blk = true → (readBlockWord s blk).isSome = true → readRegister s 1016 off = (s, readBlockWord s blk)) ∧
      (hostReaches s blk = true → hostMayRead blk = false ∨ readBlockWord s blk = none →
        readRegister s 1016 off = (deny s (blockTarget blk) 1016 (regsBase + off) Kind.read.denial, none))) ∧
    (∀ blk, (s.head.recovery = false → (hostReaches s blk = true ↔ 5 ≤ s.head.step)) ∧
      (s.head.recovery = true → (hostReaches s blk = true ↔ ∃ off, blk = .pithead off ∧ (off < 0x50 ∨ (0x1000 ≤ off ∧ off < 0x2000))))) ∧
    (∀ i n v, n < 16 → readBlockWord s (.slice i (128 * n)) = some v → v.getLsbD 7 = entryBusy s i n ∧ v &&& 0xFFFFFFFF0000FF00 = 0) ∧
    (∀ d q v, q < 16 → readBlockWord s (.foreman d (32 * q + 24)) = some v → v.getLsbD 5 = (s.foreman d).full) ∧
    (∀ d v, (s.foreman d).pool.length ≤ 1024 → readBlockWord s (.foreman d 0x220) = some v → v.toNat / 2 ^ 10 % 2 ^ 11 = (s.foreman d).pool.length) ∧
    (∀ (u : State) (d : Nat) (n : BitVec 10), u.self = .foreman d → (u.foreman d).typeValid n.toNat = false →
      ((u.foreman d).image n.toNat % 64 ≠ 0 ∨ (u.foreman d).typeCage n.toNat = 0 ∨ 64 < (u.foreman d).typeCage n.toNat →
        exec (.taskTypeValid n) u = .next (u.modForeman d (fun f => f.setType n.toNat 6 (f.typeWord n.toNat 6 ||| 4)))) ∧
      (∀ va bytes, (u.foreman d).image n.toNat % 64 = 0 → (u.foreman d).entryPc n.toNat % 4 = 0 → 1 ≤ (u.foreman d).typeCage n.toNat →
        (u.foreman d).typeCage n.toNat ≤ 64 → (u.foreman d).scratch n.toNat ≤ 32 →
        imageAt u ((u.foreman d).typeAsid n.toNat) ((u.foreman d).image n.toNat) = some (va, bytes) → logFull u = false →
        ∃ t, exec (.taskTypeValid n) u = .next t ∧ (t.foreman d).typeValid n.toNat = true ∧
          Map.get 0 t.head.mr 2 = digestBits (sha512 (mrBytes u 2 ++ sha512 bytes))))

/-! ### Words, steps, and what every step keeps -/

/-- Words written out from the encodings of the spec decode to the instructions they stand for (R280, R281, R285, R182, R62). -/
def Obligations.ListedWordsDecode : Prop :=
  decodeThread 0x0820FFFF = .ok (.addi 1 0 0xFFFF) ∧
  decodeThread 0x04E90012 = .ok (.clz 7 9) ∧
  decodeThread 0x44232200 = .ok (.sel 1 3 4 2) ∧
  decodeThread 0x2C221900 = .ok (.madd 1 2 3 4) ∧
  decodeThread 0x30411203 = .ok (.bitf 2 1 1 8 3) ∧
  decodeThread 0x57E0000A = .ok (.jal 31 10) ∧
  decodeThread 0xA5008000 = .ok (.qmov 2 1) ∧
  decodeThread 0xAD140000 = .ok (.enq 2 5) ∧
  decodeThread 0x90A00201 = .ok (.tkpop 5 2) ∧
  decodeThread 0x00000000 = .error .unassignedMajor ∧
  decodeSlot 0x02060C00 = .ok (.vadd ⟨0, 3, 0, 6, 0⟩) ∧
  decodeSlot 0xAA7E8000 = .ok (.pass ⟨3, 15, 4, 0, 0⟩) ∧
  decodeAssayer 0x00D5028B = .ayLdl 13 10 5 ∧
  decodeAssayer 0x0200000B = .ayRet 0 ∧
  decodeAssayer 0x00000013 = .assayerRiscvInstruction 0x00000013

/-- Every control-thread instruction decodes from its word, and every word that decodes is that instruction's (R280, R281):
no bit of an encoding is dropped, and no two instructions share a word. -/
def Obligations.ThreadWordsRoundTrip : Prop :=
  (∀ (i : Instr) (w : BitVec 32), encodeThread i = some w → decodeThread w = .ok i) ∧
  (∀ (i : Instr) (w : BitVec 32), decodeThread w = .ok i → encodeThread i = some w)

/-- The same of slot words, handler words and well-formed stream commands (R62, R288, R182, R285). -/
def Obligations.OtherWordsRoundTrip : Prop :=
  (∀ (i : Instr) (w : BitVec 32), encodeSlot i = some w → decodeSlot w = .ok i) ∧
  (∀ (i : Instr) (w : BitVec 32), decodeSlot w = .ok i → encodeSlot i = some w) ∧
  (∀ (i : Instr) (w : BitVec 32), (∀ v, i ≠ .assayerRiscvInstruction v) → encodeAssayer i = some w → decodeAssayer w = i) ∧
  (∀ w : BitVec 32, encodeAssayer (decodeAssayer w) = some w) ∧
  (∀ (i : Instr) (q : QWord), i.wf = true → encodeCmd i = some q → decodeCmd q = .ok i) ∧
  (∀ (i : Instr) (q : QWord), decodeCmd q = .ok i → encodeCmd i = some q)

/-- A step notes the slots that the step before made ready, takes the next turn of the agenda, advances the step count and TIME,
and runs what that agent holds: the
instruction whose word stands at a thread's pc, the op of the slot of a tile that is due, the command at its place of a queue, the instruction
at a handler's pc, the register access of an outside agent, or the event that the turn names (R28, R38, R45, R138, R173; the schedule is the model's own, log 2). -/
def Obligations.StepRunsDecodedInstruction : Prop :=
  ∀ (s : State) (i : Instr),
    let n : State := (nearTiles s.self).foldl noteDue s
    let b : State := { n with agenda := n.agenda.drop 1, self := (nextTurn s).who, tick := n.tick + 1
                              time := n.time + Config.stepNs n.tick }
    ((nextTurn s).what = some i → encode i = none → step s = exec i b) ∧
    ((nextTurn s).what = none →
      (∀ k b0 w b1 b2 pa seam key, (nextTurn s).who = .thread k → (b.thread k).run = .running → trapDue b k = false →
        (b.thread k).stepDue = false → (∀ x, taskOf b k = some x → x.2.doomed = false ∧ x.2.stopping = false) →
        ((b.thread k).pend = [] ∨ (b.thread k).status.getLsbD 3 = false) →
        (b.thread k).pc.toNat % 4 = 0 → ((b.thread k).pc.toNat < 2 ^ 56 → inWindow (b.thread k).pc.toNat = false) →
        walkFor b (cacheCore k) (b.thread k).asid (b.thread k).pc.toNat = .ready b0 w →
        translate b0 (cacheCore k) (b.thread k).asid (b.thread k).pc.toNat .fetch true = (b1, .ok pa seam) →
        (∀ x y, target pa ≠ .scratch x y) → fetchAt b1 k pa (b.thread k).pc = .ready b2 key → (b2.thread k).fetched = [] →
        (b2.thread k).loads = [] → decodeThread (BitVec.ofNat 32 (readNat b2 key 4)) = .ok i →
        step s = exec i (fetchAhead b2 k key (b.thread k).asid (b.thread k).pc.toNat)) ∧
      (∀ st rest, (nextTurn s).who = .tile st.k st.y st.x st.n → siteOf b st.k st.y st.x st.n = some st → heldKill b st = none →
        leavingAt b st = none → isMemTile st.y st.x = false → dueSlots b st = st.n :: rest → isSystolic st = false →
        let c := b.modTile st.key (fun t => { t with due := rest })
        controlReady c st (slotWord st st.n) = .no → decodeSlot (slotWord st st.n) = .ok i → step s = exec i c) ∧
      (∀ k q pos c, (nextTurn s).who = .queue k q pos → (queueCmds b k q)[pos]? = some c → (∀ v, c.phase ≠ .done v) →
        decodeCmd c.word = .ok i → step s = exec i b) ∧
      (∀ k q pos c v, (nextTurn s).who = .queue k q pos → (queueCmds b k q)[pos]? = some c → c.phase = .done v → pos = 0 →
        step s = exec .commandRetire b) ∧
      (∀ h e, (nextTurn s).who = .hart (h / 4) (h % 4) → (b.hart h).ev = some e →
        ((b.hart h).start = none ∨ usedCycles b h < budgetOf b h e) → canIssue b h e = true →
        inWin (imemWin b (h / 4) e.entry) (b.hart h).pc.toNat 4 = true → readNat b (imemAt (h / 4) (b.hart h).pc.toNat) 2 % 4 = 3 →
        step s = exec (decodeAssayer (BitVec.ofNat 32 (readNat b (imemAt (h / 4) (b.hart h).pc.toNat) 4))) b) ∧
      (∀ m off, (nextTurn s).who = .outside (.readReg m off) → step s = .next (readStep b m.toNat off)) ∧
      (∀ m off, (nextTurn s).who = .outside (.atomicReg m off) → step s = .next (atomicStep b m.toNat off)))

/-- The state of reset is one the spec allows: memory canonical, reserved bits zero. -/
def Obligations.ResetIsSafe : Prop := Safe State.reset

/-- A step in which a control thread runs an instruction on its registers, on memory or on the trap state, from any state in
which memory is canonical and the reserved bits of every STATUS and FLAGS are zero, ends in such a state (R414, R220, R343). -/
def Obligations.ThreadStepsStaySafe : Prop :=
  ∀ (s u t : State) (k : Nat) (i : Instr), Safe s → nextTurn s = ⟨.thread k, none⟩ →
    heldThread (begin_ s (nextTurn s)) k = (u, some i) → threadForm i = true → step s = .next t → Safe t
end

