-- ==== Sys2Proof/Laws/Map.lean ====
section
/-!
SUPPORT. Sparse tables: what a read gives after a write, and that every operation keeps the canonical form.
-/
namespace Sys2Proof

theorem Map.get_put_same {β : Type} (d : β) (m : Map β) (k : Nat) (v : β) : Map.get d (Map.put m k v) k = v := by
  induction m with
  | nil => simp [Map.put, Map.get]
  | cons e t ih =>
    obtain ⟨a, w⟩ := e
    by_cases h : a = k
    · simp [Map.put, Map.get, h]
    · by_cases h2 : k < a
      · simp [Map.put, Map.get, h, h2]
      · simp [Map.put, Map.get, h, h2, ih]

theorem Map.get_put_ne {β : Type} (d : β) (m : Map β) (k j : Nat) (v : β) (h : j ≠ k) :
    Map.get d (Map.put m k v) j = Map.get d m j := by
  induction m with
  | nil => simp [Map.put, Map.get, Ne.symm h]
  | cons e t ih =>
    obtain ⟨a, w⟩ := e
    by_cases h1 : a = k
    · subst h1; simp [Map.put, Map.get, Ne.symm h]
    · by_cases h2 : k < a
      · simp [Map.put, Map.get, h1, h2, Ne.symm h]
      · simp [Map.put, Map.get, h1, h2, ih]

theorem Map.get_del_same {β : Type} (d : β) (m : Map β) (k : Nat) : Map.get d (Map.del m k) k = d := by
  induction m with
  | nil => rfl
  | cons e t ih =>
    obtain ⟨a, w⟩ := e
    by_cases h : a = k <;> simp_all [Map.del, Map.get]

theorem Map.get_del_ne {β : Type} (d : β) (m : Map β) (k j : Nat) (h : j ≠ k) : Map.get d (Map.del m k) j = Map.get d m j := by
  induction m with
  | nil => rfl
  | cons e t ih =>
    obtain ⟨a, w⟩ := e
    by_cases h1 : a = k
    · subst h1; simp_all [Map.del, Map.get, Ne.symm h]
    · by_cases h2 : a = j <;> simp_all [Map.del, Map.get]

/-- A read gives what was written there, and what stood there before everywhere else. -/
theorem Map.get_set {β : Type} [DecidableEq β] (d : β) (m : Map β) (k j : Nat) (v : β) :
    Map.get d (Map.set d m k v) j = if j = k then v else Map.get d m j := by
  unfold Map.set
  by_cases hv : v = d
  · by_cases h : j = k
    · subst h; simp [hv, Map.get_del_same]
    · simp [hv, h, Map.get_del_ne]
  · by_cases h : j = k
    · subst h; simp [hv, Map.get_put_same]
    · simp [hv, h, Map.get_put_ne]

@[simp] theorem Map.get_set_same {β : Type} [DecidableEq β] (d : β) (m : Map β) (k : Nat) (v : β) :
    Map.get d (Map.set d m k v) k = v := by simp [Map.get_set]

theorem Map.get_set_ne {β : Type} [DecidableEq β] (d : β) (m : Map β) (k j : Nat) (v : β) (h : j ≠ k) :
    Map.get d (Map.set d m k v) j = Map.get d m j := by simp [Map.get_set, h]

@[simp] theorem Map.get_nil {β : Type} (d : β) (k : Nat) : Map.get d ([] : Map β) k = d := rfl

/-! ### The canonical form -/

theorem Map.sorted_tail {β : Type} (a : Nat × β) (t : Map β) (h : Map.sorted (a :: t) = true) : Map.sorted t = true := by
  cases t with
  | nil => rfl
  | cons b u => simp [Map.sorted] at h ⊢; exact h.2

theorem Map.sorted_lt {β : Type} (a : Nat × β) (t : Map β) (h : Map.sorted (a :: t) = true) : ∀ e ∈ t, a.1 < e.1 := by
  induction t generalizing a with
  | nil => simp
  | cons b u ih =>
    simp [Map.sorted] at h
    intro e he
    rcases List.mem_cons.mp he with rfl | he
    · exact h.1
    · exact Nat.lt_trans h.1 (ih b h.2 e he)

theorem Map.sorted_cons {β : Type} (a : Nat × β) (t : Map β) (h : Map.sorted t = true) (hlt : ∀ e ∈ t, a.1 < e.1) :
    Map.sorted (a :: t) = true := by
  cases t with
  | nil => rfl
  | cons b u => simp [Map.sorted, h, hlt b (by simp)]

theorem Map.mem_put {β : Type} (m : Map β) (k : Nat) (v : β) (e : Nat × β) (h : e ∈ Map.put m k v) : e = (k, v) ∨ e ∈ m := by
  induction m with
  | nil => simpa [Map.put] using h
  | cons b t ih =>
    obtain ⟨a, w⟩ := b
    unfold Map.put at h
    split at h
    · rcases List.mem_cons.mp h with rfl | h
      · simp
      · simp [h]
    · split at h
      · rcases List.mem_cons.mp h with rfl | h
        · simp
        · exact .inr h
      · rcases List.mem_cons.mp h with rfl | h
        · simp
        · rcases ih h with rfl | h
          · simp
          · simp [h]

theorem Map.sorted_put {β : Type} (m : Map β) (k : Nat) (v : β) (h : Map.sorted m = true) : Map.sorted (Map.put m k v) = true := by
  induction m with
  | nil => rfl
  | cons b t ih =>
    obtain ⟨a, w⟩ := b
    have ht := Map.sorted_tail _ _ h
    have hlt := Map.sorted_lt _ _ h
    unfold Map.put
    split
    · rename_i hak
      exact Map.sorted_cons _ _ ht (fun e he => by have := hlt e he; simp at this ⊢; omega)
    · split
      · rename_i hka
        exact Map.sorted_cons _ _ h (fun e he => by
          rcases List.mem_cons.mp he with rfl | he
          · simpa using hka
          · have := hlt e he; simp at this ⊢; omega)
      · refine Map.sorted_cons _ _ (ih ht) (fun e he => ?_)
        rcases Map.mem_put _ _ _ _ he with rfl | he
        · simp at *; omega
        · exact hlt e he

theorem Map.sorted_filter {β : Type} (m : Map β) (p : Nat × β → Bool) (h : Map.sorted m = true) : Map.sorted (m.filter p) = true := by
  induction m with
  | nil => rfl
  | cons a t ih =>
    have ht := ih (Map.sorted_tail _ _ h)
    by_cases hp : p a
    · simp only [List.filter_cons, hp, ↓reduceIte]
      exact Map.sorted_cons _ _ ht (fun e he => Map.sorted_lt _ _ h e (List.mem_filter.mp he).1)
    · simpa [List.filter_cons, hp] using ht

/-- Dropping entries keeps the canonical form. -/
theorem Map.wf_filter {β : Type} [DecidableEq β] (d : β) (m : Map β) (p : Nat × β → Bool) (h : Map.wf d m = true) :
    Map.wf d (m.filter p) = true := by
  simp only [Map.wf, Bool.and_eq_true, List.all_eq_true] at h ⊢
  exact ⟨Map.sorted_filter m p h.1, fun e he => h.2 e (List.mem_filter.mp he).1⟩

/-- A write keeps the canonical form. -/
theorem Map.wf_set {β : Type} [DecidableEq β] (d : β) (m : Map β) (k : Nat) (v : β) (h : Map.wf d m = true) :
    Map.wf d (Map.set d m k v) = true := by
  unfold Map.set
  split
  · exact Map.wf_filter d m _ h
  · rename_i hv
    simp only [Map.wf, Bool.and_eq_true, List.all_eq_true] at h ⊢
    refine ⟨Map.sorted_put m k v h.1, fun e he => ?_⟩
    rcases Map.mem_put _ _ _ _ he with rfl | he
    · simpa using hv
    · exact h.2 e he

/-- The empty table is canonical. -/
theorem Map.wf_nil {β : Type} [DecidableEq β] (d : β) : Map.wf d ([] : Map β) = true := rfl

end Sys2Proof
end

