-- ==== Sys2Proof/Laws/State.lean ====
section
/-!
SUPPORT. One lemma per field per update of the state, and what each accessor reads after each update.
-/

set_option Elab.async false

namespace Sys2Proof.Machine

open Sys2Proof

/-! ### setThread -/

@[simp] theorem State.setThread_agenda (s : State) (k : Nat) (v : Thread) : (s.setThread k v).agenda = s.agenda := rfl
@[simp] theorem State.setThread_self (s : State) (k : Nat) (v : Thread) : (s.setThread k v).self = s.self := rfl
@[simp] theorem State.setThread_tick (s : State) (k : Nat) (v : Thread) : (s.setThread k v).tick = s.tick := rfl
@[simp] theorem State.setThread_nextId (s : State) (k : Nat) (v : Thread) : (s.setThread k v).nextId = s.nextId := rfl
@[simp] theorem State.setThread_time (s : State) (k : Nat) (v : Thread) : (s.setThread k v).time = s.time := rfl
@[simp] theorem State.setThread_cycleFrom (s : State) (k : Nat) (v : Thread) : (s.setThread k v).cycleFrom = s.cycleFrom := rfl
@[simp] theorem State.setThread_timeFrom (s : State) (k : Nat) (v : Thread) : (s.setThread k v).timeFrom = s.timeFrom := rfl
@[simp] theorem State.setThread_mem (s : State) (k : Nat) (v : Thread) : (s.setThread k v).mem = s.mem := rfl
@[simp] theorem State.setThread_poison (s : State) (k : Nat) (v : Thread) : (s.setThread k v).poison = s.poison := rfl
@[simp] theorem State.setThread_cores (s : State) (k : Nat) (v : Thread) : (s.setThread k v).cores = s.cores := rfl
@[simp] theorem State.setThread_tiles (s : State) (k : Nat) (v : Thread) : (s.setThread k v).tiles = s.tiles := rfl
@[simp] theorem State.setThread_ports (s : State) (k : Nat) (v : Thread) : (s.setThread k v).ports = s.ports := rfl
@[simp] theorem State.setThread_egress (s : State) (k : Nat) (v : Thread) : (s.setThread k v).egress = s.egress := rfl
@[simp] theorem State.setThread_barriers (s : State) (k : Nat) (v : Thread) : (s.setThread k v).barriers = s.barriers := rfl
@[simp] theorem State.setThread_slices (s : State) (k : Nat) (v : Thread) : (s.setThread k v).slices = s.slices := rfl
@[simp] theorem State.setThread_harts (s : State) (k : Nat) (v : Thread) : (s.setThread k v).harts = s.harts := rfl
@[simp] theorem State.setThread_tcaches (s : State) (k : Nat) (v : Thread) : (s.setThread k v).tcaches = s.tcaches := rfl
@[simp] theorem State.setThread_access (s : State) (k : Nat) (v : Thread) : (s.setThread k v).access = s.access := rfl
@[simp] theorem State.setThread_denials (s : State) (k : Nat) (v : Thread) : (s.setThread k v).denials = s.denials := rfl
@[simp] theorem State.setThread_fetches (s : State) (k : Nat) (v : Thread) : (s.setThread k v).fetches = s.fetches := rfl
@[simp] theorem State.setThread_blocked (s : State) (k : Nat) (v : Thread) : (s.setThread k v).blocked = s.blocked := rfl
@[simp] theorem State.setThread_resent (s : State) (k : Nat) (v : Thread) : (s.setThread k v).resent = s.resent := rfl
@[simp] theorem State.setThread_sent (s : State) (k : Nat) (v : Thread) : (s.setThread k v).sent = s.sent := rfl
@[simp] theorem State.setThread_descents (s : State) (k : Nat) (v : Thread) : (s.setThread k v).descents = s.descents := rfl
@[simp] theorem State.setThread_records (s : State) (k : Nat) (v : Thread) : (s.setThread k v).records = s.records := rfl
@[simp] theorem State.setThread_drives (s : State) (k : Nat) (v : Thread) : (s.setThread k v).drives = s.drives := rfl
@[simp] theorem State.setThread_pins (s : State) (k : Nat) (v : Thread) : (s.setThread k v).pins = s.pins := rfl
@[simp] theorem State.setThread_releasing (s : State) (k : Nat) (v : Thread) : (s.setThread k v).releasing = s.releasing := rfl
@[simp] theorem State.setThread_colls (s : State) (k : Nat) (v : Thread) : (s.setThread k v).colls = s.colls := rfl
@[simp] theorem State.setThread_baseDies (s : State) (k : Nat) (v : Thread) : (s.setThread k v).baseDies = s.baseDies := rfl
@[simp] theorem State.setThread_foremen (s : State) (k : Nat) (v : Thread) : (s.setThread k v).foremen = s.foremen := rfl
@[simp] theorem State.setThread_saves (s : State) (k : Nat) (v : Thread) : (s.setThread k v).saves = s.saves := rfl
@[simp] theorem State.setThread_head (s : State) (k : Nat) (v : Thread) : (s.setThread k v).head = s.head := rfl
@[simp] theorem State.setThread_core (s : State) (k : Nat) (v : Thread) (j : Nat) : (s.setThread k v).core j = s.core j := rfl
@[simp] theorem State.setThread_tile (s : State) (k : Nat) (v : Thread) (j : Nat) : (s.setThread k v).tile j = s.tile j := rfl
@[simp] theorem State.setThread_port (s : State) (k : Nat) (v : Thread) (j : Nat) : (s.setThread k v).port j = s.port j := rfl
@[simp] theorem State.setThread_slice (s : State) (k : Nat) (v : Thread) (j : Nat) : (s.setThread k v).slice j = s.slice j := rfl
@[simp] theorem State.setThread_hart (s : State) (k : Nat) (v : Thread) (j : Nat) : (s.setThread k v).hart j = s.hart j := rfl
@[simp] theorem State.setThread_foreman (s : State) (k : Nat) (v : Thread) (j : Nat) : (s.setThread k v).foreman j = s.foreman j := rfl
theorem State.setThread_thread (s : State) (k : Nat) (v : Thread) (j : Nat) : (s.setThread k v).thread j = if j = k then v else s.thread j := Map.get_set _ _ _ _ _
@[simp] theorem State.setThread_thread_same (s : State) (k : Nat) (v : Thread) : (s.setThread k v).thread k = v := by simp [State.setThread_thread]

/-! ### setCore -/

@[simp] theorem State.setCore_agenda (s : State) (k : Nat) (v : Core) : (s.setCore k v).agenda = s.agenda := rfl
@[simp] theorem State.setCore_self (s : State) (k : Nat) (v : Core) : (s.setCore k v).self = s.self := rfl
@[simp] theorem State.setCore_tick (s : State) (k : Nat) (v : Core) : (s.setCore k v).tick = s.tick := rfl
@[simp] theorem State.setCore_nextId (s : State) (k : Nat) (v : Core) : (s.setCore k v).nextId = s.nextId := rfl
@[simp] theorem State.setCore_time (s : State) (k : Nat) (v : Core) : (s.setCore k v).time = s.time := rfl
@[simp] theorem State.setCore_cycleFrom (s : State) (k : Nat) (v : Core) : (s.setCore k v).cycleFrom = s.cycleFrom := rfl
@[simp] theorem State.setCore_timeFrom (s : State) (k : Nat) (v : Core) : (s.setCore k v).timeFrom = s.timeFrom := rfl
@[simp] theorem State.setCore_mem (s : State) (k : Nat) (v : Core) : (s.setCore k v).mem = s.mem := rfl
@[simp] theorem State.setCore_poison (s : State) (k : Nat) (v : Core) : (s.setCore k v).poison = s.poison := rfl
@[simp] theorem State.setCore_threads (s : State) (k : Nat) (v : Core) : (s.setCore k v).threads = s.threads := rfl
@[simp] theorem State.setCore_tiles (s : State) (k : Nat) (v : Core) : (s.setCore k v).tiles = s.tiles := rfl
@[simp] theorem State.setCore_ports (s : State) (k : Nat) (v : Core) : (s.setCore k v).ports = s.ports := rfl
@[simp] theorem State.setCore_egress (s : State) (k : Nat) (v : Core) : (s.setCore k v).egress = s.egress := rfl
@[simp] theorem State.setCore_barriers (s : State) (k : Nat) (v : Core) : (s.setCore k v).barriers = s.barriers := rfl
@[simp] theorem State.setCore_slices (s : State) (k : Nat) (v : Core) : (s.setCore k v).slices = s.slices := rfl
@[simp] theorem State.setCore_harts (s : State) (k : Nat) (v : Core) : (s.setCore k v).harts = s.harts := rfl
@[simp] theorem State.setCore_tcaches (s : State) (k : Nat) (v : Core) : (s.setCore k v).tcaches = s.tcaches := rfl
@[simp] theorem State.setCore_access (s : State) (k : Nat) (v : Core) : (s.setCore k v).access = s.access := rfl
@[simp] theorem State.setCore_denials (s : State) (k : Nat) (v : Core) : (s.setCore k v).denials = s.denials := rfl
@[simp] theorem State.setCore_fetches (s : State) (k : Nat) (v : Core) : (s.setCore k v).fetches = s.fetches := rfl
@[simp] theorem State.setCore_blocked (s : State) (k : Nat) (v : Core) : (s.setCore k v).blocked = s.blocked := rfl
@[simp] theorem State.setCore_resent (s : State) (k : Nat) (v : Core) : (s.setCore k v).resent = s.resent := rfl
@[simp] theorem State.setCore_sent (s : State) (k : Nat) (v : Core) : (s.setCore k v).sent = s.sent := rfl
@[simp] theorem State.setCore_descents (s : State) (k : Nat) (v : Core) : (s.setCore k v).descents = s.descents := rfl
@[simp] theorem State.setCore_records (s : State) (k : Nat) (v : Core) : (s.setCore k v).records = s.records := rfl
@[simp] theorem State.setCore_drives (s : State) (k : Nat) (v : Core) : (s.setCore k v).drives = s.drives := rfl
@[simp] theorem State.setCore_pins (s : State) (k : Nat) (v : Core) : (s.setCore k v).pins = s.pins := rfl
@[simp] theorem State.setCore_releasing (s : State) (k : Nat) (v : Core) : (s.setCore k v).releasing = s.releasing := rfl
@[simp] theorem State.setCore_colls (s : State) (k : Nat) (v : Core) : (s.setCore k v).colls = s.colls := rfl
@[simp] theorem State.setCore_baseDies (s : State) (k : Nat) (v : Core) : (s.setCore k v).baseDies = s.baseDies := rfl
@[simp] theorem State.setCore_foremen (s : State) (k : Nat) (v : Core) : (s.setCore k v).foremen = s.foremen := rfl
@[simp] theorem State.setCore_saves (s : State) (k : Nat) (v : Core) : (s.setCore k v).saves = s.saves := rfl
@[simp] theorem State.setCore_head (s : State) (k : Nat) (v : Core) : (s.setCore k v).head = s.head := rfl
@[simp] theorem State.setCore_thread (s : State) (k : Nat) (v : Core) (j : Nat) : (s.setCore k v).thread j = s.thread j := rfl
@[simp] theorem State.setCore_tile (s : State) (k : Nat) (v : Core) (j : Nat) : (s.setCore k v).tile j = s.tile j := rfl
@[simp] theorem State.setCore_port (s : State) (k : Nat) (v : Core) (j : Nat) : (s.setCore k v).port j = s.port j := rfl
@[simp] theorem State.setCore_slice (s : State) (k : Nat) (v : Core) (j : Nat) : (s.setCore k v).slice j = s.slice j := rfl
@[simp] theorem State.setCore_hart (s : State) (k : Nat) (v : Core) (j : Nat) : (s.setCore k v).hart j = s.hart j := rfl
@[simp] theorem State.setCore_foreman (s : State) (k : Nat) (v : Core) (j : Nat) : (s.setCore k v).foreman j = s.foreman j := rfl
theorem State.setCore_core (s : State) (k : Nat) (v : Core) (j : Nat) : (s.setCore k v).core j = if j = k then v else s.core j := Map.get_set _ _ _ _ _
@[simp] theorem State.setCore_core_same (s : State) (k : Nat) (v : Core) : (s.setCore k v).core k = v := by simp [State.setCore_core]

/-! ### setTile -/

@[simp] theorem State.setTile_agenda (s : State) (k : Nat) (v : Tile) : (s.setTile k v).agenda = s.agenda := rfl
@[simp] theorem State.setTile_self (s : State) (k : Nat) (v : Tile) : (s.setTile k v).self = s.self := rfl
@[simp] theorem State.setTile_tick (s : State) (k : Nat) (v : Tile) : (s.setTile k v).tick = s.tick := rfl
@[simp] theorem State.setTile_nextId (s : State) (k : Nat) (v : Tile) : (s.setTile k v).nextId = s.nextId := rfl
@[simp] theorem State.setTile_time (s : State) (k : Nat) (v : Tile) : (s.setTile k v).time = s.time := rfl
@[simp] theorem State.setTile_cycleFrom (s : State) (k : Nat) (v : Tile) : (s.setTile k v).cycleFrom = s.cycleFrom := rfl
@[simp] theorem State.setTile_timeFrom (s : State) (k : Nat) (v : Tile) : (s.setTile k v).timeFrom = s.timeFrom := rfl
@[simp] theorem State.setTile_mem (s : State) (k : Nat) (v : Tile) : (s.setTile k v).mem = s.mem := rfl
@[simp] theorem State.setTile_poison (s : State) (k : Nat) (v : Tile) : (s.setTile k v).poison = s.poison := rfl
@[simp] theorem State.setTile_threads (s : State) (k : Nat) (v : Tile) : (s.setTile k v).threads = s.threads := rfl
@[simp] theorem State.setTile_cores (s : State) (k : Nat) (v : Tile) : (s.setTile k v).cores = s.cores := rfl
@[simp] theorem State.setTile_ports (s : State) (k : Nat) (v : Tile) : (s.setTile k v).ports = s.ports := rfl
@[simp] theorem State.setTile_egress (s : State) (k : Nat) (v : Tile) : (s.setTile k v).egress = s.egress := rfl
@[simp] theorem State.setTile_barriers (s : State) (k : Nat) (v : Tile) : (s.setTile k v).barriers = s.barriers := rfl
@[simp] theorem State.setTile_slices (s : State) (k : Nat) (v : Tile) : (s.setTile k v).slices = s.slices := rfl
@[simp] theorem State.setTile_harts (s : State) (k : Nat) (v : Tile) : (s.setTile k v).harts = s.harts := rfl
@[simp] theorem State.setTile_tcaches (s : State) (k : Nat) (v : Tile) : (s.setTile k v).tcaches = s.tcaches := rfl
@[simp] theorem State.setTile_access (s : State) (k : Nat) (v : Tile) : (s.setTile k v).access = s.access := rfl
@[simp] theorem State.setTile_denials (s : State) (k : Nat) (v : Tile) : (s.setTile k v).denials = s.denials := rfl
@[simp] theorem State.setTile_fetches (s : State) (k : Nat) (v : Tile) : (s.setTile k v).fetches = s.fetches := rfl
@[simp] theorem State.setTile_blocked (s : State) (k : Nat) (v : Tile) : (s.setTile k v).blocked = s.blocked := rfl
@[simp] theorem State.setTile_resent (s : State) (k : Nat) (v : Tile) : (s.setTile k v).resent = s.resent := rfl
@[simp] theorem State.setTile_sent (s : State) (k : Nat) (v : Tile) : (s.setTile k v).sent = s.sent := rfl
@[simp] theorem State.setTile_descents (s : State) (k : Nat) (v : Tile) : (s.setTile k v).descents = s.descents := rfl
@[simp] theorem State.setTile_records (s : State) (k : Nat) (v : Tile) : (s.setTile k v).records = s.records := rfl
@[simp] theorem State.setTile_drives (s : State) (k : Nat) (v : Tile) : (s.setTile k v).drives = s.drives := rfl
@[simp] theorem State.setTile_pins (s : State) (k : Nat) (v : Tile) : (s.setTile k v).pins = s.pins := rfl
@[simp] theorem State.setTile_releasing (s : State) (k : Nat) (v : Tile) : (s.setTile k v).releasing = s.releasing := rfl
@[simp] theorem State.setTile_colls (s : State) (k : Nat) (v : Tile) : (s.setTile k v).colls = s.colls := rfl
@[simp] theorem State.setTile_baseDies (s : State) (k : Nat) (v : Tile) : (s.setTile k v).baseDies = s.baseDies := rfl
@[simp] theorem State.setTile_foremen (s : State) (k : Nat) (v : Tile) : (s.setTile k v).foremen = s.foremen := rfl
@[simp] theorem State.setTile_saves (s : State) (k : Nat) (v : Tile) : (s.setTile k v).saves = s.saves := rfl
@[simp] theorem State.setTile_head (s : State) (k : Nat) (v : Tile) : (s.setTile k v).head = s.head := rfl
@[simp] theorem State.setTile_thread (s : State) (k : Nat) (v : Tile) (j : Nat) : (s.setTile k v).thread j = s.thread j := rfl
@[simp] theorem State.setTile_core (s : State) (k : Nat) (v : Tile) (j : Nat) : (s.setTile k v).core j = s.core j := rfl
@[simp] theorem State.setTile_port (s : State) (k : Nat) (v : Tile) (j : Nat) : (s.setTile k v).port j = s.port j := rfl
@[simp] theorem State.setTile_slice (s : State) (k : Nat) (v : Tile) (j : Nat) : (s.setTile k v).slice j = s.slice j := rfl
@[simp] theorem State.setTile_hart (s : State) (k : Nat) (v : Tile) (j : Nat) : (s.setTile k v).hart j = s.hart j := rfl
@[simp] theorem State.setTile_foreman (s : State) (k : Nat) (v : Tile) (j : Nat) : (s.setTile k v).foreman j = s.foreman j := rfl
theorem State.setTile_tile (s : State) (k : Nat) (v : Tile) (j : Nat) : (s.setTile k v).tile j = if j = k then v else s.tile j := Map.get_set _ _ _ _ _
@[simp] theorem State.setTile_tile_same (s : State) (k : Nat) (v : Tile) : (s.setTile k v).tile k = v := by simp [State.setTile_tile]

/-! ### setPort -/

@[simp] theorem State.setPort_agenda (s : State) (k : Nat) (v : Port) : (s.setPort k v).agenda = s.agenda := rfl
@[simp] theorem State.setPort_self (s : State) (k : Nat) (v : Port) : (s.setPort k v).self = s.self := rfl
@[simp] theorem State.setPort_tick (s : State) (k : Nat) (v : Port) : (s.setPort k v).tick = s.tick := rfl
@[simp] theorem State.setPort_nextId (s : State) (k : Nat) (v : Port) : (s.setPort k v).nextId = s.nextId := rfl
@[simp] theorem State.setPort_time (s : State) (k : Nat) (v : Port) : (s.setPort k v).time = s.time := rfl
@[simp] theorem State.setPort_cycleFrom (s : State) (k : Nat) (v : Port) : (s.setPort k v).cycleFrom = s.cycleFrom := rfl
@[simp] theorem State.setPort_timeFrom (s : State) (k : Nat) (v : Port) : (s.setPort k v).timeFrom = s.timeFrom := rfl
@[simp] theorem State.setPort_mem (s : State) (k : Nat) (v : Port) : (s.setPort k v).mem = s.mem := rfl
@[simp] theorem State.setPort_poison (s : State) (k : Nat) (v : Port) : (s.setPort k v).poison = s.poison := rfl
@[simp] theorem State.setPort_threads (s : State) (k : Nat) (v : Port) : (s.setPort k v).threads = s.threads := rfl
@[simp] theorem State.setPort_cores (s : State) (k : Nat) (v : Port) : (s.setPort k v).cores = s.cores := rfl
@[simp] theorem State.setPort_tiles (s : State) (k : Nat) (v : Port) : (s.setPort k v).tiles = s.tiles := rfl
@[simp] theorem State.setPort_egress (s : State) (k : Nat) (v : Port) : (s.setPort k v).egress = s.egress := rfl
@[simp] theorem State.setPort_barriers (s : State) (k : Nat) (v : Port) : (s.setPort k v).barriers = s.barriers := rfl
@[simp] theorem State.setPort_slices (s : State) (k : Nat) (v : Port) : (s.setPort k v).slices = s.slices := rfl
@[simp] theorem State.setPort_harts (s : State) (k : Nat) (v : Port) : (s.setPort k v).harts = s.harts := rfl
@[simp] theorem State.setPort_tcaches (s : State) (k : Nat) (v : Port) : (s.setPort k v).tcaches = s.tcaches := rfl
@[simp] theorem State.setPort_access (s : State) (k : Nat) (v : Port) : (s.setPort k v).access = s.access := rfl
@[simp] theorem State.setPort_denials (s : State) (k : Nat) (v : Port) : (s.setPort k v).denials = s.denials := rfl
@[simp] theorem State.setPort_fetches (s : State) (k : Nat) (v : Port) : (s.setPort k v).fetches = s.fetches := rfl
@[simp] theorem State.setPort_blocked (s : State) (k : Nat) (v : Port) : (s.setPort k v).blocked = s.blocked := rfl
@[simp] theorem State.setPort_resent (s : State) (k : Nat) (v : Port) : (s.setPort k v).resent = s.resent := rfl
@[simp] theorem State.setPort_sent (s : State) (k : Nat) (v : Port) : (s.setPort k v).sent = s.sent := rfl
@[simp] theorem State.setPort_descents (s : State) (k : Nat) (v : Port) : (s.setPort k v).descents = s.descents := rfl
@[simp] theorem State.setPort_records (s : State) (k : Nat) (v : Port) : (s.setPort k v).records = s.records := rfl
@[simp] theorem State.setPort_drives (s : State) (k : Nat) (v : Port) : (s.setPort k v).drives = s.drives := rfl
@[simp] theorem State.setPort_pins (s : State) (k : Nat) (v : Port) : (s.setPort k v).pins = s.pins := rfl
@[simp] theorem State.setPort_releasing (s : State) (k : Nat) (v : Port) : (s.setPort k v).releasing = s.releasing := rfl
@[simp] theorem State.setPort_colls (s : State) (k : Nat) (v : Port) : (s.setPort k v).colls = s.colls := rfl
@[simp] theorem State.setPort_baseDies (s : State) (k : Nat) (v : Port) : (s.setPort k v).baseDies = s.baseDies := rfl
@[simp] theorem State.setPort_foremen (s : State) (k : Nat) (v : Port) : (s.setPort k v).foremen = s.foremen := rfl
@[simp] theorem State.setPort_saves (s : State) (k : Nat) (v : Port) : (s.setPort k v).saves = s.saves := rfl
@[simp] theorem State.setPort_head (s : State) (k : Nat) (v : Port) : (s.setPort k v).head = s.head := rfl
@[simp] theorem State.setPort_thread (s : State) (k : Nat) (v : Port) (j : Nat) : (s.setPort k v).thread j = s.thread j := rfl
@[simp] theorem State.setPort_core (s : State) (k : Nat) (v : Port) (j : Nat) : (s.setPort k v).core j = s.core j := rfl
@[simp] theorem State.setPort_tile (s : State) (k : Nat) (v : Port) (j : Nat) : (s.setPort k v).tile j = s.tile j := rfl
@[simp] theorem State.setPort_slice (s : State) (k : Nat) (v : Port) (j : Nat) : (s.setPort k v).slice j = s.slice j := rfl
@[simp] theorem State.setPort_hart (s : State) (k : Nat) (v : Port) (j : Nat) : (s.setPort k v).hart j = s.hart j := rfl
@[simp] theorem State.setPort_foreman (s : State) (k : Nat) (v : Port) (j : Nat) : (s.setPort k v).foreman j = s.foreman j := rfl
theorem State.setPort_port (s : State) (k : Nat) (v : Port) (j : Nat) : (s.setPort k v).port j = if j = k then v else s.port j := Map.get_set _ _ _ _ _
@[simp] theorem State.setPort_port_same (s : State) (k : Nat) (v : Port) : (s.setPort k v).port k = v := by simp [State.setPort_port]

/-! ### setSlice -/

@[simp] theorem State.setSlice_agenda (s : State) (k : Nat) (v : Slice) : (s.setSlice k v).agenda = s.agenda := rfl
@[simp] theorem State.setSlice_self (s : State) (k : Nat) (v : Slice) : (s.setSlice k v).self = s.self := rfl
@[simp] theorem State.setSlice_tick (s : State) (k : Nat) (v : Slice) : (s.setSlice k v).tick = s.tick := rfl
@[simp] theorem State.setSlice_nextId (s : State) (k : Nat) (v : Slice) : (s.setSlice k v).nextId = s.nextId := rfl
@[simp] theorem State.setSlice_time (s : State) (k : Nat) (v : Slice) : (s.setSlice k v).time = s.time := rfl
@[simp] theorem State.setSlice_cycleFrom (s : State) (k : Nat) (v : Slice) : (s.setSlice k v).cycleFrom = s.cycleFrom := rfl
@[simp] theorem State.setSlice_timeFrom (s : State) (k : Nat) (v : Slice) : (s.setSlice k v).timeFrom = s.timeFrom := rfl
@[simp] theorem State.setSlice_mem (s : State) (k : Nat) (v : Slice) : (s.setSlice k v).mem = s.mem := rfl
@[simp] theorem State.setSlice_poison (s : State) (k : Nat) (v : Slice) : (s.setSlice k v).poison = s.poison := rfl
@[simp] theorem State.setSlice_threads (s : State) (k : Nat) (v : Slice) : (s.setSlice k v).threads = s.threads := rfl
@[simp] theorem State.setSlice_cores (s : State) (k : Nat) (v : Slice) : (s.setSlice k v).cores = s.cores := rfl
@[simp] theorem State.setSlice_tiles (s : State) (k : Nat) (v : Slice) : (s.setSlice k v).tiles = s.tiles := rfl
@[simp] theorem State.setSlice_ports (s : State) (k : Nat) (v : Slice) : (s.setSlice k v).ports = s.ports := rfl
@[simp] theorem State.setSlice_egress (s : State) (k : Nat) (v : Slice) : (s.setSlice k v).egress = s.egress := rfl
@[simp] theorem State.setSlice_barriers (s : State) (k : Nat) (v : Slice) : (s.setSlice k v).barriers = s.barriers := rfl
@[simp] theorem State.setSlice_harts (s : State) (k : Nat) (v : Slice) : (s.setSlice k v).harts = s.harts := rfl
@[simp] theorem State.setSlice_tcaches (s : State) (k : Nat) (v : Slice) : (s.setSlice k v).tcaches = s.tcaches := rfl
@[simp] theorem State.setSlice_access (s : State) (k : Nat) (v : Slice) : (s.setSlice k v).access = s.access := rfl
@[simp] theorem State.setSlice_denials (s : State) (k : Nat) (v : Slice) : (s.setSlice k v).denials = s.denials := rfl
@[simp] theorem State.setSlice_fetches (s : State) (k : Nat) (v : Slice) : (s.setSlice k v).fetches = s.fetches := rfl
@[simp] theorem State.setSlice_blocked (s : State) (k : Nat) (v : Slice) : (s.setSlice k v).blocked = s.blocked := rfl
@[simp] theorem State.setSlice_resent (s : State) (k : Nat) (v : Slice) : (s.setSlice k v).resent = s.resent := rfl
@[simp] theorem State.setSlice_sent (s : State) (k : Nat) (v : Slice) : (s.setSlice k v).sent = s.sent := rfl
@[simp] theorem State.setSlice_descents (s : State) (k : Nat) (v : Slice) : (s.setSlice k v).descents = s.descents := rfl
@[simp] theorem State.setSlice_records (s : State) (k : Nat) (v : Slice) : (s.setSlice k v).records = s.records := rfl
@[simp] theorem State.setSlice_drives (s : State) (k : Nat) (v : Slice) : (s.setSlice k v).drives = s.drives := rfl
@[simp] theorem State.setSlice_pins (s : State) (k : Nat) (v : Slice) : (s.setSlice k v).pins = s.pins := rfl
@[simp] theorem State.setSlice_releasing (s : State) (k : Nat) (v : Slice) : (s.setSlice k v).releasing = s.releasing := rfl
@[simp] theorem State.setSlice_colls (s : State) (k : Nat) (v : Slice) : (s.setSlice k v).colls = s.colls := rfl
@[simp] theorem State.setSlice_baseDies (s : State) (k : Nat) (v : Slice) : (s.setSlice k v).baseDies = s.baseDies := rfl
@[simp] theorem State.setSlice_foremen (s : State) (k : Nat) (v : Slice) : (s.setSlice k v).foremen = s.foremen := rfl
@[simp] theorem State.setSlice_saves (s : State) (k : Nat) (v : Slice) : (s.setSlice k v).saves = s.saves := rfl
@[simp] theorem State.setSlice_head (s : State) (k : Nat) (v : Slice) : (s.setSlice k v).head = s.head := rfl
@[simp] theorem State.setSlice_thread (s : State) (k : Nat) (v : Slice) (j : Nat) : (s.setSlice k v).thread j = s.thread j := rfl
@[simp] theorem State.setSlice_core (s : State) (k : Nat) (v : Slice) (j : Nat) : (s.setSlice k v).core j = s.core j := rfl
@[simp] theorem State.setSlice_tile (s : State) (k : Nat) (v : Slice) (j : Nat) : (s.setSlice k v).tile j = s.tile j := rfl
@[simp] theorem State.setSlice_port (s : State) (k : Nat) (v : Slice) (j : Nat) : (s.setSlice k v).port j = s.port j := rfl
@[simp] theorem State.setSlice_hart (s : State) (k : Nat) (v : Slice) (j : Nat) : (s.setSlice k v).hart j = s.hart j := rfl
@[simp] theorem State.setSlice_foreman (s : State) (k : Nat) (v : Slice) (j : Nat) : (s.setSlice k v).foreman j = s.foreman j := rfl
theorem State.setSlice_slice (s : State) (k : Nat) (v : Slice) (j : Nat) : (s.setSlice k v).slice j = if j = k then v else s.slice j := Map.get_set _ _ _ _ _
@[simp] theorem State.setSlice_slice_same (s : State) (k : Nat) (v : Slice) : (s.setSlice k v).slice k = v := by simp [State.setSlice_slice]

/-! ### setHart -/

@[simp] theorem State.setHart_agenda (s : State) (k : Nat) (v : Hart) : (s.setHart k v).agenda = s.agenda := rfl
@[simp] theorem State.setHart_self (s : State) (k : Nat) (v : Hart) : (s.setHart k v).self = s.self := rfl
@[simp] theorem State.setHart_tick (s : State) (k : Nat) (v : Hart) : (s.setHart k v).tick = s.tick := rfl
@[simp] theorem State.setHart_nextId (s : State) (k : Nat) (v : Hart) : (s.setHart k v).nextId = s.nextId := rfl
@[simp] theorem State.setHart_time (s : State) (k : Nat) (v : Hart) : (s.setHart k v).time = s.time := rfl
@[simp] theorem State.setHart_cycleFrom (s : State) (k : Nat) (v : Hart) : (s.setHart k v).cycleFrom = s.cycleFrom := rfl
@[simp] theorem State.setHart_timeFrom (s : State) (k : Nat) (v : Hart) : (s.setHart k v).timeFrom = s.timeFrom := rfl
@[simp] theorem State.setHart_mem (s : State) (k : Nat) (v : Hart) : (s.setHart k v).mem = s.mem := rfl
@[simp] theorem State.setHart_poison (s : State) (k : Nat) (v : Hart) : (s.setHart k v).poison = s.poison := rfl
@[simp] theorem State.setHart_threads (s : State) (k : Nat) (v : Hart) : (s.setHart k v).threads = s.threads := rfl
@[simp] theorem State.setHart_cores (s : State) (k : Nat) (v : Hart) : (s.setHart k v).cores = s.cores := rfl
@[simp] theorem State.setHart_tiles (s : State) (k : Nat) (v : Hart) : (s.setHart k v).tiles = s.tiles := rfl
@[simp] theorem State.setHart_ports (s : State) (k : Nat) (v : Hart) : (s.setHart k v).ports = s.ports := rfl
@[simp] theorem State.setHart_egress (s : State) (k : Nat) (v : Hart) : (s.setHart k v).egress = s.egress := rfl
@[simp] theorem State.setHart_barriers (s : State) (k : Nat) (v : Hart) : (s.setHart k v).barriers = s.barriers := rfl
@[simp] theorem State.setHart_slices (s : State) (k : Nat) (v : Hart) : (s.setHart k v).slices = s.slices := rfl
@[simp] theorem State.setHart_tcaches (s : State) (k : Nat) (v : Hart) : (s.setHart k v).tcaches = s.tcaches := rfl
@[simp] theorem State.setHart_access (s : State) (k : Nat) (v : Hart) : (s.setHart k v).access = s.access := rfl
@[simp] theorem State.setHart_denials (s : State) (k : Nat) (v : Hart) : (s.setHart k v).denials = s.denials := rfl
@[simp] theorem State.setHart_fetches (s : State) (k : Nat) (v : Hart) : (s.setHart k v).fetches = s.fetches := rfl
@[simp] theorem State.setHart_blocked (s : State) (k : Nat) (v : Hart) : (s.setHart k v).blocked = s.blocked := rfl
@[simp] theorem State.setHart_resent (s : State) (k : Nat) (v : Hart) : (s.setHart k v).resent = s.resent := rfl
@[simp] theorem State.setHart_sent (s : State) (k : Nat) (v : Hart) : (s.setHart k v).sent = s.sent := rfl
@[simp] theorem State.setHart_descents (s : State) (k : Nat) (v : Hart) : (s.setHart k v).descents = s.descents := rfl
@[simp] theorem State.setHart_records (s : State) (k : Nat) (v : Hart) : (s.setHart k v).records = s.records := rfl
@[simp] theorem State.setHart_drives (s : State) (k : Nat) (v : Hart) : (s.setHart k v).drives = s.drives := rfl
@[simp] theorem State.setHart_pins (s : State) (k : Nat) (v : Hart) : (s.setHart k v).pins = s.pins := rfl
@[simp] theorem State.setHart_releasing (s : State) (k : Nat) (v : Hart) : (s.setHart k v).releasing = s.releasing := rfl
@[simp] theorem State.setHart_colls (s : State) (k : Nat) (v : Hart) : (s.setHart k v).colls = s.colls := rfl
@[simp] theorem State.setHart_baseDies (s : State) (k : Nat) (v : Hart) : (s.setHart k v).baseDies = s.baseDies := rfl
@[simp] theorem State.setHart_foremen (s : State) (k : Nat) (v : Hart) : (s.setHart k v).foremen = s.foremen := rfl
@[simp] theorem State.setHart_saves (s : State) (k : Nat) (v : Hart) : (s.setHart k v).saves = s.saves := rfl
@[simp] theorem State.setHart_head (s : State) (k : Nat) (v : Hart) : (s.setHart k v).head = s.head := rfl
@[simp] theorem State.setHart_thread (s : State) (k : Nat) (v : Hart) (j : Nat) : (s.setHart k v).thread j = s.thread j := rfl
@[simp] theorem State.setHart_core (s : State) (k : Nat) (v : Hart) (j : Nat) : (s.setHart k v).core j = s.core j := rfl
@[simp] theorem State.setHart_tile (s : State) (k : Nat) (v : Hart) (j : Nat) : (s.setHart k v).tile j = s.tile j := rfl
@[simp] theorem State.setHart_port (s : State) (k : Nat) (v : Hart) (j : Nat) : (s.setHart k v).port j = s.port j := rfl
@[simp] theorem State.setHart_slice (s : State) (k : Nat) (v : Hart) (j : Nat) : (s.setHart k v).slice j = s.slice j := rfl
@[simp] theorem State.setHart_foreman (s : State) (k : Nat) (v : Hart) (j : Nat) : (s.setHart k v).foreman j = s.foreman j := rfl
theorem State.setHart_hart (s : State) (k : Nat) (v : Hart) (j : Nat) : (s.setHart k v).hart j = if j = k then v else s.hart j := Map.get_set _ _ _ _ _
@[simp] theorem State.setHart_hart_same (s : State) (k : Nat) (v : Hart) : (s.setHart k v).hart k = v := by simp [State.setHart_hart]

/-! ### setForeman -/

@[simp] theorem State.setForeman_agenda (s : State) (k : Nat) (v : Foreman) : (s.setForeman k v).agenda = s.agenda := rfl
@[simp] theorem State.setForeman_self (s : State) (k : Nat) (v : Foreman) : (s.setForeman k v).self = s.self := rfl
@[simp] theorem State.setForeman_tick (s : State) (k : Nat) (v : Foreman) : (s.setForeman k v).tick = s.tick := rfl
@[simp] theorem State.setForeman_nextId (s : State) (k : Nat) (v : Foreman) : (s.setForeman k v).nextId = s.nextId := rfl
@[simp] theorem State.setForeman_time (s : State) (k : Nat) (v : Foreman) : (s.setForeman k v).time = s.time := rfl
@[simp] theorem State.setForeman_cycleFrom (s : State) (k : Nat) (v : Foreman) : (s.setForeman k v).cycleFrom = s.cycleFrom := rfl
@[simp] theorem State.setForeman_timeFrom (s : State) (k : Nat) (v : Foreman) : (s.setForeman k v).timeFrom = s.timeFrom := rfl
@[simp] theorem State.setForeman_mem (s : State) (k : Nat) (v : Foreman) : (s.setForeman k v).mem = s.mem := rfl
@[simp] theorem State.setForeman_poison (s : State) (k : Nat) (v : Foreman) : (s.setForeman k v).poison = s.poison := rfl
@[simp] theorem State.setForeman_threads (s : State) (k : Nat) (v : Foreman) : (s.setForeman k v).threads = s.threads := rfl
@[simp] theorem State.setForeman_cores (s : State) (k : Nat) (v : Foreman) : (s.setForeman k v).cores = s.cores := rfl
@[simp] theorem State.setForeman_tiles (s : State) (k : Nat) (v : Foreman) : (s.setForeman k v).tiles = s.tiles := rfl
@[simp] theorem State.setForeman_ports (s : State) (k : Nat) (v : Foreman) : (s.setForeman k v).ports = s.ports := rfl
@[simp] theorem State.setForeman_egress (s : State) (k : Nat) (v : Foreman) : (s.setForeman k v).egress = s.egress := rfl
@[simp] theorem State.setForeman_barriers (s : State) (k : Nat) (v : Foreman) : (s.setForeman k v).barriers = s.barriers := rfl
@[simp] theorem State.setForeman_slices (s : State) (k : Nat) (v : Foreman) : (s.setForeman k v).slices = s.slices := rfl
@[simp] theorem State.setForeman_harts (s : State) (k : Nat) (v : Foreman) : (s.setForeman k v).harts = s.harts := rfl
@[simp] theorem State.setForeman_tcaches (s : State) (k : Nat) (v : Foreman) : (s.setForeman k v).tcaches = s.tcaches := rfl
@[simp] theorem State.setForeman_access (s : State) (k : Nat) (v : Foreman) : (s.setForeman k v).access = s.access := rfl
@[simp] theorem State.setForeman_denials (s : State) (k : Nat) (v : Foreman) : (s.setForeman k v).denials = s.denials := rfl
@[simp] theorem State.setForeman_fetches (s : State) (k : Nat) (v : Foreman) : (s.setForeman k v).fetches = s.fetches := rfl
@[simp] theorem State.setForeman_blocked (s : State) (k : Nat) (v : Foreman) : (s.setForeman k v).blocked = s.blocked := rfl
@[simp] theorem State.setForeman_resent (s : State) (k : Nat) (v : Foreman) : (s.setForeman k v).resent = s.resent := rfl
@[simp] theorem State.setForeman_sent (s : State) (k : Nat) (v : Foreman) : (s.setForeman k v).sent = s.sent := rfl
@[simp] theorem State.setForeman_descents (s : State) (k : Nat) (v : Foreman) : (s.setForeman k v).descents = s.descents := rfl
@[simp] theorem State.setForeman_records (s : State) (k : Nat) (v : Foreman) : (s.setForeman k v).records = s.records := rfl
@[simp] theorem State.setForeman_drives (s : State) (k : Nat) (v : Foreman) : (s.setForeman k v).drives = s.drives := rfl
@[simp] theorem State.setForeman_pins (s : State) (k : Nat) (v : Foreman) : (s.setForeman k v).pins = s.pins := rfl
@[simp] theorem State.setForeman_releasing (s : State) (k : Nat) (v : Foreman) : (s.setForeman k v).releasing = s.releasing := rfl
@[simp] theorem State.setForeman_colls (s : State) (k : Nat) (v : Foreman) : (s.setForeman k v).colls = s.colls := rfl
@[simp] theorem State.setForeman_baseDies (s : State) (k : Nat) (v : Foreman) : (s.setForeman k v).baseDies = s.baseDies := rfl
@[simp] theorem State.setForeman_saves (s : State) (k : Nat) (v : Foreman) : (s.setForeman k v).saves = s.saves := rfl
@[simp] theorem State.setForeman_head (s : State) (k : Nat) (v : Foreman) : (s.setForeman k v).head = s.head := rfl
@[simp] theorem State.setForeman_thread (s : State) (k : Nat) (v : Foreman) (j : Nat) : (s.setForeman k v).thread j = s.thread j := rfl
@[simp] theorem State.setForeman_core (s : State) (k : Nat) (v : Foreman) (j : Nat) : (s.setForeman k v).core j = s.core j := rfl
@[simp] theorem State.setForeman_tile (s : State) (k : Nat) (v : Foreman) (j : Nat) : (s.setForeman k v).tile j = s.tile j := rfl
@[simp] theorem State.setForeman_port (s : State) (k : Nat) (v : Foreman) (j : Nat) : (s.setForeman k v).port j = s.port j := rfl
@[simp] theorem State.setForeman_slice (s : State) (k : Nat) (v : Foreman) (j : Nat) : (s.setForeman k v).slice j = s.slice j := rfl
@[simp] theorem State.setForeman_hart (s : State) (k : Nat) (v : Foreman) (j : Nat) : (s.setForeman k v).hart j = s.hart j := rfl
theorem State.setForeman_foreman (s : State) (k : Nat) (v : Foreman) (j : Nat) : (s.setForeman k v).foreman j = if j = k then v else s.foreman j := Map.get_set _ _ _ _ _
@[simp] theorem State.setForeman_foreman_same (s : State) (k : Nat) (v : Foreman) : (s.setForeman k v).foreman k = v := by simp [State.setForeman_foreman]

/-! ### Changes by a function -/

@[simp] theorem State.modThread_thread_same (s : State) (k : Nat) (f : Thread → Thread) : (s.modThread k f).thread k = f (s.thread k) := by
  simp [State.modThread]
theorem State.modThread_thread_ne (s : State) (k j : Nat) (f : Thread → Thread) (h : j ≠ k) : (s.modThread k f).thread j = s.thread j := by
  simp [State.modThread, State.setThread_thread, h]
@[simp] theorem State.modCore_core_same (s : State) (k : Nat) (f : Core → Core) : (s.modCore k f).core k = f (s.core k) := by
  simp [State.modCore]
@[simp] theorem State.modTile_tile_same (s : State) (k : Nat) (f : Tile → Tile) : (s.modTile k f).tile k = f (s.tile k) := by
  simp [State.modTile]
@[simp] theorem State.modPort_port_same (s : State) (k : Nat) (f : Port → Port) : (s.modPort k f).port k = f (s.port k) := by
  simp [State.modPort]
@[simp] theorem State.modSlice_slice_same (s : State) (k : Nat) (f : Slice → Slice) : (s.modSlice k f).slice k = f (s.slice k) := by
  simp [State.modSlice]
@[simp] theorem State.modForeman_foreman_same (s : State) (k : Nat) (f : Foreman → Foreman) : (s.modForeman k f).foreman k = f (s.foreman k) := by
  simp [State.modForeman]

@[simp] theorem State.modThread_agenda (s : State) (k : Nat) (f : Thread → Thread) : (s.modThread k f).agenda = s.agenda := rfl
@[simp] theorem State.modThread_self (s : State) (k : Nat) (f : Thread → Thread) : (s.modThread k f).self = s.self := rfl
@[simp] theorem State.modThread_tick (s : State) (k : Nat) (f : Thread → Thread) : (s.modThread k f).tick = s.tick := rfl
@[simp] theorem State.modThread_nextId (s : State) (k : Nat) (f : Thread → Thread) : (s.modThread k f).nextId = s.nextId := rfl
@[simp] theorem State.modThread_time (s : State) (k : Nat) (f : Thread → Thread) : (s.modThread k f).time = s.time := rfl
@[simp] theorem State.modThread_cycleFrom (s : State) (k : Nat) (f : Thread → Thread) : (s.modThread k f).cycleFrom = s.cycleFrom := rfl
@[simp] theorem State.modThread_timeFrom (s : State) (k : Nat) (f : Thread → Thread) : (s.modThread k f).timeFrom = s.timeFrom := rfl
@[simp] theorem State.modThread_mem (s : State) (k : Nat) (f : Thread → Thread) : (s.modThread k f).mem = s.mem := rfl
@[simp] theorem State.modThread_poison (s : State) (k : Nat) (f : Thread → Thread) : (s.modThread k f).poison = s.poison := rfl
@[simp] theorem State.modThread_cores (s : State) (k : Nat) (f : Thread → Thread) : (s.modThread k f).cores = s.cores := rfl
@[simp] theorem State.modThread_tiles (s : State) (k : Nat) (f : Thread → Thread) : (s.modThread k f).tiles = s.tiles := rfl
@[simp] theorem State.modThread_ports (s : State) (k : Nat) (f : Thread → Thread) : (s.modThread k f).ports = s.ports := rfl
@[simp] theorem State.modThread_egress (s : State) (k : Nat) (f : Thread → Thread) : (s.modThread k f).egress = s.egress := rfl
@[simp] theorem State.modThread_barriers (s : State) (k : Nat) (f : Thread → Thread) : (s.modThread k f).barriers = s.barriers := rfl
@[simp] theorem State.modThread_slices (s : State) (k : Nat) (f : Thread → Thread) : (s.modThread k f).slices = s.slices := rfl
@[simp] theorem State.modThread_harts (s : State) (k : Nat) (f : Thread → Thread) : (s.modThread k f).harts = s.harts := rfl
@[simp] theorem State.modThread_tcaches (s : State) (k : Nat) (f : Thread → Thread) : (s.modThread k f).tcaches = s.tcaches := rfl
@[simp] theorem State.modThread_access (s : State) (k : Nat) (f : Thread → Thread) : (s.modThread k f).access = s.access := rfl
@[simp] theorem State.modThread_denials (s : State) (k : Nat) (f : Thread → Thread) : (s.modThread k f).denials = s.denials := rfl
@[simp] theorem State.modThread_fetches (s : State) (k : Nat) (f : Thread → Thread) : (s.modThread k f).fetches = s.fetches := rfl
@[simp] theorem State.modThread_blocked (s : State) (k : Nat) (f : Thread → Thread) : (s.modThread k f).blocked = s.blocked := rfl
@[simp] theorem State.modThread_resent (s : State) (k : Nat) (f : Thread → Thread) : (s.modThread k f).resent = s.resent := rfl
@[simp] theorem State.modThread_sent (s : State) (k : Nat) (f : Thread → Thread) : (s.modThread k f).sent = s.sent := rfl
@[simp] theorem State.modThread_descents (s : State) (k : Nat) (f : Thread → Thread) : (s.modThread k f).descents = s.descents := rfl
@[simp] theorem State.modThread_records (s : State) (k : Nat) (f : Thread → Thread) : (s.modThread k f).records = s.records := rfl
@[simp] theorem State.modThread_drives (s : State) (k : Nat) (f : Thread → Thread) : (s.modThread k f).drives = s.drives := rfl
@[simp] theorem State.modThread_pins (s : State) (k : Nat) (f : Thread → Thread) : (s.modThread k f).pins = s.pins := rfl
@[simp] theorem State.modThread_releasing (s : State) (k : Nat) (f : Thread → Thread) : (s.modThread k f).releasing = s.releasing := rfl
@[simp] theorem State.modThread_colls (s : State) (k : Nat) (f : Thread → Thread) : (s.modThread k f).colls = s.colls := rfl
@[simp] theorem State.modThread_baseDies (s : State) (k : Nat) (f : Thread → Thread) : (s.modThread k f).baseDies = s.baseDies := rfl
@[simp] theorem State.modThread_foremen (s : State) (k : Nat) (f : Thread → Thread) : (s.modThread k f).foremen = s.foremen := rfl
@[simp] theorem State.modThread_saves (s : State) (k : Nat) (f : Thread → Thread) : (s.modThread k f).saves = s.saves := rfl
@[simp] theorem State.modThread_head (s : State) (k : Nat) (f : Thread → Thread) : (s.modThread k f).head = s.head := rfl
@[simp] theorem State.modThread_core (s : State) (k : Nat) (f : Thread → Thread) (j : Nat) : (s.modThread k f).core j = s.core j := rfl
@[simp] theorem State.modThread_tile (s : State) (k : Nat) (f : Thread → Thread) (j : Nat) : (s.modThread k f).tile j = s.tile j := rfl
@[simp] theorem State.modThread_port (s : State) (k : Nat) (f : Thread → Thread) (j : Nat) : (s.modThread k f).port j = s.port j := rfl
@[simp] theorem State.modThread_slice (s : State) (k : Nat) (f : Thread → Thread) (j : Nat) : (s.modThread k f).slice j = s.slice j := rfl
@[simp] theorem State.modThread_hart (s : State) (k : Nat) (f : Thread → Thread) (j : Nat) : (s.modThread k f).hart j = s.hart j := rfl
@[simp] theorem State.modThread_foreman (s : State) (k : Nat) (f : Thread → Thread) (j : Nat) : (s.modThread k f).foreman j = s.foreman j := rfl
@[simp] theorem State.modCore_agenda (s : State) (k : Nat) (f : Core → Core) : (s.modCore k f).agenda = s.agenda := rfl
@[simp] theorem State.modCore_self (s : State) (k : Nat) (f : Core → Core) : (s.modCore k f).self = s.self := rfl
@[simp] theorem State.modCore_tick (s : State) (k : Nat) (f : Core → Core) : (s.modCore k f).tick = s.tick := rfl
@[simp] theorem State.modCore_nextId (s : State) (k : Nat) (f : Core → Core) : (s.modCore k f).nextId = s.nextId := rfl
@[simp] theorem State.modCore_time (s : State) (k : Nat) (f : Core → Core) : (s.modCore k f).time = s.time := rfl
@[simp] theorem State.modCore_cycleFrom (s : State) (k : Nat) (f : Core → Core) : (s.modCore k f).cycleFrom = s.cycleFrom := rfl
@[simp] theorem State.modCore_timeFrom (s : State) (k : Nat) (f : Core → Core) : (s.modCore k f).timeFrom = s.timeFrom := rfl
@[simp] theorem State.modCore_mem (s : State) (k : Nat) (f : Core → Core) : (s.modCore k f).mem = s.mem := rfl
@[simp] theorem State.modCore_poison (s : State) (k : Nat) (f : Core → Core) : (s.modCore k f).poison = s.poison := rfl
@[simp] theorem State.modCore_threads (s : State) (k : Nat) (f : Core → Core) : (s.modCore k f).threads = s.threads := rfl
@[simp] theorem State.modCore_tiles (s : State) (k : Nat) (f : Core → Core) : (s.modCore k f).tiles = s.tiles := rfl
@[simp] theorem State.modCore_ports (s : State) (k : Nat) (f : Core → Core) : (s.modCore k f).ports = s.ports := rfl
@[simp] theorem State.modCore_egress (s : State) (k : Nat) (f : Core → Core) : (s.modCore k f).egress = s.egress := rfl
@[simp] theorem State.modCore_barriers (s : State) (k : Nat) (f : Core → Core) : (s.modCore k f).barriers = s.barriers := rfl
@[simp] theorem State.modCore_slices (s : State) (k : Nat) (f : Core → Core) : (s.modCore k f).slices = s.slices := rfl
@[simp] theorem State.modCore_harts (s : State) (k : Nat) (f : Core → Core) : (s.modCore k f).harts = s.harts := rfl
@[simp] theorem State.modCore_tcaches (s : State) (k : Nat) (f : Core → Core) : (s.modCore k f).tcaches = s.tcaches := rfl
@[simp] theorem State.modCore_access (s : State) (k : Nat) (f : Core → Core) : (s.modCore k f).access = s.access := rfl
@[simp] theorem State.modCore_denials (s : State) (k : Nat) (f : Core → Core) : (s.modCore k f).denials = s.denials := rfl
@[simp] theorem State.modCore_fetches (s : State) (k : Nat) (f : Core → Core) : (s.modCore k f).fetches = s.fetches := rfl
@[simp] theorem State.modCore_blocked (s : State) (k : Nat) (f : Core → Core) : (s.modCore k f).blocked = s.blocked := rfl
@[simp] theorem State.modCore_resent (s : State) (k : Nat) (f : Core → Core) : (s.modCore k f).resent = s.resent := rfl
@[simp] theorem State.modCore_sent (s : State) (k : Nat) (f : Core → Core) : (s.modCore k f).sent = s.sent := rfl
@[simp] theorem State.modCore_descents (s : State) (k : Nat) (f : Core → Core) : (s.modCore k f).descents = s.descents := rfl
@[simp] theorem State.modCore_records (s : State) (k : Nat) (f : Core → Core) : (s.modCore k f).records = s.records := rfl
@[simp] theorem State.modCore_drives (s : State) (k : Nat) (f : Core → Core) : (s.modCore k f).drives = s.drives := rfl
@[simp] theorem State.modCore_pins (s : State) (k : Nat) (f : Core → Core) : (s.modCore k f).pins = s.pins := rfl
@[simp] theorem State.modCore_releasing (s : State) (k : Nat) (f : Core → Core) : (s.modCore k f).releasing = s.releasing := rfl
@[simp] theorem State.modCore_colls (s : State) (k : Nat) (f : Core → Core) : (s.modCore k f).colls = s.colls := rfl
@[simp] theorem State.modCore_baseDies (s : State) (k : Nat) (f : Core → Core) : (s.modCore k f).baseDies = s.baseDies := rfl
@[simp] theorem State.modCore_foremen (s : State) (k : Nat) (f : Core → Core) : (s.modCore k f).foremen = s.foremen := rfl
@[simp] theorem State.modCore_saves (s : State) (k : Nat) (f : Core → Core) : (s.modCore k f).saves = s.saves := rfl
@[simp] theorem State.modCore_head (s : State) (k : Nat) (f : Core → Core) : (s.modCore k f).head = s.head := rfl
@[simp] theorem State.modCore_thread (s : State) (k : Nat) (f : Core → Core) (j : Nat) : (s.modCore k f).thread j = s.thread j := rfl
@[simp] theorem State.modCore_tile (s : State) (k : Nat) (f : Core → Core) (j : Nat) : (s.modCore k f).tile j = s.tile j := rfl
@[simp] theorem State.modCore_port (s : State) (k : Nat) (f : Core → Core) (j : Nat) : (s.modCore k f).port j = s.port j := rfl
@[simp] theorem State.modCore_slice (s : State) (k : Nat) (f : Core → Core) (j : Nat) : (s.modCore k f).slice j = s.slice j := rfl
@[simp] theorem State.modCore_hart (s : State) (k : Nat) (f : Core → Core) (j : Nat) : (s.modCore k f).hart j = s.hart j := rfl
@[simp] theorem State.modCore_foreman (s : State) (k : Nat) (f : Core → Core) (j : Nat) : (s.modCore k f).foreman j = s.foreman j := rfl
@[simp] theorem State.modTile_agenda (s : State) (k : Nat) (f : Tile → Tile) : (s.modTile k f).agenda = s.agenda := rfl
@[simp] theorem State.modTile_self (s : State) (k : Nat) (f : Tile → Tile) : (s.modTile k f).self = s.self := rfl
@[simp] theorem State.modTile_tick (s : State) (k : Nat) (f : Tile → Tile) : (s.modTile k f).tick = s.tick := rfl
@[simp] theorem State.modTile_nextId (s : State) (k : Nat) (f : Tile → Tile) : (s.modTile k f).nextId = s.nextId := rfl
@[simp] theorem State.modTile_time (s : State) (k : Nat) (f : Tile → Tile) : (s.modTile k f).time = s.time := rfl
@[simp] theorem State.modTile_cycleFrom (s : State) (k : Nat) (f : Tile → Tile) : (s.modTile k f).cycleFrom = s.cycleFrom := rfl
@[simp] theorem State.modTile_timeFrom (s : State) (k : Nat) (f : Tile → Tile) : (s.modTile k f).timeFrom = s.timeFrom := rfl
@[simp] theorem State.modTile_mem (s : State) (k : Nat) (f : Tile → Tile) : (s.modTile k f).mem = s.mem := rfl
@[simp] theorem State.modTile_poison (s : State) (k : Nat) (f : Tile → Tile) : (s.modTile k f).poison = s.poison := rfl
@[simp] theorem State.modTile_threads (s : State) (k : Nat) (f : Tile → Tile) : (s.modTile k f).threads = s.threads := rfl
@[simp] theorem State.modTile_cores (s : State) (k : Nat) (f : Tile → Tile) : (s.modTile k f).cores = s.cores := rfl
@[simp] theorem State.modTile_ports (s : State) (k : Nat) (f : Tile → Tile) : (s.modTile k f).ports = s.ports := rfl
@[simp] theorem State.modTile_egress (s : State) (k : Nat) (f : Tile → Tile) : (s.modTile k f).egress = s.egress := rfl
@[simp] theorem State.modTile_barriers (s : State) (k : Nat) (f : Tile → Tile) : (s.modTile k f).barriers = s.barriers := rfl
@[simp] theorem State.modTile_slices (s : State) (k : Nat) (f : Tile → Tile) : (s.modTile k f).slices = s.slices := rfl
@[simp] theorem State.modTile_harts (s : State) (k : Nat) (f : Tile → Tile) : (s.modTile k f).harts = s.harts := rfl
@[simp] theorem State.modTile_tcaches (s : State) (k : Nat) (f : Tile → Tile) : (s.modTile k f).tcaches = s.tcaches := rfl
@[simp] theorem State.modTile_access (s : State) (k : Nat) (f : Tile → Tile) : (s.modTile k f).access = s.access := rfl
@[simp] theorem State.modTile_denials (s : State) (k : Nat) (f : Tile → Tile) : (s.modTile k f).denials = s.denials := rfl
@[simp] theorem State.modTile_fetches (s : State) (k : Nat) (f : Tile → Tile) : (s.modTile k f).fetches = s.fetches := rfl
@[simp] theorem State.modTile_blocked (s : State) (k : Nat) (f : Tile → Tile) : (s.modTile k f).blocked = s.blocked := rfl
@[simp] theorem State.modTile_resent (s : State) (k : Nat) (f : Tile → Tile) : (s.modTile k f).resent = s.resent := rfl
@[simp] theorem State.modTile_sent (s : State) (k : Nat) (f : Tile → Tile) : (s.modTile k f).sent = s.sent := rfl
@[simp] theorem State.modTile_descents (s : State) (k : Nat) (f : Tile → Tile) : (s.modTile k f).descents = s.descents := rfl
@[simp] theorem State.modTile_records (s : State) (k : Nat) (f : Tile → Tile) : (s.modTile k f).records = s.records := rfl
@[simp] theorem State.modTile_drives (s : State) (k : Nat) (f : Tile → Tile) : (s.modTile k f).drives = s.drives := rfl
@[simp] theorem State.modTile_pins (s : State) (k : Nat) (f : Tile → Tile) : (s.modTile k f).pins = s.pins := rfl
@[simp] theorem State.modTile_releasing (s : State) (k : Nat) (f : Tile → Tile) : (s.modTile k f).releasing = s.releasing := rfl
@[simp] theorem State.modTile_colls (s : State) (k : Nat) (f : Tile → Tile) : (s.modTile k f).colls = s.colls := rfl
@[simp] theorem State.modTile_baseDies (s : State) (k : Nat) (f : Tile → Tile) : (s.modTile k f).baseDies = s.baseDies := rfl
@[simp] theorem State.modTile_foremen (s : State) (k : Nat) (f : Tile → Tile) : (s.modTile k f).foremen = s.foremen := rfl
@[simp] theorem State.modTile_saves (s : State) (k : Nat) (f : Tile → Tile) : (s.modTile k f).saves = s.saves := rfl
@[simp] theorem State.modTile_head (s : State) (k : Nat) (f : Tile → Tile) : (s.modTile k f).head = s.head := rfl
@[simp] theorem State.modTile_thread (s : State) (k : Nat) (f : Tile → Tile) (j : Nat) : (s.modTile k f).thread j = s.thread j := rfl
@[simp] theorem State.modTile_core (s : State) (k : Nat) (f : Tile → Tile) (j : Nat) : (s.modTile k f).core j = s.core j := rfl
@[simp] theorem State.modTile_port (s : State) (k : Nat) (f : Tile → Tile) (j : Nat) : (s.modTile k f).port j = s.port j := rfl
@[simp] theorem State.modTile_slice (s : State) (k : Nat) (f : Tile → Tile) (j : Nat) : (s.modTile k f).slice j = s.slice j := rfl
@[simp] theorem State.modTile_hart (s : State) (k : Nat) (f : Tile → Tile) (j : Nat) : (s.modTile k f).hart j = s.hart j := rfl
@[simp] theorem State.modTile_foreman (s : State) (k : Nat) (f : Tile → Tile) (j : Nat) : (s.modTile k f).foreman j = s.foreman j := rfl
@[simp] theorem State.modPort_agenda (s : State) (k : Nat) (f : Port → Port) : (s.modPort k f).agenda = s.agenda := rfl
@[simp] theorem State.modPort_self (s : State) (k : Nat) (f : Port → Port) : (s.modPort k f).self = s.self := rfl
@[simp] theorem State.modPort_tick (s : State) (k : Nat) (f : Port → Port) : (s.modPort k f).tick = s.tick := rfl
@[simp] theorem State.modPort_nextId (s : State) (k : Nat) (f : Port → Port) : (s.modPort k f).nextId = s.nextId := rfl
@[simp] theorem State.modPort_time (s : State) (k : Nat) (f : Port → Port) : (s.modPort k f).time = s.time := rfl
@[simp] theorem State.modPort_cycleFrom (s : State) (k : Nat) (f : Port → Port) : (s.modPort k f).cycleFrom = s.cycleFrom := rfl
@[simp] theorem State.modPort_timeFrom (s : State) (k : Nat) (f : Port → Port) : (s.modPort k f).timeFrom = s.timeFrom := rfl
@[simp] theorem State.modPort_mem (s : State) (k : Nat) (f : Port → Port) : (s.modPort k f).mem = s.mem := rfl
@[simp] theorem State.modPort_poison (s : State) (k : Nat) (f : Port → Port) : (s.modPort k f).poison = s.poison := rfl
@[simp] theorem State.modPort_threads (s : State) (k : Nat) (f : Port → Port) : (s.modPort k f).threads = s.threads := rfl
@[simp] theorem State.modPort_cores (s : State) (k : Nat) (f : Port → Port) : (s.modPort k f).cores = s.cores := rfl
@[simp] theorem State.modPort_tiles (s : State) (k : Nat) (f : Port → Port) : (s.modPort k f).tiles = s.tiles := rfl
@[simp] theorem State.modPort_egress (s : State) (k : Nat) (f : Port → Port) : (s.modPort k f).egress = s.egress := rfl
@[simp] theorem State.modPort_barriers (s : State) (k : Nat) (f : Port → Port) : (s.modPort k f).barriers = s.barriers := rfl
@[simp] theorem State.modPort_slices (s : State) (k : Nat) (f : Port → Port) : (s.modPort k f).slices = s.slices := rfl
@[simp] theorem State.modPort_harts (s : State) (k : Nat) (f : Port → Port) : (s.modPort k f).harts = s.harts := rfl
@[simp] theorem State.modPort_tcaches (s : State) (k : Nat) (f : Port → Port) : (s.modPort k f).tcaches = s.tcaches := rfl
@[simp] theorem State.modPort_access (s : State) (k : Nat) (f : Port → Port) : (s.modPort k f).access = s.access := rfl
@[simp] theorem State.modPort_denials (s : State) (k : Nat) (f : Port → Port) : (s.modPort k f).denials = s.denials := rfl
@[simp] theorem State.modPort_fetches (s : State) (k : Nat) (f : Port → Port) : (s.modPort k f).fetches = s.fetches := rfl
@[simp] theorem State.modPort_blocked (s : State) (k : Nat) (f : Port → Port) : (s.modPort k f).blocked = s.blocked := rfl
@[simp] theorem State.modPort_resent (s : State) (k : Nat) (f : Port → Port) : (s.modPort k f).resent = s.resent := rfl
@[simp] theorem State.modPort_sent (s : State) (k : Nat) (f : Port → Port) : (s.modPort k f).sent = s.sent := rfl
@[simp] theorem State.modPort_descents (s : State) (k : Nat) (f : Port → Port) : (s.modPort k f).descents = s.descents := rfl
@[simp] theorem State.modPort_records (s : State) (k : Nat) (f : Port → Port) : (s.modPort k f).records = s.records := rfl
@[simp] theorem State.modPort_drives (s : State) (k : Nat) (f : Port → Port) : (s.modPort k f).drives = s.drives := rfl
@[simp] theorem State.modPort_pins (s : State) (k : Nat) (f : Port → Port) : (s.modPort k f).pins = s.pins := rfl
@[simp] theorem State.modPort_releasing (s : State) (k : Nat) (f : Port → Port) : (s.modPort k f).releasing = s.releasing := rfl
@[simp] theorem State.modPort_colls (s : State) (k : Nat) (f : Port → Port) : (s.modPort k f).colls = s.colls := rfl
@[simp] theorem State.modPort_baseDies (s : State) (k : Nat) (f : Port → Port) : (s.modPort k f).baseDies = s.baseDies := rfl
@[simp] theorem State.modPort_foremen (s : State) (k : Nat) (f : Port → Port) : (s.modPort k f).foremen = s.foremen := rfl
@[simp] theorem State.modPort_saves (s : State) (k : Nat) (f : Port → Port) : (s.modPort k f).saves = s.saves := rfl
@[simp] theorem State.modPort_head (s : State) (k : Nat) (f : Port → Port) : (s.modPort k f).head = s.head := rfl
@[simp] theorem State.modPort_thread (s : State) (k : Nat) (f : Port → Port) (j : Nat) : (s.modPort k f).thread j = s.thread j := rfl
@[simp] theorem State.modPort_core (s : State) (k : Nat) (f : Port → Port) (j : Nat) : (s.modPort k f).core j = s.core j := rfl
@[simp] theorem State.modPort_tile (s : State) (k : Nat) (f : Port → Port) (j : Nat) : (s.modPort k f).tile j = s.tile j := rfl
@[simp] theorem State.modPort_slice (s : State) (k : Nat) (f : Port → Port) (j : Nat) : (s.modPort k f).slice j = s.slice j := rfl
@[simp] theorem State.modPort_hart (s : State) (k : Nat) (f : Port → Port) (j : Nat) : (s.modPort k f).hart j = s.hart j := rfl
@[simp] theorem State.modPort_foreman (s : State) (k : Nat) (f : Port → Port) (j : Nat) : (s.modPort k f).foreman j = s.foreman j := rfl
@[simp] theorem State.modSlice_agenda (s : State) (k : Nat) (f : Slice → Slice) : (s.modSlice k f).agenda = s.agenda := rfl
@[simp] theorem State.modSlice_self (s : State) (k : Nat) (f : Slice → Slice) : (s.modSlice k f).self = s.self := rfl
@[simp] theorem State.modSlice_tick (s : State) (k : Nat) (f : Slice → Slice) : (s.modSlice k f).tick = s.tick := rfl
@[simp] theorem State.modSlice_nextId (s : State) (k : Nat) (f : Slice → Slice) : (s.modSlice k f).nextId = s.nextId := rfl
@[simp] theorem State.modSlice_time (s : State) (k : Nat) (f : Slice → Slice) : (s.modSlice k f).time = s.time := rfl
@[simp] theorem State.modSlice_cycleFrom (s : State) (k : Nat) (f : Slice → Slice) : (s.modSlice k f).cycleFrom = s.cycleFrom := rfl
@[simp] theorem State.modSlice_timeFrom (s : State) (k : Nat) (f : Slice → Slice) : (s.modSlice k f).timeFrom = s.timeFrom := rfl
@[simp] theorem State.modSlice_mem (s : State) (k : Nat) (f : Slice → Slice) : (s.modSlice k f).mem = s.mem := rfl
@[simp] theorem State.modSlice_poison (s : State) (k : Nat) (f : Slice → Slice) : (s.modSlice k f).poison = s.poison := rfl
@[simp] theorem State.modSlice_threads (s : State) (k : Nat) (f : Slice → Slice) : (s.modSlice k f).threads = s.threads := rfl
@[simp] theorem State.modSlice_cores (s : State) (k : Nat) (f : Slice → Slice) : (s.modSlice k f).cores = s.cores := rfl
@[simp] theorem State.modSlice_tiles (s : State) (k : Nat) (f : Slice → Slice) : (s.modSlice k f).tiles = s.tiles := rfl
@[simp] theorem State.modSlice_ports (s : State) (k : Nat) (f : Slice → Slice) : (s.modSlice k f).ports = s.ports := rfl
@[simp] theorem State.modSlice_egress (s : State) (k : Nat) (f : Slice → Slice) : (s.modSlice k f).egress = s.egress := rfl
@[simp] theorem State.modSlice_barriers (s : State) (k : Nat) (f : Slice → Slice) : (s.modSlice k f).barriers = s.barriers := rfl
@[simp] theorem State.modSlice_harts (s : State) (k : Nat) (f : Slice → Slice) : (s.modSlice k f).harts = s.harts := rfl
@[simp] theorem State.modSlice_tcaches (s : State) (k : Nat) (f : Slice → Slice) : (s.modSlice k f).tcaches = s.tcaches := rfl
@[simp] theorem State.modSlice_access (s : State) (k : Nat) (f : Slice → Slice) : (s.modSlice k f).access = s.access := rfl
@[simp] theorem State.modSlice_denials (s : State) (k : Nat) (f : Slice → Slice) : (s.modSlice k f).denials = s.denials := rfl
@[simp] theorem State.modSlice_fetches (s : State) (k : Nat) (f : Slice → Slice) : (s.modSlice k f).fetches = s.fetches := rfl
@[simp] theorem State.modSlice_blocked (s : State) (k : Nat) (f : Slice → Slice) : (s.modSlice k f).blocked = s.blocked := rfl
@[simp] theorem State.modSlice_resent (s : State) (k : Nat) (f : Slice → Slice) : (s.modSlice k f).resent = s.resent := rfl
@[simp] theorem State.modSlice_sent (s : State) (k : Nat) (f : Slice → Slice) : (s.modSlice k f).sent = s.sent := rfl
@[simp] theorem State.modSlice_descents (s : State) (k : Nat) (f : Slice → Slice) : (s.modSlice k f).descents = s.descents := rfl
@[simp] theorem State.modSlice_records (s : State) (k : Nat) (f : Slice → Slice) : (s.modSlice k f).records = s.records := rfl
@[simp] theorem State.modSlice_drives (s : State) (k : Nat) (f : Slice → Slice) : (s.modSlice k f).drives = s.drives := rfl
@[simp] theorem State.modSlice_pins (s : State) (k : Nat) (f : Slice → Slice) : (s.modSlice k f).pins = s.pins := rfl
@[simp] theorem State.modSlice_releasing (s : State) (k : Nat) (f : Slice → Slice) : (s.modSlice k f).releasing = s.releasing := rfl
@[simp] theorem State.modSlice_colls (s : State) (k : Nat) (f : Slice → Slice) : (s.modSlice k f).colls = s.colls := rfl
@[simp] theorem State.modSlice_baseDies (s : State) (k : Nat) (f : Slice → Slice) : (s.modSlice k f).baseDies = s.baseDies := rfl
@[simp] theorem State.modSlice_foremen (s : State) (k : Nat) (f : Slice → Slice) : (s.modSlice k f).foremen = s.foremen := rfl
@[simp] theorem State.modSlice_saves (s : State) (k : Nat) (f : Slice → Slice) : (s.modSlice k f).saves = s.saves := rfl
@[simp] theorem State.modSlice_head (s : State) (k : Nat) (f : Slice → Slice) : (s.modSlice k f).head = s.head := rfl
@[simp] theorem State.modSlice_thread (s : State) (k : Nat) (f : Slice → Slice) (j : Nat) : (s.modSlice k f).thread j = s.thread j := rfl
@[simp] theorem State.modSlice_core (s : State) (k : Nat) (f : Slice → Slice) (j : Nat) : (s.modSlice k f).core j = s.core j := rfl
@[simp] theorem State.modSlice_tile (s : State) (k : Nat) (f : Slice → Slice) (j : Nat) : (s.modSlice k f).tile j = s.tile j := rfl
@[simp] theorem State.modSlice_port (s : State) (k : Nat) (f : Slice → Slice) (j : Nat) : (s.modSlice k f).port j = s.port j := rfl
@[simp] theorem State.modSlice_hart (s : State) (k : Nat) (f : Slice → Slice) (j : Nat) : (s.modSlice k f).hart j = s.hart j := rfl
@[simp] theorem State.modSlice_foreman (s : State) (k : Nat) (f : Slice → Slice) (j : Nat) : (s.modSlice k f).foreman j = s.foreman j := rfl
@[simp] theorem State.modForeman_agenda (s : State) (k : Nat) (f : Foreman → Foreman) : (s.modForeman k f).agenda = s.agenda := rfl
@[simp] theorem State.modForeman_self (s : State) (k : Nat) (f : Foreman → Foreman) : (s.modForeman k f).self = s.self := rfl
@[simp] theorem State.modForeman_tick (s : State) (k : Nat) (f : Foreman → Foreman) : (s.modForeman k f).tick = s.tick := rfl
@[simp] theorem State.modForeman_nextId (s : State) (k : Nat) (f : Foreman → Foreman) : (s.modForeman k f).nextId = s.nextId := rfl
@[simp] theorem State.modForeman_time (s : State) (k : Nat) (f : Foreman → Foreman) : (s.modForeman k f).time = s.time := rfl
@[simp] theorem State.modForeman_cycleFrom (s : State) (k : Nat) (f : Foreman → Foreman) : (s.modForeman k f).cycleFrom = s.cycleFrom := rfl
@[simp] theorem State.modForeman_timeFrom (s : State) (k : Nat) (f : Foreman → Foreman) : (s.modForeman k f).timeFrom = s.timeFrom := rfl
@[simp] theorem State.modForeman_mem (s : State) (k : Nat) (f : Foreman → Foreman) : (s.modForeman k f).mem = s.mem := rfl
@[simp] theorem State.modForeman_poison (s : State) (k : Nat) (f : Foreman → Foreman) : (s.modForeman k f).poison = s.poison := rfl
@[simp] theorem State.modForeman_threads (s : State) (k : Nat) (f : Foreman → Foreman) : (s.modForeman k f).threads = s.threads := rfl
@[simp] theorem State.modForeman_cores (s : State) (k : Nat) (f : Foreman → Foreman) : (s.modForeman k f).cores = s.cores := rfl
@[simp] theorem State.modForeman_tiles (s : State) (k : Nat) (f : Foreman → Foreman) : (s.modForeman k f).tiles = s.tiles := rfl
@[simp] theorem State.modForeman_ports (s : State) (k : Nat) (f : Foreman → Foreman) : (s.modForeman k f).ports = s.ports := rfl
@[simp] theorem State.modForeman_egress (s : State) (k : Nat) (f : Foreman → Foreman) : (s.modForeman k f).egress = s.egress := rfl
@[simp] theorem State.modForeman_barriers (s : State) (k : Nat) (f : Foreman → Foreman) : (s.modForeman k f).barriers = s.barriers := rfl
@[simp] theorem State.modForeman_slices (s : State) (k : Nat) (f : Foreman → Foreman) : (s.modForeman k f).slices = s.slices := rfl
@[simp] theorem State.modForeman_harts (s : State) (k : Nat) (f : Foreman → Foreman) : (s.modForeman k f).harts = s.harts := rfl
@[simp] theorem State.modForeman_tcaches (s : State) (k : Nat) (f : Foreman → Foreman) : (s.modForeman k f).tcaches = s.tcaches := rfl
@[simp] theorem State.modForeman_access (s : State) (k : Nat) (f : Foreman → Foreman) : (s.modForeman k f).access = s.access := rfl
@[simp] theorem State.modForeman_denials (s : State) (k : Nat) (f : Foreman → Foreman) : (s.modForeman k f).denials = s.denials := rfl
@[simp] theorem State.modForeman_fetches (s : State) (k : Nat) (f : Foreman → Foreman) : (s.modForeman k f).fetches = s.fetches := rfl
@[simp] theorem State.modForeman_blocked (s : State) (k : Nat) (f : Foreman → Foreman) : (s.modForeman k f).blocked = s.blocked := rfl
@[simp] theorem State.modForeman_resent (s : State) (k : Nat) (f : Foreman → Foreman) : (s.modForeman k f).resent = s.resent := rfl
@[simp] theorem State.modForeman_sent (s : State) (k : Nat) (f : Foreman → Foreman) : (s.modForeman k f).sent = s.sent := rfl
@[simp] theorem State.modForeman_descents (s : State) (k : Nat) (f : Foreman → Foreman) : (s.modForeman k f).descents = s.descents := rfl
@[simp] theorem State.modForeman_records (s : State) (k : Nat) (f : Foreman → Foreman) : (s.modForeman k f).records = s.records := rfl
@[simp] theorem State.modForeman_drives (s : State) (k : Nat) (f : Foreman → Foreman) : (s.modForeman k f).drives = s.drives := rfl
@[simp] theorem State.modForeman_pins (s : State) (k : Nat) (f : Foreman → Foreman) : (s.modForeman k f).pins = s.pins := rfl
@[simp] theorem State.modForeman_releasing (s : State) (k : Nat) (f : Foreman → Foreman) : (s.modForeman k f).releasing = s.releasing := rfl
@[simp] theorem State.modForeman_colls (s : State) (k : Nat) (f : Foreman → Foreman) : (s.modForeman k f).colls = s.colls := rfl
@[simp] theorem State.modForeman_baseDies (s : State) (k : Nat) (f : Foreman → Foreman) : (s.modForeman k f).baseDies = s.baseDies := rfl
@[simp] theorem State.modForeman_saves (s : State) (k : Nat) (f : Foreman → Foreman) : (s.modForeman k f).saves = s.saves := rfl
@[simp] theorem State.modForeman_head (s : State) (k : Nat) (f : Foreman → Foreman) : (s.modForeman k f).head = s.head := rfl
@[simp] theorem State.modForeman_thread (s : State) (k : Nat) (f : Foreman → Foreman) (j : Nat) : (s.modForeman k f).thread j = s.thread j := rfl
@[simp] theorem State.modForeman_core (s : State) (k : Nat) (f : Foreman → Foreman) (j : Nat) : (s.modForeman k f).core j = s.core j := rfl
@[simp] theorem State.modForeman_tile (s : State) (k : Nat) (f : Foreman → Foreman) (j : Nat) : (s.modForeman k f).tile j = s.tile j := rfl
@[simp] theorem State.modForeman_port (s : State) (k : Nat) (f : Foreman → Foreman) (j : Nat) : (s.modForeman k f).port j = s.port j := rfl
@[simp] theorem State.modForeman_slice (s : State) (k : Nat) (f : Foreman → Foreman) (j : Nat) : (s.modForeman k f).slice j = s.slice j := rfl
@[simp] theorem State.modForeman_hart (s : State) (k : Nat) (f : Foreman → Foreman) (j : Nat) : (s.modForeman k f).hart j = s.hart j := rfl

end Sys2Proof.Machine
end

