-- ==== Sys2Proof/Laws/Fabric.lean ====
section
/-!
SUPPORT. What the firing of a slot can do, once: where it fires the op acts on what the slot took, and otherwise the
firing changes nothing, passes a NULL on, or raises a fault against the segment.
-/
namespace Sys2Proof.Machine

open Sys2Proof

theorem dirsOf_lt (d : Nat) : ∀ e ∈ dirsOf d, e < 4 := by
  intro e he
  unfold dirsOf at he
  split at he
  · rw [List.mem_singleton] at he; omega
  · split at he
    · simp only [List.mem_cons, List.not_mem_nil, or_false] at he; omega
    · split at he
      · simp only [List.mem_cons, List.not_mem_nil, or_false] at he; omega
      · split at he
        · simp only [List.mem_cons, List.not_mem_nil, or_false] at he; omega
        · exact absurd he List.not_mem_nil

/-- Where no link has failed, no destination charges LINK. -/
theorem linkFault_up (s : State) (st : Site) (outs : List (Nat × Token)) (seg : Nat) (h : linksUp s st = true) :
    linkFault s st (outs.flatMap (fun o => dirsOf o.1)) seg = none := by
  unfold linkFault
  rw [Option.map_eq_none_iff, List.find?_eq_none]
  intro d hd
  obtain ⟨o, -, ho⟩ := List.mem_flatMap.1 hd
  have := List.all_eq_true.1 h d (List.mem_range.2 (dirsOf_lt _ _ ho))
  simpa using this

/-- Where a slot fires, the op acts, and its results leave with the segment's number. -/
theorem fireAt_fires (s : State) (st : Site) (t : Takes) (k : Taken) (act : Taken → Fired) (h : Fires s st t k) :
    fireAt s st t act = (match act k with
      | .error c => .next (tileFault s st c (segOf k.toks))
      | .ok (s', outs) => .next (outs.foldl (fun s o => emit s st o.1 { o.2 with seg := segOf k.toks }) s')) := by
  have h1 : t.dests.any (fun d => !hasRoom s st d.1 d.2) = false := by
    rw [List.any_eq_false]
    intro d hd
    simp [h.room d hd]
  have h2 : k.toks.any (fun x => !x.isData) = false := by
    rw [List.any_eq_false]
    intro x hx
    have := h.words x hx
    simp [Token.isData, this]
  have h3 : k.toks.any (fun x => x.kind == kDIGIT) = false := by
    rw [List.any_eq_false]
    intro x hx
    have := h.words x hx
    simp [this]
  have h4 : k.toks.any (fun x => x.kind == kNULL) = false := by
    rw [List.any_eq_false]
    intro x hx
    have := h.words x hx
    simp [this]
  obtain ⟨k0, hk0, rfl⟩ := Option.map_eq_some_iff.1 h.taken
  cases hk : act { k0 with s := aged k0.s st.key } <;>
    simp only [fireAt, h1, hk0, h2, h3, h4, hk, linkFault_up s st _ _ h.links, Bool.and_false, Bool.false_eq_true, if_false]

/-- The instruction runs at the slot's tile. -/
theorem onTile_fires (s : State) (st : Site) (t : Takes) (k : Taken) (f : Site → Res) (h : Fires s st t k) :
    onTile s f = f st := by
  simp only [onTile, h.turn, h.site]

/-- A word op at a slot that fires. -/
theorem wordOp_fires (s : State) (f : Slot) (srcs : List (BitVec 4)) (how : Nat) (body : Site → List Token → WordRes)
    (st : Site) (k : Taken) (h : Fires s st (wordTakes f srcs how) k) :
    wordOp s f srcs how body = .next (wordFired st f k (body st k.opnds)) := by
  rw [wordOp, onTile_fires s st _ k _ h]
  exact fireAt_fires s st (wordTakes f srcs how) k _ h

/-- Where a slot whose op takes any data token is ready, the op acts on what the slot took. -/
theorem fireAt_ready (s : State) (st : Site) (t : Takes) (k : Taken) (act : Taken → Fired) (h : Ready s st t k)
    (hn : t.nullOk = true) (hd : t.digitOk = true) :
    fireAt s st t act = (match act k with
      | .error c => .next (tileFault s st c (segOf k.toks))
      | .ok (s', outs) => .next (outs.foldl (fun s o => emit s st o.1 { o.2 with seg := segOf k.toks }) s')) := by
  have h1 : t.dests.any (fun d => !hasRoom s st d.1 d.2) = false := by
    rw [List.any_eq_false]
    intro d hd
    simp [h.room d hd]
  have h2 : k.toks.any (fun x => !x.isData) = false := by
    rw [List.any_eq_false]
    intro x hx
    simp [h.data x hx]
  obtain ⟨k0, hk0, rfl⟩ := Option.map_eq_some_iff.1 h.taken
  cases hk : act { k0 with s := aged k0.s st.key } <;>
    simp only [fireAt, h1, hk0, h2, hn, hd, hk, linkFault_up s st _ _ h.links, Bool.not_true, Bool.false_and, Bool.false_eq_true, if_false]

/-- An instruction of a tile acts at the tile's site. -/
theorem onTile_ready (s : State) (st : Site) (f : Site → Res) (h1 : s.self = .tile st.k st.y st.x st.n)
    (h2 : siteOf s st.k st.y st.x st.n = some st) : onTile s f = f st := by
  simp only [onTile, h1, h2]

/-- A routing op at a slot that is ready. -/
theorem routeOp_ready (s : State) (st : Site) (f : Slot) (srcs : List (BitVec 4)) (dests : List Nat) (act : Taken → Site → Fired) (k : Taken)
    (h : Ready s st (routeTakes f srcs dests) k) : routeOp s f srcs dests act = (match act k st with
      | .error c => .next (tileFault s st c (segOf k.toks))
      | .ok (s', outs) => .next (sends st k s' outs)) := by
  rw [routeOp, onTile_ready s st _ h.turn h.site]
  exact fireAt_ready s st _ k _ h rfl rfl



/-- A tile-store op at a slot that is ready, while its side of the store is. -/
theorem storeOp_ready (s : State) (st : Site) (f : Slot) (srcs : List (BitVec 4)) (rdy : Site → RangeSt → Bool) (act : Taken → Site → RangeSt → Fired) (k : Taken)
    (h : Ready s st (routeTakes f srcs [f.d.toNat]) k) (hr : rdy st (rangeOf s st.key st.c) = true) : storeOp s f srcs rdy act = (match act k st (rangeOf s st.key st.c) with
      | .error c => .next (tileFault s st c (segOf k.toks))
      | .ok (s', outs) => .next (sends st k s' outs)) := by
  rw [storeOp, onTile_ready s st _ h.turn h.site]
  simp only [hr, if_true]
  exact fireAt_ready s st _ k _ h rfl rfl
/-- A tile-store op waits while its side of the store is not ready. -/
theorem storeOp_waits (s : State) (st : Site) (f : Slot) (srcs : List (BitVec 4)) (rdy : Site → RangeSt → Bool) (act : Taken → Site → RangeSt → Fired)
    (h1 : s.self = .tile st.k st.y st.x st.n)
    (h2 : siteOf s st.k st.y st.x st.n = some st) (hr : rdy st (rangeOf s st.key st.c) = false) : storeOp s f srcs rdy act = .next s := by
  rw [storeOp, onTile_ready s st _ h1 h2]
  simp only [hr, if_false, Bool.false_eq_true]

/-- A slot takes one operand for each of its sources. -/
theorem gather_length (s : State) (st : Site) (srcs : List (BitVec 4)) (how acc : Nat) (k : Taken)
    (h : gather s st srcs how acc = some k) : k.opnds.length = srcs.length := by
  have key : ∀ (s : State) (heads : List (Nat × Option (List Token))) (fr : List Token) (l : List (BitVec 4)) (a : Nat × List Token),
      (l.foldl (fun (a : Nat × List Token) v =>
        if v.toNat < 4 then (a.1, a.2 ++ [operandOf s (((heads.find? (fun h => decide (h.1 = v.toNat))).bind (·.2)).getD [])])
        else if v = 12 then (a.1 + 1, a.2 ++ [fr.getD a.1 {}])
        else (a.1, a.2 ++ [localOperand s st how acc v])) a).2.length = a.2.length + l.length := by
    intro s heads fr l
    induction l with
    | nil => intro a; rfl
    | cons v l ih =>
      intro a
      rw [List.foldl_cons, ih]
      split
      · simp only [List.length_append, List.length_nil, List.length_cons]; omega
      · split <;> · simp only [List.length_append, List.length_nil, List.length_cons]; omega
  unfold gather at h
  simp only at h
  split at h
  · cases h
  · split at h
    · cases h
    · split at h
      · split at h
        · cases h
        · cases h
          exact (key _ _ _ srcs (0, [])).trans (Nat.zero_add _)
      · cases h
        exact (key _ _ _ srcs (0, [])).trans (Nat.zero_add _)

theorem takes_length (s : State) (st : Site) (t : Takes) (k : Taken) (h : takes s st t = some k) :
    k.opnds.length = t.srcs.length := by
  obtain ⟨k0, hk0, rfl⟩ := Option.map_eq_some_iff.1 h
  exact gather_length s st t.srcs t.how t.acc k0 hk0

end Sys2Proof.Machine
end

