-- ==== Sys2Proof/Laws/Ops.lean ====
section
/-!
SUPPORT. What each shared operation can do, once: memory writes, thread registers, traps, and a thread's accesses.
-/
namespace Sys2Proof.Machine

open Sys2Proof

/-! ### Memory -/

/-- A write of cells keeps the canonical form of memory. -/
theorem writeCellsM_wf (m : Map Byte) (pa : Nat) (cells : List (Option Byte)) (h : Map.wf 0 m = true) :
    Map.wf 0 (writeCellsM m pa cells) = true := by
  induction cells generalizing m pa with
  | nil => exact h
  | cons c t ih =>
    cases c with
    | none => exact ih m (pa + 1) h
    | some b => exact ih _ (pa + 1) (Map.wf_set 0 m pa b h)

/-- A byte after a write of cells: the cell that stands there, or the byte from before. -/
theorem writeCellsM_get (m : Map Byte) (pa x : Nat) (cells : List (Option Byte)) :
    Map.get 0 (writeCellsM m pa cells) x =
      (if pa ≤ x then ((cells[x - pa]?).join).getD (Map.get 0 m x) else Map.get 0 m x) := by
  induction cells generalizing m pa with
  | nil => simp [writeCellsM]
  | cons c t ih =>
    have key : ∀ m', (∀ y, y ≠ pa → Map.get 0 m' y = Map.get 0 m y) →
        Map.get 0 (writeCellsM m' (pa + 1) t) x =
          if pa + 1 ≤ x then ((t[x - (pa + 1)]?).join).getD (Map.get 0 m x) else Map.get 0 m' x := by
      intro m' hm
      rw [ih]
      split
      · rw [hm x (by omega)]
      · rfl
    by_cases h : pa + 1 ≤ x
    · have hx : x - pa = x - (pa + 1) + 1 := by omega
      cases c with
      | none => rw [writeCellsM, key m (fun _ _ => rfl)]; simp [h, hx, show pa ≤ x by omega]
      | some b =>
        rw [writeCellsM, key _ (fun y hy => Map.get_set_ne 0 m pa y b hy)]
        simp [h, hx, show pa ≤ x by omega]
    · cases c with
      | none =>
        rw [writeCellsM, key m (fun _ _ => rfl)]
        by_cases hp : pa ≤ x
        · have : x = pa := by omega
          simp [this]
        · simp [h, hp]
      | some b =>
        rw [writeCellsM, key _ (fun y hy => Map.get_set_ne 0 m pa y b hy)]
        by_cases hp : pa ≤ x
        · have : x = pa := by omega
          simp [this]
        · rw [if_neg h, if_neg hp, Map.get_set_ne 0 m pa x b (by omega)]

theorem writeCells_wf (s : State) (pa : Nat) (cells : List (Option Byte)) (h : Map.wf 0 s.mem = true) :
    Map.wf 0 (writeCells s pa cells).mem = true := writeCellsM_wf _ _ _ h
theorem writeMem_wf (s : State) (pa : Nat) (l : List Byte) (h : Map.wf 0 s.mem = true) :
    Map.wf 0 (writeMem s pa l).mem = true := writeCells_wf _ _ _ h
theorem writeNat_wf (s : State) (pa n v : Nat) (h : Map.wf 0 s.mem = true) :
    Map.wf 0 (writeNat s pa n v).mem = true := writeCells_wf _ _ _ h

/-- Outside the cells a write changes no byte. -/
theorem readByte_writeCells_outside (s : State) (pa x : Nat) (cells : List (Option Byte))
    (h : x < pa ∨ pa + cells.length ≤ x) : readByte (writeCells s pa cells) x = readByte s x := by
  show Map.get 0 (writeCellsM s.mem pa cells) x = Map.get 0 s.mem x
  rw [writeCellsM_get]
  split
  · rw [List.getElem?_eq_none (by omega)]; rfl
  · rfl

theorem markDirty_mem (s : State) (i line : Nat) : (markDirty s i line).mem = s.mem := by
  unfold markDirty; split
  · split <;> rfl
  · rfl

/-- What performing a write does to memory: the cells land, and nothing else changes. -/
theorem perform_mem (s : State) (key : Nat) (cells : List (Option Byte)) :
    (perform s key cells).mem = writeCellsM s.mem key cells := by
  unfold perform; split
  · exact markDirty_mem _ _ _
  · rfl

theorem perform_wf (s : State) (key : Nat) (cells : List (Option Byte)) (h : Map.wf 0 s.mem = true) :
    Map.wf 0 (perform s key cells).mem = true := by
  rw [perform_mem]; exact writeCellsM_wf _ _ _ h

/-! ### Thread registers -/

theorem rg_zero (s : State) (k : Nat) : rg s k 0 = 0 := rfl

/-- A general register after a write to one. -/
theorem rg_wg (s : State) (k : Nat) (d r : BitVec 5) (v : Word) :
    rg (wg s k d v) k r = if r = 0 then 0 else if r = d then v else rg s k r := by
  unfold rg
  by_cases hr : r = 0
  · rw [if_pos hr, if_pos hr]
  · rw [if_neg hr, if_neg hr, if_neg hr]
    unfold wg
    by_cases hd : d = 0
    · rw [if_pos hd, if_neg (by rw [hd]; exact hr)]
    · have h : r.toNat = d.toNat ↔ r = d := BitVec.toNat_inj
      rw [if_neg hd, State.modThread_thread_same]
      show Map.get 0 (Map.set 0 _ _ v) _ = _
      rw [Map.get_set]
      simp only [h]

/-! ### Agents and traps -/

/-- A control-thread instruction runs on the thread whose turn it is. -/
theorem onThread_run (s : State) (k : Nat) (f : Nat → Res) (h : s.self = .thread k) : onThread s f = f k := by
  simp [onThread, h]

/-- Outside a trap handler a fault is a trap. -/
theorem raise_trap (s : State) (k : Nat) (c : Code) (v : Word) (h : inTrap s k = false) :
    raise s k c v = takeTrap s k (pcOf s k) (ecauseImage c false false false false 0 7 0 0xFFFFFFFF) v := by
  simp [raise, h]

/-- What a trap changes: thread k alone, and of it EPC, ECAUSE, EVAL, STATUS, the pc and what an instruction held. -/
theorem takeTrap_thread (s : State) (k : Nat) (epc ec ev : Word) :
    (takeTrap s k epc ec ev).thread k = { s.thread k with
      epc := epc, ecause := ec, eval := ev, status := trapStatus (s.thread k).status, pc := (s.thread k).tvec &&& ~~~(3 : Word)
      stepDue := false, stall := none, taking := false, awaits := none, watching := none, joining := none } := by
  simp [takeTrap]

/-- What retiring changes: thread k alone, and of it the pc and what the instruction held. -/
theorem retireTo_thread (s : State) (k : Nat) (pc : Word) :
    (retireTo s k pc).thread k = { s.thread k with
      pc := pc, stepDue := !(s.thread k).status.getLsbD 0 && (s.thread k).status.getLsbD 6
      stall := none, taking := false, awaits := none, watching := none, joining := none } := by
  simp [retireTo]

end Sys2Proof.Machine
end

