-- ==== Sys2Proof/Laws/PerInstr.lean ====
section
/-!
SUPPORT. The per-instruction family Fields: an instruction has the word of one kind at most, so a word that an agent of
one kind fetches is never read as another kind's (13_encodings.md R280, 03_fabric.md R62, 08_assayers.md R182).
-/

set_option Elab.async false

namespace Sys2Proof.Laws.Fields
open Sys2Proof

/-- Of the four encoders (control thread, slot, assayer, stream command) at most one gives the instruction a word. -/
def Statement (i : Instr) : Prop :=
  (if (encodeThread i).isSome then 1 else 0) + (if (encodeSlot i).isSome then 1 else 0) +
    (if (encodeAssayer i).isSome then 1 else 0) + (if (encodeCmd i).isSome then 1 else 0) ≤ 1

theorem add (d a b : BitVec 5) : Statement (.add d a b) := Nat.le_of_ble_eq_true rfl
theorem sub (d a b : BitVec 5) : Statement (.sub d a b) := Nat.le_of_ble_eq_true rfl
theorem mul (d a b : BitVec 5) : Statement (.mul d a b) := Nat.le_of_ble_eq_true rfl
theorem mulh (d a b : BitVec 5) : Statement (.mulh d a b) := Nat.le_of_ble_eq_true rfl
theorem div (d a b : BitVec 5) : Statement (.div d a b) := Nat.le_of_ble_eq_true rfl
theorem divu (d a b : BitVec 5) : Statement (.divu d a b) := Nat.le_of_ble_eq_true rfl
theorem rem (d a b : BitVec 5) : Statement (.rem d a b) := Nat.le_of_ble_eq_true rfl
theorem remu (d a b : BitVec 5) : Statement (.remu d a b) := Nat.le_of_ble_eq_true rfl
theorem and (d a b : BitVec 5) : Statement (.and d a b) := Nat.le_of_ble_eq_true rfl
theorem or (d a b : BitVec 5) : Statement (.or d a b) := Nat.le_of_ble_eq_true rfl
theorem xor (d a b : BitVec 5) : Statement (.xor d a b) := Nat.le_of_ble_eq_true rfl
theorem shl (d a b : BitVec 5) : Statement (.shl d a b) := Nat.le_of_ble_eq_true rfl
theorem shr (d a b : BitVec 5) : Statement (.shr d a b) := Nat.le_of_ble_eq_true rfl
theorem sar (d a b : BitVec 5) : Statement (.sar d a b) := Nat.le_of_ble_eq_true rfl
theorem min (d a b : BitVec 5) : Statement (.min d a b) := Nat.le_of_ble_eq_true rfl
theorem max (d a b : BitVec 5) : Statement (.max d a b) := Nat.le_of_ble_eq_true rfl
theorem minu (d a b : BitVec 5) : Statement (.minu d a b) := Nat.le_of_ble_eq_true rfl
theorem maxu (d a b : BitVec 5) : Statement (.maxu d a b) := Nat.le_of_ble_eq_true rfl
theorem clz (d a : BitVec 5) : Statement (.clz d a) := Nat.le_of_ble_eq_true rfl
theorem popc (d a : BitVec 5) : Statement (.popc d a) := Nat.le_of_ble_eq_true rfl
theorem sext (d a w : BitVec 5) : Statement (.sext d a w) := Nat.le_of_ble_eq_true rfl
theorem zext (d a w : BitVec 5) : Statement (.zext d a w) := Nat.le_of_ble_eq_true rfl
theorem randk (d a b : BitVec 5) : Statement (.randk d a b) := Nat.le_of_ble_eq_true rfl
theorem nop : Statement .nop := Nat.le_of_ble_eq_true rfl
theorem addi (d a : BitVec 5) (i : BitVec 16) : Statement (.addi d a i) := Nat.le_of_ble_eq_true rfl
theorem andi (d a : BitVec 5) (i : BitVec 16) : Statement (.andi d a i) := Nat.le_of_ble_eq_true rfl
theorem ori (d a : BitVec 5) (i : BitVec 16) : Statement (.ori d a i) := Nat.le_of_ble_eq_true rfl
theorem xori (d a : BitVec 5) (i : BitVec 16) : Statement (.xori d a i) := Nat.le_of_ble_eq_true rfl
theorem shli (d a : BitVec 5) (n : BitVec 6) : Statement (.shli d a n) := Nat.le_of_ble_eq_true rfl
theorem shri (d a : BitVec 5) (n : BitVec 6) : Statement (.shri d a n) := Nat.le_of_ble_eq_true rfl
theorem sari (d a : BitVec 5) (n : BitVec 6) : Statement (.sari d a n) := Nat.le_of_ble_eq_true rfl
theorem lih (d : BitVec 5) (h : BitVec 2) (i : BitVec 16) : Statement (.lih d h i) := Nat.le_of_ble_eq_true rfl
theorem addpc (d : BitVec 5) (o : BitVec 21) : Statement (.addpc d o) := Nat.le_of_ble_eq_true rfl
theorem madd (d a b c : BitVec 5) : Statement (.madd d a b c) := Nat.le_of_ble_eq_true rfl
theorem bitf (d a : BitVec 5) (s : BitVec 1) (p w : BitVec 6) : Statement (.bitf d a s p w) := Nat.le_of_ble_eq_true rfl
theorem biti (d a : BitVec 5) (p w : BitVec 6) : Statement (.biti d a p w) := Nat.le_of_ble_eq_true rfl
theorem cmpCc (p : BitVec 3) (a b : BitVec 5) (c : BitVec 4) : Statement (.cmpCc p a b c) := Nat.le_of_ble_eq_true rfl
theorem cmpiCc (p : BitVec 3) (a : BitVec 5) (c : BitVec 4) (i : BitVec 14) : Statement (.cmpiCc p a c i) := Nat.le_of_ble_eq_true rfl
theorem pand (d a b : BitVec 3) : Statement (.pand d a b) := Nat.le_of_ble_eq_true rfl
theorem por (d a b : BitVec 3) : Statement (.por d a b) := Nat.le_of_ble_eq_true rfl
theorem pnot (d a : BitVec 3) : Statement (.pnot d a) := Nat.le_of_ble_eq_true rfl
theorem sel (d a b : BitVec 5) (p : BitVec 3) : Statement (.sel d a b p) := Nat.le_of_ble_eq_true rfl
theorem brCc (a b : BitVec 5) (c : BitVec 4) (o : BitVec 12) : Statement (.brCc a b c o) := Nat.le_of_ble_eq_true rfl
theorem bp (p : BitVec 3) (o : BitVec 20) : Statement (.bp p o) := Nat.le_of_ble_eq_true rfl
theorem bpn (p : BitVec 3) (o : BitVec 20) : Statement (.bpn p o) := Nat.le_of_ble_eq_true rfl
theorem jmp (o : BitVec 21) : Statement (.jmp o) := Nat.le_of_ble_eq_true rfl
theorem jal (d : BitVec 5) (o : BitVec 21) : Statement (.jal d o) := Nat.le_of_ble_eq_true rfl
theorem jalr (d a : BitVec 5) (i : BitVec 16) : Statement (.jalr d a i) := Nat.le_of_ble_eq_true rfl
theorem loop (a : BitVec 5) (o : BitVec 12) : Statement (.loop a o) := Nat.le_of_ble_eq_true rfl
theorem ld (d a : BitVec 5) (z : BitVec 2) (o : BitVec 14) : Statement (.ld d a z o) := Nat.le_of_ble_eq_true rfl
theorem ldu (d a : BitVec 5) (z : BitVec 2) (o : BitVec 14) : Statement (.ldu d a z o) := Nat.le_of_ble_eq_true rfl
theorem st (g a : BitVec 5) (z : BitVec 2) (o : BitVec 14) : Statement (.st g a z o) := Nat.le_of_ble_eq_true rfl
theorem ldq (q : BitVec 3) (a : BitVec 5) (o : BitVec 14) : Statement (.ldq q a o) := Nat.le_of_ble_eq_true rfl
theorem stq (q : BitVec 3) (a : BitVec 5) (o : BitVec 14) : Statement (.stq q a o) := Nat.le_of_ble_eq_true rfl
theorem pref (a : BitVec 5) (o : BitVec 14) : Statement (.pref a o) := Nat.le_of_ble_eq_true rfl
theorem amo (d a b : BitVec 5) (p : BitVec 3) (s : BitVec 2) (z : BitVec 1) (r : BitVec 2) : Statement (.amo d a b p s z r) := Nat.le_of_ble_eq_true rfl
theorem cas (d a b : BitVec 5) (s : BitVec 2) (z : BitVec 1) (r : BitVec 2) : Statement (.cas d a b s z r) := Nat.le_of_ble_eq_true rfl
theorem lda (d a : BitVec 5) (z s : BitVec 2) (o : BitVec 12) : Statement (.lda d a z s o) := Nat.le_of_ble_eq_true rfl
theorem str (g a : BitVec 5) (z s : BitVec 2) (o : BitVec 12) : Statement (.str g a z s o) := Nat.le_of_ble_eq_true rfl
theorem fence (s : BitVec 2) : Statement (.fence s) := Nat.le_of_ble_eq_true rfl
theorem barInit (a b : BitVec 5) : Statement (.barInit a b) := Nat.le_of_ble_eq_true rfl
theorem barArv (d a : BitVec 5) : Statement (.barArv d a) := Nat.le_of_ble_eq_true rfl
theorem barDrp (d a : BitVec 5) : Statement (.barDrp d a) := Nat.le_of_ble_eq_true rfl
theorem barWait (a b : BitVec 5) : Statement (.barWait a b) := Nat.le_of_ble_eq_true rfl
theorem tkpush (n : BitVec 3) : Statement (.tkpush n) := Nat.le_of_ble_eq_true rfl
theorem tkpop (d : BitVec 5) (n : BitVec 3) : Statement (.tkpop d n) := Nat.le_of_ble_eq_true rfl
theorem watch (d a b : BitVec 5) : Statement (.watch d a b) := Nat.le_of_ble_eq_true rfl
theorem amsg (a : BitVec 5) (b : BitVec 3) : Statement (.amsg a b) := Nat.le_of_ble_eq_true rfl
theorem qset (q : BitVec 3) (a : BitVec 5) (h : BitVec 1) : Statement (.qset q a h) := Nat.le_of_ble_eq_true rfl
theorem qseti (q c : BitVec 3) (i : BitVec 16) : Statement (.qseti q c i) := Nat.le_of_ble_eq_true rfl
theorem qmov (d s : BitVec 3) : Statement (.qmov d s) := Nat.le_of_ble_eq_true rfl
theorem issue (q : BitVec 3) : Statement (.issue q) := Nat.le_of_ble_eq_true rfl
theorem issuew (q : BitVec 3) : Statement (.issuew q) := Nat.le_of_ble_eq_true rfl
theorem enq (q : BitVec 3) (a : BitVec 5) : Statement (.enq q a) := Nat.le_of_ble_eq_true rfl
theorem take (d : BitVec 5) : Statement (.take d) := Nat.le_of_ble_eq_true rfl
theorem done (a : BitVec 5) : Statement (.done a) := Nat.le_of_ble_eq_true rfl
theorem join (d a : BitVec 5) : Statement (.join d a) := Nat.le_of_ble_eq_true rfl
theorem cancel (a : BitVec 5) : Statement (.cancel a) := Nat.le_of_ble_eq_true rfl
theorem csrr (d : BitVec 5) (c : BitVec 16) : Statement (.csrr d c) := Nat.le_of_ble_eq_true rfl
theorem csrw (d a : BitVec 5) (c : BitVec 16) : Statement (.csrw d a c) := Nat.le_of_ble_eq_true rfl
theorem csrs (d a : BitVec 5) (c : BitVec 16) : Statement (.csrs d a c) := Nat.le_of_ble_eq_true rfl
theorem csrc (d a : BitVec 5) (c : BitVec 16) : Statement (.csrc d a c) := Nat.le_of_ble_eq_true rfl
theorem trap (i : BitVec 16) : Statement (.trap i) := Nat.le_of_ble_eq_true rfl
theorem sysret : Statement .sysret := Nat.le_of_ble_eq_true rfl
theorem exit (a : BitVec 5) : Statement (.exit a) := Nat.le_of_ble_eq_true rfl
theorem bkpt (i : BitVec 16) : Statement (.bkpt i) := Nat.le_of_ble_eq_true rfl
theorem yield : Statement .yield := Nat.le_of_ble_eq_true rfl
theorem asyncFaultDelivery : Statement .asyncFaultDelivery := Nat.le_of_ble_eq_true rfl
theorem singleStep : Statement .singleStep := Nat.le_of_ble_eq_true rfl
theorem sload (c : Cmd) : Statement (.sload c) := Nat.le_of_ble_eq_true rfl
theorem sloadPush (c : Cmd) : Statement (.sloadPush c) := Nat.le_of_ble_eq_true rfl
theorem sstore (c : Cmd) : Statement (.sstore c) := Nat.le_of_ble_eq_true rfl
theorem sgather (c : Cmd) : Statement (.sgather c) := Nat.le_of_ble_eq_true rfl
theorem sscatter (c : Cmd) : Statement (.sscatter c) := Nat.le_of_ble_eq_true rfl
theorem kvadmit (c : Cmd) : Statement (.kvadmit c) := Nat.le_of_ble_eq_true rfl
theorem sclose (c : Cmd) : Statement (.sclose c) := Nat.le_of_ble_eq_true rfl
theorem sbar (c : Cmd) : Statement (.sbar c) := Nat.le_of_ble_eq_true rfl
theorem sown (c : Cmd) : Statement (.sown c) := Nat.le_of_ble_eq_true rfl
theorem sseg (c : Cmd) : Statement (.sseg c) := Nat.le_of_ble_eq_true rfl
theorem cload (c : Cmd) : Statement (.cload c) := Nat.le_of_ble_eq_true rfl
theorem cswitch (c : Cmd) : Statement (.cswitch c) := Nat.le_of_ble_eq_true rfl
theorem cretire (c : Cmd) : Statement (.cretire c) := Nat.le_of_ble_eq_true rfl
theorem csave (c : Cmd) : Statement (.csave c) := Nat.le_of_ble_eq_true rfl
theorem crestore (c : Cmd) : Statement (.crestore c) := Nat.le_of_ble_eq_true rfl
theorem hcopy (c : Cmd) : Statement (.hcopy c) := Nat.le_of_ble_eq_true rfl
theorem hfill (c : Cmd) : Statement (.hfill c) := Nat.le_of_ble_eq_true rfl
theorem selpred (c : Cmd) : Statement (.selpred c) := Nat.le_of_ble_eq_true rfl
theorem seltopk (c : Cmd) : Statement (.seltopk c) := Nat.le_of_ble_eq_true rfl
theorem seampack (c : Cmd) : Statement (.seampack c) := Nat.le_of_ble_eq_true rfl
theorem collred (c : Cmd) : Statement (.collred c) := Nat.le_of_ble_eq_true rfl
theorem collgath (c : Cmd) : Statement (.collgath c) := Nat.le_of_ble_eq_true rfl
theorem collscat (c : Cmd) : Statement (.collscat c) := Nat.le_of_ble_eq_true rfl
theorem pgpin (c : Cmd) : Statement (.pgpin c) := Nat.le_of_ble_eq_true rfl
theorem pgrel (c : Cmd) : Statement (.pgrel c) := Nat.le_of_ble_eq_true rfl
theorem migrate (c : Cmd) : Statement (.migrate c) := Nat.le_of_ble_eq_true rfl
theorem meterCeil (c : Cmd) : Statement (.meterCeil c) := Nat.le_of_ble_eq_true rfl
theorem meterCeilall (c : Cmd) : Statement (.meterCeilall c) := Nat.le_of_ble_eq_true rfl
theorem meterPoint (c : Cmd) : Statement (.meterPoint c) := Nat.le_of_ble_eq_true rfl
theorem meterCut (c : Cmd) : Statement (.meterCut c) := Nat.le_of_ble_eq_true rfl
theorem commandRetire : Statement .commandRetire := Nat.le_of_ble_eq_true rfl
theorem vadd (f : Slot) : Statement (.vadd f) := Nat.le_of_ble_eq_true rfl
theorem vsub (f : Slot) : Statement (.vsub f) := Nat.le_of_ble_eq_true rfl
theorem vmul (f : Slot) : Statement (.vmul f) := Nat.le_of_ble_eq_true rfl
theorem vfma (f : Slot) : Statement (.vfma f) := Nat.le_of_ble_eq_true rfl
theorem vmin (f : Slot) : Statement (.vmin f) := Nat.le_of_ble_eq_true rfl
theorem vmax (f : Slot) : Statement (.vmax f) := Nat.le_of_ble_eq_true rfl
theorem vabs (f : Slot) : Statement (.vabs f) := Nat.le_of_ble_eq_true rfl
theorem vneg (f : Slot) : Statement (.vneg f) := Nat.le_of_ble_eq_true rfl
theorem vcmp (f : Slot) : Statement (.vcmp f) := Nat.le_of_ble_eq_true rfl
theorem vsel (f : Slot) : Statement (.vsel f) := Nat.le_of_ble_eq_true rfl
theorem vand (f : Slot) : Statement (.vand f) := Nat.le_of_ble_eq_true rfl
theorem vor (f : Slot) : Statement (.vor f) := Nat.le_of_ble_eq_true rfl
theorem vxor (f : Slot) : Statement (.vxor f) := Nat.le_of_ble_eq_true rfl
theorem vshl (f : Slot) : Statement (.vshl f) := Nat.le_of_ble_eq_true rfl
theorem vshr (f : Slot) : Statement (.vshr f) := Nat.le_of_ble_eq_true rfl
theorem vsar (f : Slot) : Statement (.vsar f) := Nat.le_of_ble_eq_true rfl
theorem vcvt (f : Slot) : Statement (.vcvt f) := Nat.le_of_ble_eq_true rfl
theorem vpswap (f : Slot) : Statement (.vpswap f) := Nat.le_of_ble_eq_true rfl
theorem vperm (f : Slot) : Statement (.vperm f) := Nat.le_of_ble_eq_true rfl
theorem vbcast (f : Slot) : Statement (.vbcast f) := Nat.le_of_ble_eq_true rfl
theorem vredadd (f : Slot) : Statement (.vredadd f) := Nat.le_of_ble_eq_true rfl
theorem vredmax (f : Slot) : Statement (.vredmax f) := Nat.le_of_ble_eq_true rfl
theorem vsinpi (f : Slot) : Statement (.vsinpi f) := Nat.le_of_ble_eq_true rfl
theorem vcospi (f : Slot) : Statement (.vcospi f) := Nat.le_of_ble_eq_true rfl
theorem vexp2 (f : Slot) : Statement (.vexp2 f) := Nat.le_of_ble_eq_true rfl
theorem vrcp (f : Slot) : Statement (.vrcp f) := Nat.le_of_ble_eq_true rfl
theorem vrsq (f : Slot) : Statement (.vrsq f) := Nat.le_of_ble_eq_true rfl
theorem vclamp (f : Slot) : Statement (.vclamp f) := Nat.le_of_ble_eq_true rfl
theorem vscale (f : Slot) : Statement (.vscale f) := Nat.le_of_ble_eq_true rfl
theorem vmov (f : Slot) : Statement (.vmov f) := Nat.le_of_ble_eq_true rfl
theorem vcnt (f : Slot) : Statement (.vcnt f) := Nat.le_of_ble_eq_true rfl
theorem vpack (f : Slot) : Statement (.vpack f) := Nat.le_of_ble_eq_true rfl
theorem vrand (f : Slot) : Statement (.vrand f) := Nat.le_of_ble_eq_true rfl
theorem viota (f : Slot) : Statement (.viota f) := Nat.le_of_ble_eq_true rfl
theorem denc (f : Slot) : Statement (.denc f) := Nat.le_of_ble_eq_true rfl
theorem ddec (f : Slot) : Statement (.ddec f) := Nat.le_of_ble_eq_true rfl
theorem dadd (f : Slot) : Statement (.dadd f) := Nat.le_of_ble_eq_true rfl
theorem dsub (f : Slot) : Statement (.dsub f) := Nat.le_of_ble_eq_true rfl
theorem dmul (f : Slot) : Statement (.dmul f) := Nat.le_of_ble_eq_true rfl
theorem ddiv (f : Slot) : Statement (.ddiv f) := Nat.le_of_ble_eq_true rfl
theorem dsqrt (f : Slot) : Statement (.dsqrt f) := Nat.le_of_ble_eq_true rfl
theorem dscl (f : Slot) : Statement (.dscl f) := Nat.le_of_ble_eq_true rfl
theorem dmaxk (f : Slot) : Statement (.dmaxk f) := Nat.le_of_ble_eq_true rfl
theorem dsign (f : Slot) : Statement (.dsign f) := Nat.le_of_ble_eq_true rfl
theorem dthr (f : Slot) : Statement (.dthr f) := Nat.le_of_ble_eq_true rfl
theorem dfork (f : Slot) : Statement (.dfork f) := Nat.le_of_ble_eq_true rfl
theorem mdot (f : Slot) : Statement (.mdot f) := Nat.le_of_ble_eq_true rfl
theorem mma (f : Slot) : Statement (.mma f) := Nat.le_of_ble_eq_true rfl
theorem mmas (f : Slot) : Statement (.mmas f) := Nat.le_of_ble_eq_true rfl
theorem mldw (f : Slot) : Statement (.mldw f) := Nat.le_of_ble_eq_true rfl
theorem macc (f : Slot) : Statement (.macc f) := Nat.le_of_ble_eq_true rfl
theorem mtri (f : Slot) : Statement (.mtri f) := Nat.le_of_ble_eq_true rfl
theorem mscm (f : Slot) : Statement (.mscm f) := Nat.le_of_ble_eq_true rfl
theorem steer (f : Slot) : Statement (.steer f) := Nat.le_of_ble_eq_true rfl
theorem merge (f : Slot) : Statement (.merge f) := Nat.le_of_ble_eq_true rfl
theorem ordmerge (f : Slot) : Statement (.ordmerge f) := Nat.le_of_ble_eq_true rfl
theorem split (f : Slot) : Statement (.split f) := Nat.le_of_ble_eq_true rfl
theorem nullt (f : Slot) : Statement (.nullt f) := Nat.le_of_ble_eq_true rfl
theorem pass (f : Slot) : Statement (.pass f) := Nat.le_of_ble_eq_true rfl
theorem drop (f : Slot) : Statement (.drop f) := Nat.le_of_ble_eq_true rfl
theorem tagset (f : Slot) : Statement (.tagset f) := Nat.le_of_ble_eq_true rfl
theorem tagchk (f : Slot) : Statement (.tagchk f) := Nat.le_of_ble_eq_true rfl
theorem framest (f : Slot) : Statement (.framest f) := Nat.le_of_ble_eq_true rfl
theorem segmark (f : Slot) : Statement (.segmark f) := Nat.le_of_ble_eq_true rfl
theorem lutop (f : Slot) : Statement (.lutop f) := Nat.le_of_ble_eq_true rfl
theorem trd (f : Slot) : Statement (.trd f) := Nat.le_of_ble_eq_true rfl
theorem twr (f : Slot) : Statement (.twr f) := Nat.le_of_ble_eq_true rfl
theorem tswap (f : Slot) : Statement (.tswap f) := Nat.le_of_ble_eq_true rfl
theorem tfe (f : Slot) : Statement (.tfe f) := Nat.le_of_ble_eq_true rfl
theorem systolicFire : Statement .systolicFire := Nat.le_of_ble_eq_true rfl
theorem passStage : Statement .passStage := Nat.le_of_ble_eq_true rfl
theorem ayLdl (s a d : BitVec 5) : Statement (.ayLdl s a d) := Nat.le_of_ble_eq_true rfl
theorem ayStl (s a d : BitVec 5) : Statement (.ayStl s a d) := Nat.le_of_ble_eq_true rfl
theorem ayFill (s a d : BitVec 5) : Statement (.ayFill s a d) := Nat.le_of_ble_eq_true rfl
theorem ayPush (s a d : BitVec 5) : Statement (.ayPush s a d) := Nat.le_of_ble_eq_true rfl
theorem ayEvict (s a d : BitVec 5) : Statement (.ayEvict s a d) := Nat.le_of_ble_eq_true rfl
theorem ayMsg (a d : BitVec 5) : Statement (.ayMsg a d) := Nat.le_of_ble_eq_true rfl
theorem ayLock (s a d : BitVec 5) : Statement (.ayLock s a d) := Nat.le_of_ble_eq_true rfl
theorem ayStat (s a d : BitVec 5) : Statement (.ayStat s a d) := Nat.le_of_ble_eq_true rfl
theorem ayRet (a : BitVec 5) : Statement (.ayRet a) := Nat.le_of_ble_eq_true rfl
theorem ayBudget (d : BitVec 5) : Statement (.ayBudget d) := Nat.le_of_ble_eq_true rfl
theorem assayerRiscvInstruction (w : BitVec 32) : Statement (.assayerRiscvInstruction w) := Nat.le_of_ble_eq_true rfl
theorem budgetExpiry : Statement .budgetExpiry := Nat.le_of_ble_eq_true rfl
theorem missEvent (k : Nat) : Statement (.missEvent k) := Nat.le_of_ble_eq_true rfl
theorem fillEvent (k : Nat) : Statement (.fillEvent k) := Nat.le_of_ble_eq_true rfl
theorem evictEvent (k : Nat) : Statement (.evictEvent k) := Nat.le_of_ble_eq_true rfl
theorem msgEvent (k : Nat) : Statement (.msgEvent k) := Nat.le_of_ble_eq_true rfl
theorem l2Access (k : Nat) : Statement (.l2Access k) := Nat.le_of_ble_eq_true rfl
theorem l2FillComplete (line : Nat) : Statement (.l2FillComplete line) := Nat.le_of_ble_eq_true rfl
theorem engineProbe (e : Nat) : Statement (.engineProbe e) := Nat.le_of_ble_eq_true rfl
theorem accessReply (k : Nat) : Statement (.accessReply k) := Nat.le_of_ble_eq_true rfl
theorem deepFetchComplete (k : Nat) (driveError : Bool) : Statement (.deepFetchComplete k driveError) := Nat.le_of_ble_eq_true rfl
theorem windowAccess (r : WindowReq) : Statement (.windowAccess r) := Nat.le_of_ble_eq_true rfl
theorem pushArrival : Statement .pushArrival := Nat.le_of_ble_eq_true rfl
theorem streamTokenEmit : Statement .streamTokenEmit := Nat.le_of_ble_eq_true rfl
theorem streamTokenAbsorb : Statement .streamTokenAbsorb := Nat.le_of_ble_eq_true rfl
theorem streamBarrierResume (k : Nat) : Statement (.streamBarrierResume k) := Nat.le_of_ble_eq_true rfl
theorem coalesceTimeout (k : Nat) : Statement (.coalesceTimeout k) := Nat.le_of_ble_eq_true rfl
theorem controlTokenForward : Statement .controlTokenForward := Nat.le_of_ble_eq_true rfl
theorem reconfEmit (region : BitVec 2) : Statement (.reconfEmit region) := Nat.le_of_ble_eq_true rfl
theorem cswitchSettle (region : BitVec 2) : Statement (.cswitchSettle region) := Nat.le_of_ble_eq_true rfl
theorem killApply (dir : BitVec 2) : Statement (.killApply dir) := Nat.le_of_ble_eq_true rfl
theorem killForward (dir : BitVec 2) : Statement (.killForward dir) := Nat.le_of_ble_eq_true rfl
theorem frameWrite (dir : BitVec 2) : Statement (.frameWrite dir) := Nat.le_of_ble_eq_true rfl
theorem frameOperandSend : Statement .frameOperandSend := Nat.le_of_ble_eq_true rfl
theorem fifoTilePass (dir : BitVec 2) : Statement (.fifoTilePass dir) := Nat.le_of_ble_eq_true rfl
theorem lineBufferEmit (dir : BitVec 2) : Statement (.lineBufferEmit dir) := Nat.le_of_ble_eq_true rfl
theorem replayRerun (region : BitVec 2) : Statement (.replayRerun region) := Nat.le_of_ble_eq_true rfl
theorem freezeScanComplete (region : BitVec 2) : Statement (.freezeScanComplete region) := Nat.le_of_ble_eq_true rfl
theorem watchdog (region : BitVec 2) : Statement (.watchdog region) := Nat.le_of_ble_eq_true rfl
theorem collectiveInstance (k : Nat) : Statement (.collectiveInstance k) := Nat.le_of_ble_eq_true rfl
theorem intakeRecord (q : BitVec 4) : Statement (.intakeRecord q) := Nat.le_of_ble_eq_true rfl
theorem taskBind : Statement .taskBind := Nat.le_of_ble_eq_true rfl
theorem taskEnd (k : Nat) : Statement (.taskEnd k) := Nat.le_of_ble_eq_true rfl
theorem jobDecrement (k : Nat) : Statement (.jobDecrement k) := Nat.le_of_ble_eq_true rfl
theorem cancelArrival (k : Nat) : Statement (.cancelArrival k) := Nat.le_of_ble_eq_true rfl
theorem quantExpiry (p : Nat) : Statement (.quantExpiry p) := Nat.le_of_ble_eq_true rfl
theorem threadSave : Statement .threadSave := Nat.le_of_ble_eq_true rfl
theorem cloneWindow (region : BitVec 2) (entryWait exitWait : Nat) : Statement (.cloneWindow region entryWait exitWait) := Nat.le_of_ble_eq_true rfl
theorem throttleNotice (reason : BitVec 2) : Statement (.throttleNotice reason) := Nat.le_of_ble_eq_true rfl
theorem powerMeasurement (milliwatts : Nat) : Statement (.powerMeasurement milliwatts) := Nat.le_of_ble_eq_true rfl
theorem currentEstimate (milliamps : Nat) : Statement (.currentEstimate milliamps) := Nat.le_of_ble_eq_true rfl
theorem rateRamp : Statement .rateRamp := Nat.le_of_ble_eq_true rfl
theorem canarySample (region : BitVec 2) (quarterDegrees : Int) : Statement (.canarySample region quarterDegrees) := Nat.le_of_ble_eq_true rfl
theorem trip (region : BitVec 2) (quarterDegrees : Int) : Statement (.trip region quarterDegrees) := Nat.le_of_ble_eq_true rfl
theorem tripEnd (region : BitVec 2) : Statement (.tripEnd region) := Nat.le_of_ble_eq_true rfl
theorem voltageSlewDone (region : BitVec 2) : Statement (.voltageSlewDone region) := Nat.le_of_ble_eq_true rfl
theorem linkRetransmit (k : Nat) : Statement (.linkRetransmit k) := Nat.le_of_ble_eq_true rfl
theorem eccError (addr : Nat) : Statement (.eccError addr) := Nat.le_of_ble_eq_true rfl
theorem hostCxlMemRequest (r : HostReq) : Statement (.hostCxlMemRequest r) := Nat.le_of_ble_eq_true rfl
theorem aditRequest (r : AditReq) : Statement (.aditRequest r) := Nat.le_of_ble_eq_true rfl
theorem registerWrite (w : RegWrite) : Statement (.registerWrite w) := Nat.le_of_ble_eq_true rfl
theorem intakeEnable (q : BitVec 4) : Statement (.intakeEnable q) := Nat.le_of_ble_eq_true rfl
theorem teardown (q : BitVec 4) : Statement (.teardown q) := Nat.le_of_ble_eq_true rfl
theorem taskTypeValid (t : BitVec 10) : Statement (.taskTypeValid t) := Nat.le_of_ble_eq_true rfl
theorem handlerValidClear (e : BitVec 4) : Statement (.handlerValidClear e) := Nat.le_of_ble_eq_true rfl
theorem asidset (asid : BitVec 16) (hostPa : Nat) : Statement (.asidset asid hostPa) := Nat.le_of_ble_eq_true rfl
theorem handler (r : HandlerReq) : Statement (.handler r) := Nat.le_of_ble_eq_true rfl
theorem access (target : Nat) (master : BitVec 10) (entry : BitVec 512) : Statement (.access target master entry) := Nat.le_of_ble_eq_true rfl
theorem aperture (a : BitVec 6) (entry : BitVec 64) : Statement (.aperture a entry) := Nat.le_of_ble_eq_true rfl
theorem route (m : BitVec 12) (mask : BitVec 16) : Statement (.route m mask) := Nat.le_of_ble_eq_true rfl
theorem attest (nonce : BitVec 256) (hostPa : Nat) : Statement (.attest nonce hostPa) := Nat.le_of_ble_eq_true rfl
theorem module (m : BitVec 12) : Statement (.module m) := Nat.le_of_ble_eq_true rfl
theorem reset : Statement .reset := Nat.le_of_ble_eq_true rfl
theorem release : Statement .release := Nat.le_of_ble_eq_true rfl
theorem mailboxUnlistedCode (code : BitVec 8) : Statement (.mailboxUnlistedCode code) := Nat.le_of_ble_eq_true rfl
theorem coldReset : Statement .coldReset := Nat.le_of_ble_eq_true rfl
theorem bringupStep (failure : Option (BitVec 32)) : Statement (.bringupStep failure) := Nat.le_of_ble_eq_true rfl
theorem cxlCacheSnoop (hostAddr : Nat) (bytes : List (BitVec 8)) : Statement (.cxlCacheSnoop hostAddr bytes) := Nat.le_of_ble_eq_true rfl
theorem apertureWatchPoll : Statement .apertureWatchPoll := Nat.le_of_ble_eq_true rfl
theorem translationCacheDrop (cache : Nat) (k : Nat) : Statement (.translationCacheDrop cache k) := Nat.le_of_ble_eq_true rfl
theorem moveToDeepTier (asid : BitVec 16) (va : Nat) (port : BitVec 2) (index : BitVec 30) : Statement (.moveToDeepTier asid va port index) := Nat.le_of_ble_eq_true rfl

end Sys2Proof.Laws.Fields
end

