-- ==== Sys2Proof/Tests/Slice0.lean ====
section
/-!
SUPPORT. Tests: ill-formed terms, words written out from the encodings of the spec, single steps, and for every statement
a state that meets its hypotheses.
-/

set_option Elab.async false

open Sys2Proof Sys2Proof.Machine

namespace Sys2Proof.Tests

/-! ### Well-formedness: each check refuses a term -/

def cmd0 : Cmd := ⟨false, 0, false, 0, 0, 7, 0, 0⟩

theorem test_wf_csr : (Instr.csrr 1 0x003).wf = false ∧ (Instr.csrw 1 1 0x015).wf = false ∧ (Instr.csrs 1 1 0x032).wf = false ∧
    (Instr.csrc 1 1 0xFFFF).wf = false ∧ (Instr.csrr 1 0x031).wf = true := by decide
theorem test_wf_condition : (Instr.cmpCc 1 2 3 10).wf = false ∧ (Instr.cmpiCc 1 2 10 0).wf = false ∧ (Instr.brCc 1 2 15 0).wf = false ∧
    (Instr.brCc 1 2 9 0).wf = true := by decide
theorem test_wf_width : (Instr.sext 1 2 3).wf = false ∧ (Instr.zext 1 2 31).wf = false ∧ (Instr.zext 1 2 2).wf = true := by decide
theorem test_wf_bitfield : (Instr.bitf 1 2 0 63 1).wf = false ∧ (Instr.biti 1 2 1 63).wf = false ∧ (Instr.biti 1 2 0 63).wf = true := by decide
theorem test_wf_loop : (Instr.loop 1 1).wf = false ∧ (Instr.loop 1 2048).wf = false ∧ (Instr.loop 1 2).wf = true ∧
    (Instr.loop 1 2047).wf = true := by decide
theorem test_wf_header : (Instr.sclose { cmd0 with waitF := 1 }).wf = false ∧ (Instr.sclose { cmd0 with sigF := 1 }).wf = false ∧
    (Instr.sclose { cmd0 with bind := 4 }).wf = false ∧ (Instr.sclose cmd0).wf = true := by decide
theorem test_wf_program : (Instr.sload { cmd0 with ops := 32 }).wf = false ∧ (Instr.sload { cmd0 with ops := 2 ^ 56 }).wf = false ∧
    (Instr.sload { cmd0 with flags := 1 }).wf = false ∧ (Instr.sloadPush cmd0).wf = false ∧ (Instr.sload { cmd0 with ops := 64 }).wf = true := by decide
theorem test_wf_context : (Instr.cload cmd0).wf = false ∧ (Instr.cswitch { cmd0 with bind := 0, ops := 4 }).wf = false ∧
    (Instr.csave { cmd0 with bind := 0, ops := 2 ^ 58 }).wf = false ∧ (Instr.csave { cmd0 with bind := 0, ops := 1 }).wf = true ∧ (Instr.cload { cmd0 with bind := 0 }).wf = true := by decide
theorem test_wf_pages : (Instr.pgpin cmd0).wf = false ∧ (Instr.pgpin { cmd0 with ops := 2 ^ 64 + 1 }).wf = false ∧
    (Instr.pgpin { cmd0 with ops := 2 ^ 64 }).wf = true ∧ (Instr.migrate { cmd0 with ops := 2 ^ 56 }).wf = false := by decide +kernel
theorem test_wf_meter : (Instr.meterCeil { cmd0 with ops := 15 }).wf = false ∧ (Instr.meterCeil { cmd0 with ops := 65 * 2 ^ 11 }).wf = false ∧
    (Instr.meterPoint { cmd0 with flags := 2, ops := 2 ^ 17 }).wf = false ∧ (Instr.meterCut { cmd0 with flags := 3, ops := 8 }).wf = false ∧
    (Instr.meterCeil { cmd0 with ops := 16 }).wf = true := by decide

/-! ### Decoding: words written out from 13_encodings.md, 03_fabric.md Table 3.5 and 08_assayers.md Table 8.6 -/

theorem test_decode_addi : decodeThread 0x0820FFFF = .ok (.addi 1 0 0xFFFF) := by decide +kernel
theorem test_decode_clz : decodeThread 0x04E90012 = .ok (.clz 7 9) := by decide +kernel
theorem test_decode_sel : decodeThread 0x44232200 = .ok (.sel 1 3 4 2) := by decide +kernel
theorem test_decode_pnot : decodeThread 0x41000002 = .ok (.pnot 2 0) := by decide +kernel
theorem test_decode_qmov : decodeThread 0xA5008000 = .ok (.qmov 2 1) := by decide +kernel
theorem test_decode_madd : decodeThread 0x2C221900 = .ok (.madd 1 2 3 4) := by decide +kernel
theorem test_decode_div : decodeThread 0x04A63804 = .ok (.div 5 6 7) := by decide +kernel
theorem test_decode_cmpi : decodeThread 0x3C8E4064 = .ok (.cmpiCc 1 3 9 100) := by decide +kernel
theorem test_decode_bitf : decodeThread 0x30411203 = .ok (.bitf 2 1 1 8 3) := by decide +kernel
theorem test_decode_jal : decodeThread 0x57E0000A = .ok (.jal 31 10) := by decide +kernel
theorem test_decode_jalr : decodeThread 0x581F0000 = .ok (.jalr 0 31 0) := by decide +kernel
theorem test_decode_lih : decodeThread 0x24C15670 = .ok (.lih 6 1 0x5670) := by decide +kernel
theorem test_decode_done : decodeThread 0xB4040000 = .ok (.done 4) := by decide +kernel
theorem test_decode_take : decodeThread 0xB0200000 = .ok (.take 1) := by decide +kernel
theorem test_decode_enq : decodeThread 0xAD140000 = .ok (.enq 2 5) := by decide +kernel
theorem test_decode_tkpop : decodeThread 0x90A00201 = .ok (.tkpop 5 2) := by decide +kernel
theorem test_decode_tkpush : decodeThread 0x90000300 = .ok (.tkpush 3) := by decide +kernel
theorem test_decode_ayLdl : decodeAssayer 0x00D5028B = .ayLdl 13 10 5 := by decide +kernel
theorem test_decode_ayRet : decodeAssayer 0x0200000B = .ayRet 0 := by decide +kernel
theorem test_decode_vadd : decodeSlot 0x02060C00 = .ok (.vadd ⟨0, 3, 0, 6, 0⟩) := by decide +kernel
theorem test_decode_pass : decodeSlot 0xAA7E8000 = .ok (.pass ⟨3, 15, 4, 0, 0⟩) := by decide +kernel
theorem test_decode_reserved : decodeThread 0x44232201 = .error .reservedField ∧ decodeThread 0 = .error .unassignedMajor := by decide +kernel
/-- SLOAD: opcode 0x01 in [127:120], stream 3 in [111:107], binding 7 in [106:104], block at 0x40. -/
theorem test_decode_sload : decodeCmd (0x01 * 2 ^ 120 + 3 * 2 ^ 107 + 7 * 2 ^ 104 + 0x40) =
    .ok (.sload ⟨false, 0, false, 0, 3, 7, 0, 0x40⟩) := by decide +kernel
/-- METER CUT: opcode 0x40, flags 3. -/
theorem test_decode_meter : decodeCmd (0x40 * 2 ^ 120 + 7 * 2 ^ 104 + 3 * 2 ^ 96 + 5) =
    .ok (.meterCut ⟨false, 0, false, 0, 0, 7, 3, 5⟩) := by decide +kernel
/-- The step after withFetchWord runs the word: LIH g6, 1, 0x5670 on thread 0. -/
theorem test_fetch_lih : (match step (State.reset.withFetchWord 32 0x24C15670) with | .next t => rg t 0 6 | _ => 0) = 0x56700000 := by
  decide +kernel

/-! ### States for the tests -/

/-- Thread 0 runs at virtual address 0 of ASID 0, whose first line is cached at its home and its translation in the core. -/
def mapped : State :=
  ({ placeThread State.reset 0 with self := .thread 0 }).setWay (homeSlice placeCode) (homeSet placeCode) 0 (some { line := placeCode / 128 })

/-- Master m may do everything with the lines of these addresses, which stand at their homes. -/
def cached (s : State) (m : Nat) (pas : List Nat) : State :=
  pas.foldl (fun s pa => (s.setWindow (homeSlice pa) m 0 { base := 0, last := 2 ^ 41 - 1, perm := 15, en := true }).setWay
    (homeSlice pa) (homeSet pa) (pa / 128 % 16) (some { line := pa / 128 })) s

/-- The PTEs that translate virtual page 0 of ASID 0 stand at their homes. -/
def walked (s : State) : State := cached s 768 [descAddr s 0, placeRoot, placeL2, placeL3]

/-- No link of the mesh fails. -/
theorem links_up {s : State} (h : s.resent = []) (l : Nat) : Map.get 0 s.resent l < 7 := by
  rw [h]
  exact Nat.zero_lt_succ 6

def access? (s : State) (k : Nat) (va : Word) (n : Nat) (kd : Kind) : Bool :=
  decide (va.toNat % n = 0) && (match threadWalk s k va with
   | .ready s0 _ => (match locate s0 k (s0.thread k).asid va.toNat kd true with
      | (s1, .ok (pa, _)) => match placeOf s1 pa with
         | .ok p => (!behind s1 k p.home && !ownAhead s1 k pa n) && (match reach s1 pa n kd (threadOrigin s1 k va) with | .ready _ _ => true | _ => false)
         | .error _ => false
      | _ => false)
   | _ => false)

theorem access_reaches {s : State} {k : Nat} {va : Word} {n : Nat} {kd : Kind} (h : access? s k va n kd = true) :
    ∃ s' key, reaches s k va n kd s' key := by
  unfold access? at h
  simp only [Bool.and_eq_true, decide_eq_true_eq] at h
  obtain ⟨h0, h⟩ := h
  split at h
  · rename_i s0 w h5
    split at h
    · rename_i s1 pa seam h1
      split at h
      · rename_i p h2
        simp only [Bool.and_eq_true, Bool.not_eq_true'] at h
        obtain ⟨⟨h3, h6⟩, h⟩ := h
        split at h
        · rename_i s' key h4
          exact ⟨s', key, h0, s0, w, s1, pa, seam, p, h5, h1, h2, h3, h6, h4⟩
        · exact absurd h (by decide)
      · exact absurd h (by decide)
    · exact absurd h (by decide)
  · exact absurd h (by decide)

/-- The store has a place, and it satisfies P. -/
def store? (s : State) (k : Nat) (va : Word) (n : Nat) (P : State → Nat → Place → Bool) : Bool :=
  decide (va.toNat % n = 0) && (match threadWalk s k va with
   | .ready s0 _ => (match locate s0 k (s0.thread k).asid va.toNat .write true with
      | (s1, .ok (pa, _)) => match placeOf s1 pa with | .ok p => P s1 pa p | .error _ => false
      | _ => false)
   | _ => false)

theorem store_place {s : State} {k : Nat} {va : Word} {n : Nat} {P : State → Nat → Place → Bool} (h : store? s k va n P = true) :
    ∃ s1 pa p, storePlace s k va n s1 pa p ∧ P s1 pa p = true := by
  unfold store? at h
  simp only [Bool.and_eq_true, decide_eq_true_eq] at h
  obtain ⟨h0, h⟩ := h
  split at h
  · rename_i s0 w h3
    split at h
    · rename_i s1 pa seam h1
      split at h
      · rename_i p h2
        exact ⟨s1, pa, p, ⟨h0, s0, w, seam, h3, h1, h2⟩, h⟩
      · exact absurd h (by decide)
    · exact absurd h (by decide)
  · exact absurd h (by decide)

/-- A slot fires on WORD tokens, or is ready on data tokens, and what it takes satisfies P. -/
def taken? (s : State) (t : Takes) (ok : Token → Bool) (P : Site → Taken → Bool) : Bool :=
  match s.self with
  | .tile k y x n => (match siteOf s k y x n with
    | some st => decide (st.k = k ∧ st.y = y ∧ st.x = x ∧ st.n = n) && t.dests.all (fun d => hasRoom s st d.1 d.2) && linksUp s st &&
        (match takes s st t with | some kk => kk.toks.all ok && P st kk | none => false)
    | none => false)
  | _ => false

theorem taken_spec {s : State} {t : Takes} {ok : Token → Bool} {P : Site → Taken → Bool} (h : taken? s t ok P = true) :
    ∃ st k, s.self = .tile st.k st.y st.x st.n ∧ siteOf s st.k st.y st.x st.n = some st ∧
      (∀ d ∈ t.dests, hasRoom s st d.1 d.2 = true) ∧ linksUp s st = true ∧ takes s st t = some k ∧ (∀ x ∈ k.toks, ok x = true) ∧ P st k = true := by
  unfold taken? at h
  split at h
  · rename_i k y x n h1
    split at h
    · rename_i st h2
      simp only [Bool.and_eq_true, decide_eq_true_eq] at h
      obtain ⟨⟨⟨⟨rfl, rfl, rfl, rfl⟩, h3⟩, hl⟩, h⟩ := h
      split at h
      · rename_i kk h4
        simp only [Bool.and_eq_true, List.all_eq_true] at h
        exact ⟨st, kk, h1, h2, by simpa using h3, hl, h4, h.1, h.2⟩
      · exact absurd h (by decide)
    · exact absurd h (by decide)
  · exact absurd h (by decide)

def fires? (s : State) (t : Takes) (P : Site → Taken → Bool) : Bool := taken? s t (fun x => decide (x.kind = kWORD)) P
def ready? (s : State) (t : Takes) (P : Site → Taken → Bool) : Bool := taken? s t Token.isData P

theorem fires_spec {s : State} {t : Takes} {P : Site → Taken → Bool} (h : fires? s t P = true) : ∃ st k, Fires s st t k ∧ P st k = true := by
  obtain ⟨st, k, h1, h2, h3, hl, h4, h5, h6⟩ := taken_spec h
  exact ⟨st, k, ⟨h1, h2, h3, hl, h4, fun x hx => by simpa using h5 x hx⟩, h6⟩

theorem ready_spec {s : State} {t : Takes} {P : Site → Taken → Bool} (h : ready? s t P = true) : ∃ st k, Ready s st t k ∧ P st k = true := by
  obtain ⟨st, k, h1, h2, h3, hl, h4, h5, h6⟩ := taken_spec h
  exact ⟨st, k, ⟨h1, h2, h3, hl, h4, h5⟩, h6⟩

/-- The command at its place of a queue may leave it, or has begun. -/
def leaves? (s : State) (i : Instr) (P : QCmd → Bool) : Bool :=
  match s.self with
  | .queue k q pos => (match (queueCmds s k q)[pos]? with
    | some c => decide (decodeCmd c.word = .ok i) && decide (c.phase = .queued ∨ (c.phase = .ready ∧ c.headed = true)) && mayIssue s k q pos &&
        decide (c.phase = .ready ∨ (cmdFields c.word).waitEn = false) &&
        decide (c.headed = true ∨ bindOk s k (cmdFields c.word) (cmdOpcode c.word) = true) &&
        (stoppedBy (atHead s k c).1 k (atHead s k c).2).isNone && P c
    | none => false)
  | _ => false

theorem leaves_spec {s : State} {i : Instr} {P : QCmd → Bool} (h : leaves? s i P = true) :
    ∃ k q pos c, Leaves s i k q pos c ∧ P c = true := by
  unfold leaves? at h
  split at h
  · rename_i k q pos h1
    split at h
    · rename_i c h2
      simp only [Bool.and_eq_true, decide_eq_true_eq] at h
      obtain ⟨⟨⟨⟨⟨⟨h3, h4⟩, h5⟩, h6⟩, h7⟩, h9⟩, h8⟩ := h
      exact ⟨k, q, pos, c, ⟨h1, h2, h3, h4, h5, h6, h7, Option.isNone_iff_eq_none.mp h9⟩, h8⟩
    · exact absurd h (by decide)
  · exact absurd h (by decide)

def begun? (s : State) (i : Instr) (P : QCmd → Bool) : Bool :=
  match s.self with
  | .queue k q pos => (match (queueCmds s k q)[pos]? with
    | some c => decide (decodeCmd c.word = .ok i) && decide (c.phase = .started) && P c
    | none => false)
  | _ => false

theorem begun_spec {s : State} {i : Instr} {P : QCmd → Bool} (h : begun? s i P = true) :
    ∃ k q pos c, Begun s i k q pos c ∧ P c = true := by
  unfold begun? at h
  split at h
  · rename_i k q pos h1
    split at h
    · rename_i c h2
      simp only [Bool.and_eq_true, decide_eq_true_eq] at h
      obtain ⟨⟨h3, h4⟩, h5⟩ := h
      exact ⟨k, q, pos, c, ⟨h1, h2, h3, h4⟩, h5⟩
    · exact absurd h (by decide)
  · exact absurd h (by decide)

/-- An optional value that is there and satisfies P. -/
theorem some_spec {α : Type} {o : Option α} {P : α → Bool} (h : o.any P = true) : ∃ x, o = some x ∧ P x = true := by
  cases o with
  | none => simp at h
  | some x => exact ⟨x, rfl, by simpa using h⟩

/-- The outcome is a next state that satisfies P. -/
def next? (r : Res) (P : State → Bool) : Bool := match r with | .next t => P t | _ => false

theorem next_spec {r : Res} {P : State → Bool} (h : next? r P = true) : ∃ t, r = .next t ∧ P t = true := by
  unfold next? at h
  split at h
  · exact ⟨_, rfl, h⟩
  · exact absurd h (by decide)

theorem next_ex {r : Res} (h : next? r (fun _ => true) = true) : ∃ t, r = .next t := (next_spec h).imp fun _ h => h.1

/-! ### Steps of the control thread -/

def withG (s : State) (l : List (BitVec 5 × Word)) : State := l.foldl (fun s e => wg s 0 e.1 e.2) s
def reg (r : Res) (d : BitVec 5) : Option Word := match r with | .next t => some (rg t 0 d) | _ => none
def pcAfter (r : Res) : Option Word := match r with | .next t => some (pcOf t 0) | _ => none

/-- R348: the most negative number divided by -1 keeps its value, and a division by 0 gives all ones. -/
theorem test_div_limits : reg (exec (.div 3 1 2) (withG State.reset [(1, 0x8000000000000000), (2, BitVec.allOnes 64)])) 3 = some 0x8000000000000000 ∧
    reg (exec (.div 3 1 2) (withG State.reset [(1, 5)])) 3 = some (BitVec.allOnes 64) := by decide +kernel
theorem test_add_wraps : reg (exec (.add 1 1 1) (withG State.reset [(1, 0x8000000000000001)])) 1 = some 2 := by decide +kernel
theorem test_g0_discards : reg (exec (.addi 0 0 5) State.reset) 0 = some 0 := by decide +kernel
theorem test_mulh_signs : reg (exec (.mulh 3 1 2) (withG State.reset [(1, BitVec.allOnes 64), (2, 1)])) 3 = some (BitVec.allOnes 64) := by decide +kernel
theorem test_shift_count_wraps : reg (exec (.shl 3 1 2) (withG State.reset [(1, 1), (2, 65)])) 3 = some 2 := by decide +kernel
theorem test_clz_zero : reg (exec (.clz 3 1) State.reset) 3 = some 64 := by decide +kernel
theorem test_bitf_sign : reg (exec (.bitf 2 1 1 8 3) (withG State.reset [(1, 0x800)])) 2 = some 0xFFFFFFFFFFFFFFF8 := by decide +kernel
theorem test_loop_ends : pcAfter (exec (.loop 1 4) State.reset) = some 16 ∧
    pcAfter (exec (.loop 1 4) (withG State.reset [(1, 1)])) = some 4 := by decide +kernel
theorem test_branch_back : pcAfter (exec (.brCc 0 0 0 0xFFF) State.reset) = some 0xFFFFFFFFFFFFFFFC := by decide +kernel
/-- R220: TRAP saves the pc and goes to TVEC with bits [1:0] cleared. -/
theorem test_trap_entry : pcAfter (exec (.trap 7) (State.reset.modThread 0 (fun t => { t with tvec := 0x1003, pc := 0x40 }))) = some 0x1000 ∧
    (match exec (.trap 7) (State.reset.modThread 0 (fun t => { t with tvec := 0x1003, pc := 0x40 })) with
     | .next t => decide ((t.thread 0).epc = 0x40) | _ => false) = true := by decide +kernel
theorem test_sysret_returns : pcAfter (exec .sysret (State.reset.modThread 0 (fun t => { t with epc := 0x47 }))) = some 0x44 := by decide +kernel
theorem test_sysret_needs_priv : pcAfter (exec .sysret (State.reset.modThread 0 (fun t => { t with status := 0, tvec := 0x80 }))) = some 0x80 := by decide +kernel
/-- R2: the byte at the lowest address is the least significant; LD extends its sign. -/
theorem test_load_little_endian : reg (exec (.ldu 3 1 1 0) (withG (writeMem mapped placeCode [0x34, 0x92]) [])) 3 = some 0x9234 ∧
    reg (exec (.ld 3 1 1 0) (writeMem mapped placeCode [0x34, 0x92])) 3 = some 0xFFFFFFFFFFFF9234 := by decide +kernel
theorem test_misaligned_load : pcAfter (exec (.ld 3 1 1 1) (mapped.modThread 0 (fun t => { t with tvec := 0x200 }))) = some 0x200 := by decide +kernel
theorem test_amo_add : (match exec (.amo 3 0 2 1 0 0 0) (withG (writeNat mapped placeCode 4 0xFFFFFFFF) [(2, 2)]) with
    | .next t => decide (rg t 0 3 = BitVec.allOnes 64 ∧ readNat t placeCode 8 = 1) | _ => false) = true := by decide +kernel
theorem test_store_leaves : (match exec (.st 1 0 0 0) (withG mapped [(1, 0x1FF)]) with
    | .next t => decide (t.mem = mapped.mem) && decide (t.egress.map (·.cells) = [[some 0xFF]]) | _ => false) = true := by decide +kernel
theorem test_tkpush_tkpop : (match exec (.tkpush 2) State.reset with
    | .next t => decide (fifo t 0 2 = [0]) && decide (reg (exec (.tkpop 5 2) t) 5 = some 0) | _ => false) = true := by decide +kernel
theorem test_issue_needs_command : pcAfter (exec (.issue 0) (State.reset.modThread 0 (fun t => { t with tvec := 0x300 }))) = some 0x300 := by decide +kernel

/-! ### Witnesses: registers, memory -/

theorem witness_AluResults : State.reset.self = .thread 0 ∧ (0 : BitVec 5) = 0 ∧ (1 : BitVec 5) = 1 ∧ (2 : BitVec 5) = 2 := by decide
theorem witness_ImmediateResults : State.reset.self = .thread 0 ∧ (0 : BitVec 6).toNat + (63 : BitVec 6).toNat + 1 ≤ 64 ∧
    (63 : BitVec 6).toNat + (0 : BitVec 6).toNat + 1 ≤ 64 := by decide
theorem witness_AddiAndiWordAndResult : State.reset.self = .thread 0 := rfl
theorem witness_SelWordAndResult : State.reset.self = .thread 0 ∧ (0x44000001 : BitVec 32).extractLsb' 26 6 = 0x11#6 ∧
    (0x44000001 : BitVec 32).extractLsb' 0 8 ≠ 0 := by decide
theorem witness_PredicateResults : State.reset.self = .thread 0 := rfl
theorem witness_CommandRegisterWrites : State.reset.self = .thread 0 := rfl
theorem witness_BranchesAndJumps : State.reset.self = .thread 0 ∧ (9 : BitVec 4).toNat ≤ 9 ∧ 2 ≤ (2 : BitVec 12).toNat ∧
    (2047 : BitVec 12).toNat ≤ 2047 := by decide
theorem witness_IllegalFieldsTrap : State.reset.self = .thread 0 ∧ 10 ≤ (10 : BitVec 4).toNat ∧ 3 ≤ (3 : BitVec 5).toNat ∧
    64 < (63 : BitVec 6).toNat + (1 : BitVec 6).toNat + 1 ∧ (1 : BitVec 12).toNat < 2 ∧ 2047 < (2048 : BitVec 12).toNat ∧
    csrListed 0x003 = false := by decide
theorem witness_RegisterFormsFrame : ∃ t, registerForm (.add 1 2 3) = true ∧ State.reset.self = .thread 0 ∧ exec (.add 1 2 3) State.reset = .next t :=
  ⟨_, rfl, rfl, rfl⟩
theorem witness_LoadsGiveTheBytes : mapped.self = .thread 0 ∧
    (∃ s' key, reaches mapped 0 (rg mapped 0 0 + (8 : BitVec 14).signExtend 64) (2 ^ (3 : BitVec 2).toNat) .read s' key) ∧
    (∃ s' key, reaches mapped 0 (rg mapped 0 0 + (127 : BitVec 12).signExtend 64) (2 ^ (0 : BitVec 2).toNat) .read s' key) ∧
    (∃ s' key, reaches mapped 0 (rg mapped 0 0 + (112 : BitVec 14).signExtend 64) 16 .read s' key) :=
  ⟨rfl, access_reaches (by decide +kernel), access_reaches (by decide +kernel), access_reaches (by decide +kernel)⟩
theorem witness_AnsweredAccessChangesTagsOnly : ∃ s' key, reaches mapped 0 64 8 .write s' key := access_reaches (by decide +kernel)

/-- An access that may be made, in a state and at a key that satisfy P. -/
theorem acc_ready {r : Acc} {P : State → Nat → Bool} (h : (match r with | .ready s k => P s k | _ => false) = true) :
    ∃ s k, r = .ready s k ∧ P s k = true := by
  split at h
  · exact ⟨_, _, rfl, h⟩
  · exact absurd h (by decide)

/-- Thread 0 may write the scratch memory of its core. -/
def scratchy : State := mapped.setWindow (tgtCore 0) (coreMaster 0) 0 { base := 0, last := 2 ^ 41 - 1, perm := 15, en := true }

/-- Virtual page 1 of thread 0 lies in an aperture of a module to which no port leads. -/
def cutOff : State :=
  { mapped with tcaches := [(0, [⟨0, 0, placeCode / 65536, 0x7D⟩, ⟨0, 1, aditBase / 65536, 0x7D⟩])]
                head := { mapped.head with apertures := [(0, 1)] } }

theorem witness_StoresLandOrLeave : mapped.self = .thread 0 ∧
    (∃ s1 pa p, storePlace mapped 0 8 8 s1 pa p ∧
      (!isTileHome p.home && !(s1.thread 0).loads.any (fun l => decide (l.pa < pa + 8 ∧ pa < l.pa + l.n))) = true) ∧
    (∃ s1 pa p, storePlace scratchy 0 0xFFFFFFC0000008 8 s1 pa p ∧ (isTileHome p.home && !ownAhead s1 0 pa 8 &&
      (match reach s1 pa 8 .write (threadOrigin s1 0 0xFFFFFFC0000008) with | .ready _ _ => true | _ => false)) = true) ∧
    (∃ s1 pa p, storePlace mapped 0 0xFFFFFFC0000008 8 s1 pa p ∧ (isTileHome p.home && !ownAhead s1 0 pa 8 &&
      (match reach s1 pa 8 .write (threadOrigin s1 0 0xFFFFFFC0000008) with | .fault _ _ => true | _ => false)) = true) ∧
    ((0x10008 : Word).toNat % 8 = 0 ∧ (∃ s0 w, threadWalk cutOff 0 0x10008 = .ready s0 w ∧
      (match locate s0 0 (s0.thread 0).asid (0x10008 : Word).toNat .write true with
       | (s1, .ok (pa, _)) => decide (placeOf s1 pa = .error fcLINK) | _ => false) = true)) ∧
    released mapped 0 3 = true ∧ released { mapped with egress := [{ id := 0, core := 0, sid := none, cmdId := none, asid := 0, va := 0, pa := 0, cells := [], pc := 0 }] } 0 3 = false :=
  ⟨rfl, store_place (by decide +kernel), store_place (by decide +kernel), store_place (by decide +kernel),
    ⟨by decide, acc_ready (by decide +kernel)⟩, by decide +kernel, by decide +kernel⟩
theorem witness_AtomicsReadChangeWrite : mapped.self = .thread 0 ∧ ((3 : BitVec 2).getLsbD 1 = true ∧ released mapped 0 3 = true) ∧
    (∃ s' key, reaches mapped 0 (rg mapped 0 0) 4 .atomic s' key) ∧ (∃ s' key, reaches mapped 0 (rg mapped 0 0) 8 .atomic s' key) :=
  ⟨rfl, by decide +kernel, access_reaches (by decide +kernel), access_reaches (by decide +kernel)⟩
theorem witness_LoadingFormsFrame : mapped.self = .thread 0 ∧ inTrap mapped 0 = false ∧ ∃ t, exec (.ld 1 0 3 8) mapped = .next t :=
  ⟨rfl, by decide +kernel, next_ex (by decide +kernel)⟩
theorem witness_StoringFormsFrame : mapped.self = .thread 0 ∧ inTrap mapped 0 = false ∧ (∃ t, exec (.st 1 0 3 8) mapped = .next t) ∧
    (∃ s1 pa p, storePlace mapped 0 8 8 s1 pa p ∧ (!isTileHome p.home) = true) ∧
    (∃ s1 pa p, storePlace scratchy 0 0xFFFFFFC0000008 8 s1 pa p ∧ isTileHome p.home = true) ∧ (∃ s' key, reaches mapped 0 0 16 .atomic s' key) ∧
    (¬ ∃ s1 pa p, storePlace mapped 0 9 8 s1 pa p) ∧ (¬ ∃ s' key, reaches mapped 0 4 16 .atomic s' key) :=
  ⟨rfl, by decide +kernel, next_ex (by decide +kernel), store_place (by decide +kernel), store_place (by decide +kernel), access_reaches (by decide +kernel),
    fun ⟨_, _, _, h, _⟩ => absurd h (by decide), fun ⟨_, _, h, _⟩ => absurd h (by decide)⟩
theorem witness_MisalignedAccessTraps : mapped.self = .thread 0 ∧ (1 : Word).toNat % 2 ≠ 0 ∧ (127 : Word).toNat % 128 ≠ 0 ∧
    (8 : Word).toNat % 16 ≠ 0 ∧ released mapped 0 2 = true := by decide +kernel

/-- A barrier object of phase 7 that expects 2 and has 1 arrived, at virtual address 0; g1 holds 7 and g2 holds 2. -/
def barrier7 : State := withG (writeMem mapped placeCode (toBytes 8 7 ++ toBytes 4 2 ++ toBytes 4 1)) [(1, 7), (2, 2)]
def noBarrier : State := withG (writeMem mapped placeCode (toBytes 16 0)) [(1, 7), (2, 2 ^ 32)]

theorem witness_BarrierObjectsCount : barrier7.self = .thread 0 ∧ (∃ s' key, reaches barrier7 0 (rg barrier7 0 0) 16 .atomic s' key) ∧
    released barrier7 0 2 = true ∧ (0 < (rg barrier7 0 2).toNat ∧ (rg barrier7 0 2).toNat < 2 ^ 32) ∧
    (readNat barrier7 (placeCode + 8) 4 ≠ 0 ∧ (rg barrier7 0 1).toNat = readNat barrier7 placeCode 8) ∧
    (readNat barrier7 placeCode 8 + 2 ^ 64 - (rg barrier7 0 1).toNat) % 2 ^ 64 < 2 ^ 63 ∧
    (∃ s' key, reaches noBarrier 0 (rg noBarrier 0 0) 16 .atomic s' key) ∧ (rg noBarrier 0 0).toNat = 0 ∧ 2 ^ 32 ≤ (rg noBarrier 0 2).toNat ∧
    readNat noBarrier (placeCode + 8) 4 = 0 :=
  ⟨rfl, access_reaches (by decide +kernel), by decide +kernel, by decide +kernel, by decide +kernel, by decide +kernel,
    access_reaches (by decide +kernel), by decide +kernel, by decide +kernel, by decide +kernel⟩

theorem witness_TokenFifosAndFence : State.reset.self = .thread 0 ∧ released State.reset 0 2 = true ∧
    (fifo (setFifo State.reset 0 3 (List.replicate 14 1)) 0 3).length < 15 ∧ fifo (setFifo State.reset 0 3 [9]) 0 3 = 9 :: [] ∧
    pushAhead (setFifo State.reset 0 3 (List.replicate 14 1)) 0 3 6 = false ∧ popAhead (setFifo State.reset 0 3 [9]) 0 3 6 = false ∧
    15 ≤ (fifo (setFifo State.reset 0 3 (List.replicate 15 1)) 0 3).length ∧ fifo State.reset 0 3 = [] := by decide +kernel

/-- The line of virtual address 0 is not cached. -/
def cold : State := { placeThread State.reset 0 with self := .thread 0 }


/-- A computed pair that satisfies P, taken apart. -/
theorem pair_spec {α β : Type} (x : α × β) {P : α → β → Bool} (h : P x.1 x.2 = true) : ∃ a b, x = (a, b) ∧ P a b = true :=
  ⟨x.1, x.2, rfl, h⟩

theorem witness_PrefWatchAmsg : (mapped.self = .thread 0 ∧ inWindow (rg cold 0 0 + (0 : BitVec 14).signExtend 64).toNat = false ∧
      (rg mapped 0 0).toNat % 128 = 0) ∧
    (∀ s0, threadWalk cold 0 (rg cold 0 0 + (0 : BitVec 14).signExtend 64) ≠ .wait s0) ∧ prefsBusy cold 0 < 16 ∧
    (∃ s0 w, threadWalk cold 0 (rg cold 0 0 + (0 : BitVec 14).signExtend 64) = .ready s0 w ∧ decide (s0.slices = cold.slices ∧ s0.threads = cold.threads) = true) ∧
    (∃ s1 x, translate cold (cacheCore 0) (cold.thread 0).asid (rg cold 0 0 + (0 : BitVec 14).signExtend 64).toNat .read false = (s1, x) ∧
      (match x with
       | .ok pa _ => decide (target pa = .slice (homeSlice placeCode)) &&
          permitted s1 (homeSlice placeCode) (coreMaster 0) (pa / 128 * 128) 128 .read && decide (wayOf s1 (homeSlice placeCode) (pa / 128) = none) &&
          !(s1.slice (homeSlice placeCode)).misses.any (fun m => decide (m.line = pa / 128))
       | _ => false) = true) ∧
    (∃ s' key, reaches mapped 0 (rg mapped 0 0) 8 .read s' key) ∧ ((mapped.thread 0).watching = none ∧ (mapped.thread 0).stall = none ∧
    BitVec.ofNat 64 (readNat mapped placeCode 8) ≠ rg (withG mapped [(2, 5)]) 0 2) ∧
    (∃ s' key, reaches (mapped.modThread 0 (fun t => { t with watching := some (3, 0, 2) })) 0 0 8 .read s' key) ∧
    (∃ s1 x, locate mapped 0 (mapped.thread 0).asid (rg mapped 0 0).toNat .read true = (s1, x) ∧
      (match x with
       | .ok (pa, _) => decide (target pa = .slice (homeSlice placeCode)) && !(crossMesh s1 (coreMaster 0) (homeSlice placeCode) pa).2 &&
          decide ((targetCheck (crossMesh s1 (coreMaster 0) (homeSlice placeCode) pa).1 (coreMaster 0) pa 128 .read).2 = none)
       | _ => false) = true) ∧ (∃ s0 w, threadWalk mapped 0 (rg mapped 0 0) = .ready s0 w ∧ decide (s0 = mapped) = true) ∧ released mapped 0 2 = true :=
  by
  refine ⟨by decide +kernel, ?_, by decide +kernel, acc_ready (by decide +kernel), ?_, ?_, by decide +kernel, ?_, ?_, acc_ready (by decide +kernel), by decide +kernel⟩
  · obtain ⟨s0, w, h, _⟩ := acc_ready (r := threadWalk cold 0 (rg cold 0 0 + (0 : BitVec 14).signExtend 64)) (P := fun _ _ => true) (by decide +kernel)
    intro s1 h1
    rw [h] at h1
    exact absurd h1 (by simp)
  · exact pair_spec _ (by decide +kernel)
  · exact access_reaches (by decide +kernel)
  · exact access_reaches (by decide +kernel)
  · exact pair_spec _ (by decide +kernel)

/-! ### Witnesses: traps, CSRs, commands -/

def trapped : State := State.reset.modThread 0 (fun t => { t with status := 0x81 })
def userMode : State := State.reset.modThread 0 (fun t => { t with status := 0 })
def pending1 : State := State.reset.modThread 0 (fun t => { t with run := .running, status := 8, pend := [⟨5, 6⟩] })

theorem witness_TrapEntrySavesAndEnters : inTrap State.reset 0 = false := by decide +kernel
theorem witness_TrapBkptSysret : State.reset.self = .thread 0 ∧ isPriv State.reset 0 = true ∧ isPriv userMode 0 = false := by decide +kernel
theorem witness_LaterFaultsAndSingleStep : (inTrap trapped 0 = true ∧ (trapped.thread 0).task = none) ∧
    (inTrap (trapped.modThread 0 (fun t => { t with task := some 3 })) 0 = true ∧ ((trapped.modThread 0 (fun t => { t with task := some 3 })).thread 0).task = some 3) ∧
    (pending1.self = .thread 0 ∧ (pending1.thread 0).run = .running ∧ (pending1.thread 0).status.getLsbD 3 = true ∧ (pending1.thread 0).stall = none ∧
      (pending1.thread 0).awaits = none ∧ (pending1.thread 0).pend = ⟨5, 6⟩ :: [] ∧ (pending1.thread 0).more = false) ∧
    (let u := userMode.modThread 0 (fun t => { t with stepDue := true })
     u.self = .thread 0 ∧ (u.thread 0).stepDue = true ∧ trapDue u 0 = false ∧ inTrap u 0 = false ∧ (u.thread 0).pend = [] ∧ (u.thread 0).finished = none) ∧
    (let u := userMode.modThread 0 (fun t => { t with stepDue := true, finished := some (1, 2, 0x40) })
     u.self = .thread 0 ∧ (u.thread 0).stepDue = true ∧ trapDue u 0 = false ∧ (u.thread 0).pend = [] ∧ (u.thread 0).finished = some (1, 2, 0x40)) := by decide +kernel
theorem witness_CsrReadsAndWrites : State.reset.self = .thread 0 ∧ csrListed 0x000 = true ∧ csrListed 0x031 = true ∧ isPriv State.reset 0 = true ∧
    csrPriv 0x022 0 (rg userMode 0 1) = false ∧ isPriv userMode 0 = false ∧
    csrPriv 0x010 0 (rg (withG userMode [(1, 1)]) 0 1) = true ∧ (1 : BitVec 5) ≠ 0 := by decide +kernel

/-- q0 holds METER CEIL; the KQ of core 0 holds a command that is done. -/
def ceilWord : QWord := 0x40 * 2 ^ 120 + 7 * 2 ^ 104
def withCmd : State := wq State.reset 0 0 ceilWord
def doneCmd (sig : QWord) : QCmd := { id := 0, word := ceilWord + sig * 2 ^ 112, asid := 0, ipc := 0, priv := true, phase := .done 0 }
def retiring (sig : QWord) : State := { setQueue State.reset 0 1 [doneCmd sig] with self := .queue 0 1 0 }

theorem witness_CommandsEnterAndRetireInOrder : (State.reset.self = .thread 0 ∧ (State.reset.thread 0).awaits = none ∧
      decodeCmd (rq State.reset 0 0) = .error .unassignedCommand) ∧
    (withCmd.self = .thread 0 ∧ (withCmd.thread 0).awaits = none ∧ issueFault withCmd 0 (rq withCmd 0 0) = none ∧
      (queueCmds withCmd 0 (queueOf (cmdOpcode (rq withCmd 0 0)))).length < 16 ∧
      isPrecise withCmd 0 (cmdFields (rq withCmd 0 0)) (cmdOpcode (rq withCmd 0 0)) = false) ∧
    ((retiring 0).self = .queue 0 1 0 ∧ queueCmds (retiring 0) 0 1 = doneCmd 0 :: [] ∧ (doneCmd 0).phase = .done 0 ∧ closes (cmdOpcode (doneCmd 0).word) = false ∧ ((cmdFields (doneCmd 0).word).sigEn = false ∨ (doneCmd 0).orphan = true)) ∧
    ((cmdFields (doneCmd 10).word).sigEn = true ∧ (doneCmd 10).orphan = false ∧ (fifo (retiring 10) 0 (cmdFields (doneCmd 10).word).sigF.toNat).length < 15 ∧
      pushAhead (retiring 10) 0 (cmdFields (doneCmd 10).word).sigF.toNat 1 = false ∧
      pushAhead (setQueue (retiring 10) 0 0 [doneCmd 10]) 0 (cmdFields (doneCmd 10).word).sigF.toNat 1 = true ∧
      15 ≤ (fifo (setFifo (retiring 10) 0 2 (List.replicate 15 0)) 0 (cmdFields (doneCmd 10).word).sigF.toNat).length) := by decide +kernel

/-! ### Witnesses: tasks and foremen -/

/-- A task of type 0 that runs on core 0, and another that is ready. -/
def taskA : Task := { record := 0, queue := 0, origin := 0, state := .running, prio := 0 }
def taskB : Task := { record := 0, queue := 0, origin := 0, state := .ready, prio := 0 }
def withTask (t : Task) : State :=
  cached ((State.reset.modThread 0 (fun u => { u with task := some 0, status := 8 })).modForeman 0 (fun f => f.setEntry 0 (some t))) 768
    ((List.range 8).map (fun i => saveSlot (State.reset.foreman 0) 0 + 128 * i))
/-- The foreman's save slot of pool entry 0 may be written. -/
def slotReady (s : State) : Bool := match slotReach s 0 0 .write with | .ready _ _ => true | _ => false
def withRival (t : Task) : State := (withTask t).modForeman 0 (fun f => f.setEntry 1 (some taskB))
/-- The thread of core 0 may send records to queue 0 of foreman 0. -/
def enqState : State :=
  withG (State.reset.setWindow (tgtForeman 0) (coreMaster 0) 0 { base := 0, last := 2 ^ 41 - 1, perm := 15, en := true }) [(2, 0x100), (3, 1)]
/-- Job 1 is open under ASID 0 with count 0. -/
def openJob : State := enqState.modForeman 0 (fun f => f.setJob 1 { isOpen := true })
/-- The same, with queue 0 of module 5 in g4 and port 2 leading there; module 7 has received an ENQ of job 1. -/
def routedJob : State :=
  withG ({ openJob with head := { openJob.head with routes := [(5, 4)] } }.modForeman 0 (fun f => { f with sentTo := [(1, 7)] })) [(4, 0x10050000)]

theorem witness_JobAndTaskInstructions :
    (let u := (toForeman enqState 0 (enqDest (rg enqState 0 1)).cluster).1
     enqState.self = .thread 0 ∧ (enqDest (rg enqState 0 1)).ok = true ∧
      senderOk enqState (enqDest (rg enqState 0 1)) (rq enqState 0 0) (enqState.thread 0).asid = true ∧ (enqDest (rg enqState 0 1)).remote = false ∧
      (toForeman enqState 0 (enqDest (rg enqState 0 1)).cluster).2 = false ∧
      permitted u (tgtForeman (enqDest (rg enqState 0 1)).cluster) (coreMaster 0)
        (descLine (enqDest (rg enqState 0 1)).cluster (enqDest (rg enqState 0 1)).queue) 128 .write = true ∧
      (u.foreman (enqDest (rg enqState 0 1)).cluster).full = false ∧ enqElder u 0 (enqDest (rg enqState 0 1)).cluster = false ∧ released u 0 2 = true) ∧
    (let u := (crossFrom routedJob (coreDie 0) 4 0).1
     (enqDest (rg routedJob 0 4)).ok = true ∧ (enqDest (rg routedJob 0 4)).remote = true ∧ (crossFrom routedJob (coreDie 0) 4 0).2 = false ∧
      (aditPort u (enqDest (rg routedJob 0 4)).module 0).isSome = true ∧
      senderOk routedJob (enqDest (rg routedJob 0 4)) (rq routedJob 0 0) (routedJob.thread 0).asid = true ∧
      released u 0 3 = true ∧ routedJob.resent = [] ∧ jobDenied routedJob 0 1 = false ∧ ((routedJob.foreman (jobCluster 1)).job (jobIndex 1)).isOpen = true ∧
      (1, 7) ∈ (routedJob.foreman (jobCluster 1)).sentTo) ∧
    ((enqDest 0x10).ok = false ∧ senderOk enqState (enqDest 0x100) (2 ^ 127) 0 = false) ∧
    (jobDenied openJob 0 ((rg openJob 0 1).extractLsb' 0 16) = true ∧ jobDenied openJob 0 ((rg openJob 0 3).extractLsb' 0 16) = false ∧
      ((openJob.foreman 0).job 1).isOpen = true ∧ ((openJob.foreman 0).job 1).gen = jobGen 1 ∧ ((openJob.foreman 0).job 1).count = 0 ∧
      ((enqState.foreman 0).job 1).isOpen = false) ∧
    (let b := (State.reset.modCore 0 (fun c => { c with bound := some 0 })).modForeman 0 (fun f => f.setEntry 0 (some { taskB with state := .bound }))
     isPriv b 0 = true ∧ taskB.saved = false ∧ (queueCmds b 0 0).length + taskB.cmds.length ≤ 16 ∧ (b.thread 0).task = none ∧ (b.core 0).bound = some 0 ∧ (b.foreman 0).entry 0 = some { taskB with state := .bound } ∧
      0 ≤ argVa (b.foreman 0) 0 ∧ argVa (b.foreman 0) 0 < 2 ^ 56) ∧
    ((withTask taskA).self = .thread 0 ∧ ((withTask taskA).thread 0).task = some 0 ∧ noCommands (withTask taskA) 0 = true ∧
      workLeft (withTask taskA) 0 = false ∧ released (withTask taskA) 0 (endScope (withTask taskA) 0) = true ∧
      (rg (withG (withTask taskA) [(1, 7)]) 0 1).extractLsb' 0 8 ≠ 0) ∧
    ((State.reset.thread 0).task = none ∧ isPriv State.reset 0 = true) ∧
    (taskOf (withTask taskA) 0 = some (0, taskA) ∧ hasRival (withTask taskA) 0 0 taskA = false) ∧
    (taskOf (withRival taskA) 0 = some (0, taskA) ∧ hasRival (withRival taskA) 0 0 taskA = true ∧ mayPreempt (withRival taskA) 0 = true ∧
      taskA.doomed = false ∧ released (withRival taskA) 0 2 = true ∧ slotReady (withRival taskA) = true) ∧
    (taskOf (withTask { taskA with stopping := true }) 0 = some (0, { taskA with stopping := true }) ∧
      mayPreempt (withTask { taskA with stopping := true }) 0 = true ∧ released (withTask { taskA with stopping := true }) 0 2 = true ∧
      slotReady (withTask { taskA with stopping := true }) = true) :=
  ⟨by decide +kernel, by decide +kernel, by decide +kernel, by decide +kernel, by decide +kernel, by decide +kernel, by decide +kernel,
    by decide +kernel, by decide +kernel, by decide +kernel⟩
theorem witness_JobAndTaskElsewhere :
    (let s := openJob.modForeman 0 (fun f => f.setJob 1 { isOpen := true, count := 2 })
     jobDenied s 0 ((rg s 0 3).extractLsb' 0 16) = false ∧ ((s.foreman 0).job 1).isOpen = true ∧ ((s.foreman 0).job 1).gen = jobGen 1 ∧
       ((s.foreman 0).job 1).count ≠ 0) ∧
    (let s := State.reset.modThread 0 (fun t => { t with status := 0 })
     isPriv State.reset 0 = true ∧ isPriv s 0 = false ∧ (s.thread 0).task = none ∧ (State.reset.core 0).bound = none) ∧
    (let s := setQueue ((withTask taskA).modThread 0 (fun t => { t with status := 1 })) 0 1 [doneCmd 0]
     isPriv s 0 = true ∧ (s.thread 0).task = some 0 ∧ noCommands s 0 = false) := by
  refine ⟨?_, ?_, ?_⟩ <;> decide +kernel

def foreman0 (f : Foreman → Foreman) : State := { State.reset.modForeman 0 f with self := .foreman 0 }
/-- Intake queue 2 of foreman 0 is enabled with its ring at 0x1000 of stack memory, its counters at 0x2000 and 0x2008, one record in its slot. -/
def intake2 : State :=
  { cached (writeNat (State.reset.modForeman 0 (fun f => (((f.setDesc 2 0 0x1000).setDesc 2 1 0x2000).setDesc 2 2 0x2008).setDesc 2 3 1)) 0x1000 16 0x4000) 768
    [0x1000, 0x2008] with self := .foreman 0 }

theorem witness_IntakeAndForemanMessages :
    (let s := foreman0 (fun f => { f.setEntry 3 (some { taskA with record := 2 ^ 64 }) with inbox := [.ended 3 .completed 0] })
     s.self = .foreman 0 ∧ s.resent = [] ∧ (s.foreman 0).inbox = .ended 3 .completed 0 :: [] ∧ (s.foreman 0).entry 3 = some { taskA with record := 2 ^ 64 } ∧
       taskA.origin % 4096 = s.head.moduleNo.toNat ∧ recJob (2 ^ 64) ≠ 0 ∧ 7 % 4096 ≠ s.head.moduleNo.toNat) ∧
    (let s := foreman0 (fun f => { f.setJob 1 { isOpen := true, count := 2 } with inbox := [.decrement 1 .failed 7] })
     (s.foreman 0).inbox = .decrement 1 .failed 7 :: [] ∧ ((s.foreman (jobCluster 1)).job (jobIndex 1)).isOpen = true ∧
       ((s.foreman (jobCluster 1)).job (jobIndex 1)).gen = jobGen 1 ∧ ((s.foreman (jobCluster 1)).job (jobIndex 1)).failed < 2 ^ 32 - 1) ∧
    (let s := foreman0 (fun f => { f with inbox := [.cancel 1 0] })
     s.self = .foreman 0 ∧ (s.foreman 0).inbox = .cancel 1 0 :: []) ∧
    (intake2.self = .foreman 0 ∧ (stackOrHost (ringBase (intake2.foreman 0) 2) (16 * ringRecords (intake2.foreman 0) 2) &&
       stackOrHost (tailPa (intake2.foreman 0) 2) 8 && stackOrHost (headPa (intake2.foreman 0) 2) 8) = true ∧
       (intake2.foreman 0).enabled 2 = true ∧ (intake2.foreman 0).full = false ∧ nextQueue intake2 (intake2.foreman 0) = some 2 ∧
       (match reachAll (foremanOrigin 0) [(headSlot (intake2.foreman 0) 2, 16, .read), (headSlot (intake2.foreman 0) 2, 16, .write),
           (headPa (intake2.foreman 0) 2, 8, .write)] intake2 with | .ready _ _ => true | _ => false) = true ∧
       (match reach (({ intake2 with self := .foreman 0 }.modForeman 0 (fun f => { f with reading := [2] }))) (headPa (intake2.foreman 0) 2) 8 .read
         (foremanOrigin 0) with | .ready _ _ => true | _ => false) = true) ∧
    (let s := foreman0 (fun f => f.setDesc 2 0 0x8000000000)
     stackOrHost (ringBase (s.foreman 0) 2) (16 * ringRecords (s.foreman 0) 2) = false) := by decide +kernel

/-- Two regions of one shape and parity on core 0; the thread waits in TAKE; region 0 runs a context of image 0 that may be copied. -/
def ctxClone : Ctx := { clonable := true, mode := 0x10 }
def twoRegions : State :=
  ((State.reset.modThread 0 (fun t => { t with run := .running, taking := true, stall := some { edge := true, notice := true } })).setRegion 0 0
    (some { y0 := 0, x0 := 0, y1 := 0, x1 := 0, active := some 0, ctxs := [(0, some ctxClone)] })).setRegion 0 1
    (some { y0 := 0, x0 := 2, y1 := 0, x1 := 2 })
/-- The same with a copy in region 1, a low window behind it. -/
def copied : State := modCtx { twoRegions with self := .core 0 } 0 0 0 (fun x => { x with clones := [1], lowWindows := 1 })
def readyB : State := { twoRegions.modForeman 0 (fun f => f.setEntry 0 (some taskB)) with self := .foreman 0 }
/-- The task of pool entry 0 has run for its QUANT of 1 us, and a rival is ready. -/
def quantState : State :=
  { (withRival taskA).modForeman 0 (fun f => f.setType 0 5 (2 ^ 32)) with self := .foreman 0, time := 1000 }

theorem found_spec {s : State} {d p : Nat} {x : Task} (h : (match findSpot s d p x with | .ok _ (some _) => true | _ => false) = true) :
    ∃ s' z, findSpot s d p x = .ok s' (some z) := by
  split at h
  · exact ⟨_, _, by assumption⟩
  · exact absurd h (by decide)

theorem witness_BindingQuantCloning :
    (readyB.self = .foreman 0 ∧ readyTasks readyB (readyB.foreman 0) = (0, taskB) :: []) ∧
    (∃ s' z, findSpot readyB 0 0 taskB = .ok s' (some z)) ∧
    (quantState.self = .foreman 0 ∧ (quantState.foreman 0).entry 0 = some taskA ∧ taskA.state = .running ∧ taskA.doomed = false ∧
      (quantState.foreman 0).quant (recType taskA.record) ≠ 0 ∧
      1000 * (quantState.foreman 0).quant (recType taskA.record) ≤ quantState.time - taskA.boundAt ∧ hasRival quantState 0 0 taskA = true) ∧
    (let s := { twoRegions with self := .core 0 }
     ∃ r z, s.region 0 0 = some r ∧ r.active = some 0 ∧ ctxAt s 0 0 0 = some ctxClone ∧ ctxClone.clones = [] ∧ ctxClone.mode.getLsbD 0 = false ∧
       mayClone (modCtx s 0 0 0 (fun x => { x with lowWindows := 0 })) r ctxClone = true ∧
       copyPlace (modCtx s 0 0 0 (fun x => { x with lowWindows := 0 })) 0 0 0 r ctxClone = some z) ∧
    (∃ y, ctxAt copied 0 0 0 = some y ∧ decide (y.clones ≠ [] ∧ 1 ≤ y.lowWindows) = true) :=
  ⟨by decide +kernel, found_spec (by decide +kernel), by decide +kernel,
    ⟨{ y0 := 0, x0 := 0, y1 := 0, x1 := 0, active := some 0, ctxs := [(0, some ctxClone)] }, (1, ⟨0, 2, 0, 2⟩), by decide +kernel, by decide +kernel,
      by decide +kernel, by decide +kernel, by decide +kernel, by decide +kernel, by decide +kernel⟩, some_spec (by decide +kernel)⟩

/-! ### Witnesses: fabric -/

/-- Rows 0 to 2 and columns 0 to 2 of core 0 run one context whose tile t holds the given content; the tile has the given
input tokens. -/
def fabric (y x : Nat) (tc : TileCfg) (ctx : Ctx) (toks : List (Nat × Token)) : State :=
  let c : Ctx := { ctx with tiles := Map.set {} ctx.tiles (24 * y + x) tc, segs := [{ n := 0 }], begun := true }
  let r : Region := { y0 := 0, x0 := 0, y1 := 2, x1 := 2, active := some 0, ctxs := [(0, some c)] }
  let s := [0, 1, 2, 24, 25, 26, 48, 49, 50].foldl (fun s i => s.setTile i { ctx := 0 }) (State.reset.setRegion 0 0 (some r))
  let s := s.modTile (24 * y + x) (fun t => { t with inp := toks.map (fun e => (e.1, [(e.1, e.2)])), arrivals := 4 })
  { s with self := .tile 0 y x 0 }

/-- A WORD token whose lanes are all valid. -/
def full (p : Lanes) : Token := { valid := 0xFFFF, payload := p }
/-- Compute tile (1, 1) with WORD tokens at its four inputs. -/
def words : State := fabric 1 1 {} {} [(0, full 5), (1, full 7), (2, full 9), (3, full 0x3F800000)]
def oneLane : State := fabric 1 1 {} {} [(0, { full 5 with valid := 1 }), (1, full 7), (2, full 9), (3, { full 3 with valid := 1 })]
def twoLanes : State := fabric 1 1 {} {} [(3, { full (3 + 2 ^ 33) with valid := 3 })]
def f0 : Slot := ⟨3, 0, 15, 2, 0⟩

theorem witness_ElementwiseResult : (0 : Nat) ≠ 5 ∧ (elementwise 0 [full 5] (fun l => (arg l 0, 0))).1.getLsbD 15 = true ∧
    (elementwise 0 [{ full 5 with valid := 1 }] (fun l => (arg l 0, 0))).1.getLsbD 1 = false := by decide +kernel

theorem witness_WordArithmetic : (∃ st k, Fires words st (wordTakes f0 [f0.a] (immHow (typeE f0))) k ∧ true = true) ∧
    (∃ st k, Fires words st (wordTakes f0 [f0.a, f0.b] (immHow (typeE f0))) k ∧ true = true) ∧
    (∃ st k, Fires words st (wordTakes f0 [f0.a, f0.b, thirdOf f0] (immHow (typeT f0))) k ∧ true = true) ∧ (3 ≤ 3 ∧ 7 ≤ 7) :=
  ⟨fires_spec (P := fun _ _ => true) (by decide +kernel), fires_spec (P := fun _ _ => true) (by decide +kernel),
    fires_spec (P := fun _ _ => true) (by decide +kernel), by decide⟩
theorem witness_WordBitAndLaneOps : (∃ st k, Fires words st (wordTakes f0 [f0.a] 2) k ∧ true = true) ∧
    (∃ st k, Fires words st (wordTakes f0 [f0.a, f0.b] 2) k ∧ true = true) ∧
    (∃ st k, Fires words st (wordTakes f0 [f0.a, f0.b, thirdOf f0] (immHow (typeT f0))) k ∧ true = true) :=
  ⟨fires_spec (P := fun _ _ => true) (by decide +kernel), fires_spec (P := fun _ _ => true) (by decide +kernel),
    fires_spec (P := fun _ _ => true) (by decide +kernel)⟩

def fInt : Slot := { f0 with m := 3 * 64 }
def fSr : Slot := { f0 with b := 15, m := 2 }
theorem witness_WordScaleConvertReduce :
    ((∃ st k, Fires words st (wordTakes f0 [f0.a, f0.b] (immHow (typeE f0))) k ∧ true = true) ∧ typeE f0 ≤ 2) ∧
    ((∃ st k, Fires words st (wordTakes f0 [f0.a] (immHow (f0.m.toNat / 64 % 8))) k ∧ true = true) ∧ f0.m.getLsbD 1 = false ∧
      2 * (f0.m.toNat / 16 % 4) + f0.m.toNat % 2 ≠ 5) ∧
    ((∃ st k, Fires words st (wordTakes fSr [fSr.a] (immHow (fSr.m.toNat / 64 % 8))) k ∧ true = true) ∧ fSr.m.getLsbD 1 = true) ∧
    ((∃ st k, Fires words st (wordTakes f0 [f0.a, f0.b] 0) k ∧ true = true) ∧ f0.m.getLsbD 5 = false ∧
      (∃ st k, Fires words st (wordTakes fSr [fSr.a] 0) k ∧ true = true) ∧ fSr.b = 15) ∧
    ((∃ st k, Fires words st (wordTakes fSr [fSr.a] 2) k ∧ true = true) ∧ fSr.m.getLsbD 0 = false) ∧
    ((∃ st k, Fires oneLane st (wordTakes fInt [fInt.a] (immHow (typeE fInt))) k ∧ decide ((validElems (typeE fInt) (k.opnds.getD 0 {})).length = 1) = true) ∧
      3 ≤ typeE fInt) ∧
    (∃ st k, Fires twoLanes st (wordTakes f0 [f0.a] (immHow (typeE f0))) k ∧ decide ((validElems (typeE f0) (k.opnds.getD 0 {})).length = 2) = true) :=
  ⟨⟨fires_spec (P := fun _ _ => true) (by decide +kernel), by decide⟩, ⟨fires_spec (P := fun _ _ => true) (by decide +kernel), by decide⟩,
    ⟨fires_spec (P := fun _ _ => true) (by decide +kernel), by decide⟩,
    ⟨fires_spec (P := fun _ _ => true) (by decide +kernel), by decide, fires_spec (P := fun _ _ => true) (by decide +kernel), by decide⟩,
    ⟨fires_spec (P := fun _ _ => true) (by decide +kernel), by decide⟩, ⟨fires_spec (by decide +kernel), by decide⟩, fires_spec (by decide +kernel)⟩

/-- Compute tile (1, 1) with a DIGIT token of group g on each of W and N, its slot holding the g groups before. -/
def digits (mode : BitVec 5) (f : Slot) (g : Nat) : State :=
  let t (g : Nat) : Token := digitTok { f with n := 0 } 5 0 g 0xFFFF (fun _ j => if j = 1 then 1 else 0)
  let st : SlotSt := { digit := { ga := (List.range g).map t, gb := (List.range g).map t } }
  (fabric 1 1 {} { mode := mode } [(3, t g), (0, t g)]).modTile 25 (fun x => { x with slots := [(0, st)] })

def group? (s : State) (f : Slot) (two : Bool) (dests : List Nat) (P : Site → Taken → Bool) : Bool :=
  ready? s (routeTakes f (if two then [f.a, f.b] else [f.a]) dests) (fun st k =>
    !encoding s st && decide ((tok k 0).kind = kDIGIT) && (!two || decide ((tok k 1).kind = kDIGIT)) &&
    decide (tokG (tok k 0) = (slotSt k.s st).digit.ga.length) &&
    (!two || decide (tokG (tok k 1) = (slotSt k.s st).digit.ga.length ∧ (tok k 1).tag = (tok k 0).tag)) &&
    decide ((slotSt k.s st).digit.ga.length < groupsOf f) &&
    (slotSt k.s st).digit.ga.head?.all (fun t => decide (tokE t = tokE (tok k 0) ∧ t.tag = (tok k 0).tag)) &&
    (!two || (slotSt k.s st).digit.gb.head?.all (fun t => decide (tokE t = tokE (tok k 1)))) &&
    !badDigits (tok k 0) && (!two || !badDigits (tok k 1)) && P st k)

theorem group_spec {s : State} {f : Slot} {two : Bool} {dests : List Nat} {P : Site → Taken → Bool} (h : group? s f two dests P = true) :
    ∃ st k, (∀ i : Inst, -512 ≤ i.e → i.e ≤ 511 → DigitGroup s st f two dests k i) ∧ P st k = true := by
  obtain ⟨st, k, h1, h2⟩ := ready_spec h
  simp only [Bool.and_eq_true, Bool.or_eq_true, decide_eq_true_eq, Bool.not_eq_true', Option.all_eq_true] at h2
  obtain ⟨⟨⟨⟨⟨⟨⟨⟨⟨⟨a1, a2⟩, a3⟩, a4⟩, a5⟩, a6⟩, a7⟩, a8⟩, a9⟩, a10⟩, a11⟩ := h2
  refine ⟨st, k, fun i hi1 hi2 => ⟨h1, a1, a2, ?_, a4, ?_, a6, a7, ?_, a9, ?_, hi1, hi2⟩, a11⟩
  all_goals (intro ht; simp only [ht, Bool.true_eq_false, false_or] at a3 a5 a8 a10; assumption)

/-- The exponents of the groups are 0, the context kills no digits, and group g is or is not the last. -/
def plainGroups (f : Slot) (two : Bool) (last : Bool) (st : Site) (k : Taken) : Bool :=
  decide (st.ctx.mode.getLsbD 3 = false ∧ headE (groupsA st k) = 0 ∧ headE (groupsB st two k) = 0) &&
    (if last then decide ((slotSt k.s st).digit.ga.length + 1 = groupsOf f) else decide ((slotSt k.s st).digit.ga.length + 1 < groupsOf f))

def fScl : Slot := { f0 with m := 8 }
theorem witness_DigitOpsSendGroups :
    (∃ st k, (∀ i : Inst, -512 ≤ i.e → i.e ≤ 511 → DigitGroup (digits 0 f0 0) st f0 true [15] k i) ∧ plainGroups f0 true false st k = true) ∧
    (∃ st k, (∀ i : Inst, -512 ≤ i.e → i.e ≤ 511 → DigitGroup (digits 0 f0 (groupsOf f0 - 1)) st f0 true [15] k i) ∧ plainGroups f0 true true st k = true) ∧
    (∃ st k, (∀ i : Inst, -512 ≤ i.e → i.e ≤ 511 → DigitGroup (digits 0 f0 0) st f0 false [15] k i) ∧ plainGroups f0 false false st k = true) ∧
    (∃ st k, (∀ i : Inst, -512 ≤ i.e → i.e ≤ 511 → DigitGroup (digits 0 f0 (groupsOf f0 - 1)) st f0 false [15] k i) ∧ plainGroups f0 false true st k = true) ∧
    (∃ st k, (∀ i : Inst, -512 ≤ i.e → i.e ≤ 511 → DigitGroup (digits 0 f0 0) st f0 false [15, f0.m.toNat % 4] k i) ∧ plainGroups f0 false false st k = true) ∧
    fScl.m.getLsbD 3 = true ∧ f0.m.getLsbD 3 = false :=
  ⟨group_spec (by decide +kernel), group_spec (by decide +kernel), group_spec (by decide +kernel), group_spec (by decide +kernel),
    group_spec (by decide +kernel), by decide, by decide⟩

theorem witness_DigitEncodeDecode :
    (∃ st k, Ready words st { routeTakes f0 [f0.a] [] with
        how := if f0.m.toNat / 16 % 4 = 0 then 0 else if f0.m.toNat / 16 % 4 = 3 then 2 else 1, dests := [(f0.d.toNat, groupsOf f0)] } k ∧
      (!encoding words st && k.toks.all (fun x => decide (x.kind = kWORD)) && decide ((tok k 0).kind = kWORD) && (List.range 16).all (fun i =>
        match wordVal (f0.m.toNat / 16 % 4) (lane (tok k 0).payload i) with | .fin _ _ _ => true | _ => false)) = true) ∧
    (∃ st k, Ready (digits 0 f0 0) st { routeTakes f0 [f0.a] [] with dests := [(f0.d.toNat, 1)] } k ∧
      (!encoding (digits 0 f0 0) st && decide ((tok k 0).kind = kDIGIT ∧ tokG (tok k 0) = (slotSt k.s st).digit.ga.length ∧
        (slotSt k.s st).digit.ga.length + 1 < groupsOf f0 ∧ badDigits (tok k 0) = false ∧ (slotSt k.s st).digit.ga = [])) = true) ∧
    (∃ st k, Ready (digits 0 f0 (groupsOf f0 - 1)) st { routeTakes f0 [f0.a] [] with dests := [(f0.d.toNat, 1)] } k ∧
      (!encoding (digits 0 f0 (groupsOf f0 - 1)) st && decide ((tok k 0).kind = kDIGIT ∧ tokG (tok k 0) = (slotSt k.s st).digit.ga.length ∧ (slotSt k.s st).digit.ga ≠ [] ∧
        groupsOf f0 = (slotSt k.s st).digit.ga.length + 1 ∧ badDigits (tok k 0) = false) &&
        (slotSt k.s st).digit.ga.head?.all (fun t => decide (tokE t = tokE (tok k 0) ∧ t.tag = (tok k 0).tag))) = true) :=
  ⟨ready_spec (by decide +kernel), ready_spec (by decide +kernel), ready_spec (by decide +kernel)⟩

def fMma (b : BitVec 4) (m : BitVec 9) : Slot := ⟨3, b, 15, 2, m⟩
def mTakes (acc how : Nat) (srcs : List (BitVec 4)) : Takes := { srcs, how, acc, dests := [(15, 1)], next := 2 }
/-- Tile (1, 1) is a systolic tile whose slot 0 is an MMA of W without B. -/
def systolic : State := fabric 1 1 { ops := [(0, 0x30#7 ++ 3#4 ++ 15#4 ++ 15#4 ++ 2#4 ++ 0#9)], cfg := 2 } {} [(3, full 5)]

/-- The same with a systolic rectangle that goes on to the east. -/
def systolicEast : State := fabric 1 1 { ops := [(0, 0x30#7 ++ 3#4 ++ 15#4 ++ 15#4 ++ 2#4 ++ 0#9)], cfg := 2 } { sys := some (0, 0, 2, 3) } [(3, full 5)]

theorem witness_MatrixOps :
    (∃ st k, Fires words st (mTakes 0 0 (mmaSrcs (fMma 15 0))) k ∧
      (compatible 0 (k.s.tile st.key).wf && (mmasGroups (fMma 15 0) (tok k 0)).isSome) = true) ∧
    (∃ st k, Fires words st (mTakes 0 0 (mmaSrcs (fMma 0 (2 * 64)))) k ∧ (!compatible 2 (k.s.tile st.key).wf) = true) ∧
    (∃ st k, Fires (fabric 1 1 {} {} [(3, full (7 * 2 ^ 400))]) st (mTakes 0 0 (mmaSrcs (fMma 15 0))) k ∧ (mmasGroups (fMma 15 0) (tok k 0)).isNone = true) ∧
    (∃ st k, Fires words st (mTakes 0 0 [3]) k ∧ (decide ((tok k 0).valid &&& 0xF = 0xF ∧ (slotSt k.s st).ptr = 0)) = true) ∧
    (∃ st k, Fires words st (mTakes 0 0 [3, 0]) k ∧ (decide ((slotSt k.s st).ptr < 16 ∧ (tok k 0).valid = 0xFFFF ∧ (tok k 1).valid = 0xFFFF)) = true) ∧
    (∃ st k, Fires words st (mTakes 0 2 [3]) k ∧ true = true) ∧ (∃ st k, Fires words st (mTakes 0 0 []) k ∧ true = true) ∧
    (∃ st k, Fires systolic st (mTakes 0 0 (mmaSrcs (fMma 15 0))) k ∧ (decide (st.n = 0 ∧ slotFields (slotWord st 0) = fMma 15 0 ∧
      isSystolic st = true ∧ forwardsEast st = false) && compatible 0 (k.s.tile st.key).wf) = true) ∧
    (∃ st k, Fires systolicEast st { srcs := mmaSrcs (fMma 15 0), dests := [(15, 1), (1, 1)], next := 2 } k ∧ (decide (st.n = 0 ∧
      slotFields (slotWord st 0) = fMma 15 0 ∧ isSystolic st = true ∧ forwardsEast st = true) && compatible 0 (k.s.tile st.key).wf) = true) ∧
    (∃ st k, Fires words st { srcs := [3, 0], dests := [(15, 1)], next := 2 } k ∧ (decide ((slotSt k.s st).posA = 0 ∧ (slotSt k.s st).posB = 0 ∧
      (tok k 0).valid &&& 3 = 3 ∧ (tok k 1).valid &&& 3 = 3)) = true) ∧
    (∃ st k, Fires (words.modTile 25 (fun t => { t with slots := [(0, { posA := 1, posB := 1 })] })) st { srcs := [3, 0], dests := [(15, 1)], next := 2 } k ∧
      (decide ((slotSt k.s st).posA ≠ 0 ∧ (slotSt k.s st).posA = (slotSt k.s st).posB ∧ (slotSt k.s st).bad = false)) = true) ∧
    (∃ st k, Fires (words.modTile 25 (fun t => { t with slots := [(0, { posA := 1 })] })) st { srcs := [3, 0], dests := [(15, 1)], next := 2 } k ∧
      (decide ((slotSt k.s st).posA ≠ (slotSt k.s st).posB)) = true) ∧
    (∃ st k, Fires words st { srcs := [3, 0], how := 2, dests := [(15, 1)], next := 2 } k ∧ true = true) :=
  ⟨fires_spec (by decide +kernel), fires_spec (by decide +kernel), fires_spec (by decide +kernel), fires_spec (by decide +kernel),
    fires_spec (by decide +kernel), fires_spec (P := fun _ _ => true) (by decide +kernel), fires_spec (P := fun _ _ => true) (by decide +kernel),
    fires_spec (by decide +kernel), fires_spec (by decide +kernel), fires_spec (by decide +kernel), fires_spec (by decide +kernel),
    fires_spec (by decide +kernel), fires_spec (P := fun _ _ => true) (by decide +kernel)⟩

/-! ### Witnesses: routing, tile stores, tile events -/

/-- A routing op is ready at its slot, and P holds of what it takes. -/
def Routes (s : State) (f : Slot) (srcs : List (BitVec 4)) (dests : List Nat) (P : Site → Token → Token → Bool) : Prop :=
  ∃ st k, Ready s st (routeTakes f srcs dests) k ∧ P st (tok k 0) (tok k 1) = true
def routes? (s : State) (f : Slot) (srcs : List (BitVec 4)) (dests : List Nat) (P : Site → Token → Token → Bool) : Bool :=
  ready? s (routeTakes f srcs dests) (fun st k => P st (tok k 0) (tok k 1))
theorem routes_spec {s : State} {f : Slot} {srcs : List (BitVec 4)} {dests : List Nat} {P : Site → Token → Token → Bool}
    (h : routes? s f srcs dests P = true) : Routes s f srcs dests P := ready_spec h

/-- Tile (1, 1) of a context with a frame tile (1, 2) that holds 4 frames, and two invocations at most. -/
def framed (toks : List (Nat × Token)) : State :=
  fabric 1 1 {} { tiles := [(26, { cfg := 2 ^ 21 + 3 * 2 ^ 19 + 4 * 2 ^ 13 })], cage := 2, tags := [(0, 9)] } toks
def fE (m : BitVec 9) : Slot := ⟨3, 0, 1, 2, m⟩
def slotted (v : SlotSt) (s : State) : State := s.modTile 25 (fun x => { x with slots := [(0, v)] })
def nulls : State := fabric 1 1 {} {} [(3, { kind := kNULL })]

theorem witness_RoutingOps :
    Routes words (fE 0) [3] [1] (fun _ A _ => decide (A.kind ≠ kDIGIT)) ∧
    Routes (slotted { passTag := some 5 } (digits 0 f0 0)) (fE 0) [3] [1] (fun _ A _ => decide (A.kind = kDIGIT ∧ A.tag = 5)) ∧
    Routes (digits 0 f0 0) (fE 0) [3] [1] (fun _ A _ => decide (A.kind = kDIGIT)) ∧
    Routes words (fE 2) [3] [1, 2] (fun _ A _ => decide (A.kind ≠ kDIGIT)) ∧ (fE 2).m.getLsbD 8 = false ∧
    Routes words (fE 256) [3, 0] [1, 0] (fun _ _ B => decide (B.kind ≠ kDIGIT)) ∧ (fE 256).m.getLsbD 8 = true ∧
    Routes words (fE 0) [3, 0] [1] (fun _ A B => decide (A.tag = B.tag)) ∧
    Routes (fabric 1 1 {} {} [(3, { full 1 with tag := 3 }), (0, full 7)]) (fE 1) [3, 0] [1] (fun _ A B => decide (A.tag ≠ B.tag)) ∧
    Routes (framed [(3, full 3)]) (fE 0) [3] [1] (fun st A _ => decide (freeTag st.ctx = some 1 ∧ A.kind ≠ kNULL)) ∧
    Routes words (fE 1) [3] [1] (fun _ A _ => decide (A.kind = kWORD ∧ A.valid.getLsbD 0 = true ∧ lane A.payload 0 ≠ 0)) ∧
    Routes nulls (fE 0) [3] [1] (fun _ A _ => decide (A.kind = kNULL)) ∧
    Routes (slotted { second := true } words) (fE 2) [3] [2] (fun _ _ _ => true) ∧
    Routes words (fE 2) [3] [1] (fun st _ _ => !(slotSt words st).second) ∧
    Routes words (fE 0) [BitVec.ofNat 4 0] [1] (fun st _ _ => decide (firstOf words st (fE 0) = some 0)) ∧
    Routes (slotted { inSeg := some 3 } words) (fE 1) [BitVec.ofNat 4 3] [1] (fun st _ _ =>
      decide ((slotSt (slotted { inSeg := some 3 } words) st).inSeg = some 3)) ∧
    (∃ st k, Fires words st { srcs := [3], how := 2, dests := [(1, 1)], next := 2 } k ∧ true = true) := by
  refine ⟨?_, ?_, ?_, ?_, by decide, ?_, by decide, ?_, ?_, ?_, ?_, ?_, ?_, ?_, ?_, ?_, fires_spec (P := fun _ _ => true) (by decide +kernel)⟩ <;>
    exact routes_spec (by decide +kernel)

/-- DIGIT tokens on W and N; and a load whose cage has no room for another tag. -/
def digitToks : State := fabric 1 1 {} {} [(3, { kind := kDIGIT }), (0, { kind := kDIGIT })]
def untagged : State := fabric 1 1 {} { cage := 1, tags := [(0, 9)] } [(3, full 3)]
theorem witness_RoutingOpsElsewhere :
    Routes digitToks (fE 2) [3] [1, 2] (fun _ A _ => decide (A.kind = kDIGIT)) ∧ (fE 2).m.getLsbD 8 = false ∧
    Routes digitToks (fE 256) [3, 0] [1, 0] (fun _ _ B => decide (B.kind = kDIGIT)) ∧
    Routes (fabric 1 1 {} {} [(3, { full 1 with tag := 3 }), (0, full 7)]) (fE 0) [3, 0] [1] (fun _ A B => decide (A.tag ≠ B.tag)) ∧
    Routes (framed [(3, full 3)]) (fE 0) [3] [1] (fun st A _ => !allocAhead (framed [(3, full 3)]) st && decide (A.kind ≠ kNULL)) ∧
    Routes (framed [(3, { kind := kNULL })]) (fE 0) [3] [1] (fun st A _ => (freeTag st.ctx).isSome &&
      !allocAhead (framed [(3, { kind := kNULL })]) st && decide (A.kind = kNULL)) ∧
    Routes untagged (fE 0) [3] [1] (fun st _ _ => (freeTag st.ctx).isNone) ∧
    Routes (fabric 1 1 {} {} [(3, { full 1 with valid := 2 })]) (fE 1) [3] [1] (fun _ A _ => decide (A.kind = kWORD) && !A.valid.getLsbD 0) ∧
    Routes (fabric 1 1 {} {} [(3, full 0)]) (fE 0) [3] [1] (fun _ A _ => decide (A.kind = kWORD ∧ lane A.payload 0 = 0)) ∧
    Routes words (fE 1) [3] [1] (fun st _ _ => (slotSt words st).inSeg.isNone && (firstOf words st (fE 1)).isSome) := by
  refine ⟨?_, by decide, ?_, ?_, ?_, ?_, ?_, ?_, ?_, ?_⟩ <;> exact routes_spec (by decide +kernel)

/-- Memory tile (1, 2) is a tile store of one buffer of 1 KiB, of which the full ones number full; a WORD token waits on W,
and the address 64 on N. -/
def store (full' : Nat) : State :=
  (fabric 1 2 { cfg := 2 ^ 21 + 2 ^ 27 } {} [(3, full (7 * 2 ^ 32)), (0, full 64)]).modTile 26 (fun t => { t with ranges := [(0, { nw := full', fills := if full' = 0 then [] else [(0, full')] })] })

theorem witness_TileStoreOps :
    Routes (store 1) ⟨3, 0, 0, 2, 1⟩ [3] [0] (fun st A _ => decide (A.kind = kWORD ∧ A.valid.getLsbD 0 = true ∧ (rangeOf (store 1) st.key st.c).rp % 64 = 0 ∧
      (rangeOf (store 1) st.key st.c).rp < bufSize st.cfg.cfg ∧ readFull st.cfg.cfg (rangeOf (store 1) st.key st.c) = true ∧
      (lane A.payload 0).toNat % 2 ^ 15 < bufSize st.cfg.cfg ∧ (lane A.payload 0).toNat % 64 = 0) &&
      !poisoned (store 1) (bufferAt st 0 0) 64) ∧
    Routes (store 0) ⟨3, 15, 0, 2, 0⟩ [3] [0] (fun st A _ => decide (A.kind = kWORD ∧ (rangeOf (store 0) st.key st.c).wp < bufSize st.cfg.cfg ∧
      (rangeOf (store 0) st.key st.c).wp % 64 = 0 ∧ writeEmpty st.cfg.cfg (rangeOf (store 0) st.key st.c) = true)) ∧
    Routes (store 1) ⟨3, 0, 0, 2, 0⟩ [3, 0] [0] (fun st A B => decide (A.kind = kWORD ∧ B.kind = kWORD ∧ B.valid.getLsbD 0 = true ∧
      (lane B.payload 0).toNat % 2 ^ 15 = 64 ∧ 64 < bufSize st.cfg.cfg ∧ readFull st.cfg.cfg (rangeOf (store 1) st.key st.c) = true) &&
      !poisoned (store 1) (bufferAt st 0 64) 64) ∧
    Routes (store 0) ⟨3, 0, 0, 2, 0⟩ [3, 0] [0] (fun st A B => decide (A.kind = kWORD ∧ B.kind = kWORD ∧ B.valid.getLsbD 0 = true ∧
      (lane B.payload 0).toNat % 2 ^ 15 = 64 ∧ 64 < bufSize st.cfg.cfg ∧ writeEmpty st.cfg.cfg (rangeOf (store 0) st.key st.c) = true)) ∧
    Routes (store 1) ⟨3, 15, 0, 2, 0⟩ [3] [0] (fun st A _ => decide (A.kind = kWORD ∧ (rangeOf (store 1) st.key st.c).rp % 64 = 0 ∧
      (rangeOf (store 1) st.key st.c).rp < bufSize st.cfg.cfg ∧ readFull st.cfg.cfg (rangeOf (store 1) st.key st.c) = true) &&
      !poisoned (store 1) (bufferAt st 0 0) 64) :=
  ⟨routes_spec (by decide +kernel), routes_spec (by decide +kernel), routes_spec (by decide +kernel), routes_spec (by decide +kernel),
    routes_spec (by decide +kernel)⟩

/-- The tile store of `store` with other tokens on W and N. -/
def storeOf (full' : Nat) (a b : Token) : State :=
  (store full').modTile 26 (fun t => { t with inp := [(3, [(3, a)]), (0, [(0, b)])] })
def rd0 (s : State) (st : Site) : Bool := readFull st.cfg.cfg (rangeOf s st.key st.c)
def wr0 (s : State) (st : Site) : Bool := writeEmpty st.cfg.cfg (rangeOf s st.key st.c)
def poisonAll (s : State) : State := { s with poison := (List.range 8).foldl (fun p i => Map.set false p (tileMem 0 1 2 (1024 + 8 * i) / 8) true) s.poison }

theorem witness_TileStoreFaults :
    (let s := storeOf 1 (full 3) (full 3)
     Routes s ⟨3, 0, 0, 2, 0⟩ [3] [0] (fun st A _ => rd0 s st && decide (A.kind = kWORD ∧ (lane A.payload 0).toNat % 2 ^ 15 % 64 ≠ 0)) ∧
     Routes s ⟨3, 0, 0, 2, 0⟩ [3, 0] [0] (fun st A B => rd0 s st && decide (A.kind = kWORD ∧ B.kind = kWORD ∧ (lane B.payload 0).toNat % 2 ^ 15 % 64 ≠ 0))) ∧
    (let s := storeOf 1 { full 0 with valid := 2 } { full 0 with valid := 2 }
     Routes s ⟨3, 0, 0, 2, 0⟩ [3, 0] [0] (fun st A B => rd0 s st && decide (A.kind = kWORD ∧ B.kind = kWORD) && !A.valid.getLsbD 0 && !B.valid.getLsbD 0)) ∧
    (let s := storeOf 1 { kind := kNULL } (full 0)
     Routes s ⟨3, 0, 0, 2, 0⟩ [3, 0] [0] (fun st A B => rd0 s st && decide (A.kind = kNULL ∧ B.kind ≠ kDIGIT))) ∧
    (let s := storeOf 0 { kind := kDIGIT } (full 0)
     Routes s ⟨3, 0, 0, 2, 0⟩ [3, 0] [0] (fun st A _ => wr0 s st && decide (A.kind = kDIGIT) && !rd0 s st)) ∧
    (let s := storeOf 1 { kind := kDIGIT } (full 0)
     Routes s ⟨3, 0, 0, 2, 0⟩ [3] [0] (fun st A _ => rd0 s st && decide (A.kind = kDIGIT) && !wr0 s st)) ∧
    (let s := poisonAll (storeOf 1 (full 0) (full 0))
     Routes s ⟨3, 0, 0, 2, 0⟩ [3, 0] [0] (fun st A B => rd0 s st && decide (A.kind = kWORD ∧ B.kind = kWORD ∧ (lane B.payload 0).toNat = 0) && poisoned s (bufferAt st 0 0) 64)) :=
  ⟨⟨routes_spec (by decide +kernel), routes_spec (by decide +kernel)⟩, routes_spec (by decide +kernel), routes_spec (by decide +kernel),
    routes_spec (by decide +kernel), routes_spec (by decide +kernel), routes_spec (by decide +kernel)⟩

/-- It is the turn of tile (y, x) of core 0, and P holds of its site. -/
def At (s : State) (P : Site → Bool) : Prop := ∃ st, s.self = .tile st.k st.y st.x st.n ∧ siteOf s st.k st.y st.x st.n = some st ∧
  linksUp s st = true ∧ P st = true
def at? (s : State) (P : Site → Bool) : Bool :=
  match s.self with
  | .tile k y x n => (match siteOf s k y x n with
    | some st => decide (st.k = k ∧ st.y = y ∧ st.x = x ∧ st.n = n) && linksUp s st && P st
    | none => false)
  | _ => false
theorem at_spec {s : State} {P : Site → Bool} (h : at? s P = true) : At s P := by
  unfold at? at h
  split at h
  · rename_i k y x n h1
    split at h
    · rename_i st h2
      simp only [Bool.and_eq_true, decide_eq_true_eq] at h
      obtain ⟨⟨⟨rfl, rfl, rfl, rfl⟩, hl⟩, h⟩ := h
      exact ⟨st, h1, h2, hl, h⟩
    · exact absurd h (by decide)
  · exact absurd h (by decide)

/-- The slot 0 of tile (1, 1) takes W alone, adds an immediate and sends E; an SBARTOK waits. -/
def barred : State := fabric 1 1 { ops := [(0, 0x02#7 ++ 3#4 ++ 15#4 ++ 1#4 ++ 5#4 ++ 0#9)] } {} [(3, { kind := kSBARTOK })]
def fifoTile : State :=
  (fabric 1 2 { cfg := 2 ^ 21 + 2 ^ 19 + 4 * 2 ^ 10 } {} []).modTile 26 (fun t => { t with ranges := [(0, { fifo := [(3, full 1), (0, full 2)] })] })
def lineTile : State := fabric 1 2 { cfg := 2 ^ 21 + 2 ^ 20 + 2 * 2 ^ 16 + 8 * 2 ^ 4, ops := [(0, 0x40#7 ++ 3#4 ++ 15#4 ++ 0#4 ++ 5#4 ++ 0#9)] } {} [(3, full 1)]
def frameTile : State := fabric 1 2 { cfg := 2 ^ 21 + 3 * 2 ^ 19 + 4 * 2 ^ 13 } {} [(3, { full 7 with frame := 15 })]
/-- The consumer (0, 2) of the frame tile (1, 2) has a node at slot 1 with frame operands 2 and 3; operand 2 of tag 1 is to go. -/
def sendTile : State :=
  (fabric 1 2 { cfg := 2 ^ 21 + 3 * 2 ^ 19 + 4 * 2 ^ 13 } { tiles := [(2, { ops := [(1, 0x40#7 ++ 12#4 ++ 15#4 ++ 1#4 ++ 2#4 ++ 2#4 ++ 2#2 ++ 0#3)] })] } []).modTile 26
    (fun t => { t with ranges := [(0, { frames := [(1, { present := 12 })], sending := some (1, 1, 0) })] })
def passTile (d : Nat) : State := fabric 1 0 {} { sys := some (0, 0, 2, 2) } [(d, full 1)]
def kill : Token := { kind := kKILL, tag := 5, payload := 3 }
def killTile : State := (passTile 3).modTile 24 (fun t => { t with kill := [(1, [kill])] })
/-- Slot 0 of tile (1, 1) is a digit op that sends E and holds a group of chain 5; a KILL has come from E. -/
def killDigits : State :=
  (fabric 1 1 { ops := [(0, 0x30#7 ++ 3#4 ++ 15#4 ++ 1#4 ++ 5#4 ++ 0#9)] } {} []).modTile 25 (fun t => { t with
    kill := [(1, [kill])]
    slots := [(0, { digit := { ga := [{ kind := kDIGIT, tag := 5 }] } })] })

theorem witness_TileEvents :
    At barred (fun st => decide ((barred.tile st.key).outbox = [] ∧ isFrames st = false ∧ isSystolic st = false ∧ slotInputs (slotWord st st.n) = [3]) &&
      decide (controlHead barred st 3 = some { kind := kSBARTOK }) && decide (opOf (slotWord st st.n) = 2 ∧ isDigitOp (opOf (slotWord st st.n)) = false) &&
      (controlDirs st (slotSt barred st) (slotWord st st.n) kSBARTOK).all (fun e => decide (1 ≤ credits barred st.k st.y st.x e))) ∧
    At fifoTile (fun st => isFifo st && decide ((rangeOf fifoTile st.key st.c).fifo = [(3, full 1), (0, full 2)] ∧ (rangeOf fifoTile st.key st.c).out = []) &&
      (fromElastic fifoTile st 3).isNone) ∧
    At lineTile (fun st => isLineBuffer st && decide (plainHead lineTile st 3 = some (full 1) ∧
      st.cfg.cfg.toNat / 2 ^ 16 % 8 = 2 ∧ (rangeOf lineTile st.key st.c).lines = [] ∧ 0 < st.cfg.cfg.toNat / 2 ^ 4 % 2 ^ 12) &&
      hasRoom lineTile st ((slotWord st 0).toNat / 2 ^ 13 % 16) 2 && (decodeSlot (slotWord st 0)).toBool) ∧
    At frameTile (fun st => isFrames st && decide (plainHead frameTile st 3 = some { full 7 with frame := 15 } ∧
      0 < poolSize st.ctx ∧ frameHome st.ctx 0 = some st.t) && !(Map.get {} (rangeOf frameTile st.key st.c).frames 0).present.getLsbD 15) ∧
    At sendTile (fun st => isFrames st && !poisoned sendTile (frameAt st 1 2) 64 && decide (neighbour st.y st.x (consumerDir st.cfg.cfg) = some (0, 2) ∧
      (rangeOf sendTile st.key st.c).sending = some (1, 1, 0) ∧ (nodesOf st).find? (fun m => decide (m.1 = 1)) = some (1, 2, 2) ∧
      ((sendTile.tile (tileKey st.k 0 2)).fch.filter (fun e => decide (e.dir = opposite (consumerDir st.cfg.cfg)))).length < 4)) ∧
    At (passTile 3) (fun st => isMemTile st.y st.x && inRect st st.y st.x && decide (plainHead (passTile 3) st 3 = some (full 1) ∧
      1 ≤ credits (passTile 3) st.k st.y st.x 1)) ∧
    At (passTile 0) (fun st => isMemTile st.y st.x && inRect st st.y st.x && decide (plainHead (passTile 0) st 3 = none ∧
      plainHead (passTile 0) st 0 = some (full 1) ∧ 1 ≤ credits (passTile 0) st.k st.y st.x 2)) ∧
    At killTile (fun st => isMemTile st.y st.x && inRect st st.y st.x && (takeKill killTile st 1).any (fun e => decide (e.1 = kill))) ∧
    At killDigits (fun st => (takeKill killDigits st 1).any (fun e => decide (e.1 = kill)) && decide (killedSlots killDigits st 1 5 = [0]) &&
      !st.ctx.mode.getLsbD 3 && (slotSt killDigits { st with n := 0 }).digit.isChain 5) :=
  ⟨at_spec (by decide +kernel), at_spec (by decide +kernel), at_spec (by decide +kernel), at_spec (by decide +kernel), at_spec (by decide +kernel),
    at_spec (by decide +kernel), at_spec (by decide +kernel), at_spec (by decide +kernel), at_spec (by decide +kernel)⟩

/-- Slot 0 of tile (1, 1) adds W and N and sends E; control tokens wait at both. -/
def barredTwo (a b : BitVec 4) : State :=
  fabric 1 1 { ops := [(0, 0x02#7 ++ 3#4 ++ 0#4 ++ 1#4 ++ 5#4 ++ 0#9)] } {} [(3, { kind := a }), (0, { kind := b })]
/-- The two heads of such a tile, none of which waits behind a token to be sent. -/
def twoHeads (s : State) (st : Site) (a b : BitVec 4) : Bool :=
  decide ((s.tile st.key).outbox = [] ∧ isFrames st = false ∧ isSystolic st = false ∧ slotInputs (slotWord st st.n) = [3, 0] ∧
    controlHead s st 3 = some { kind := a } ∧ controlHead s st 0 = some { kind := b } ∧ isDigitOp (opOf (slotWord st st.n)) = false)
def frameWith (t : Token) (present : BitVec 16) : State :=
  (fabric 1 2 { cfg := 2 ^ 21 + 3 * 2 ^ 19 + 4 * 2 ^ 13 } {} [(3, t)]).modTile 26 (fun x => { x with ranges := [(0, { frames := [(0, { present })] })] })
theorem witness_TileEventsElsewhere :
    At (barredTwo kSBARTOK kORDER) (fun st => twoHeads (barredTwo kSBARTOK kORDER) st kSBARTOK kORDER) ∧
    At (barredTwo kMARK kMARK) (fun st => twoHeads (barredTwo kMARK kMARK) st kMARK kMARK &&
      (controlDirs st (slotSt (barredTwo kMARK kMARK) st) (slotWord st st.n) kMARK).all (fun e => decide (1 ≤ credits (barredTwo kMARK kMARK) st.k st.y st.x e))) ∧
    At (frameWith { full 7 with frame := 16 } 0) (fun st => isFrames st && decide (plainHead (frameWith { full 7 with frame := 16 } 0) st 3 = some { full 7 with frame := 16 })) ∧
    At (frameWith { full 7 with tag := 9 } 0) (fun st => isFrames st && decide (plainHead (frameWith { full 7 with tag := 9 } 0) st 3 = some { full 7 with tag := 9 } ∧ poolSize st.ctx ≤ 9)) ∧
    At (frameWith (full 7) 1) (fun st => isFrames st && decide (plainHead (frameWith (full 7) 1) st 3 = some (full 7) ∧ 0 < poolSize st.ctx ∧
      frameHome st.ctx 0 = some st.t) && (Map.get {} (rangeOf (frameWith (full 7) 1) st.key st.c).frames 0).present.getLsbD 0) :=
  ⟨at_spec (by decide +kernel), at_spec (by decide +kernel), at_spec (by decide +kernel), at_spec (by decide +kernel), at_spec (by decide +kernel)⟩

/-! ### Witnesses: streams -/

/-- Command c is at place 0 of queue q of core 0, of which it is the turn. -/
def Goes (s : State) (i : Instr) (P : QCmd → Bool) : Prop := ∃ k q pos c, Leaves s i k q pos c ∧ (decide (k = 0) && P c) = true
theorem goes_spec {s : State} {i : Instr} {P : QCmd → Bool} (h : leaves? s i (fun c => decide (s.self matches .queue 0 _ _) && P c) = true) :
    Goes s i P := by
  obtain ⟨k, q, pos, c, h1, h2⟩ := leaves_spec h
  simp only [Bool.and_eq_true, decide_eq_true_eq] at h2
  refine ⟨k, q, pos, c, h1, ?_⟩
  have := h1.turn
  rw [this] at h2
  rcases k with _ | k
  · simpa using h2.2
  · simp at h2
def Runs (s : State) (i : Instr) (P : QCmd → Bool) : Prop := ∃ k q pos c, Begun s i k q pos c ∧ (decide (k = 0) && P c) = true
theorem runs_spec {s : State} {i : Instr} {P : QCmd → Bool} (h : begun? s i (fun c => decide (s.self matches .queue 0 _ _) && P c) = true) :
    Runs s i P := by
  obtain ⟨k, q, pos, c, h1, h2⟩ := begun_spec h
  simp only [Bool.and_eq_true, decide_eq_true_eq] at h2
  refine ⟨k, q, pos, c, h1, ?_⟩
  have := h1.turn
  rw [this] at h2
  rcases k with _ | k
  · simpa using h2.2
  · simp at h2

/-- The word of a command with the given opcode, stream, binding, flags and operands. -/
def cw (op sid bind flags ops : Nat) : QWord := BitVec.ofNat 128 (op * 2 ^ 120 + sid * 2 ^ 107 + bind * 2 ^ 104 + flags * 2 ^ 96 + ops)
/-- The command stands alone in its queue of core 0. -/
def queued (s : State) (w : QWord) (ph : Phase := .queued) (pr : Nat := 0) (b : BitVec 512 := 0) (parts : List (Nat × Nat × List Byte) := [])
    (puts : List (Nat × Nat) := []) : State :=
  let c : QCmd := { id := 7, word := w, asid := 0, ipc := 0, priv := true, phase := ph, progress := pr, block := b, parts, puts }
  { setQueue s 0 (queueOf (cmdOpcode w)) [c] with self := .queue 0 (queueOf (cmdOpcode w)) 0 }

/-- A region of core 0 with streams 0 and 1 and one context, the active one, whose edge records let both enter and leave. -/
def ctxEdges : Ctx :=
  { edges := [⟨0, 3, 0⟩, ⟨1, 3, 0⟩], ranges := [⟨4096, 64, 1, some 0, none⟩], m := 8, cage := 2, begun := true, mode := 1 }
def oneRegion (x : Ctx) : Region := { y0 := 0, x0 := 0, y1 := 2, x1 := 2, active := some 0, ctxs := [(0, some x)] }
def streams (x : Ctx) : State :=
  [0, 1, 2, 24, 25, 26, 48, 49, 50].foldl (fun s i => s.setTile i { ctx := 0 }) (mapped.setRegion 0 0 (some (oneRegion x)))

def gotOk {α : Type} (g : Got α) : Bool := match g with | .ok _ _ => true | _ => false
theorem gotOk_spec {α : Type} {g : Got α} (h : gotOk g = true) : ∃ u b, g = .ok u b := by
  cases g with
  | ok u b => exact ⟨u, b, rfl⟩
  | wait => simp [gotOk] at h
  | fault => simp [gotOk] at h

/-- The six kinds of program: opcode, flags, constructor and kind. -/
def kinds : List (Nat × Nat × (Cmd → Instr) × ProgKind) :=
  [(1, 0, .sload, .load), (1, 1, .sloadPush, .push), (2, 0, .sstore, .store), (3, 0, .sgather, .gather), (4, 0, .sscatter, .scatter),
   (5, 0, .kvadmit, .kvadmit)]
def kindWord (e : Nat × Nat × (Cmd → Instr) × ProgKind) (sid : Nat) : QWord := cw e.1 sid 0 e.2.1 0
def kindState (e : Nat × Nat × (Cmd → Instr) × ProgKind) (sid : Nat) (ph : Phase) (pr : Nat) : State :=
  queued (streams ctxEdges) (kindWord e sid) ph pr 0 [(0, 0, List.replicate 64 0)]

theorem witness_StreamProgramsRun : ∀ e ∈ kinds,
    (let s := kindState e 0 .queued 0
     Goes s (e.2.2.1 (cmdFields (kindWord e 0))) (fun c => programCheck (released1 s 0 c) 0 (leftQueue s 0 c) (isEntryKind e.2.2.2) &&
       tileRoom (released1 s 0 c) 0 0 && !((released1 s 0 c).port 0).shut && !programsAway (released1 s 0 c) 0 0 (leftQueue s 0 c))) ∧
    (let s := kindState e 2 .queued 0
     let s := s.setRegion 0 0 (some { oneRegion ctxEdges with x1 := 4 })
     Goes s (e.2.2.1 (cmdFields (kindWord e 2))) (fun c => !programCheck (released1 s 0 c) 0 (leftQueue s 0 c) (isEntryKind e.2.2.2) && !((released1 s 0 c).port 0).shut && !programsAway (released1 s 0 c) 0 0 (leftQueue s 0 c))) ∧
    (let s := kindState e 0 .started 0
     Runs s (e.2.2.1 (cmdFields (kindWord e 0))) (fun c => decide (c.progress = 0 ∧ (s.port (portKey 0 0)).prog = none ∧
       (s.port (portKey 0 0)).redo = [] ∧ (s.port (portKey 0 0)).shut = false) && !programsAway s 0 0 c && firstAtTile s 0 0 c.id && !heldByEarlier s 0 0 c.id &&
       gotOk (blockPart (openPort s 0 0 c (isEntryKind e.2.2.2)) 0 c (streamEng 0)))) ∧
    (let s := kindState e 0 .started 2
     Runs s (e.2.2.1 (cmdFields (kindWord e 0))) (fun c => decide (c.progress = 2 ∧ s.egress = [] ∧ (s.port (portKey 0 0)).lines = [] ∧ (s.port (portKey 0 0)).hold = []))) := by
  intro e he
  simp only [kinds, List.mem_cons, List.not_mem_nil, or_false] at he
  rcases he with rfl | rfl | rfl | rfl | rfl | rfl <;>
    exact ⟨goes_spec (by decide +kernel), goes_spec (by decide +kernel), runs_spec (by decide +kernel), runs_spec (by decide +kernel)⟩

def openAs (p : Port) (s : State) : State := s.setPort 0 p
/-- An SSTORE of stream 1 that has nothing left stands before the SOWN. -/
def ownState : State := queued (streams ctxEdges) (cw 8 0 0 0 4096)

theorem witness_StreamControlCommands :
    (let s := queued (streams ctxEdges) (cw 6 0 0 0 0)
     Goes s (.sclose (cmdFields (cw 6 0 0 0 0))) (fun c => !programsAway (released1 s 0 c) 0 0 (leftQueue s 0 c) && !((released1 s 0 c).port 0).isOpen)) ∧
    (let s := openAs { isOpen := true, bind := 7 } (queued (streams ctxEdges) (cw 6 0 0 0 0))
     Goes s (.sclose (cmdFields (cw 6 0 0 0 0))) (fun c => !programsAway (released1 s 0 c) 0 0 (leftQueue s 0 c) && ((released1 s 0 c).port 0).isOpen && !((released1 s 0 c).port 0).shut && decide (((released1 s 0 c).port 0).bind ≠ 0))) ∧
    (let s := openAs { isOpen := true } (queued (streams ctxEdges) (cw 6 0 0 0 0) .started)
     Runs s (.sclose (cmdFields (cw 6 0 0 0 0))) (fun c => !programsAway s 0 0 c && (s.port 0).isOpen && !(s.port 0).shut && (s.port 0).prog.isNone && (s.port 0).redo.isEmpty && programsOver s 0 0 c.id && !streamBusy s 0 0 && !(s.port 0).entry)) ∧
    (let s := openAs { isOpen := true, entry := true } (queued (streams ctxEdges) (cw 6 0 0 0 0) .started)
     Runs s (.sclose (cmdFields (cw 6 0 0 0 0))) (fun c => !programsAway s 0 0 c && (s.port 0).isOpen && !(s.port 0).shut && (s.port 0).prog.isNone && (s.port 0).redo.isEmpty && programsOver s 0 0 c.id && !streamBusy s 0 0 && (s.port 0).entry &&
       decide ((s.port 0).bind < 4 ∧ s.regionOfStream 0 0 = some 0))) ∧
    (let s := queued (streams ctxEdges) (cw 9 0 7 0 1)
     Goes s (.sseg (cmdFields (cw 9 0 7 0 1))) (fun c => !programsAway (released1 s 0 c) 0 0 (leftQueue s 0 c) && !((released1 s 0 c).port 0).isOpen)) ∧
    (let s := openAs { isOpen := true } (queued (streams ctxEdges) (cw 9 0 7 0 0))
     Goes s (.sseg (cmdFields (cw 9 0 7 0 0))) (fun c => !programsAway (released1 s 0 c) 0 0 (leftQueue s 0 c) && ((released1 s 0 c).port 0).isOpen && !((released1 s 0 c).port 0).shut && decide ((cmdFields (cw 9 0 7 0 0)).ops.toNat % 2 ^ 32 = 0))) ∧
    (let s := openAs { isOpen := true, entry := true, segNo := 1 } (queued (streams ctxEdges) (cw 9 0 7 0 1) .started)
     Runs s (.sseg (cmdFields (cw 9 0 7 0 1))) (fun c => !programsAway s 0 0 c && decide (1 ≤ segsComplete s 0 0))) ∧
    (let s := openAs { isOpen := true, entry := true } (queued (streams ctxEdges) (cw 9 0 7 0 1) .started)
     Runs s (.sseg (cmdFields (cw 9 0 7 0 1))) (fun c => !programsAway s 0 0 c && decide (segsComplete s 0 0 < 1) && (s.port 0).isOpen && !(s.port 0).shut)) ∧
    (let s := openAs { entry := true } (queued (streams ctxEdges) (cw 9 0 7 0 1) .started)
     Runs s (.sseg (cmdFields (cw 9 0 7 0 1))) (fun c => !programsAway s 0 0 c && decide (segsComplete s 0 0 < 1) && !(s.port 0).isOpen)) ∧
    Goes (queued (streams ctxEdges) (cw 7 0 7 0 0)) (.sbar (cmdFields (cw 7 0 7 0 0))) (fun _ => true) ∧
    Goes (queued (streams ctxEdges) (cw 7 0 7 2 3)) (.sbar (cmdFields (cw 7 0 7 2 3))) (fun _ => true) ∧
    (let s := queued (streams ctxEdges) (cw 8 1 0 0 4096)
     Goes s (.sown (cmdFields (cw 8 1 0 0 4096))) (fun c => decide ((released1 s 0 c).regionOfStream 0 1 = some 0 ∧
       ownedAt (released1 s 0 c) 0 0 0 4096 = some ⟨4096, 64, 1, some 0, none⟩))) ∧
    Goes ownState (.sown (cmdFields (cw 8 0 0 0 4096))) (fun c => decide ((released1 ownState 0 c).regionOfStream 0 0 = some 0 ∧
      ownedAt (released1 ownState 0 c) 0 0 0 4096 = some ⟨4096, 64, 1, some 0, none⟩)) ∧
    (let s := queued (streams ctxEdges) (cw 8 0 0 0 4096) .started 2
     Runs s (.sown (cmdFields (cw 8 0 0 0 4096))) (fun c => decide (s.regionOfStream 0 0 = some 0 ∧ c.progress = 1 + 1 ∧
      ownedAt s 0 0 0 4096 = some ⟨4096, 64, 1, some 0, none⟩ ∧ sqBefore s 0 c.id = [] ∧ (s.port 1).lines = [] ∧ (s.port 1).hold = [] ∧
      (s.port 0).lines = []))) ∧
    (let s := queued (streams { ctxEdges with ranges := [⟨4096, 64, 1, none, none⟩] }) (cw 8 0 0 0 4096)
     Goes s (.sown (cmdFields (cw 8 0 0 0 4096))) (fun c => decide (ownedAt (released1 s 0 c) 0 0 0 4096 = some ⟨4096, 64, 1, none, none⟩))) :=
  ⟨goes_spec (by decide +kernel), goes_spec (by decide +kernel), runs_spec (by decide +kernel), runs_spec (by decide +kernel),
    goes_spec (by decide +kernel), goes_spec (by decide +kernel), runs_spec (by decide +kernel), runs_spec (by decide +kernel),
    runs_spec (by decide +kernel), goes_spec (by decide +kernel), goes_spec (by decide +kernel), goes_spec (by decide +kernel),
    goes_spec (by decide +kernel), runs_spec (by decide +kernel), goes_spec (by decide +kernel)⟩

/-- An SLOAD of 16 elements of 4 bytes from virtual address 0, in one segment; pos is reached, in the segment or before it. -/
def loadBlk16 : BitVec 512 := BitVec.ofNat 512 (14 * 2 ^ 320 + 16 * 2 ^ 64 + 4 * 2 ^ 96 + 2 ^ 128 + 2 ^ 192 + 2 ^ 256)
def prog16 (kind : ProgKind) (inSeg : Bool) (pos : Nat) : Prog :=
  { kind, cmdId := 7, asid := 0, bind := 0, ipc := 0, block := loadBlk16, inSeg := inSeg, pos := pos, marks := if inSeg then [(0, 0, 0)] else [] }
def agTurn (x : Ctx) (p : Port) : State := { (streams x).setPort 0 p with self := .ag 0 0 }
def entryPort (inSeg : Bool) (pos : Nat) : Port := { isOpen := true, entry := true, prog := some (prog16 .load inSeg pos) }
def exitPort (inSeg : Bool) (t : Token) : Port := { isOpen := true, prog := some (prog16 .store inSeg 0), inp := [t] }

/-- Stream 0 of core 0 emits: its program, its edge record, room and tokens. -/
def emits? (s : State) (P : Prog → AgSite → Bool) : Bool :=
  decide (s.self = .ag 0 0) && (s.port 0).entry && (closeIfDue s 0 0).isNone && decide (resend s 0 0 = s) && decide (agRoom s 0 0 ≠ 0) && (meterTake s 0 0).isSome && !linkDown s (linkOfAg (portKey 0 0)) &&
  (match (s.port 0).prog, progSite s 0 0 with | some g, some a => (a.ctx.edge 0).isSome && !g.sbDue && P g a | _, _ => false)
def absorbs? (s : State) (P : Prog → AgSite → Token → Bool) : Bool :=
  decide (s.self = .ag 0 0) && !(s.port 0).entry && (closeIfDue s 0 0).isNone && decide (resend s 0 0 = s) && decide ((s.port 0).hold = []) && (scatterDone (s.port 0)).isNone &&
  !portHeld s (s.port 0) && (match (s.port 0).prog, agSiteOf s 0 0, (s.port 0).inp with | some g, some a, t :: _ => P g a t | _, _, _ => false)
/-- The bucket of stream 0's meter holds one token. -/
def metered (s : State) : State := s.modCore 0 (fun c => c.setMeter 0 { c.meter 0 with b := 1300 })
def lineReq (seg : Nat) : LineReq := { va := 0, pa := placeCode, cells := [some 1], seg, cmdId := 7, asid := 0, ipc := 0 }

theorem witness_StreamTileEvents :
    emits? (metered (agTurn ctxEdges (entryPort false 0))) (fun g a => !g.inSeg && maySot (metered (agTurn ctxEdges (entryPort false 0))) a) = true ∧
    (let s := metered (agTurn { ctxEdges with cage := 0 } (entryPort false 0))
     emits? s (fun g a => !g.inSeg && !maySot s a) = true) ∧
    emits? (metered (agTurn ctxEdges (entryPort true 16))) (fun g _ => g.inSeg && decide (g.elems ≤ g.pos)) = true ∧
    (∀ have_ : Bool, let s := metered (agTurn ctxEdges { isOpen := true, entry := true, prog := some { prog16 .load true 0 with
         fetched := if have_ then (List.range 16).map (fun i => (i, [1, 0, 0, 0])) else [] } })
     emits? s (fun g a => g.inSeg && decide (g.pos < g.elems ∧ g.kind = .load ∧ g.toks < a.ctx.m) && !g.seam &&
       (g.unitsAt (g.segsDone * g.elems + g.pos) (Nat.min (64 / g.esize) (g.elems - g.pos))).isSome == have_) = true) ∧
    (∀ t : Token, t ∈ [{ kind := kRECONF }, { kind := kMARK }, { kind := kORDER }, { kind := kSBARTOK }, { kind := kEOT }, full 1, { kind := kNULL }, { kind := kSOT }] →
      absorbs? (agTurn ctxEdges (exitPort true t)) (fun g _ u => g.inSeg && decide (u = t)) = true) ∧
    (∀ t : Token, t ∈ [{ kind := kSOT }, { kind := kEOT }, full 1, { kind := kNULL }] →
      absorbs? (agTurn ctxEdges (exitPort false t)) (fun g _ u => !g.inSeg && decide (g.segsDone < g.segTotal ∧ u = t)) = true) ∧
    (let s := agTurn { ctxEdges with mode := 0 } { isOpen := true, lines := [lineReq 0, lineReq 1] }
     (s.port 0).lines = [lineReq 0, lineReq 1] ∧ (agSiteOf s 0 0).isSome = true ∧ replayAt s 0 0 = true ∧
       (lineReq 0).due = false ∧ (lineReq 1).due = false) ∧
    ((agTurn ctxEdges { arriving := [5] }).port 0).arriving = 5 :: [] := by
  refine ⟨by decide +kernel, by decide +kernel, by decide +kernel, fun b => ?_, ?_, ?_, by decide +kernel, by decide +kernel⟩
  · cases b <;> decide +kernel
  · intro t ht
    simp only [List.mem_cons, List.not_mem_nil, or_false] at ht
    rcases ht with rfl | rfl | rfl | rfl | rfl | rfl | rfl | rfl <;> decide +kernel
  · intro t ht
    simp only [List.mem_cons, List.not_mem_nil, or_false] at ht
    rcases ht with rfl | rfl | rfl | rfl <;> decide +kernel

/-- A store of the thread of core 0 to a physical address; `f` says how far it has come. -/
def onWay (pa : Nat) (self : Who) (f : Req → Req := id) : State :=
  { mapped with self, egress := [f { id := 3, core := 0, sid := none, cmdId := none, asid := 0, va := 0, pa, cells := [some 5], pc := 0 }] }
def accReady (a : Acc) : Bool := match a with | .ready _ _ => true | _ => false
def accFault (a : Acc) : Bool := match a with | .fault _ _ => true | _ => false
def plainOrigin : Origin := { okind := 0, master := coreMaster 0, asid := 0, va := 0, full := false }
def barrier1 (id : Option Nat) : Barrier := { id := 4, core := 0, mask := 2, reached := 0, scope := 0, cmdId := id, key := 0, order := false }

/-- The one request on its way satisfies P. -/
def reqAt (s : State) (i : Nat) (P : Req → Bool) : Bool := (s.egress[i]?).any P
/-- A line of die 2, whose requests from die 0 cross an edge. -/
def farPa : Nat := 4 * 2 ^ 36

theorem witness_RequestsAndBarriers :
    (let s := onWay placeCode (.slice (homeSlice placeCode)) (fun r => { r with left := false })
     reqAt s 0 (fun r => decide (reqHome s r = homeSlice placeCode ∧ r.outcome = none ∧ r.left = false) && !olderStore s 0 r) = true) ∧
    (let s := onWay farPa (.slice (homeSlice farPa))
     reqAt s 0 (fun r => decide (reqHome s r = homeSlice farPa ∧ homeSlice farPa < 256 ∧ r.outcome = none ∧ r.left = true ∧
       r.hops < (reqEdges r.core (homeSlice farPa)).length) && !heldBack s 0 r) = true) ∧
    (let s := onWay placeCode (.slice (homeSlice placeCode))
     reqAt s 0 (fun r => decide (reqHome s r = homeSlice placeCode ∧ homeSlice placeCode < 256 ∧ r.outcome = none ∧ r.sid = none ∧ r.left = true ∧
       (reqEdges r.core (homeSlice placeCode)).length ≤ r.hops) && !heldBack s 0 r && accReady (reachHome s r.pa r.cells.length .write plainOrigin)) = true) ∧
    (let s := onWay 0 (.slice 0)
     reqAt s 0 (fun r => decide (reqHome s r = 0 ∧ r.outcome = none ∧ (reqEdges r.core 0).length ≤ r.hops) && !heldBack s 0 r &&
       accFault (reachHome s r.pa r.cells.length .write plainOrigin)) = true) ∧
    (let s := { onWay 0 (.slice 0) with egress := (onWay 0 (.slice 0)).egress ++ (onWay 0 (.slice 0)).egress }
     reqAt s 1 (fun r => decide (reqHome s r = 0 ∧ r.outcome = none ∧ r.left = true) && heldBack s 1 r) = true) ∧
    (let s := onWay farPa (.core 0) (fun r => { r with outcome := some 0 })
     reqAt s 0 (fun r => decide (r.outcome = some 0 ∧ r.back < (meshEdges (homeDie (reqHome s r)) (coreDie r.core)).length)) = true) ∧
    (∀ c ∈ [0, 7], let s := onWay 0 (.core 0) (fun r => { r with outcome := some c })
     reqAt s 0 (fun r => decide (r.outcome = some c ∧ r.core = 0 ∧ r.sid = none ∧ (meshEdges (homeDie (reqHome s r)) (coreDie r.core)).length ≤ r.back)) = true) ∧
    (∀ id ∈ [none, some 7], let s := { State.reset with self := .core 0, barriers := [barrier1 id] }
      s.self = .core 0 ∧ s.barriers.find? (fun b => decide (b.id = 4 ∧ b.core = 0)) = some (barrier1 id) ∧ barrierComplete s (barrier1 id) = true ∧ (barrier1 id).cmdId = id) ∧
    (let s := ({ State.reset with self := .stack 0 } : State).modBaseDie 0 (fun b => { b with iseQueue := [(0, 0)] })
     s.self = .stack 0 ∧ Map.get none (s.baseDie 0).ise 15 = none ∧ (s.baseDie 0).iseQueue = (0, 0) :: []) := by
  refine ⟨by decide +kernel, by decide +kernel, by decide +kernel, by decide +kernel, by decide +kernel, by decide +kernel, by decide +kernel, ?_, by decide +kernel⟩
  intro id hid
  simp only [List.mem_cons, List.not_mem_nil, or_false] at hid
  rcases hid with rfl | rfl <;> decide +kernel

/-! ### Witnesses: METER, contexts, regions -/

def allOf : Window := { base := 0, last := 2 ^ 41 - 1, perm := 15, en := true }
/-- Core 0, its stack's engines and the collective engine may reach every line of the mapped page. -/
def openAll (s : State) : State :=
  { s with tcaches := s.tcaches ++ [(cacheBase 0, [⟨0, 0, placeCode / 65536, 0x7D⟩])], access := (List.range 64).flatMap (fun i => [(4096 * i, some allOf), (4096 * i + 3104, some allOf), (4096 * i + 3136, some allOf)]) ++
      [(4096 * tgtBase 0, some allOf)] }
def allMapped : State := openAll mapped

def up : Nat := 4 * 18 + 128 * 550
theorem witness_MeterCommands :
    Goes (queued mapped (cw 0x40 31 7 0 16)) (.meterCeil (cmdFields (cw 0x40 31 7 0 16))) (fun _ => true) ∧
    Goes (queued mapped (cw 0x40 0 7 1 16)) (.meterCeilall (cmdFields (cw 0x40 0 7 1 16))) (fun _ => true) ∧
    (let s := queued mapped (cw 0x40 0 7 2 (up + 3))
     Goes s (.meterPoint (cmdFields (cw 0x40 0 7 2 (up + 3)))) (fun c => !vfExists ((released1 s 0 c).core 0) 3)) ∧
    (let s := queued mapped (cw 0x40 0 7 2 up)
     Goes s (.meterPoint (cmdFields (cw 0x40 0 7 2 up))) (fun c => vfExists ((released1 s 0 c).core 0) 0 &&
       decide (18 ≤ 24 ∧ 550 % 10 = 0 ∧ vmin (400 + 50 * 18) ≤ 550 ∧ 550 ≤ 750 ∧ (((released1 s 0 c).core 0).vfRegion 0).fstep ≤ 18))) ∧
    (let s := queued mapped (cw 0x40 0 7 2 (128 * 750))
     Goes s (.meterPoint (cmdFields (cw 0x40 0 7 2 (128 * 750)))) (fun c => vfExists ((released1 s 0 c).core 0) 0 &&
       decide (750 % 10 = 0 ∧ vmin (400 + 50 * 0) ≤ 750 ∧ 0 < (((released1 s 0 c).core 0).vfRegion 0).fstep))) ∧
    (let s := queued (streams ctxEdges) (cw 0x40 0 7 3 5)
     Goes s (.meterCut (cmdFields (cw 0x40 0 7 3 5))) (fun c => residentIn (released1 s 0 c) 0 0 0)) ∧
    (let s := queued mapped (cw 0x40 0 7 3 5)
     Goes s (.meterCut (cmdFields (cw 0x40 0 7 3 5))) (fun c => (List.range 4).all (fun a => (List.range 4).all (fun b =>
       !residentIn (released1 s 0 c) 0 a b)))) ∧
    (let s := ({ State.reset with self := .core 0 } : State).modCore 0 (fun c => c.setVf 0 { c.vfRegion 0 with slew := some (7, 18, 550) })
     s.self = .core 0 ∧ ((s.core 0).vfRegion 0).slew = some (7, 18, 550)) :=
  ⟨goes_spec (by decide +kernel), goes_spec (by decide +kernel), goes_spec (by decide +kernel), goes_spec (by decide +kernel),
    goes_spec (by decide +kernel), goes_spec (by decide +kernel), goes_spec (by decide +kernel), by decide +kernel⟩

/-- The bytes of the smallest image: a header for one compute tile, M = 1, no sections. -/
def tinyImage : List Byte :=
  toBytes 4 0x49574C43 ++ toBytes 2 1 ++ toBytes 6 0 ++ toBytes 4 1 ++ toBytes 12 0 ++ toBytes 4 128 ++ toBytes 96 0
/-- A CLOAD block for the image at 128: rectangle of tile (0, 0), CAGE as given. -/
def loadBytes (cage : Nat) : List Byte := toBytes 8 128 ++ toBytes 5 0 ++ toBytes 1 cage ++ toBytes 50 0
/-- What a CLOAD of that block has read once it has read everything. -/
def loadParts (cage : Nat) : List (Nat × Nat × List Byte) := [(0, 0, loadBytes cage), (1, 0, tinyImage)]
/-- The block at virtual address 0 and the image behind it. -/
def withImage (cage : Nat) (s : State) : State :=
  (writeMem s placeCode (loadBytes cage ++ toBytes 64 0 ++ tinyImage)).setWindow (homeSlice (placeCode + 128))
    (coreMaster 0) 0 { base := 0, last := 2 ^ 41 - 1, perm := 15, en := true }
def oneTile (active : Option Nat) (x : Ctx) : Region := { y0 := 0, x0 := 0, y1 := 0, x1 := 0, active := active, ctxs := [(0, some x)] }
def tileRegion (active : Option Nat) (x : Ctx) : State := mapped.setRegion 0 0 (some (oneTile active x))

/-- The block and image of a CLOAD are read; P holds of what the loader makes of them, with the region it went into. -/
def cloads? (s : State) (c : QCmd) (slot : Nat) (P : Option Region → Bool) : Bool :=
  match blockPart (released1 s 0 c) 0 (leftQueue s 0 c) (loaderEng 0) with
  | .ok u1 b => loadBlkOk b (loadBlk b c.given) && decide (copiesInWay u1 0 (unpackRect (loadBlk b c.given).rect) = []) &&
    (match readImage u1 0 (leftQueue s 0 c) (loadBlk b c.given).image with
    | .ok u2 image => (match pagesRead c.asid (if (loadBlk b c.given).mode % 2 = 1 then areaPages (unpackRect (loadBlk b c.given).rect) 1 (loadBlk b c.given).save else []) u2 with
      | .ready u2 _ => (match loadImage u2 0 slot (unpackRect (loadBlk b c.given).rect) c.asid image (loadBlk b c.given) c.word (loadTask u2 0 (leftQueue s 0 c)) with
        | some (i, t) => (t.region 0 i).isSome && P (t.region 0 i)
        | none => P none)
      | _ => false)
    | _ => false)
  | _ => false
/-- One piece of a read is left, and it may be read. -/
def onePieceLeft (s : State) (k : Nat) (q : QCmd) (e : Eng) (i : Nat) (ranges : List (Nat × Nat)) : Bool :=
  match (numbered ranges).filter (fun p => (q.piece i p.2).isNone) with
  | [x] => gotOk (engReach s e q.asid x.1.1 x.1.2 .read)
  | _ => false
theorem onePieceLeft_waits {s k q e i ranges} (h : onePieceLeft s k q e i ranges = true) : ∃ u, readPart s k q e i ranges = .wait u := by
  unfold onePieceLeft at h
  split at h
  · rename_i x hx
    obtain ⟨u, key, h⟩ := gotOk_spec h
    exact ⟨modCmd u k q.id (fun c => { c with parts := c.parts ++ [(i, x.2, readMem u key x.1.2)] }), by
      simp only [readPart, hx, List.length_singleton, Nat.mod_one, ite_self, List.getElem?_cons_zero, h]⟩
  · exact absurd h (by decide)
theorem image_waits {s k q va} (h : onePieceLeft s k q (loaderEng k) 1 [(va, 128)] = true) : ∃ u, readImage s k q va = .wait u := by
  obtain ⟨u, h⟩ := onePieceLeft_waits h
  exact ⟨u, by simp only [readImage, h]⟩
/-- The image of a CLOAD is not read yet (`image_waits`). -/
def loadWaits? (s : State) (c : QCmd) : Bool :=
  match blockPart (released1 s 0 c) 0 (leftQueue s 0 c) (loaderEng 0) with
  | .ok u1 b => loadBlkOk b (loadBlk b c.given) && decide (copiesInWay u1 0 (unpackRect (loadBlk b c.given).rect) = []) &&
    onePieceLeft u1 0 (leftQueue s 0 c) (loaderEng 0) 1 [((loadBlk b c.given).image, 128)]
  | _ => false

def frozenCtx : Ctx := { ctxEdges with frozen := true }

/-- The context of the tile (1, 1) stands frozen in slot 0, and its area, whose header is the given one, at virtual address 0. -/
def savedTile : Region := { y0 := 1, x0 := 1, y1 := 1, x1 := 1, ctxs := [(0, some { frozen := true })] }
def savedHeader : List Byte := areaHeader 128 (Rect.pack ⟨1, 1, 1, 1⟩) 0 1 0 false 0 0
/-- CRESTORE into slot 0, rectangle (1, 1), area at 0. -/
def restoreWord : QWord := cw 0x14 0 0 0 (Rect.pack ⟨1, 1, 1, 1⟩ * 2 ^ 56)
/-- The lines of the area: its header, and zeros. -/
def savedLines (n : Nat) : List (Nat × List Byte) :=
  (List.range n).map (fun i => (i, if i = 0 then savedHeader ++ List.replicate 96 0 else List.replicate 128 0))
def savedArea (n : Nat) : SaveArea :=
  { ctx := {}, y0 := 1, x0 := 1, y1 := 1, x1 := 1, core := 0, tiles := [], ports := [], flags := 0, mem := [], bad := [], lines := savedLines n }
def savedState (g : Option Region) (n : Nat) (ph : Phase) (pr : Nat) (puts : List (Nat × Nat)) (parts : List (Nat × Nat × List Byte))
    (w : QWord := restoreWord) : State :=
  let s := queued (writeMem ((mapped.setRegion 0 0 g).setWindow (homeSlice placeCode) 0 0
    { base := 0, last := 2 ^ 41 - 1, perm := 15, en := true }) placeCode savedHeader) w ph pr 0 parts puts
  { s with saves := [(placeCode, some (savedArea n))] }
def headerPart : List (Nat × Nat × List Byte) := [(0, 0, (savedHeader ++ toBytes 64 0).take 64)]
/-- The image and the area have been read too. -/
def imagePart : List (Nat × Nat × List Byte) := (1, 0, tinyImage) :: headerPart
def areaPart (n : Nat) : List (Nat × Nat × List Byte) := (savedLines n).map (fun e => (3, e.1, e.2))

/-- The header is read; P holds of the state, the header and the rectangle. -/
def restores? (s : State) (c : QCmd) (P : State → AreaHdr → Rect → Bool) : Bool :=
  let rc := unpackRect ((cmdFields c.word).ops.toNat / 2 ^ 56 % 2 ^ 18)
  match readPart (released1 s 0 c) 0 (leftQueue s 0 c) (loaderEng 0) 0 [((cmdFields c.word).ops.toNat % 2 ^ 56, 64)] with
  | .ok u bytes => P u (areaHdr bytes) rc
  | _ => false
/-- Its checks pass, and the byte of its flags may be written; RESUMED stands there or not. -/
def restoreChecks (c : QCmd) (resumed : Bool) (u : State) (h : AreaHdr) (rc : Rect) : Bool :=
  restoreOk u 0 0 c rc 0 h (regionWith u 0 rc) && decide (copiesInWay u 0 rc = []) &&
  (match engReach u (loaderEng 0) c.asid 14 1 .write with
   | .ok u2 key => (readByte u2 key).getLsbD 3 == resumed && (areaState u2 c.asid 0).isSome | _ => false)
/-- The context in the slot is the one of the area, or is loaded anew. -/
def restoreInPlace? (c : QCmd) (u : State) (_ : AreaHdr) (rc : Rect) : Bool :=
  decide (regionWith u 0 rc = some 0) && restoreInPlace u 0 0 0 c.asid 0
def restoreAnew (c : QCmd) (u : State) (h : AreaHdr) (rc : Rect) : Bool :=
  decide (regionWith u 0 rc = none) && (areaState u c.asid 0).any (fun a =>
    match reload u 0 c 0 rc h (a.2.ctx.clones.length + 1) 0 with | .ok _ (some _) => true | _ => false)
/-- The area is read; its bytes are the ones written, or not. -/
def scansBack (s : State) (c : QCmd) (same : Bool) : Bool :=
  let rc := unpackRect ((cmdFields c.word).ops.toNat / 2 ^ 56 % 2 ^ 18)
  decide (regionWith s 0 rc = some 0) && (areaState s c.asid 0).any (fun a =>
    match readPart s 0 c (loaderEng 0) 3 [(0, areaSize rc (a.2.ctx.clones.length + 1))] with
    | .ok u bytes => areaSame a.2 bytes == same && copiesFit u 0 0 0 a.2
    | _ => false)

def loads (g : State) (cage slot : Nat) (parts : List (Nat × Nat × List Byte)) : State :=
  queued (withImage cage g) (cw 0x10 0 slot 0 0) .queued 0 0 parts
def loadInstr (slot : Nat) : Instr := .cload (cmdFields (cw 0x10 0 slot 0 0))
/-- The region and the context that a context command names. -/
def named (s : State) (g : Region) (x : Ctx) : Bool := decide (s.region 0 0 = some g ∧ ctxAt s 0 0 0 = some x)
def running0 : Ctx := { ctxEdges with edges := [] }

theorem witness_ContextCommands :
    (let s := loads mapped 1 0 (loadParts 1)
     Goes s (loadInstr 0) (fun c => cloads? s c 0 (fun g => g.any (fun g => g.active.isNone && g.switching.isNone)))) ∧
    (let s := loads (tileRegion (some 0) {}) 1 1 (loadParts 1)
     Goes s (loadInstr 1) (fun c => cloads? s c 1 (fun g => g.any (fun g => g.active.isSome)))) ∧
    (let s := loads (tileRegion (some 0) {}) 1 0 (loadParts 1)
     Goes s (loadInstr 0) (fun c => cloads? s c 0 (fun g => g.isNone))) ∧
    (let s := loads (allMapped.setWay (homeSlice (placeCode + 128)) (homeSet (placeCode + 128)) 0 (some { line := placeCode / 128 + 1 })) 1 0 [(0, 0, loadBytes 1)]
     Goes s (loadInstr 0) (fun c => loadWaits? s c)) ∧
    (let s := loads mapped 0 0 (loadParts 0)
     Goes s (loadInstr 0) (fun c => match blockPart (released1 s 0 c) 0 (leftQueue s 0 c) (loaderEng 0) with
       | .ok _ b => !loadBlkOk b (loadBlk b c.given) | _ => false)) ∧
    (∀ e ∈ [(none, frozenCtx), (some 0, ctxEdges), (none, ctxEdges), (some 1, ctxEdges)],
      let s := queued (tileRegion e.1 e.2) (cw 0x11 0 0 0 0)
      Goes s (.cswitch (cmdFields (cw 0x11 0 0 0 0))) (fun c => named (released1 s 0 c) (oneTile e.1 e.2) e.2 &&
        decide ((oneTile e.1 e.2).stopped = none ∧ copiesInWay (released1 s 0 c) 0 (oneTile e.1 e.2).rect = []))) ∧
    (∀ e ∈ [(none, frozenCtx), (none, ctxEdges)],
      let s := queued (tileRegion e.1 e.2) (cw 0x12 0 0 0 0)
      Goes s (.cretire (cmdFields (cw 0x12 0 0 0 0))) (fun c => named (released1 s 0 c) (oneTile e.1 e.2) e.2 &&
        decide ((oneTile e.1 e.2).switching = none ∧ (oneTile e.1 e.2).stopped = none ∧ boundPorts (setPhase (released1 s 0 c) 0 c.id .started) 0 0 0 = []))) ∧
    (let s := (queued (streams ctxEdges) (cw 0x12 0 0 0 0)).setRegion 0 0 (some { oneRegion ctxEdges with active := none })
     let s := s.setPort 0 { isOpen := true, bind := 0, lines := [lineReq 0] }
     Goes s (.cretire (cmdFields (cw 0x12 0 0 0 0))) (fun c => named (released1 s 0 c) { oneRegion ctxEdges with active := none } ctxEdges &&
       !(closeBound (setPhase (released1 s 0 c) 0 c.id .started) 0 0 0).2)) ∧
    (let s := queued (tileRegion (some 0) running0) (cw 0x12 0 0 0 0)
     Goes s (.cretire (cmdFields (cw 0x12 0 0 0 0))) (fun c =>
       let held := setPhase ((released1 s 0 c).setRegion 0 0 (some { oneTile (some 0) running0 with pendCmd := some c.id })) 0 c.id .started
       named (released1 s 0 c) (oneTile (some 0) running0) running0 && atBoundary held 0 0 && drained held 0 0 0 && decide (boundPorts held 0 0 0 = []))) ∧
    (∀ e ∈ [(none, ctxEdges), (some 0, ctxEdges)],
      let s := queued (walked (tileRegion e.1 e.2)) (cw 0x13 0 0 0 0)
      Goes s (.csave (cmdFields (cw 0x13 0 0 0 0))) (fun c => named (released1 s 0 c) (oneTile e.1 e.2) e.2 &&
        (match pagesRead c.asid (areaPages (oneTile e.1 e.2).rect 1 0) (released1 s 0 c) with
         | .ready u _ => areaOk u c.asid (oneTile e.1 e.2).rect 1 0 && decide (u.region 0 0 = some (oneTile e.1 e.2)) | _ => false))) ∧
    (let s := queued (walked (tileRegion (some 0) ctxEdges)) (cw 0x13 0 0 0 64)
     Goes s (.csave (cmdFields (cw 0x13 0 0 0 64))) (fun c => named (released1 s 0 c) (oneTile (some 0) ctxEdges) ctxEdges &&
       (match pagesRead c.asid (areaPages (oneTile (some 0) ctxEdges).rect 1 64) (released1 s 0 c) with
        | .ready u _ => !areaOk u c.asid (oneTile (some 0) ctxEdges).rect 1 64 && decide (u.region 0 0 = some (oneTile (some 0) ctxEdges)) | _ => false))) ∧
    (∀ mode : BitVec 5, mode ∈ [1, 0] → let x : Ctx := { running0 with mode }
      let s := queued (tileRegion (some 0) x) (cw 0x13 0 0 0 0) .started
      Runs s (.csave (cmdFields (cw 0x13 0 0 0 0))) (fun _ => named s (oneTile (some 0) x) x && atBoundary s 0 0 &&
        (List.range 32).all (fun n => decide (s.regionOfStream 0 n ≠ some 0) || !streamBusy s 0 n))) := by
  refine ⟨goes_spec (by decide +kernel), goes_spec (by decide +kernel), goes_spec (by decide +kernel), goes_spec (by decide +kernel),
    goes_spec (by decide +kernel), ?_, ?_, goes_spec (by decide +kernel), goes_spec (by decide +kernel), ?_, goes_spec (by decide +kernel), ?_⟩
  · intro e he
    simp only [List.mem_cons, List.not_mem_nil, or_false] at he
    rcases he with rfl | rfl | rfl | rfl <;> exact goes_spec (by decide +kernel)
  · intro e he
    simp only [List.mem_cons, List.not_mem_nil, or_false] at he
    rcases he with rfl | rfl <;> exact goes_spec (by decide +kernel)
  · intro e he
    simp only [List.mem_cons, List.not_mem_nil, or_false] at he
    rcases he with rfl | rfl <;> exact goes_spec (by decide +kernel)
  · intro e he
    simp only [List.mem_cons, List.not_mem_nil, or_false] at he
    rcases he with rfl | rfl <;> exact runs_spec (by decide +kernel)

/-- The states of a CRESTORE: queued with RESUMED in its area or not, with a context in its slot that is not the area's, with RESUMED
written and its context in place or to be loaded anew, waiting, and scanning in an area whose bytes are the ones written or not. -/
def restore0 (resumed : Bool) : State :=
  let s := savedState (some savedTile) 72 .queued 0 [] headerPart
  if resumed then writeMem s (placeCode + 14) [8] else s
def restore1 : State := savedState (some { savedTile with ctxs := [(0, some {})] }) 72 .queued 0 [] headerPart
def restore2 : State := savedState (some savedTile) 72 .queued 0 [(9, 0)] headerPart
/-- Into the rectangle (0, 0). -/
def restoreWord0 : QWord := cw 0x14 0 0 0 0
def restore3 : State := savedState none 72 .queued 0 [(9, 0)] imagePart restoreWord0
def restore4 : State := savedState (some savedTile) 72 .started 0 [(9, 0)] headerPart
def restore5 (n : Nat) : State := savedState (some savedTile) n .started 1 [(9, 0)] (areaPart 72)
def restoreI : Instr := .crestore (cmdFields restoreWord)

theorem witness_ContextCommands_restores :
    Goes (restore0 false) restoreI (fun c => !c.puts.contains (9, 0) && restores? (restore0 false) c (restoreChecks (leftQueue (restore0 false) 0 c) false)) ∧
    Goes (restore0 true) restoreI (fun c => !c.puts.contains (9, 0) && restores? (restore0 true) c (restoreChecks (leftQueue (restore0 true) 0 c) true)) ∧
    Goes restore1 restoreI (fun c => !c.puts.contains (9, 0) &&
      restores? restore1 c (fun u h rc => !restoreOk u 0 0 (leftQueue restore1 0 c) rc 0 h (regionWith u 0 rc))) ∧
    Goes restore2 restoreI (fun c => c.puts.contains (9, 0) && restores? restore2 c (restoreInPlace? (leftQueue restore2 0 c))) ∧
    Goes restore3 (.crestore (cmdFields restoreWord0)) (fun c => c.puts.contains (9, 0) && restores? restore3 c (restoreAnew (leftQueue restore3 0 c))) ∧
    Runs restore4 restoreI (fun c => decide (c.progress = 0)) :=
  ⟨goes_spec (by decide +kernel), goes_spec (by decide +kernel), goes_spec (by decide +kernel), goes_spec (by decide +kernel),
    goes_spec (by decide +kernel), runs_spec (by decide +kernel)⟩
/-- The command of `restore5`. -/
def restoreCmd : QCmd :=
  { id := 7, word := restoreWord, asid := 0, ipc := 0, priv := true, phase := .started, progress := 1, block := 0, parts := areaPart 72, puts := [(9, 0)] }
theorem line_of_flatten : ∀ (l : List (List Byte)) (i : Nat) (x : List Byte), (∀ y ∈ l, y.length = 128) → l[i]? = some x →
    (l.flatten.drop (128 * i)).take 128 = x
  | [], i, x, _, h => by simp at h
  | y :: l, 0, x, hy, h => by
    have e : x.length = 128 := by simp at h; exact h ▸ hy y (by simp)
    simp at h
    subst h
    simp [← e]
  | y :: l, i + 1, x, hy, h => by
    have e : y.length = 128 := hy y (by simp)
    have : 128 * (i + 1) = y.length + 128 * i := by omega
    rw [List.flatten_cons, this, ← List.drop_drop, List.drop_left]
    exact line_of_flatten l i x (fun z hz => hy z (by simp [hz])) (by simpa using h)
theorem savedLines_get : ∀ i < 72, ((savedLines 72).map (·.2))[i]? = (((savedArea 72).lines.find? (fun l => decide (l.1 = i))).map (·.2)) ∧
    (((savedLines 72).map (·.2))[i]?).isSome = true := by decide +kernel
theorem savedLines_same : areaSame (savedArea 72) ((savedLines 72).map (·.2)).flatten = true := by
  have hl : ((savedLines 72).map (·.2)).flatten.length / 128 = 72 := by decide +kernel
  unfold areaSame
  rw [hl, List.all_eq_true]
  intro i hi
  obtain ⟨h1, h2⟩ := savedLines_get i (List.mem_range.mp hi)
  obtain ⟨x, hx⟩ := Option.isSome_iff_exists.mp h2
  rw [line_of_flatten _ i x (by decide +kernel) hx]
  rw [hx] at h1
  obtain ⟨l, hl, rfl⟩ := Option.map_eq_some_iff.mp h1.symm
  rw [hl]
  simp
theorem restoreCmd_read : readPart (restore5 72) 0 restoreCmd (loaderEng 0) 3 [(0, 9216)] = .ok (restore5 72) ((savedLines 72).map (·.2)).flatten := by
  have h : ((numbered [(0, 9216)]).filter (fun p => (restoreCmd.piece 3 p.2).isNone)) = [] := by decide +kernel
  have h2 : (numbered [(0, 9216)]).map (fun p => (restoreCmd.piece 3 p.2).getD []) = (savedLines 72).map (·.2) := by decide +kernel
  rw [readPart, h, ← h2, List.flatMap_def]
  rfl
theorem witness_ContextCommands_same : Runs (restore5 72) restoreI (fun c => decide (c = restoreCmd)) ∧ regionWith (restore5 72) 0 (unpackRect (Rect.pack ⟨1, 1, 1, 1⟩)) = some 0 ∧
    areaState (restore5 72) 0 0 = some (placeCode, savedArea 72) ∧ areaSize ⟨1, 1, 1, 1⟩ 1 = 9216 ∧ copiesFit (restore5 72) 0 0 0 (savedArea 72) = true ∧
    (∃ bytes, readPart (restore5 72) 0 restoreCmd (loaderEng 0) 3 [(0, 9216)] = .ok (restore5 72) bytes ∧ areaSame (savedArea 72) bytes = true) :=
  ⟨runs_spec (by decide +kernel), by decide +kernel, by decide +kernel, by decide +kernel, by decide +kernel, _, restoreCmd_read, savedLines_same⟩
theorem witness_ContextCommands_changed : Runs (restore5 0) restoreI (fun c => decide (c.progress = 1) && scansBack (restore5 0) c false) :=
  runs_spec (by decide +kernel)

/-- It is the turn of core 0, whose region 0 is g. -/
def regionTurn (g : Region) : State := { mapped.setRegion 0 0 (some g) with self := .core 0 }
def seg0 : Ctx := { segs := [{ n := 0 }], begun := true }
def switchTo (w : Switch) (x : Ctx) : Region := { oneTile (some 0) x with switching := some w }
def fault0 : SegFault := { code := fcPROT, seg := 0 }
def rerunCtx (u : Rerun) : Ctx := { rerun := some u }
/-- Stream 0 has a channel that begins at its AG tile. -/
def entryCtx : Ctx :=
  { ctxEdges with chans := [{ y := 0, x := 0, dir := 0, fromAg := true, xr := false, inn := false, sid := 0, cap := 8, init := 0, islot := 0
                              p := 1, c := 1, hold := false, back := false, rated := false }] }
/-- A region in which nothing has moved for 2^24 cycles. -/
def still (x : Ctx) : Region := { oneTile (some 0) x with idle := 2 ^ 24 }
def tripState (cool : Nat) (t : Bool) : State :=
  ({ State.reset with self := .core 0 } : State).modCore 0 (fun c => c.setVf 0 { c.vfRegion 0 with tripped := t, cool := cool })
def stoppedTile (left : Option (List Nat)) : Region :=
  { oneTile (some 0) { mode := 1 } with stopped := some (0, some { code := fcPROT, seg := 0 }), scanLeft := left }
def saveTurn (left : Option (List Nat)) : State :=
  let s := queued (mapped.setRegion 0 0 (some { oneTile (some 0) { mode := 1 } with stopped := some (0, none), pendCmd := some 7, scanLeft := left }))
    (cw 0x13 0 0 0 0) .started
  { s with self := .core 0 }

theorem witness_RegionEvents :
    (let s := regionTurn (switchTo ⟨1, 7, false⟩ {})
     s.self = .core 0 ∧ s.region 0 0 = some (switchTo ⟨1, 7, false⟩ {}) ∧ (switchTo ⟨1, 7, false⟩ {}).ctx 0 = some {} ∧
       atBoundary s 0 0 = true ∧ drained s 0 0 0 = true ∧ entryTiles s 0 {} = []) ∧
    (let g := { oneRegion entryCtx with switching := some ⟨1, 7, false⟩ }
     let s := metered { (streams entryCtx).setRegion 0 0 (some g) with self := .core 0 }
     s.self = .core 0 ∧ s.region 0 0 = some g ∧ g.ctx 0 = some entryCtx ∧ atBoundary s 0 0 = true ∧ drained s 0 0 0 = true ∧
       entryTiles s 0 entryCtx ≠ [] ∧ ∀ e ∈ entryTiles s 0 entryCtx, agRoom s 0 e.1 ≠ 0 ∧ (meterTake s 0 e.1).isSome = true) ∧
    (let s := regionTurn (switchTo ⟨1, 7, false⟩ seg0)
     s.region 0 0 = some (switchTo ⟨1, 7, false⟩ seg0) ∧ (switchTo ⟨1, 7, false⟩ seg0).ctx 0 = some seg0 ∧ atBoundary s 0 0 = false) ∧
    (let s := regionTurn (switchTo ⟨1, 7, true⟩ {})
     s.region 0 0 = some (switchTo ⟨1, 7, true⟩ {}) ∧ reconfLeft s 0 0 (switchTo ⟨1, 7, true⟩ {}).rect = false ∧
       findCmd (modRegion (deactivate (parkActive s 0 0) 0 0) 0 0 (fun r => { r with switching := none })) 0 7 = none) ∧
    (let s := { queued (mapped.setRegion 0 0 (some (switchTo ⟨1, 7, true⟩ {}))) (cw 0x11 0 1 0 0) .started with self := .core 0 }
     s.region 0 0 = some (switchTo ⟨1, 7, true⟩ {}) ∧ reconfLeft s 0 0 (switchTo ⟨1, 7, true⟩ {}).rect = false ∧
       (findCmd (modRegion (deactivate (parkActive s 0 0) 0 0) 0 0 (fun r => { r with switching := none })) 0 7).any (fun q => decide (cmdOpcode q.word ≠ 0x14)) = true) ∧
    (∀ u : Rerun, u ∈ [⟨0, fault0, none, none⟩, ⟨0, fault0, some (0, 0), some 0⟩, ⟨0, fault0, some (0, 0), some 3⟩, ⟨0, fault0, some (0, 0), none⟩] →
      let s := regionTurn (oneTile (some 0) (rerunCtx u))
      s.self = .core 0 ∧ s.region 0 0 = some (oneTile (some 0) (rerunCtx u)) ∧ (oneTile (some 0) (rerunCtx u)).ctx 0 = some (rerunCtx u) ∧ (rerunCtx u).rerun = some u) ∧
    (let s := { queued (mapped.setRegion 0 0 (some (switchTo ⟨1, 7, true⟩ {}))) (cw 0x14 0 1 0 0) .started with self := .core 0 }
     s.region 0 0 = some (switchTo ⟨1, 7, true⟩ {}) ∧ reconfLeft s 0 0 (switchTo ⟨1, 7, true⟩ {}).rect = false ∧
       (findCmd (modRegion (deactivate (parkActive s 0 0) 0 0) 0 0 (fun r => { r with switching := none })) 0 7).any (fun q => decide (cmdOpcode q.word = 0x14)) = true) ∧
    (∀ left : Option (List Nat), left ∈ [none, some [0], some []] →
      (let s := regionTurn (stoppedTile left)
       s.region 0 0 = some (stoppedTile left) ∧ ctxAt s 0 0 0 = some { mode := 1 } ∧ saveCmd s 0 (stoppedTile left) = none ∧
         areaFree s 0 0 = true ∧ gotOk (engReach s (loaderEng 0) 0 (0 + 128 * 0) 128 .write) = true) ∧
      (let s := { regionTurn (stoppedTile left) with egress := (onWay 0 (.core 0)).egress }
       areaFree s 0 0 = false) ∧
      (∃ g, (saveTurn left).self = .core 0 ∧ (saveTurn left).region 0 0 = some g ∧ g.stopped = some (0, none) ∧
        (saveCmd (saveTurn left) 0 g).map (·.2) = some 0 ∧ areaFree (saveTurn left) 0 0 = true ∧
        gotOk (engReach (saveTurn left) (loaderEng 0) 0 (0 + 128 * 0) 128 .write) = true)) ∧
    (∀ n : Nat, [0][Config.pieceOrder n % [0].length]? = some 0) ∧
    (∀ x : Ctx, x ∈ [seg0, {}] → let g := still x
     let s := regionTurn g
     s.region 0 0 = some g ∧ g.active = some 0 ∧ g.stopped = none ∧ watchStill s 0 0 = false ∧ 2 ^ 24 ≤ watchCount s 0 0 ∧
       (liveSegs s 0 0 0).map (·.n) = x.segs.map (·.n)) ∧
    (let s := regionTurn (oneTile (some 0) {})
     s.region 0 0 = some (oneTile (some 0) {}) ∧ watchCount s 0 0 < 2 ^ 24) ∧
    (let s := { tripState 0 true with self := .core 0 }.setRegion 0 0 (some (oneRegion ctxEdges))
     s.self = .core 0 ∧ s.region 0 0 = some (oneRegion ctxEdges) ∧ watchStill s 0 0 = true) := by
  refine ⟨by decide +kernel, by decide +kernel, by decide +kernel, by decide +kernel, by decide +kernel, ?_, by decide +kernel,
    ?_, fun n => ?_, ?_, by decide +kernel, by decide +kernel⟩
  · intro u hu
    simp only [List.mem_cons, List.not_mem_nil, or_false] at hu
    rcases hu with rfl | rfl | rfl | rfl <;> decide +kernel
  · intro left hl
    simp only [List.mem_cons, List.not_mem_nil, or_false] at hl
    rcases hl with rfl | rfl | rfl <;> exact ⟨by decide +kernel, by decide +kernel, ⟨_, by decide +kernel, rfl, by decide +kernel⟩⟩
  · rw [List.length_singleton, Nat.mod_one]
    rfl
  · intro x hx
    simp only [List.mem_cons, List.not_mem_nil, or_false] at hx
    rcases hx with rfl | rfl <;> decide +kernel

/-! ### Witnesses: hoist engines, sluices, collectives, pages -/

def withBytes (pa : Nat) (l : List Byte) (s : State) : State := writeMem s pa l

/-- A hoist block: source or pattern 0, destination 1,000, 200 bytes. -/
def hoistBlk : List Byte := toBytes 8 0 ++ toBytes 8 1000 ++ toBytes 8 200
def hoistNum : BitVec 512 := BitVec.ofNat 512 (ofBytes hoistBlk)

/-- A line of the mapped page stands in the cache at its home. -/
def cachedLine (n : Nat) (s : State) : State :=
  s.setWay (homeSlice (placeCode + 128 * n)) (homeSet (placeCode + 128 * n)) 0 (some { line := placeCode / 128 + n })
/-- One piece of a write is left, and it may be written. -/
def onePutLeft (s : State) (k : Nat) (q : QCmd) (e : Eng) (i : Nat) (ranges : List (Nat × Nat)) : Bool :=
  match (numbered ranges).filter (fun p => !q.puts.contains (i, p.2)) with
  | [x] => gotOk (engReach s e q.asid x.1.1 x.1.2 .write)
  | _ => false
theorem onePutLeft_waits {s k q e i ranges} (h : onePutLeft s k q e i ranges = true) (bytes : List Byte) :
    ∃ u, writePart s k q e i ranges bytes = .wait u := by
  unfold onePutLeft at h
  split at h
  · rename_i x hx
    obtain ⟨u, key, h⟩ := gotOk_spec h
    exact ⟨modCmd (perform u key (((bytes.drop ((((numbered ranges).take x.2).map (fun p => p.1.2)).sum)).take x.1.2).map some)) k q.id
      (fun c => { c with puts := c.puts ++ [(i, x.2)] }), by
      simp only [writePart, hx, List.length_singleton, Nat.mod_one, List.getElem?_cons_zero, h]⟩
  · exact absurd h (by decide)

/-- What the hoist has read, of its block and of line 1 of three, and written of that line. -/
def hoistRead : List (Nat × Nat × List Byte) := [(0, 0, hoistBlk ++ toBytes 40 0), (2, 0, List.replicate 104 1), (2, 1, List.replicate 24 2)]

theorem witness_HoistCommands : ∀ e : Nat × (Cmd → Instr) × Bool, e ∈ [(0x20, Instr.hcopy, true), (0x21, Instr.hfill, false)] →
    (let s := queued allMapped (cw e.1 0 7 0 0) .queued 0 0 hoistRead
     Goes s (e.2.1 (cmdFields (cw e.1 0 7 0 0))) (fun c =>
       decide (((queueCmds (released1 s 0 c) 0 2).filter (fun x => decide (x.phase = .started))).length < 2) &&
       (match blockPart (released1 s 0 c) 0 (leftQueue s 0 c) (hoistEng 0) with
        | .ok _ b => decide (1 ≤ hoistLen b ∧ hoistLen b ≤ 2 ^ 40 ∧ hoistDst b + hoistLen b ≤ 2 ^ 56 ∧ hoistSrc b + hoistLen b ≤ 2 ^ 56) && blkZero b 24 64
        | _ => false))) ∧
    (let s := queued allMapped (cw e.1 0 7 0 0) .started 3 hoistNum
     Runs s (e.2.1 (cmdFields (cw e.1 0 7 0 0))) (fun c => decide (hoistCount (hoistDst c.block) (hoistLen c.block) ≤ c.progress))) ∧
    (let s := queued allMapped (cw e.1 0 7 0 0) .started 1 hoistNum hoistRead [(2, 0)]
     Runs s (e.2.1 (cmdFields (cw e.1 0 7 0 0))) (fun c => decide (c.id = 7 ∧ c.progress < hoistCount (hoistDst c.block) (hoistLen c.block)) &&
       gotOk (hoistLine s 0 c c.block e.2.2 (hoistOrder c.block e.2.2 (Config.copyDescends 7) c.progress)))) ∧
    (let s := queued (cachedLine 8 allMapped) (cw e.1 0 7 0 0) .started 1 hoistNum hoistRead
     Runs s (e.2.1 (cmdFields (cw e.1 0 7 0 0))) (fun c => decide (c.id = 7 ∧ c.progress < hoistCount (hoistDst c.block) (hoistLen c.block)) &&
       (match hoistBytes s 0 c c.block e.2.2 (hoistOrder c.block e.2.2 (Config.copyDescends 7) c.progress) with
        | .ok u l => onePutLeft u 0 c (hoistEng 0) (hoistOrder c.block e.2.2 (Config.copyDescends 7) c.progress + 1) [(1024, l.length)]
        | _ => false))) := by
  intro e he
  simp only [List.mem_cons, List.not_mem_nil, or_false] at he
  rcases he with rfl | rfl <;>
  · refine ⟨goes_spec (by decide +kernel), runs_spec (by decide +kernel), runs_spec ?_, runs_spec ?_⟩ <;>
    · generalize Config.copyDescends 7 = d
      cases d <;> decide +kernel

/-- A SEAMPACK block: one row of keys and of values at 1,024, DST 8,192, SIDE 2,048. -/
def packBlk : List Byte := toBytes 8 1024 ++ toBytes 8 1024 ++ toBytes 4 256 ++ toBytes 2 1 ++ toBytes 10 0 ++ toBytes 8 8192 ++ toBytes 8 2048
/-- Engine 0 of stack 0 runs command 7 of core 0. -/
def engineRuns (r : SluiceRun) (s : State) : State := s.modBaseDie 0 (fun b => { b with runs := [r], idle := [1, 2, 3] })
def sluiceRun7 : SluiceRun := { engine := 0, core := 0, cmdId := 7, block := 0 }
/-- A SEAMPACK whose engine has read its block and its rows, which begin with the bytes l, and made the writes puts. -/
def packState (l : List Byte) (pr : Nat) (puts : List (Nat × Nat)) : State :=
  engineRuns sluiceRun7 (queued (cachedLine 16 allMapped) (cw 0x2A 0 7 0 0) .started pr 0
    ((0, 0, packBlk) :: (List.range 4).map (fun m => (1, m, l ++ List.replicate (128 - l.length) 0))) puts)
def packInstr : Instr := .seampack (cmdFields (cw 0x2A 0 7 0 0))
def packs? (s : State) (c : QCmd) (P : State → PackArgs → Bool → Bool) : Bool :=
  (sluiceRun s 0 0 c.id).isSome && match blockPart s 0 c (sluiceEng 0 0) with
  | .ok u1 b => packOk b && (match readPart u1 0 c (sluiceEng 0 0) 1 (packRows (packArgs b)) with
    | .ok u2 l => P u2 (packArgs b) (packBad (chunks 256 (packArgs b).ntok l) (packArgs b).ntok ||
        packBad (chunks 256 (packArgs b).ntok (l.drop (256 * (packArgs b).ntok))) (packArgs b).ntok)
    | _ => false)
  | _ => false
def packPuts : List (Nat × Nat) := (List.range 72).map (fun m => (0, m))

theorem witness_Seampack :
    Runs (packState [0, 0, 0xC0, 0x7F] 0 []) packInstr (fun c => packs? (packState [0, 0, 0xC0, 0x7F] 0 []) c
      (fun _ _ bad => bad)) ∧
    (let s := packState [0, 0, 0x80, 0x3F] 0 []
     Runs s packInstr (fun c => decide (c.progress = 0) && packs? s c (fun u p bad => !bad &&
       gotOk (engChecks (sluiceEng 0 0) c.asid .write ((packTo p).flatMap (fun x => linesOf x.1 x.2)) u)))) ∧
    (let s := packState [0, 0, 0x80, 0x3F] 1 packPuts
     Runs s packInstr (fun c => decide (c.progress ≠ 0) && packs? s c (fun u p bad => !bad && gotOk (writePart u 0 c (sluiceEng 0 0) 0 (packTo p) [])))) ∧
    (let s := packState [0, 0, 0x80, 0x3F] 1 (packPuts.eraseIdx 64)
     Runs s packInstr (fun c => decide (c.progress ≠ 0) && packs? s c (fun u p bad => !bad && onePutLeft u 0 c (sluiceEng 0 0) 0 (packTo p)))) :=
  ⟨runs_spec (by decide +kernel), runs_spec (by decide +kernel), runs_spec (by decide +kernel), runs_spec (by decide +kernel)⟩
/-- A SELPRED block of one byte at 64, result at 64; a SELTOPK block adds K = 1. -/
def selBlk (k : Nat) : List Byte := toBytes 8 64 ++ toBytes 4 1 ++ toBytes 12 0 ++ toBytes 8 64 ++ toBytes 2 k
def selNum (k : Nat) : BitVec 512 := BitVec.ofNat 512 (ofBytes (selBlk k))
def selRunning (op k pr pos : Nat) (buf : List Byte) (puts : List (Nat × Nat)) : State :=
  engineRuns { sluiceRun7 with block := selNum k, pos, buf } (queued allMapped (cw op 0 7 0 0) .started pr 0 [(0, 0, selBlk k)] puts)
def selRan (s : State) (c : QCmd) (P : SluiceRun → Bool) : Bool := (sluiceRun s 0 0 c.id).any P
/-- The sluice commands: opcode, constructor, and whether it ranks. -/
def selects : List (Nat × (Cmd → Instr) × Bool) := [(0x28, .selpred, false), (0x29, .seltopk, true)]

theorem witness_SluiceQueue : ∀ e : Nat × (Cmd → Instr), e ∈ [(0x28, .selpred), (0x29, .seltopk), (0x2A, .seampack)] →
    let i := e.2 (cmdFields (cw e.1 0 7 0 0))
    (∀ n ∈ [0, 15, 16], let s := (queued allMapped (cw e.1 0 7 0 0)).modBaseDie 0 (fun b => { b with sluice := List.replicate n (1, 0) })
      Goes s i (fun c => decide (sluiceRun (released1 s 0 c) 0 0 c.id = none ∧ ((released1 s 0 c).baseDie 0).sluice.length = n ∧
        (crossFrom (released1 s 0 c) (coreDie 0) 0 0).2 = false))) ∧
    (let s := (queued allMapped (cw e.1 0 7 0 0) .started).modBaseDie 0 (fun b => { b with sluice := [(0, 7)] })
     Runs s i (fun c => decide (sluiceRun s 0 0 c.id = none ∧ (s.baseDie 0).idle = 0 :: [1, 2, 3] ∧ (s.baseDie 0).sluice.head? = some (0, c.id)))) := by
  intro e he
  simp only [List.mem_cons, List.not_mem_nil, or_false] at he
  rcases he with rfl | rfl | rfl <;>
  · refine ⟨fun n hn => ?_, runs_spec (by decide +kernel)⟩
    simp only [List.mem_cons, List.not_mem_nil, or_false] at hn
    rcases hn with rfl | rfl | rfl <;> exact goes_spec (by decide +kernel)

theorem witness_SluiceScans : ∀ e ∈ selects, let i := e.2.1 (cmdFields (cw e.1 0 7 0 0))
    let k := e.2.2.toNat
    (let s := selRunning e.1 k 0 0 [] []
     Runs s i (fun c => decide (c.progress = 0) && selRan s c (fun _ => true) && (match blockPart s 0 c (sluiceEng 0 0) with
       | .ok u b => selOk b e.2.2 && gotOk (readPart u 0 c (sluiceEng 0 0) 1 (if selMode b = 1 then [(selQva b, 256)] else []))
       | _ => false))) ∧
    (let s := selRunning e.1 k 1 0 [5] []
     Runs s i (fun c => decide (c.progress ≠ 0) && selRan s c (fun w => decide (w.pos < selCount w.block ∧ selMode w.block ≠ 1 ∧ w.buf ≠ []) &&
       !selHolds w.block (ofBytes (w.buf.take (selSize w.block)))))) ∧
    (let s := selRunning e.1 k 1 1 [] [(1, 0)]
     Runs s i (fun c => decide (c.progress = 1) && selRan s c (fun w => decide (selCount w.block ≤ w.pos) &&
       (if e.2.2 = true then gotOk (sendAll (sluiceEng 0 0) c.asid (topkTo w.block 0) s [])
        else gotOk (writePart s 0 c (sluiceEng 0 0) 1 [(selResult w.block, 64)] (selHeader 0)))))) ∧
    (let s := selRunning e.1 k 2 1 [] []
     Runs s i (fun c => decide (2 ≤ c.progress ∧ c.sent = []) && selRan s c (fun w => decide (selCount w.block ≤ w.pos)))) ∧
    (let s := modCmd (selRunning e.1 k 2 1 [] []) 0 7 (fun c => { c with sent := [(0, 64, placeCode + 64, placeCode + 64)] })
     Runs s i (fun c => decide (2 ≤ c.progress ∧ c.sent = [(0, 64, placeCode + 64, placeCode + 64)]) && selRan s c (fun w => decide (selCount w.block ≤ w.pos) &&
       (topkTo w.block 0)[0]?.isSome) && !paHeld s (placeCode + 64))) := by
  intro e he
  simp only [selects, List.mem_cons, List.not_mem_nil, or_false] at he
  rcases he with rfl | rfl <;> exact ⟨runs_spec (by decide +kernel), runs_spec (by decide +kernel), runs_spec (by decide +kernel), runs_spec (by decide +kernel),
    runs_spec (by decide +kernel)⟩

/-- A collective block (source 256, destination as given, 8 bytes, group at 64) and the group of cores 0 and 1. -/
def collBlk (dst : Nat) : List Byte := toBytes 8 256 ++ toBytes 8 dst ++ toBytes 8 8 ++ toBytes 40 64
def groupHead : List Byte := toBytes 2 2 ++ toBytes 2 0 ++ toBytes 12 5
def collRead (dst : Nat) : List (Nat × Nat × List Byte) := [(0, 0, collBlk dst), (1, 0, groupHead), (2, 0, toBytes 4 0 ++ toBytes 4 1)]
def collNum : BitVec 512 := BitVec.ofNat 512 (ofBytes (collBlk 512))
def member (r : Nat) (op : Nat) : Member := { rank := r, core := 0, cmdId := 7, asid := 0, opcode := op, block := collNum }
def inst (ms : List Member) (srcs : Option (List (List Byte)) := none) : Coll := { gid := 5, nmem := 2, members := ms, group := [0, 1], srcs, code := none }
/-- The instance has the members, whose one command has read and written as given. -/
def collState (ms : List Member) (parts : List (Nat × Nat × List Byte)) (puts : List (Nat × Nat)) (srcs : Option (List (List Byte)) := none) : State :=
  { queued (cachedLine 2 (cachedLine 4 allMapped)) (cw 0x30 0 7 0 0) .started 0 0 parts puts with
    self := .module, colls := [inst ms srcs] }
def two : List Member := [member 0 0x30, member 1 0x30]
def oddTwo : List Member := [member 0 0x30, member 1 0x31]

/-- Either of two members comes first. -/
theorem anyFirst_two (s : State) : anyFirst s two = two ∨ anyFirst s two = two.reverse := by
  have h : two.rotate (Config.pieceOrder (s.tick + 1) % 2) = anyFirst s two := List.rotate_mod two _
  rw [← h]
  rcases Nat.mod_two_eq_zero_or_one (Config.pieceOrder (s.tick + 1)) with h | h <;> rw [h]
  · exact .inl rfl
  · exact .inr rfl
/-- The sources are read, or the destinations written, with the members in the order l. -/
def sourcesRead? (s : State) (l : List Member) : Bool := match collSources 2 l s with | (.ok _ _, _) => true | _ => false
def resultsPut? (s : State) (l : List Member) (srcs : List (List (Option Byte))) : Bool := match collWrite 2 srcs l s with | (.ok _ _, _) => true | _ => false
theorem sourcesRead_spec {s : State} {l : List Member} (h : sourcesRead? s l = true) : ∃ u y x, collSources 2 l s = (.ok u y, x) := by
  unfold sourcesRead? at h
  split at h
  · exact ⟨_, _, _, by assumption⟩
  · exact absurd h (by decide)
theorem resultsPut_spec {s : State} {l : List Member} {srcs} (h : resultsPut? s l srcs = true) : ∃ u y x, collWrite 2 srcs l s = (.ok u y, x) := by
  unfold resultsPut? at h
  split at h
  · exact ⟨_, _, _, by assumption⟩
  · exact absurd h (by decide)
/-- A member's one piece of source is unread, or its one piece of destination unwritten. -/
def sourceLeft (s : State) (m : Member) : Bool := (memberCmd s m).any (fun q => onePieceLeft s m.core q (collEng m.core) 3 (collFrom 2 m))
def resultLeft (s : State) (m : Member) : Bool := (memberCmd s m).any (fun q => onePutLeft s m.core q (collEng m.core) 0 (collTo 2 m))
theorem sourceLeft_waits {s m rest} (h : sourceLeft s m = true) : ∃ u x, collSources 2 (m :: rest) s = (.wait u, x) := by
  obtain ⟨q, hq, h⟩ := some_spec h
  obtain ⟨u, h⟩ := onePieceLeft_waits h
  exact ⟨u, some m, by simp only [collSources, hq, h]⟩
theorem resultLeft_waits {s m rest srcs} (h : resultLeft s m = true) : ∃ u x, collWrite 2 srcs (m :: rest) s = (.wait u, x) := by
  obtain ⟨q, hq, h⟩ := some_spec h
  obtain ⟨u, h⟩ := onePutLeft_waits h ((memberResult m srcs).map (·.getD 0))
  exact ⟨u, some m, by simp only [collWrite, hq, h]⟩

/-- The block and the group of a collective are read. -/
def joins? (s : State) (c : QCmd) (op : Nat) (meets : Bool) : Bool :=
  match blockPart (released1 s 0 c) 0 (leftQueue s 0 c) (collEng 0) with
  | .ok u1 b => collBlockOk op b && (match readPart u1 0 (leftQueue s 0 c) (collEng 0) 1 [(collGroup b, 16)] with
    | .ok u2 head => groupOk head && gotOk (readPart u2 0 (leftQueue s 0 c) (collEng 0) 2 [(collGroup b + 16, 4 * ofBytes (head.take 2))]) &&
        (overlap (collSrc b) (collReads op (ofBytes ((head.drop 2).take 2)) (ofBytes (head.take 2)) (collLen b)) (collDst b)
          (collWrites op (ofBytes (head.take 2)) (collLen b)) == meets)
    | _ => false)
  | _ => false

def readAll : List (Nat × Nat × List Byte) := [(3, 0, toBytes 8 1)]
theorem witness_CollectivesRun :
    (∀ e : Nat × (Cmd → Instr), e ∈ [(0x30, Instr.collred), (0x31, Instr.collgath), (0x32, Instr.collscat)] → ∀ dst ∈ [256, 512],
      let s := queued allMapped (cw e.1 0 7 0 0) .queued 0 0 (collRead dst)
      Goes s (e.2 (cmdFields (cw e.1 0 7 0 0))) (fun c => joins? s c e.1 (decide (dst = 256)))) ∧
    (∀ ms ∈ [two, oddTwo], ∀ srcs ∈ [none, some [toBytes 8 1, toBytes 8 2]], let s := collState ms readAll [(0, 0)] srcs
      s.self = .module ∧ s.colls[0]? = some (inst ms srcs) ∧ (inst ms srcs).code = none ∧ farFault s (inst ms srcs) = none ∧ (inst ms srcs).nmem ≠ 0 ∧
       (inst ms srcs).near s ≤ ms.length ∧ (inst ms srcs).far s = [] ∧ (List.range 2).filterMap (fun r => ms.find? (fun m => decide (m.rank = r))) = ms ∧
       collOdd ms = if ms = two then none else some (member 1 0x31)) ∧
    (let s := collState two readAll []
     ∃ u y x, collSources 2 (anyFirst s two) s = (.ok u y, x)) ∧
    (let s := collState two [] []
     ∃ u x, collSources 2 (anyFirst s two) s = (.wait u, x)) ∧
    (let s := collState two readAll [] (some [toBytes 8 1, toBytes 8 2])
     ∀ srcs, ∃ u x, collWrite 2 srcs (anyFirst s two) s = (.wait u, x)) ∧
    (let s := collState two readAll [(0, 0)] (some [toBytes 8 1, toBytes 8 2])
     ∃ u y x, collWrite 2 [(toBytes 8 1).map some, (toBytes 8 2).map some] (anyFirst s two) s = (.ok u y, x)) ∧
    (let s := collState [member 0 0x30] [] []
     s.colls[0]? = some (inst [member 0 0x30]) ∧ farFault s (inst [member 0 0x30]) = none ∧ ([member 0 0x30] : List Member).length < (inst [member 0 0x30]).near s) ∧
    (let s := collState two readAll [(0, 0)]
     (memberCmd s (member 0 0x30)).any (fun c => gotOk (writePart s 0 c (collEng 0) 0 (collTo 2 (member 0 0x30)) [])) = true) := by
  refine ⟨?_, ?_, sourcesRead_spec ?_, ?_, ?_, resultsPut_spec ?_, by decide +kernel, by decide +kernel⟩
  · intro e he dst hd
    simp only [List.mem_cons, List.not_mem_nil, or_false] at he hd
    rcases he with rfl | rfl | rfl <;> rcases hd with rfl | rfl <;> exact goes_spec (by decide +kernel)
  · intro ms hm srcs hs
    simp only [List.mem_cons, List.not_mem_nil, or_false] at hm hs
    rcases hm with rfl | rfl <;> rcases hs with rfl | rfl <;> decide +kernel
  · rcases anyFirst_two (collState two readAll []) with h | h <;> rw [h] <;> decide +kernel
  · intro s
    rcases anyFirst_two s with h | h <;> rw [h] <;> exact sourceLeft_waits (by decide +kernel)
  · intro s srcs
    rcases anyFirst_two s with h | h <;> rw [h] <;> exact resultLeft_waits (by decide +kernel)
  · rcases anyFirst_two (collState two readAll [(0, 0)] (some [toBytes 8 1, toBytes 8 2])) with h | h <;> rw [h] <;> decide +kernel

/-- The PTEs of virtual page 0, line 5 of its frame, of frame 3 and of frame 0x15, and the frame pool stand at their homes. -/
def paged (s : State) : State := cached (walked s) 768 [placeCode + 640, 0x150000 + 640, 0x30000 + 640, 0x200000]
def onePage (op bind : Nat) (ph : Phase) (pr : Nat := 0) (b : BitVec 512 := 0) (puts : List (Nat × Nat) := []) : State :=
  queued (paged (streams ctxEdges)) (cw op 0 bind 0 (2 ^ 64)) ph pr b [] puts
def fetch0 (i : Nat) : Fetch := { asid := 0, page := 0, port := 0, index := i }
def fetching (f : Fetch) (s : State) : State := { s with self := .module, fetches := [f] }
/-- The frame pool of ASID 0 holds one frame. -/
def pooled : State := writeNat (writeNat (paged mapped) 24 8 0x200000) 32 4 1
/-- MIGRATE of page 0 to frame 0x15, whose old frame is 0x14. -/
def moving (ph : Phase) (pr : Nat) (puts : List (Nat × Nat)) (s : State) : State :=
  queued (paged s) (cw 0x3A 0 7 0 (0x15 * 2 ^ 64)) ph pr (BitVec.ofNat 512 (placeCode / 65536)) [] puts
def migrate0 : Instr := .migrate (cmdFields (cw 0x3A 0 7 0 (0x15 * 2 ^ 64)))
def storing (s : State) : State :=
  { s with egress := [{ id := 1, core := 0, sid := none, cmdId := none, asid := 0, va := 0, pa := placeCode, cells := [], pc := 0 }] }
/-- A page of level 2, which is no page of 64 KiB. -/
def bigPage : State := writeNat mapped placeL2 8 0x40000041
/-- Every line but line 5, and every line. -/
def allBut5 : List Nat := List.range 5 ++ (List.range 506).map (· + 6)
def all512 : List Nat := List.range 512
theorem left_5 : all512.filter (fun i => !allBut5.contains i) = [5] := by
  have h : all512.filter (fun i => !allBut5.contains i) = all512.filter (fun i => i == 5) := List.filter_congr (fun i hi => by
    have : i < 512 := List.mem_range.mp hi
    have h : allBut5.contains i = true ↔ i ≠ 5 := by
      simp only [List.contains_iff_mem, allBut5, List.mem_append, List.mem_range, List.mem_map]
      exact ⟨fun h => by rcases h with h | ⟨j, h, rfl⟩ <;> omega, fun h => if h5 : i < 5 then .inl h5 else .inr ⟨i - 6, by omega, by omega⟩⟩
    by_cases h5 : i = 5 <;> simp_all)
  rw [h]
  decide +kernel
theorem left_none : all512.filter (fun i => !all512.contains i) = [] := by
  rw [List.filter_eq_nil_iff]
  intro i hi
  simp only [Bool.not_eq_true', Bool.not_eq_false, List.contains_iff_mem]
  exact hi
theorem puts_contains (l : List Nat) (i : Nat) : (l.map (fun i => (0, i))).contains (0, i) = l.contains i := by
  induction l with
  | nil => rfl
  | cons a l ih =>
    have h : (((0 : Nat), i) == (0, a)) = (i == a) := by rw [Bool.eq_iff_iff]; simp
    simp only [List.map_cons, List.contains_cons, ih, h]
theorem first_of_one {l : List Nat} {i : Nat} (h : l = [i]) (n : Nat) : l[n % l.length]? = some i := by
  rw [h, List.length_singleton, Nat.mod_one]
  rfl
/-- The page walk of a page ends in a leaf that satisfies P. -/
def leafOf (s : State) (P : Leaf → Bool) : Bool := match walkLeaf s 0 0 with | .ok l => P l | .error _ => false
def readyAcc (a : Acc) (P : State → Bool) : Bool := match a with | .ready u _ => P u | _ => false
/-- What a PGREL does with page 0: 0 left, 1 cleared, 2 a fault. -/
def relq (s : State) (asid : BitVec 16) : Nat :=
  match pteRead s asid 0 with
  | .ready v _ => (match releasePage v asid 0 with | .left _ => 0 | .cleared _ => 1 | .fault _ => 2)
  | _ => 3

/-- The clauses that compare a page index with the pages of a drive hold their other premises here; the number of pages is a
free value of the part, at least one (Config.drivePages), and an index equal to it lies beyond the drive. -/
theorem witness_PageCommands_pins :
    (∀ b ∈ [0, 7], let s := onePage 0x38 b .queued
     Goes s (.pgpin (cmdFields (cw 0x38 0 b 0 (2 ^ 64)))) (fun c => readyAcc (pagesRead c.asid [0] (released1 s 0 c)) (fun u =>
       match pinHolders u 0 b with
       | [h] => (match pinPages u c.asid h true [0] with | .ok _ => true | .error _ => false)
       | _ => false))) ∧
    (let s := { onePage 0x38 0 .queued with releasing := [{ asid := 0, page := 0 }] }
     Goes s (.pgpin (cmdFields (cw 0x38 0 0 0 (2 ^ 64)))) (fun c => readyAcc (pagesRead c.asid [0] (released1 s 0 c)) (fun u =>
       decide (pinHolders u 0 0 = [.context 0 0 0]) &&
       (match pinPages u c.asid (.context 0 0 0) true [0] with | .ok _ => false | .error _ => true)))) ∧
    (∀ b : Bool, let s := { onePage 0x39 7 .queued with blocked := if b then [(0, 0)] else [] }
     Goes s (.pgrel (cmdFields (cw 0x39 0 7 0 (2 ^ 64)))) (fun c => let u := setPhase (released1 s 0 c) 0 (leftQueue s 0 c).id .started
       decide ((leftQueue s 0 c).block = 0 ∧ (leftQueue s 0 c).progress = 0) && u.blocked.contains (c.asid, 0) == b && (b || decide (relq u c.asid = 1)))) ∧
    (∀ e ∈ [(paged mapped, 1), ({ paged mapped with pins := [(0, 0, .thread 1)] }, 0), (paged bigPage, 2)],
      let s := queued e.1 (cw 0x39 0 7 0 (2 ^ 64)) .started
      Runs s (.pgrel (cmdFields (cw 0x39 0 7 0 (2 ^ 64)))) (fun c => decide (c.block = 0 ∧ c.progress = 0 ∧ s.blocked = [] ∧ relq s c.asid = e.2))) ∧
    (∀ b ∈ [0, 2], ∀ st : Bool, let s := onePage 0x39 7 .started 1 b [(0, 0)]
     let s := if st then storing s else s
     Runs s (.pgrel (cmdFields (cw 0x39 0 7 0 (2 ^ 64)))) (fun c => decide (c.progress = 1 ∧ c.block = b) && translatedTo s (fun asid va _ =>
       decide (asid = c.asid) && c.puts.any (fun p => [0][p.2]? = some (va / 65536 * 65536))) == st)) ∧
    (∀ b : Bool, let s := { paged mapped with pins := if b then [] else [(0, 0, .thread 1)] }
     (match rawPte s 0 0 with | .ok (some (_, e, true)) => decide (e % 2 = 1) | _ => false) = true ∧ pageLoose s 0 0 = b ∧ releasePending s 0 0 = false) := by
  refine ⟨?_, goes_spec (by decide +kernel), ?_, ?_, ?_, ?_⟩
  · intro b hb
    simp only [List.mem_cons, List.not_mem_nil, or_false] at hb
    rcases hb with rfl | rfl <;> exact goes_spec (by decide +kernel)
  · intro b
    cases b <;> exact goes_spec (by decide +kernel)
  · intro e he
    simp only [List.mem_cons, List.not_mem_nil, or_false] at he
    rcases he with rfl | rfl | rfl <;> exact runs_spec (by decide +kernel)
  · intro b hb st
    simp only [List.mem_cons, List.not_mem_nil, or_false] at hb
    rcases hb with rfl | rfl <;> cases st <;> exact runs_spec (by decide +kernel)
  · intro b
    cases b <;> decide +kernel

theorem witness_PageCommands_migrate :
    (∀ n ∈ [0x15, placeCode / 65536], let w := cw 0x3A 0 7 0 (n * 2 ^ 64)
     let s := queued (paged mapped) w
     Goes s (.migrate (cmdFields w)) (fun c => decide ((c.asid, 0) ∉ (released1 s 0 c).blocked) && readyAcc (pteRead (released1 s 0 c) c.asid 0) (fun u =>
       !releasePending u c.asid 0 && leafOf u (fun l => l.small &&
         decide (c.asid = 0 ∧ l.e / 2 ^ 7 % 2 = 0 ∧ n < 2 ^ 23 ∧ (n = 0x15 ↔ n ≠ l.e / 2 ^ 16 % 2 ^ 32)))))) ∧
    (∀ e ∈ [bigPage, { mapped with releasing := [{ asid := 0, page := 0 }] }], let s := moving .queued 0 [] e
     Goes s migrate0 (fun c => decide ((c.asid, 0) ∉ (released1 s 0 c).blocked) && readyAcc (pteRead (released1 s 0 c) c.asid 0) (fun u =>
       leafOf u (fun l => decide (c.asid = 0) && (!l.small || releasePending u c.asid 0))))) ∧
    (∀ b : Bool, let s := moving .started 0 [] (if b then storing mapped else mapped)
     Runs s migrate0 (fun c => decide (c.progress = 0) && translatedTo s (fun _ _ pa => decide (pa / 65536 = c.block.toNat)) == b)) ∧
    (let s := moving .started 1 (allBut5.map (fun i => (0, i))) mapped
     Runs s migrate0 (fun c => decide (c.progress ≠ 0 ∧ c.puts = allBut5.map (fun i => (0, i))) &&
       readyAcc (copyReach s c.asid 0 c.block.toNat 0x15 5) (fun _ => true)) ∧
     (all512.filter (fun i => !(allBut5.map (fun i => (0, i))).contains (0, i)))[Config.pieceOrder s.tick %
       (all512.filter (fun i => !(allBut5.map (fun i => (0, i))).contains (0, i))).length]? = some 5) ∧
    (let s := moving .started 1 (all512.map (fun i => (0, i))) mapped
     Runs s migrate0 (fun c => decide (c.progress ≠ 0 ∧ c.puts = all512.map (fun i => (0, i))) && readyAcc (pteRead s c.asid 0) (fun u =>
       leafOf u (fun _ => decide (c.asid = 0)))) ∧
     all512.filter (fun i => !(all512.map (fun i => (0, i))).contains (0, i)) = []) := by
  refine ⟨?_, ?_, ?_, ⟨runs_spec (by decide +kernel), first_of_one ?_ _⟩, ⟨runs_spec (by decide +kernel), ?_⟩⟩
  · intro n hn
    simp only [List.mem_cons, List.not_mem_nil, or_false] at hn
    rcases hn with rfl | rfl <;> exact goes_spec (by decide +kernel)
  · intro e he
    simp only [List.mem_cons, List.not_mem_nil, or_false] at he
    rcases he with rfl | rfl <;> exact goes_spec (by decide +kernel)
  · intro b
    cases b <;> exact runs_spec (by decide +kernel)
  · simp only [puts_contains]
    exact left_5
  · simp only [puts_contains]
    exact left_none

def deep0 (moved : List Nat) : Descent := { asid := 0, page := 0, port := 0, index := 0, frame := placeCode / 65536, moved }
theorem witness_PageCommands_deep :
    ((fetching (fetch0 (Config.drivePages 0)) mapped).fetches[0]? = some (fetch0 (Config.drivePages 0)) ∧
      (fetch0 (Config.drivePages 0)).ended = none ∧ (fetch0 (Config.drivePages 0)).frame = none ∧
      Config.drivePages (fetch0 (Config.drivePages 0)).port ≤ (fetch0 (Config.drivePages 0)).index) ∧
    (fetch0 0).index < Config.drivePages (fetch0 0).port ∧
    (∀ b : Bool, let s := fetching (fetch0 0) (if b then pooled else paged mapped)
     s.fetches[0]? = some (fetch0 0) ∧ portReads s 0 < 64 ∧ readyAcc (poolReach s 0) (fun u => (takeFrame u 0).isSome == b) = true) ∧
    (∀ b : Bool, let f := { fetch0 0 with frame := some 3, moved := if b then all512 else allBut5 }
     let s := fetching f (paged mapped)
     s.fetches[0]? = some f ∧ f.ended = none ∧ f.stalled = false ∧
       readyAcc (reach s (65536 * 3 + 128 * 5) 128 .write { serviceOrigin with full := true }) (fun _ => true) = true) ∧
    (∀ s, nextLine s allBut5 = some 5 ∧ nextLine s all512 = none) ∧
    (let f := { fetch0 0 with frame := some 3, stalled := true }
     let s := fetching f (paged mapped)
     s.fetches[0]? = some f ∧ f.ended = none ∧ readyAcc (pteRead s f.asid f.page) (fun _ => true) = true) ∧
    (let s := { paged mapped with self := .module }
     readyAcc (pteRead s 0 0) (fun u => leafOf u (fun l => l.small && decide (l.e / 2 ^ 7 % 2 = 0) && !releasePending u 0 0 &&
       decide (u.blocked = [] ∧ u.pins = []))) = true) ∧
    (∀ b : Bool, let s := { paged mapped with descents := [deep0 (if b then all512 else allBut5)] }
     s.descents[0]? = some (deep0 (if b then all512 else allBut5)) ∧ s.pins = [] ∧ translatedTo s (fun _ _ pa => decide (pa / 65536 = placeCode / 65536)) = false ∧
       readyAcc (reach s (65536 * (placeCode / 65536) + 128 * 5) 128 .read serviceOrigin) (fun _ => true) = true ∧
       readyAcc (pteRead s 0 0) (fun u => leafOf u (fun _ => true)) = true) := by
  refine ⟨⟨rfl, rfl, rfl, Nat.le_refl _⟩, Nat.succ_pos _, ?_, ?_, fun s => ⟨first_of_one left_5 _, ?_⟩, by decide +kernel, by decide +kernel, ?_⟩
  · intro b
    cases b <;> decide +kernel
  · intro b
    cases b <;> decide +kernel
  · rw [nextLine]
    exact left_none ▸ rfl
  · intro b
    cases b <;> decide +kernel

/-! ### Witnesses: assayers -/

/-- Context 0 of slice 0 has its turn in the handler of an event, and P holds of the event. -/
def InHandler (s : State) (cyc : Nat) (P : SliceEv → Bool) : Prop := ∃ e, HandlerTurn s 0 e cyc ∧ P e = true
def inHandler? (s : State) (cyc : Nat) (P : SliceEv → Bool) : Bool :=
  match (s.hart 0).ev with
  | some e => decide (s.self = .hart 0 0 ∧ usedCycles s 0 + cyc ≤ budgetOf s 0 e) && canIssue s 0 e && pcOk s 0 e ((s.hart 0).pc + 4) && P e
  | none => false
theorem inHandler_spec {s : State} {cyc : Nat} {P : SliceEv → Bool} (h : inHandler? s cyc P = true) : InHandler s cyc P := by
  unfold inHandler? at h
  split at h
  · rename_i e h1
    simp only [Bool.and_eq_true, decide_eq_true_eq] at h
    exact ⟨e, ⟨h.1.1.1.1, h1, h.1.1.2, h.1.1.1.2, h.1.2⟩, h.2⟩
  · exact absurd h (by decide)

/-- The handler of a MISS of line 0 runs, with registers and DMEM as given; entry 1 is valid. -/
def handling (x : Map (BitVec 32)) (dm : List Byte) (s : State) : State :=
  let s := placeAssayer s 0x13
  let s := (writeMem s (dmemAt 0 0) dm).setEntryWord 0 1 0 1
  { s.setHart 0 { s.hart 0 with x := x } with self := .hart 0 0 }
/-- Line 0 stands in its reserved way. -/
def filled (x : Option Way) (s : State) : State := s.setWay 0 0 0 x
/-- Way 1 of set 0 holds a line that carries entry 1, or that context 0 has locked. -/
def tagged : Way := { line := 2048 * 64, tag := 1 }
def lockedWay : Way := { line := 2048 * 64, locked := some 0 }
/-- The assayer of slice 0 may read every line of die 0 and push to core 0. -/
def pushes (s : State) : State :=
  (s.setWindow (homeSlice placeCode) 512 0 allOf).setWindow (tgtCore 0) 512 0 { allOf with push := true }
def pushStream (s : State) : State :=
  setQueue s 0 0 [{ id := 7, word := cw 1 0 7 1 0, asid := 0, ipc := 0, priv := true, phase := .started }]

/-- The translation cache of slice 0 holds page 0, with these bits of its PTE. -/
def ayMapped (perm : BitVec 9) (s : State) : State :=
  { s with tcaches := Map.set [] s.tcaches 1000 [⟨0, 0, placeCode / 65536, perm⟩] }
def ayOk (x : AyXl) (P : State → Nat → Bool) : Bool := match x with | .ok t pa => P t pa | _ => false

/-- An EVICT event of the entry. -/
def evictEv : SliceEv := { hook := 2, entry := 1, line := 0, way := 0, va := 0, asid := 0, okind := 0, master := 0 }

theorem witness_AssayerInstructions :
    InHandler (filled (some { line := 0 }) (handling [] [] State.reset)) 8 (fun e =>
      let s := filled (some { line := 0 }) (handling [] [] State.reset)
      decide (dmemCheck s 0 e 0 128 4 = none) && handleOk s 0 e 0 true && handleOk s 0 e 0 false && !wayPoisoned s (s.way 0 0 0) &&
        (storeLine s 0 e 0 (dmemRead s 0 0 128)).isSome) ∧
    (let s := handling [(1, 0x8000)] [] State.reset
     InHandler s 8 (fun e => decide (dmemCheck s 0 e 0 128 4 = none) && !handleOk s 0 e (hx s 0 1) false && !handleOk s 0 e (hx s 0 1) true)) ∧
    (let s := handling [(1, 1)] [] State.reset
     InHandler s 8 (fun e => decide (dmemCheck s 0 e (hx s 0 1).toNat 128 4 = some acMIS))) ∧
    (∀ n ∈ [1, 16], let s := handling [(1, n)] (toBytes 8 128) (ayMapped 0x7D mapped)
     InHandler s 2 (fun e => decide (dmemCheck s 0 e 0 8 8 = none ∧ ofBytes (dmemRead s 0 0 8) % 128 = 0 ∧ (hx s 0 1) = n) &&
       (fillLines 0 e (hx s 0 1).toNat 128 s 0).2 == some n.toNat)) ∧
    (let s := handling [(1, 16)] (toBytes 8 128) State.reset
     InHandler s 2 (fun e => decide (dmemCheck s 0 e 0 8 8 = none ∧ ofBytes (dmemRead s 0 0 8) % 128 = 0 ∧ (hx s 0 1).toNat = 16) &&
       (fillLines 0 e (hx s 0 1).toNat 128 s 0).2 == none)) ∧
    (let s := handling [(1, 17)] (toBytes 8 128) State.reset
     InHandler s 2 (fun e => decide (dmemCheck s 0 e 0 8 8 = none ∧ 16 < (hx s 0 1).toNat))) ∧
    (let s := handling [(1, 0x8000)] [] State.reset
     InHandler s 2 (fun e => decide ((hx s 0 0).toNat < 96 * 32) && !handleOk s 0 e (hx s 0 1) false)) ∧
    (let s := pushes (filled (some { line := 0 }) (handling [] [] State.reset))
     InHandler s 2 (fun e => handleOk s 0 e 0 false && !wayPoisoned s (s.way 0 0 0) && mayPush s 0 (assayerMaster 0) && !pushOpen s 0 0)) ∧
    (let s := filled (some { line := 0 }) (handling [] [] State.reset)
     InHandler s 2 (fun e => handleOk s 0 e 0 false && !wayPoisoned s (s.way 0 0 0) && !mayPush s 0 (assayerMaster 0))) ∧
    (let s := pushStream (pushes (filled (some { line := 0 }) (handling [] [] State.reset)))
     InHandler s 2 (fun e => handleOk s 0 e 0 false && mayPush s 0 (assayerMaster 0) && pushOpen s 0 0 && decide (0 < pushCredits (s.port (portKey 0 0))))) ∧
    (let s := (handling [(1, 1)] [] State.reset).setWay 0 0 1 (some tagged)
     InHandler s 2 (fun e => handleOk s 0 e (hx s 0 1) false && !wayHeld s 0 0 1 && decide (s.way 0 0 1 = some tagged ∧ e.hook ≠ 2))) ∧
    (let s := handling [] [] State.reset
     InHandler s 2 (fun e => wayHeld s 0 0 0 && decide (e.hook ≠ 2))) ∧
    (let s := (handling [(1, 3)] [] State.reset).setHart 0 { (handling [(1, 3)] [] State.reset).hart 0 with ev := some evictEv, x := [(1, 3)] }
     InHandler s 2 (fun e => decide (e = evictEv ∧ (hx s 0 0).toNat = 0 ∧ (hx s 0 1).toNat = 3 ∧ handleSet (hx s 0 1) = setOf e.line ∧ handleWay (hx s 0 1) ≠ e.way) &&
       !wayHeld s 0 0 3 && !wayReserved s 0 0 3 && (s.way 0 0 3).isNone)) ∧
    (let s := pushes (handling [] (toBytes 24 0) (ayMapped 0x7D mapped))
     InHandler s 2 (fun e => decide (dmemCheck s 0 e 0 24 8 = none) && ayOk (ayTranslate s 0 e (ofBytes (dmemRead s 0 0 8)) .read) (fun t0 pa =>
       decide (target pa = .slice (homeSlice placeCode)) && (match crossFrom t0 0 (homeSlice placeCode / 64) pa with
        | (t, false) => permitted t (homeSlice placeCode) (assayerMaster 0) (pa / 128 * 128) 128 .read
        | _ => false)))) ∧
    (∀ b : Bool, let s := handling [(1, 1)] (toBytes 8 128) (ayMapped (if b then 0x7D else 0x41) mapped)
     InHandler s 4 (fun e => decide ((hx s 0 1).toNat = 1 ∧ dmemCheck s 0 e 0 8 8 = none ∧ ofBytes (dmemRead s 0 0 8) % 128 = 0) &&
       (match ayTranslate s 0 e (ofBytes (dmemRead s 0 0 8)) .read with | .ok _ _ => b | .bad _ => !b | .wait _ => false))) ∧
    (let s := handling [(1, 1)] [] State.reset
     InHandler s 4 (fun _ => decide ((hx s 0 0).toNat = 0 ∧ (hx s 0 1).toNat < 2 ^ 15 ∧ s.way 0 0 1 = none))) ∧
    (let s := (handling [(1, 1)] [] State.reset).setWay 0 0 1 (some lockedWay)
     InHandler s 4 (fun _ => decide ((hx s 0 0).toNat = 0 ∧ (hx s 0 1).toNat < 2 ^ 15 ∧ s.way 0 0 1 = some lockedWay))) ∧
    (let s := (handling [(1, 1)] [] State.reset).setWay 0 0 1 (some tagged)
     InHandler s 1 (fun e => decide (hx s 0 1 ≠ 0) && handleOk s 0 e (hx s 0 1) false)) ∧
    (∀ n : BitVec 32, n ∈ [1, 2, 3, 4, 5] → let s := handling [(1, n)] [] State.reset
     InHandler s 1 (fun _ => decide (hx s 0 1 = n))) ∧
    (let s := handling [(1, 3)] [] State.reset
     InHandler s 1 (fun e => actionOk s 0 e 0 && !actionOk s 0 e ((hx s 0 1).toNat % 4))) := by
  refine ⟨?_, ?_, ?_, ?_, ?_, ?_, ?_, ?_, ?_, ?_, ?_, ?_, ?_, ?_, ?_, ?_, ?_, ?_, ?_, ?_⟩
  case refine_4 =>
    intro n hn
    simp only [List.mem_cons, List.not_mem_nil, or_false] at hn
    rcases hn with rfl | rfl <;> exact inHandler_spec (by decide +kernel)
  case refine_15 =>
    intro b
    cases b <;> exact inHandler_spec (by decide +kernel)
  case refine_19 =>
    intro n hn
    simp only [List.mem_cons, List.not_mem_nil, or_false] at hn
    rcases hn with rfl | rfl | rfl | rfl | rfl <;> exact inHandler_spec (by decide +kernel)
  all_goals exact inHandler_spec (by decide +kernel)

/-- Slice 0 has its turn with events queued; context 3 alone is idle. -/
def evt (hook : Nat) : SliceEv := { hook, entry := 1, line := 0, way := 0, va := 0, asid := 0, okind := 0, master := 0 }
def busyEv : SliceEv := { evt 0 with line := 512 }
def queuedEvents (l : List SliceEv) : State :=
  let s := (placeAssayer State.reset 0x13).modSlice 0 (fun x => { x with events := l })
  { ((s.setHart 0 { ev := some busyEv }).setHart 1 { ev := some busyEv }).setHart 2 { ev := some busyEv } with self := .slice 0 }
def fetchMiss : Miss := { line := 0, way := 0, stage := .fetch, okind := 0, master := 0, asid := 0, va := 0, tag := 16 }

theorem witness_AssayerEvents :
    InHandler (handling [] [] State.reset) 1 (fun _ => true) ∧
    (let s := (handling [] [] State.reset)
     let s := s.setHart 0 { s.hart 0 with start := some 0 }
     s.self = .hart 0 0 ∧ ∃ e, (s.hart 0).ev = some e ∧ (s.hart 0).start.isSome = true ∧ usedCycles s 0 < budgetOf s 0 e) ∧
    (let s := (handling [] [] State.reset).setEntryWord 0 1 3 0
     let s := s.setHart 0 { s.hart 0 with start := some 0 }
     ∃ e, (s.hart 0).ev = some e ∧ (s.hart 0).start.isSome = true ∧ budgetOf s 0 e ≤ usedCycles s 0) ∧
    (∀ hook ∈ [0, 1, 2], let s := queuedEvents [evt hook]
     s.self = .slice 0 ∧ (s.slice 0).events[0]? = some (evt hook) ∧ dispatchable s 0 0 (evt hook) = true ∧ idleHarts s 0 = [3]) ∧
    (let s := (queuedEvents [evt 3]).setWay 0 0 5 (some { line := 0 })
     (s.slice 0).events[0]? = some (evt 3) ∧ dispatchable s 0 0 (evt 3) = true ∧ idleHarts s 0 = [3] ∧ (s.slice 0).misses = [] ∧ wayOf s 0 0 = some 5) ∧
    (let s := queuedEvents [evt 3]
     (s.slice 0).events[0]? = some (evt 3) ∧ dispatchable s 0 0 (evt 3) = true ∧ wayOf s 0 0 = none) ∧
    (let s := queuedEvents [evt 0, evt 1]
     (s.slice 0).events[1]? = some (evt 1) ∧ dispatchable s 0 1 (evt 1) = false) ∧
    (let s := (queuedEvents []).modSlice 0 (fun x => { x with misses := [fetchMiss] })
     s.self = .slice 0 ∧ (s.slice 0).misses.find? (fun m => decide (m.line = 0 ∧ m.stage = .fetch ∧ m.hart = none)) = some fetchMiss ∧
       ∀ m ∈ (s.slice 0).misses, ¬ (m.line = 1 ∧ m.stage = .fetch ∧ m.hart = none)) := by
  refine ⟨inHandler_spec (by decide +kernel), ⟨by decide +kernel, evt 0, by decide +kernel, by decide +kernel, by decide +kernel⟩,
    ⟨evt 0, by decide +kernel, by decide +kernel, by decide +kernel⟩, ?_, by decide +kernel, by decide +kernel, by decide +kernel, by decide +kernel⟩
  intro hook hh
  simp only [List.mem_cons, List.not_mem_nil, or_false] at hh
  rcases hh with rfl | rfl | rfl <;> decide +kernel

/-! ### Witnesses: the system -/

def hostReq (w : Bool) : HostReq := { addr := placeCode, write := w, bytes := [5] }
def isSlice (t : Target) : Bool := match t with | .slice _ => true | _ => false
def windowReq : WindowReq := { master := 0, csa := 0, write := true, bytes := [5] }

theorem witness_AccessesFromOutside :
    (let s := { (State.reset.setWindow (tgtCore 0) 0 0 allOf) with self := .tile 0 0 1 0 }
     s.self = .tile 0 0 1 0 ∧ windowReq.csa / 2 ^ 23 % 2 ^ 7 = coreNum 0 ∧ memTileSite (windowReq.csa / 2 ^ 15 % 2 ^ 8) = (0, 1) ∧
       1 ≤ windowReq.bytes.length ∧ windowReq.csa % 64 + windowReq.bytes.length ≤ 64 ∧ windowReq.master ≠ 1016 ∧
       accReady (reach s (csaPa (coreDie 0) windowReq.csa) 1 .write (ownOrigin windowReq.master.toNat)) = true) ∧
    (∀ b : Bool, let s := { (if b then mapped.setWindow (homeSlice placeCode) 1016 0 allOf else mapped) with
        self := .slice (homeSlice placeCode), head := { mapped.head with step := 5 } }
     s.self = .slice (homeSlice placeCode) ∧ 5 ≤ s.head.step ∧ homeSlice (hostReq true).addr = homeSlice placeCode ∧ (hostReq true).addr % 128 + 1 ≤ 128 ∧ (hostReq true).addr + 1 ≤ 2 ^ 39 ∧
       accReady (reach s (hostReq true).addr 1 .write (rawOrigin 5 1016)) = b ∧ accFault (reach s (hostReq true).addr 1 .write (rawOrigin 5 1016)) = !b) ∧
    (let s := { mapped.setWindow (homeSlice placeCode) 960 0 allOf with self := .module }
     s.self = .module ∧ placeCode % amoSize 0 = 0 ∧ isSlice (target placeCode) = true ∧ placeCode % 128 + amoSize 0 ≤ 128 ∧
       accReady (reach s placeCode (amoSize 0) .atomic (rawOrigin Config.otherOriginator (960 + 0))) = true) ∧
    (let s := { State.reset with self := .module }
     s.self = .module ∧ (∀ r ∈ s.egress, onLink s 22 r = false) ∧ 16 ≤ 22) ∧
    (127 % 128 + ([7] : List Byte).length ≤ 128 ∧ 127 + ([7] : List Byte).length ≤ 2 ^ 47) ∧
    (∀ n ∈ [0, 5, 6], let s := onWay farPa .module (fun r => { r with resent := n })
     s.self = .module ∧ s.egress.findIdx? (onLink s 18) = some 0 ∧ reqAt s 0 (fun r => decide (r.resent = n)) = true) ∧
    (let s := { State.reset with self := .module }
     s.self = .module ∧ (∀ r ∈ s.egress, onLink s 15 r = false) ∧ Map.get 0 s.head.retries 15 < 6) ∧
    (let s : State := { State.reset with self := .module, head := { retries := [(15, 6)] } }
     s.self = .module ∧ 6 ≤ Map.get 0 s.head.retries 15 ∧ 15 < 16) ∧
    target 0 = .slice 0 := by
  refine ⟨by decide +kernel, by decide +kernel, ?_, by decide +kernel, by decide +kernel, by decide +kernel, by decide +kernel, by decide +kernel, by decide +kernel⟩
  decide +kernel

def moduleTurn (h : Head) : State := { State.reset with self := .module, head := h }

/-- A notice of reason 2 is due at 1 ms, the times of the last ones being l. -/
def noticed (l : Map (Option Nat)) : State :=
  { State.reset.modCore 0 (fun c => { c with noticeDue := [2], notices := l }) with self := .core 0, time := 1000000 }

theorem witness_PowerEvents :
    (∀ mw ∈ [0, 4400000, 4500001], (moduleTurn {}).self = .module ∧
      ((mw :: (moduleTurn {}).head.power).take 100).sum / ((mw :: (moduleTurn {}).head.power).take 100).length = mw) ∧
    (let s : State := { State.reset.modCore 0 (fun c => c.setMeter 0 { c.meter 0 with rate := 1 }) with self := .ag 0 0 }
     s.self = .ag 0 0 ∧ ((s.core 0).meter 0).rate < targetRate s 0 0) ∧
    (let s : State := { State.reset with self := .ag 0 0 }
     targetRate s 0 0 ≤ ((s.core 0).meter 0).rate) ∧
    ((tripState 0 false).self = .core 0 ∧ vfExists ((tripState 0 false).core 0) 0 = true ∧ (((tripState 0 false).core 0).vfRegion 0).tripped = false) ∧
    ((((tripState 10 true).core 0).vfRegion 0).tripped = true ∧ 10 ≤ (((tripState 10 true).core 0).vfRegion 0).cool) ∧
    (((tripState 9 true).core 0).vfRegion 0).cool < 10 ∧
    (∀ l : Map (Option Nat), l ∈ [[], [(1, some 5)], [(2, some 5)], [(3, some 5)]] → let s := noticed l
     s.self = .core 0 ∧ (2 : BitVec 2) ∈ (s.core 0).noticeDue ∧ (s.thread 0).stall = none ∧
       (notedLately s 0 2 = true ↔ l = [(2, some 5)] ∨ l = [(3, some 5)])) := by
  decide +kernel

/-- A measurement log of 8,192 entries. -/
def fullLog : List LogEntry := List.replicate 8192 { index := 0, asid := 0, epoch := 0, addr := 0, digest := 0 }
theorem fullLog_length : 8192 ≤ fullLog.length := by rw [fullLog, List.length_replicate]
def descBytes : List Byte := toBytes 72 0 ++ [7, 4, 4, 4] ++ toBytes 52 0

theorem witness_MailboxRequests :
    (let s := moduleTurn { step := 5 }
     s.self = .module ∧ mboxLive s = true ∧ s.head.recovery = false ∧ logFull s = false ∧ s.head.holding = false ∧
       descOk (readMem s (hostBase + 0) 128) = false) ∧
    (let s := writeMem (moduleTurn { step := 5 }) hostBase descBytes
     s.self = .module ∧ mboxLive s = true ∧ logFull s = false ∧ 0 + 128 ≤ 2 ^ 47 ∧ descOk (readMem s (hostBase + 0) 128) = true) ∧
    (let r : HandlerReq := { die := 0, mask := 1, entry := 1, words := [0, 0x40020], imem := [0x13], dmem := [] }
     r.imem.length ≤ 1024 * ((r.words.getD 1 0).toNat / 2 ^ 5 % 64) ∧ r.dmem.length ≤ 256 * ((r.words.getD 1 0).toNat / 2 ^ 17 % 128)) ∧
    ((moduleTurn { step := 7, log := fullLog }).self = .module ∧ mboxLive (moduleTurn { step := 7, log := fullLog }) = true ∧
      logFull (moduleTurn { step := 7, log := fullLog }) = true) ∧
    ((moduleTurn { step := 5, holding := true }).head.holding = true ∧ (moduleTurn { step := 5, holding := true }).head.step < 6) ∧
    (9 < (255 : BitVec 8).toNat ∧ 668 < 669 ∧ 0 + 384 ≤ 2 ^ 47) :=
  ⟨by decide +kernel, by decide +kernel, by decide +kernel, ⟨rfl, rfl, decide_eq_true fullLog_length⟩, by decide +kernel, by decide⟩

/-- The foreman of die 0 with task type 1 as given; the image of the CLOAD block at virtual address 64 is at 128. -/
def typed (w : List (BitVec 64)) (s : State) : State :=
  { s.modForeman 0 (fun f => (List.range w.length).foldl (fun f i => f.setType 1 i (w.getD i 0)) f) with self := .foreman 0 }
def imageState : State := withImage 1 mapped

theorem witness_ResetAndRegisters :
    ((moduleTurn { step := 0 }).self = .module ∧ (moduleTurn { step := 2 }).head.step < 7 ∧ (moduleTurn { step := 2 }).head.holding = false ∧
      (moduleTurn { step := 2 }).head.recovery = false ∧ (moduleTurn { step := 2 }).head.failure = none ∧ (moduleTurn { step := 4 }).head.step = 4) ∧
    (7 ≤ (moduleTurn { step := 7 }).head.step) ∧
    (let w : RegWrite := { master := 1016, offset := 0x4000000, value := 1 }
     w.offset % 8 = 0 ∧ mboxLive (moduleTurn { step := 7 }) = true ∧ hostMayWrite (regBlock w.offset) = true) ∧
    (let w : RegWrite := { master := 1016, offset := 0x8080000, value := 1 }
     w.offset % 8 = 0 ∧ hostMayWrite (regBlock w.offset) = false ∧ hostReaches (moduleTurn { step := 7 }) (regBlock w.offset) = true ∧ regBlock w.offset ≠ .unassigned) ∧
    (hostReaches (moduleTurn { step := 7, recovery := true }) (.pithead 0) = true ∧ hostReaches (moduleTurn { step := 4 }) (.pithead 0) = false) ∧
    (mboxLive (moduleTurn { step := 7 }) = true ∧ hostMayRead (regBlock 0) = true ∧ hostMayRead (regBlock 0x10000) = false) ∧
    (entryBusy (State.reset.setHart 0 { ev := some (evt 0) }) 0 1 = true ∧ (readBlockWord State.reset (.slice 0 128)).isSome = true) ∧
    ((readBlockWord State.reset (.foreman 0 24)).isSome = true ∧ (readBlockWord State.reset (.foreman 0 0x220)).isSome = true ∧
      (State.reset.foreman 0).pool.length ≤ 1024) ∧
    (let u := typed [] State.reset
     u.self = .foreman 0 ∧ (u.foreman 0).typeValid 1 = false ∧ (u.foreman 0).typeCage 1 = 0) ∧
    (let u := typed [0, 0, 0, 0, 0, 0x40000] imageState
     u.self = .foreman 0 ∧ (u.foreman 0).typeValid 1 = false ∧ (u.foreman 0).image 1 % 64 = 0 ∧ (u.foreman 0).entryPc 1 % 4 = 0 ∧
       (u.foreman 0).typeCage 1 = 64 ∧ (u.foreman 0).scratch 1 ≤ 32 ∧
       (imageAt u ((u.foreman 0).typeAsid 1) ((u.foreman 0).image 1)).isSome = true ∧ logFull u = false) := by
  decide +kernel

/-! ### Witnesses: words, steps, the invariant -/

theorem witness_ThreadWordsRoundTrip : encodeThread (.add 31 30 29) = some 0x07FEE800 ∧ decodeThread 0x07FEE800 = .ok (.add 31 30 29) := by decide +kernel
theorem witness_OtherWordsRoundTrip : encodeSlot (.vadd ⟨0, 3, 0, 6, 0⟩) = some 0x02060C00 ∧ decodeSlot 0x02060C00 = .ok (.vadd ⟨0, 3, 0, 6, 0⟩) ∧
    encodeAssayer (.ayLdl 13 10 5) = some 0x00D5028B ∧ (Instr.sclose cmd0).wf = true ∧ encodeCmd (.sclose cmd0) = some (0x06 * 2 ^ 120 + 7 * 2 ^ 104) ∧
    decodeCmd (0x06 * 2 ^ 120 + 7 * 2 ^ 104) = .ok (.sclose cmd0) := by decide +kernel

/-- The state in which the turn of s begins. -/
def begins (s : State) : State := begin_ s (nextTurn s)
def lihState : State := State.reset.withFetchWord 32 0x24C15670
def slotState : State := State.reset.withFetchWord 32 0x02060C00
def cmdState : State := State.reset.withFetchWord 128 (0x40 * 2 ^ 120 + 7 * 2 ^ 104)
def retireState : State := { retiring 0 with agenda := [⟨.queue 0 1 0, none⟩] }
def hartState : State := State.reset.withFetchWord 32 0x00D5028B

theorem witness_StepRunsDecodedInstruction :
    (nextTurn { State.reset with agenda := [⟨.module, some .coldReset⟩] }).what = some .coldReset ∧ encode .coldReset = none ∧
    ((nextTurn lihState).what = none ∧ (nextTurn lihState).who = .thread 0 ∧ ((begins lihState).thread 0).run = .running ∧
      ((begins lihState).thread 0).stepDue = false ∧ taskOf (begins lihState) 0 = none ∧ ((begins lihState).thread 0).pend = [] ∧
      ((begins lihState).thread 0).pc.toNat % 4 = 0 ∧ inWindow ((begins lihState).thread 0).pc.toNat = false ∧
      trapDue (begins lihState) 0 = false ∧
      readyAcc (walkFor (begins lihState) (cacheCore 0) 0 0) (fun b0 => match translate b0 (cacheCore 0) 0 0 .fetch true with
       | (b1, .ok pa _) => decide (target pa = .slice (homeSlice placeCode)) && (match fetchAt b1 0 pa 0 with
         | .ready b2 key => (b2.thread 0).fetched.isEmpty && (b2.thread 0).loads.isEmpty &&
            decide (decodeThread (BitVec.ofNat 32 (readNat b2 key 4)) = .ok (.lih 6 1 0x5670))
         | _ => false)
       | _ => false) = true) ∧
    (∀ o ∈ [Outside.readReg 1008 0, Outside.atomicReg 1008 0], let s := { State.reset with agenda := [⟨.outside o, none⟩] }
      (nextTurn s).what = none ∧ (nextTurn s).who = .outside o) ∧
    ((nextTurn slotState).what = none ∧ (match siteOf (begins slotState) 0 0 0 0 with
      | some st => decide ((nextTurn slotState).who = .tile st.k st.y st.x st.n ∧ heldKill (begins slotState) st = none ∧ isMemTile st.y st.x = false ∧
          (leavingAt (begins slotState) st).isNone ∧ dueSlots (begins slotState) st = [st.n] ∧ isSystolic st = false ∧
          decodeSlot (slotWord st st.n) = .ok (.vadd ⟨0, 3, 0, 6, 0⟩)) &&
          (match controlReady ((begins slotState).modTile st.key (fun t => { t with due := [] })) st (slotWord st st.n) with | .no => true | _ => false)
      | none => false) = true) ∧
    ((nextTurn cmdState).what = none ∧ (nextTurn cmdState).who = .queue 0 1 0 ∧
      ((queueCmds (begins cmdState) 0 1)[0]?).any (fun c => decide (c.phase = .queued ∧ decodeCmd c.word = .ok (.meterCeil (cmdFields c.word)))) = true) ∧
    ((nextTurn retireState).what = none ∧ (nextTurn retireState).who = .queue 0 1 0 ∧
      ((queueCmds (begins retireState) 0 1)[0]?).any (fun c => decide (c.phase = .done 0)) = true) ∧
    ((nextTurn hartState).what = none ∧ (nextTurn hartState).who = .hart 0 0 ∧
      ((begins hartState).hart 0).ev.any (fun e => ((begins hartState).hart 0).start.isNone && canIssue (begins hartState) 0 e &&
        inWin (imemWin (begins hartState) 0 e.entry) ((begins hartState).hart 0).pc.toNat 4 &&
        decide (readNat (begins hartState) (imemAt 0 ((begins hartState).hart 0).pc.toNat) 2 % 4 = 3)) = true) := by
  decide +kernel

theorem lih_threads : lihState.threads = [(0, lihState.thread 0)] := by decide +kernel
theorem lih_cores : lihState.cores = [(0, lihState.core 0)] := by decide +kernel

theorem lih_safe : Safe lihState := by
  refine ⟨by decide +kernel, fun k => ?_, fun k => ?_⟩
  · rw [State.thread, lih_threads]
    by_cases h : k = 0
    · subst h; decide +kernel
    · have : Map.get ({} : Thread) [(0, lihState.thread 0)] k = {} := by
        simp [Map.get, Ne.symm h]
      rw [this]; decide
  · rw [State.core, lih_cores]
    by_cases h : k = 0
    · subst h; decide +kernel
    · have : Map.get ({} : Core) [(0, lihState.core 0)] k = {} := by
        simp [Map.get, Ne.symm h]
      rw [this]; decide

theorem witness_ThreadStepsStaySafe : Safe lihState ∧ nextTurn lihState = ⟨.thread 0, none⟩ ∧
    (∃ u j, heldThread (begin_ lihState (nextTurn lihState)) 0 = (u, j) ∧ decide (j = some (.lih 6 1 0x5670)) = true) ∧
    threadForm (.lih 6 1 0x5670) = true ∧ ∃ t, step lihState = .next t :=
  ⟨lih_safe, by decide +kernel, pair_spec (P := fun _ j => decide (j = some (Instr.lih 6 1 0x5670))) _ (by decide +kernel), by decide,
    next_ex (by decide +kernel)⟩

end Sys2Proof.Tests
end

section
/-!
The register file of a control thread (00_scope.md R9): what each register reads after each write, what a write to it
or a retirement leaves alone, and from these the frame of every instruction that works on registers and the pc alone.
-/
namespace Sys2Proof.Machine

open Sys2Proof

/-! ### Reads after writes -/

theorem rg_wg_ne (s : State) (k : Nat) {d r : BitVec 5} (v : Word) (h : d ≠ r) : rg (wg s k d v) k r = rg s k r := by
  rw [rg_wg, if_neg h.symm]
  split
  case isTrue hr => rw [hr, rg_zero]
  case isFalse => rfl

theorem rp_zero (s : State) (k : Nat) : rp s k 0 = true := rfl

/-- The mask of a predicate has that predicate's bit alone. -/
theorem predicateMask_getLsbD (d r : BitVec 3) : (1#8 <<< d.toNat).getLsbD r.toNat = decide (r = d) := by
  have hd : d.toNat < 8 := d.isLt
  rw [← BitVec.twoPow_eq, BitVec.getLsbD_twoPow]
  simp [hd, ← BitVec.toNat_inj, eq_comm]

/-- A predicate after a write to one. -/
theorem rp_wp (s : State) (k : Nat) (d r : BitVec 3) (b : Bool) :
    rp (wp s k d b) k r = if r = 0 then true else if r = d then b else rp s k r := by
  by_cases hr : r = 0
  · rw [hr, rp_zero, if_pos rfl]
  by_cases hd : d = 0
  · rw [if_neg hr, hd, if_neg hr, wp, if_pos rfl]
  have hlt : r.toNat < 8 := r.isLt
  rw [rp, rp, wp, if_neg hr, if_neg hr, if_neg hr, if_neg hd, State.modThread_thread_same]
  cases b with
  | true =>
    simp only [if_true, BitVec.getLsbD_or, predicateMask_getLsbD]
    by_cases h : r = d <;> simp [h]
  | false =>
    simp only [Bool.false_eq_true, if_false, BitVec.getLsbD_and, BitVec.getLsbD_not, predicateMask_getLsbD, hlt]
    by_cases h : r = d <;> simp [h]

theorem rp_wp_ne (s : State) (k : Nat) {d r : BitVec 3} (b : Bool) (h : d ≠ r) : rp (wp s k d b) k r = rp s k r := by
  rw [rp_wp, if_neg h.symm]
  split
  case isTrue hr => rw [hr, rp_zero]
  case isFalse => rfl

/-- A command register after a write to one. -/
theorem rq_wq (s : State) (k : Nat) (d r : BitVec 3) (v : QWord) :
    rq (wq s k d v) k r = if r = d then v else rq s k r := by
  have h : r.toNat = d.toNat ↔ r = d := BitVec.toNat_inj
  rw [rq, wq, State.modThread_thread_same, Map.get_set]
  simp only [h, rq]

theorem rq_wq_ne (s : State) (k : Nat) {d r : BitVec 3} (v : QWord) (h : d ≠ r) : rq (wq s k d v) k r = rq s k r := by
  rw [rq_wq, if_neg h.symm]

/-- Settles O7: each of the three files reads back what was written to it, but for g0 and p0. -/
theorem registersReadWhatWasWritten : Obligations.RegistersReadWhatWasWritten :=
  fun s k d r v p q b x y w => ⟨rg_wg s k d r v, rp_wp s k p q b, rq_wq s k x y w⟩

/-! ### The other two files, and retirement -/

theorem rg_modThread (s : State) (k : Nat) (r : BitVec 5) (f : Thread → Thread) (h : (f (s.thread k)).g = (s.thread k).g) :
    rg (s.modThread k f) k r = rg s k r := by
  simp only [rg, State.modThread_thread_same, h]

theorem rp_modThread (s : State) (k : Nat) (r : BitVec 3) (f : Thread → Thread) (h : (f (s.thread k)).p = (s.thread k).p) :
    rp (s.modThread k f) k r = rp s k r := by
  simp only [rp, State.modThread_thread_same, h]

theorem rq_modThread (s : State) (k : Nat) (r : BitVec 3) (f : Thread → Thread) (h : (f (s.thread k)).q = (s.thread k).q) :
    rq (s.modThread k f) k r = rq s k r := by
  simp only [rq, State.modThread_thread_same, h]

@[simp] theorem rp_wg (s : State) (k : Nat) (d : BitVec 5) (v : Word) (r : BitVec 3) : rp (wg s k d v) k r = rp s k r := by
  unfold wg; split
  · rfl
  · exact rp_modThread _ _ _ _ rfl
@[simp] theorem rq_wg (s : State) (k : Nat) (d : BitVec 5) (v : Word) (r : BitVec 3) : rq (wg s k d v) k r = rq s k r := by
  unfold wg; split
  · rfl
  · exact rq_modThread _ _ _ _ rfl
@[simp] theorem rg_wp (s : State) (k : Nat) (d : BitVec 3) (b : Bool) (r : BitVec 5) : rg (wp s k d b) k r = rg s k r := by
  unfold wp; split
  · rfl
  · exact rg_modThread _ _ _ _ rfl
@[simp] theorem rq_wp (s : State) (k : Nat) (d : BitVec 3) (b : Bool) (r : BitVec 3) : rq (wp s k d b) k r = rq s k r := by
  unfold wp; split
  · rfl
  · exact rq_modThread _ _ _ _ rfl
@[simp] theorem rg_wq (s : State) (k : Nat) (d : BitVec 3) (v : QWord) (r : BitVec 5) : rg (wq s k d v) k r = rg s k r :=
  rg_modThread _ _ _ _ rfl
@[simp] theorem rp_wq (s : State) (k : Nat) (d : BitVec 3) (v : QWord) (r : BitVec 3) : rp (wq s k d v) k r = rp s k r :=
  rp_modThread _ _ _ _ rfl

@[simp] theorem rg_retireTo (s : State) (k : Nat) (pc : Word) (r : BitVec 5) : rg (retireTo s k pc) k r = rg s k r :=
  rg_modThread _ _ _ _ rfl
@[simp] theorem rp_retireTo (s : State) (k : Nat) (pc : Word) (r : BitVec 3) : rp (retireTo s k pc) k r = rp s k r :=
  rp_modThread _ _ _ _ rfl
@[simp] theorem rq_retireTo (s : State) (k : Nat) (pc : Word) (r : BitVec 3) : rq (retireTo s k pc) k r = rq s k r :=
  rq_modThread _ _ _ _ rfl

/-! ### What stays outside the register file -/

/-- s and t differ in nothing but the registers, the pc and what an instruction in progress holds of thread k. -/
def onlyFile (s t : State) (k : Nat) : Prop := onlyThread s t k ∧ sameButFile (s.thread k) (t.thread k)

theorem onlyFile_refl (s : State) (k : Nat) : onlyFile s s k := ⟨⟨rfl, fun _ _ => rfl⟩, rfl⟩

theorem onlyFile_trans {s t u : State} {k : Nat} (hst : onlyFile s t k) (htu : onlyFile t u k) : onlyFile s u k := by
  obtain ⟨⟨hs, hj⟩, hf⟩ := hst
  obtain ⟨⟨ht, hj'⟩, hf'⟩ := htu
  refine ⟨⟨ht.trans ?_, fun j h => (hj' j h).trans (hj j h)⟩, hf'.trans ?_⟩
  · rw [hs]
  · rw [hf]

theorem onlyFile_modThread (s : State) (k : Nat) (f : Thread → Thread) (h : sameButFile (s.thread k) (f (s.thread k))) :
    onlyFile s (s.modThread k f) k :=
  ⟨⟨rfl, fun j hj => State.modThread_thread_ne s k j f hj⟩, by rwa [State.modThread_thread_same]⟩

theorem onlyFile_wg (s : State) (k : Nat) (d : BitVec 5) (v : Word) : onlyFile s (wg s k d v) k := by
  unfold wg; split
  · exact onlyFile_refl s k
  · exact onlyFile_modThread s k _ rfl

theorem onlyFile_wp (s : State) (k : Nat) (d : BitVec 3) (b : Bool) : onlyFile s (wp s k d b) k := by
  unfold wp; split
  · exact onlyFile_refl s k
  · exact onlyFile_modThread s k _ rfl

theorem onlyFile_wq (s : State) (k : Nat) (d : BitVec 3) (v : QWord) : onlyFile s (wq s k d v) k := onlyFile_modThread s k _ rfl

theorem onlyFile_retireTo (s : State) (k : Nat) (pc : Word) : onlyFile s (retireTo s k pc) k := onlyFile_modThread s k _ rfl

/-! ### One write to the register file -/

/-- What a register instruction writes besides the pc: nothing, or one register of one of the three files. -/
inductive FileWrite where
  | none
  | g (d : BitVec 5) (v : Word)
  | p (d : BitVec 3) (b : Bool)
  | q (d : BitVec 3) (v : QWord)

/-- The state after the write. -/
def FileWrite.apply (s : State) (k : Nat) : FileWrite → State
  | .none => s
  | .g d v => wg s k d v
  | .p d b => wp s k d b
  | .q d v => wq s k d v

/-- The register written is the destination of instruction i. -/
def FileWrite.targets (i : Instr) : FileWrite → Prop
  | .none => True
  | .g d _ => destG i = some d
  | .p d _ => destP i = some d
  | .q d _ => destQ i = some d

theorem FileWrite.onlyFile_apply (s : State) (k : Nat) (w : FileWrite) : onlyFile s (w.apply s k) k := by
  cases w with
  | none => exact onlyFile_refl s k
  | g d v => exact onlyFile_wg s k d v
  | p d b => exact onlyFile_wp s k d b
  | q d v => exact onlyFile_wq s k d v

theorem FileWrite.rg_apply {i : Instr} {w : FileWrite} (s : State) (k : Nat) (r : BitVec 5) (hw : w.targets i)
    (hr : destG i ≠ some r) : rg (w.apply s k) k r = rg s k r := by
  cases w with
  | none => rfl
  | g d v => exact rg_wg_ne s k v (fun h => hr (h ▸ hw))
  | p d b => exact rg_wp s k d b r
  | q d v => exact rg_wq s k d v r

theorem FileWrite.rp_apply {i : Instr} {w : FileWrite} (s : State) (k : Nat) (r : BitVec 3) (hw : w.targets i)
    (hr : destP i ≠ some r) : rp (w.apply s k) k r = rp s k r := by
  cases w with
  | none => rfl
  | g d v => exact rp_wg s k d v r
  | p d b => exact rp_wp_ne s k b (fun h => hr (h ▸ hw))
  | q d v => exact rp_wq s k d v r

theorem FileWrite.rq_apply {i : Instr} {w : FileWrite} (s : State) (k : Nat) (r : BitVec 3) (hw : w.targets i)
    (hr : destQ i ≠ some r) : rq (w.apply s k) k r = rq s k r := by
  cases w with
  | none => rfl
  | g d v => exact rq_wg s k d v r
  | p d b => exact rq_wp s k d b r
  | q d v => exact rq_wq_ne s k v (fun h => hr (h ▸ hw))

/-! ### What a register instruction can do -/

/-- r is what a register instruction i of thread k may answer: a trap, or one write to its destination and retirement. -/
def fileOutcome (i : Instr) (s : State) (k : Nat) (r : Res) : Prop :=
  (∃ c v, r = .next (raise s k c v)) ∨ ∃ (w : FileWrite) (pc : Word), w.targets i ∧ r = .next (retireTo (w.apply s k) k pc)

section
variable {i : Instr} {s : State} {k : Nat}

theorem fileOutcome_raise (c : Code) (v : Word) : fileOutcome i s k (.next (raise s k c v)) := .inl ⟨c, v, rfl⟩

theorem fileOutcome_writeTo (w : FileWrite) (pc : Word) (h : w.targets i) :
    fileOutcome i s k (.next (retireTo (w.apply s k) k pc)) := .inr ⟨w, pc, h, rfl⟩

theorem fileOutcome_write (w : FileWrite) (h : w.targets i) : fileOutcome i s k (.next (retire (w.apply s k) k)) :=
  fileOutcome_writeTo w _ h

theorem fileOutcome_setG {d : BitVec 5} {v : Word} (h : destG i = some d) : fileOutcome i s k (setG s k d v) :=
  fileOutcome_write (.g d v) h

theorem fileOutcome_branch {n : Nat} (b : Bool) (o : BitVec n) : fileOutcome i s k (branch s k b o) := by
  cases b with
  | true => exact fileOutcome_writeTo .none _ trivial
  | false => exact fileOutcome_write .none trivial

theorem fileOutcome_ite {c : Prop} [Decidable c] {x y : Res} (hx : fileOutcome i s k x) (hy : fileOutcome i s k y) :
    fileOutcome i s k (if c then x else y) := by
  split
  · exact hx
  · exact hy

theorem fileOutcome_onThread {f : Nat → Res} (hs : s.self = .thread k) (h : fileOutcome i s k (f k)) :
    fileOutcome i s k (onThread s f) := by
  rwa [onThread_run s k f hs]

theorem fileOutcome_threadOp {f : Nat → Res} (hs : s.self = .thread k) (h : fileOutcome i s k (f k)) :
    fileOutcome i s k (threadOp i s f) :=
  fileOutcome_onThread hs (fileOutcome_ite h (fileOutcome_raise _ _))

end

/-- Every register instruction traps, or writes at most its destination and retires. -/
theorem exec_fileOutcome (i : Instr) (s : State) (k : Nat) (hi : registerForm i = true) (hs : s.self = .thread k) :
    fileOutcome i s k (exec i s) := by
  cases i with
  | add | sub | mul | mulh | div | divu | rem | remu | and | or | xor | shl | shr | sar | min | max | minu | maxu | clz | popc
  | randk | addi | andi | ori | xori | shli | shri | sari | lih | addpc | madd | sel =>
    exact fileOutcome_onThread hs (fileOutcome_setG rfl)
  | sext | zext | bitf | biti => exact fileOutcome_threadOp hs (fileOutcome_setG rfl)
  | cmpCc p a b c => exact fileOutcome_threadOp hs (fileOutcome_write (.p p _) rfl)
  | cmpiCc p a c n => exact fileOutcome_threadOp hs (fileOutcome_write (.p p _) rfl)
  | pand p a b | por p a b | pnot p a => exact fileOutcome_onThread hs (fileOutcome_write (.p p _) rfl)
  | qset q a h | qseti q c n | qmov q a => exact fileOutcome_onThread hs (fileOutcome_write (.q q _) rfl)
  | nop => exact fileOutcome_onThread hs (fileOutcome_write .none trivial)
  | brCc a b c o => exact fileOutcome_threadOp hs (fileOutcome_branch _ o)
  | bp p o | bpn p o | jmp o => exact fileOutcome_onThread hs (fileOutcome_branch _ o)
  | jal d o => exact fileOutcome_onThread hs (fileOutcome_writeTo (.g d _) _ rfl)
  | jalr d a n =>
    exact fileOutcome_onThread hs (fileOutcome_ite (fileOutcome_raise _ _) (fileOutcome_writeTo (.g d _) _ rfl))
  | loop a o => exact fileOutcome_threadOp hs (fileOutcome_ite (fileOutcome_branch _ o) (fileOutcome_setG rfl))
  | _ => exact absurd hi Bool.false_ne_true

/-- Settles O10: but for a trap, one write to the destination and the retirement are all that has changed. -/
theorem registerFormsFrame : Obligations.RegisterFormsFrame := by
  intro i s t k hi hs ht
  obtain ⟨c, v, h⟩ | ⟨w, pc, hw, h⟩ := exec_fileOutcome i s k hi hs
  · cases ht.symm.trans h
    exact .inl ⟨c, v, rfl⟩
  · cases ht.symm.trans h
    obtain ⟨hthread, hfile⟩ := onlyFile_trans (w.onlyFile_apply s k) (onlyFile_retireTo _ k pc)
    refine .inr ⟨hthread, hfile, fun r hr => ?_, fun r hr => ?_, fun r hr => ?_⟩
    · rw [rg_retireTo, w.rg_apply s k r hw hr]
    · rw [rp_retireTo, w.rp_apply s k r hw hr]
    · rw [rq_retireTo, w.rq_apply s k r hw hr]

end Sys2Proof.Machine
end

section
/-!
One step of the module (02_execution_model.md): what the turn of each kind of agent runs, said once for each agent,
and from these what a step is.
-/
namespace Sys2Proof.Machine

open Sys2Proof

/-! ### A step is the turn it takes -/

/-- An event that the agenda names runs as it stands. -/
theorem step_of_event {s : State} {i : Instr} (hw : (nextTurn s).what = some i) (he : encode i = none) :
    step s = exec i (begin_ s (nextTurn s)) := by
  have hev : isEvent i = true := by rw [isEvent, he]; rfl
  rw [step]
  simp only [hw, hev, if_true]

/-- A turn that names no event runs the instruction that its agent holds. -/
theorem step_of_held {s u : State} {i : Instr} (hw : (nextTurn s).what = none)
    (hh : held (begin_ s (nextTurn s)) = (u, some i)) : step s = exec i u := by
  rw [step]
  simp only [hw, hh]

/-- A turn in which its agent holds no instruction ends where looking for one has led. -/
theorem step_of_idle {s u : State} (hw : (nextTurn s).what = none)
    (hh : held (begin_ s (nextTurn s)) = (u, none)) : step s = .next u := by
  rw [step]
  simp only [hw, hh]

@[simp] theorem begin_self (s : State) (t : Turn) : (begin_ s t).self = t.who := rfl

/-! ### The control thread -/

/-- With nothing fetched ahead, the word that executes is the one in memory. -/
theorem fetchedWord_of_nil {s : State} {k : Nat} (h : (s.thread k).fetched = []) (asid : BitVec 16) (va : Nat) (now : BitVec 32) :
    fetchedWord s k asid va now = (s, now) := by
  rw [fetchedWord, h]; rfl

theorem loads_fetchAhead (s : State) (k key : Nat) (asid : BitVec 16) (va : Nat) :
    ((fetchAhead s k key asid va).thread k).loads = (s.thread k).loads := by
  rw [fetchAhead, State.modThread_thread_same]

/-- With no load outstanding, no instruction waits for one. -/
theorem awaitLoads_of_nil {s : State} {k : Nat} (h : (s.thread k).loads = []) (i : Instr) : awaitLoads s k i = (s, some i) := by
  rw [awaitLoads, h]; rfl

/-- A fetch that walks, translates and reads its home gives the instruction of the word there. -/
theorem fetchThread_of_ready {b b0 b1 b2 : State} {k w pa key : Nat} {seam : Bool} {i : Instr}
    (hal : (b.thread k).pc.toNat % 4 = 0) (hwin : (b.thread k).pc.toNat < 2 ^ 56 → inWindow (b.thread k).pc.toNat = false)
    (hwalk : walkFor b (cacheCore k) (b.thread k).asid (b.thread k).pc.toNat = .ready b0 w)
    (htr : translate b0 (cacheCore k) (b.thread k).asid (b.thread k).pc.toNat .fetch true = (b1, .ok pa seam))
    (htgt : ∀ x y, target pa ≠ .scratch x y) (hf : fetchAt b1 k pa (b.thread k).pc = .ready b2 key)
    (hnil : (b2.thread k).fetched = []) (hloads : (b2.thread k).loads = [])
    (hdec : decodeThread (BitVec.ofNat 32 (readNat b2 key 4)) = .ok i) :
    fetchThread b k = (fetchAhead b2 k key (b.thread k).asid (b.thread k).pc.toNat, some i) := by
  have hwin' : ¬ ((b.thread k).pc.toNat < 2 ^ 56 ∧ inWindow (b.thread k).pc.toNat = true) :=
    fun ⟨hlt, hin⟩ => by simp [hwin hlt] at hin
  rw [fetchThread]
  simp only [hal, ne_eq, not_true_eq_false, if_false, if_neg hwin', hwalk, htr]
  cases ht : target pa with
  | scratch x y => exact absurd ht (htgt x y)
  | _ =>
    simp only [hf, fetchedWord_of_nil hnil, hdec]
    exact awaitLoads_of_nil ((loads_fetchAhead _ _ _ _ _).trans hloads) i

/-- A running thread with no trap, single step, end of its task or pending fault before it fetches. -/
theorem heldThread_fetches {b : State} {k : Nat} (hrun : (b.thread k).run = .running) (htrap : trapDue b k = false)
    (hstep : (b.thread k).stepDue = false) (htask : ∀ x, taskOf b k = some x → x.2.doomed = false ∧ x.2.stopping = false)
    (hpend : (b.thread k).pend = [] ∨ (b.thread k).status.getLsbD 3 = false) : heldThread b k = fetchThread b k := by
  have hasync : ((b.thread k).stall.isNone && (b.thread k).awaits.isNone && (b.thread k).status.getLsbD 3 && !(b.thread k).pend.isEmpty) = false := by
    rcases hpend with h | h <;> simp only [h, List.isEmpty_nil, Bool.not_true, Bool.and_false, Bool.false_and]
  rw [heldThread]
  cases hx : taskOf b k with
  | none =>
    simp only [hrun, htrap, hstep, hasync, ne_eq, not_true_eq_false, Bool.false_eq_true, or_self, Bool.false_and, if_false]
  | some x =>
    obtain ⟨hd, hst⟩ := htask x hx
    simp only [hrun, htrap, hstep, hasync, hd, hst, ne_eq, not_true_eq_false, Bool.false_eq_true, or_self, Bool.false_and, if_false]

/-! ### The other agents that fetch -/

/-- A tile with no KILL, nothing left to send and no control token for its slot runs the op of the slot that is due. -/
theorem heldTile_of_due {b : State} {st : Site} {rest : List Nat} {i : Instr} (hkill : heldKill b st = none)
    (hleave : leavingAt b st = none) (hmem : isMemTile st.y st.x = false) (hdue : dueSlots b st = st.n :: rest)
    (hsys : isSystolic st = false)
    (hctl : controlReady (b.modTile st.key (fun t => { t with due := rest })) st (slotWord st st.n) = .no)
    (hdec : decodeSlot (slotWord st st.n) = .ok i) :
    heldTile b st = (b.modTile st.key (fun t => { t with due := rest }), some i) := by
  rw [heldTile]
  simp [hkill, hleave, hmem, hdue, heldSlot, wordOf', hctl, hsys, hdec]

/-- A command of a queue that has not ended runs what its word stands for. -/
theorem heldQueue_of_open {b : State} {k q pos : Nat} {c : QCmd} {i : Instr} (hc : (queueCmds b k q)[pos]? = some c)
    (hopen : ∀ v, c.phase ≠ .done v) (hdec : decodeCmd c.word = .ok i) : heldQueue b k q pos = some i := by
  rw [heldQueue]
  cases hp : c.phase with
  | done v => exact absurd hp (hopen v)
  | _ => simp only [hc, hp, hdec]; rfl

/-- A command that has ended retires at the head of its queue. -/
theorem heldQueue_of_done {b : State} {k q : Nat} {c : QCmd} {v : Code} (hc : (queueCmds b k q)[0]? = some c)
    (hdone : c.phase = .done v) : heldQueue b k q 0 = some .commandRetire := by
  rw [heldQueue]
  simp only [hc, hdone, if_true]

/-- A window that holds four bytes at an address holds the first two of them. -/
theorem inWin_of_le {w : Nat × Nat} {a m n : Nat} (h : inWin w a n = true) (hm : m ≤ n) : inWin w a m = true := by
  simp only [inWin, decide_eq_true_eq] at h ⊢
  omega

/-- A handler context within its budget, with an uncompressed word at its pc, runs that word. -/
theorem heldHart_of_word {b : State} {h : Nat} {e : SliceEv} (hev : (b.hart h).ev = some e)
    (hbudget : (b.hart h).start = none ∨ usedCycles b h < budgetOf b h e) (hcan : canIssue b h e = true)
    (hwin : inWin (imemWin b (h / 4) e.entry) (b.hart h).pc.toNat 4 = true)
    (hlow : readNat b (imemAt (h / 4) (b.hart h).pc.toNat) 2 % 4 = 3) :
    heldHart b h = (b, some (decodeAssayer (BitVec.ofNat 32 (readNat b (imemAt (h / 4) (b.hart h).pc.toNat) 4)))) := by
  have hspent : ¬ ((b.hart h).start.isSome = true ∧ budgetOf b h e ≤ usedCycles b h) := by
    rintro ⟨hs, hle⟩
    rcases hbudget with hn | hlt
    · simp [hn] at hs
    · omega
  rw [heldHart]
  simp only [hev, if_neg hspent, hcan, hwin, inWin_of_le hwin (by decide : 2 ≤ 4), hlow, Bool.true_eq_false, if_false, ne_eq,
    not_true_eq_false]

/-- Settles O58: each agent's turn, by what that agent holds. -/
theorem stepRunsDecodedInstruction : Obligations.StepRunsDecodedInstruction := by
  intro s i n b
  have hb : b = begin_ s (nextTurn s) := rfl
  refine ⟨step_of_event, fun hwhat => ⟨?thread, ?tile, ?queue, ?retire, ?hart, ?readReg, ?atomicReg⟩⟩
  case thread =>
    intro k b0 w b1 b2 pa seam key hwho hrun htrap hstep htask hpend hal hwin hwalk htr htgt hf hnil hloads hdec
    refine step_of_held hwhat ?_
    rw [held, begin_self, hwho, ← hb]
    exact (heldThread_fetches hrun htrap hstep htask hpend).trans (fetchThread_of_ready hal hwin hwalk htr htgt hf hnil hloads hdec)
  case tile =>
    intro st rest hwho hsite hkill hleave hmem hdue hsys c hctl hdec
    refine step_of_held hwhat ?_
    rw [held, begin_self, hwho, ← hb]
    simp only [hsite]
    exact heldTile_of_due hkill hleave hmem hdue hsys hctl hdec
  case queue =>
    intro k q pos c hwho hc hopen hdec
    refine step_of_held hwhat ?_
    rw [held, begin_self, hwho, ← hb]
    simp only [heldQueue_of_open hc hopen hdec]
  case retire =>
    rintro k q pos c v hwho hc hdone rfl
    refine step_of_held hwhat ?_
    rw [held, begin_self, hwho, ← hb]
    simp only [heldQueue_of_done hc hdone]
  case hart =>
    intro h e hwho hev hbudget hcan hwin hlow
    refine step_of_held hwhat ?_
    rw [held, begin_self, hwho, ← hb]
    simp only [Nat.div_add_mod h 4, heldHart_of_word hev hbudget hcan hwin hlow]
  case readReg =>
    intro m off hwho
    refine step_of_idle hwhat ?_
    rw [held, begin_self, hwho]; rfl
  case atomicReg =>
    intro m off hwho
    refine step_of_idle hwhat ?_
    rw [held, begin_self, hwho]; rfl

end Sys2Proof.Machine
end

section
/-!
The events of a tile outside its op table (02_execution_model.md R35, 03_fabric.md R74 to R80, 05_online_arithmetic.md R125):
what each part of a tile's state reads after a write, how control tokens stand at a slot's inputs, and what each event does.
-/
namespace Sys2Proof.Machine

open Sys2Proof

/-! ### Reads after writes -/

theorem State.modTile_tile (s : State) (k j : Nat) (f : Tile → Tile) :
    (s.modTile k f).tile j = if j = k then f (s.tile j) else s.tile j := by
  by_cases h : j = k
  · rw [h, State.modTile_tile_same, if_pos rfl]
  · rw [State.modTile, State.setTile_tile, if_neg h, if_neg h]

@[simp] theorem tile_modRange_same (s : State) (key c : Nat) (f : RangeSt → RangeSt) :
    (modRange s key c f).tile key = { s.tile key with ranges := Map.modify {} (s.tile key).ranges c f } :=
  State.modTile_tile_same _ _ _

@[simp] theorem rangeOf_modRange_same (s : State) (key c : Nat) (f : RangeSt → RangeSt) :
    rangeOf (modRange s key c f) key c = f (rangeOf s key c) := by
  rw [rangeOf, tile_modRange_same, Map.modify, Map.get_set_same, rangeOf]

/-- Ranges stay where a write to a tile leaves its ranges alone. -/
theorem rangeOf_modTile (s : State) (k key c : Nat) (f : Tile → Tile) (h : ∀ t, (f t).ranges = t.ranges) :
    rangeOf (s.modTile k f) key c = rangeOf s key c := by
  rw [rangeOf, rangeOf, State.modTile_tile]
  split <;> simp only [h]

/-- Frame operands stay where a write to a tile leaves them alone. -/
theorem fch_modRange (s : State) (k c key : Nat) (f : RangeSt → RangeSt) :
    ((modRange s k c f).tile key).fch = (s.tile key).fch := by
  rw [modRange, State.modTile_tile]
  split <;> rfl

theorem inputOf_modRange (s : State) (k c key d : Nat) (f : RangeSt → RangeSt) :
    inputOf (modRange s k c f) key d = inputOf s key d := by
  rw [inputOf, inputOf, modRange, State.modTile_tile]
  split <;> rfl

@[simp] theorem inputOf_setInput_same (s : State) (key d : Nat) (l : List (Nat × Token)) : inputOf (setInput s key d l) key d = l := by
  rw [inputOf, setInput, State.modTile_tile_same, Map.get_set_same]

theorem slotSt_modTile (s : State) (st : Site) (k : Nat) (f : Tile → Tile) (h : ∀ t, (f t).slots = t.slots) :
    slotSt (s.modTile k f) st = slotSt s st := by
  rw [slotSt, slotSt, State.modTile_tile]
  split <;> simp only [h]

@[simp] theorem slotSt_setSlotSt_same (s : State) (st : Site) (v : SlotSt) : slotSt (setSlotSt s st v) st = v := by
  rw [slotSt, setSlotSt, State.modTile_tile_same, Map.get_set_same]

/-! ### Payloads in memory -/

/-- The first n bytes of a number, least significant first, make up its low 8 n bits. -/
theorem ofBytes_map_shiftRight (n x : Nat) :
    ofBytes ((List.range n).map (fun i => BitVec.ofNat 8 (x >>> (8 * i)))) = x % 2 ^ (8 * n) := by
  induction n generalizing x with
  | zero => simp [ofBytes, Nat.mod_one]
  | succ n ih =>
    have hshift : ∀ i, x >>> (8 * (i + 1)) = (x / 256) >>> (8 * i) := fun i => by
      rw [Nat.mul_add, Nat.add_comm, Nat.shiftRight_add, Nat.shiftRight_eq_div_pow x]
    rw [List.range_succ_eq_map, List.map_cons, List.map_map, ofBytes]
    simp only [Function.comp_def, Nat.succ_eq_add_one, hshift, ih, Nat.mul_zero, Nat.shiftRight_zero]
    rw [BitVec.toNat_ofNat, Nat.mul_succ, Nat.add_comm (8 * n), Nat.pow_add, Nat.mod_mul]

/-- Byte i of a payload written with every lane valid. -/
theorem readByte_writePay_all (s : State) (pa i : Nat) (p : Lanes) (h : i < 64) :
    readByte (writePay s pa 0xFFFF p) (pa + i) = payByte p i := by
  have hall : ∀ j : Fin 16, (0xFFFF : BitVec 16).getLsbD j = true := by decide
  have hv : (0xFFFF : BitVec 16).getLsbD (i / 4) = true := hall ⟨i / 4, by omega⟩
  rw [readByte, writePay, writeCells, writeCellsM_get, if_pos (Nat.le_add_right _ _), Nat.add_sub_cancel_left,
    List.getElem?_map, List.getElem?_range h]
  simp only [Option.map_some, hv, if_true, Option.join_some, Option.getD_some]

/-- A payload written with every lane valid is read back. -/
theorem readPay_writePay_all (s : State) (pa : Nat) (p : Lanes) : readPay (writePay s pa 0xFFFF p) pa = p := by
  have hbytes : readMem (writePay s pa 0xFFFF p) pa 64 = (List.range 64).map (fun i => BitVec.ofNat 8 (p.toNat >>> (8 * i))) :=
    List.map_congr_left (fun i hi => readByte_writePay_all s pa i p (List.mem_range.1 hi))
  rw [readPay, readNat, hbytes, ofBytes_map_shiftRight, show 8 * 64 = 512 from rfl, Nat.mod_eq_of_lt p.isLt,
    BitVec.ofNat_toNat, BitVec.setWidth_eq]

theorem readByte_writePay_outside (s : State) (pa a : Nat) (v : BitVec 16) (p : Lanes) (h : a < pa ∨ pa + 64 ≤ a) :
    readByte (writePay s pa v p) a = readByte s a :=
  readByte_writeCells_outside s pa a _ (by simpa using h)

@[simp] theorem readByte_modRange (s : State) (k c a : Nat) (f : RangeSt → RangeSt) : readByte (modRange s k c f) a = readByte s a := rfl

@[simp] theorem readByte_setInput (s : State) (k d a : Nat) (l : List (Nat × Token)) : readByte (setInput s k d l) a = readByte s a := rfl

@[simp] theorem readPay_modRange (s : State) (k c pa : Nat) (f : RangeSt → RangeSt) : readPay (modRange s k c f) pa = readPay s pa := by
  simp only [readPay, readNat, readMem, readByte_modRange]

@[simp] theorem inputOf_writePay (s : State) (pa key d : Nat) (v : BitVec 16) (p : Lanes) : inputOf (writePay s pa v p) key d = inputOf s key d := rfl

/-! ### Links and modes -/

/-- Where no link has failed, no direction charges LINK. -/
theorem linkFault_eq_none {s : State} {st : Site} (h : linksUp s st = true) {dirs : List Nat} (hd : ∀ d ∈ dirs, d < 4) (seg : Nat) :
    linkFault s st dirs seg = none := by
  rw [linkFault, Option.map_eq_none_iff, List.find?_eq_none]
  intro d hmem
  have hup := List.all_eq_true.1 h d (List.mem_range.2 (hd d hmem))
  simpa using hup

theorem field_lt {w : Nat} (x : BitVec w) (hi lo : Nat) : field x hi lo < 2 ^ (hi + 1 - lo) := Nat.mod_lt _ (Nat.two_pow_pos _)

/-- A field as a quotient and a remainder. -/
theorem field_eq_div_mod {w : Nat} (x : BitVec w) (hi lo : Nat) : field x hi lo = x.toNat / 2 ^ lo % 2 ^ (hi + 1 - lo) := by
  rw [field, Nat.shiftRight_eq_div_pow]

/-- But for SPLIT and the systolic mode, a slot sends control tokens over links of its tile. -/
theorem controlDirs_lt {st : Site} {sl : SlotSt} {w : BitVec 32} {kind : BitVec 4} (hsys : isSystolic st = false) (hop : opOf w ≠ 0x53)
    (hdigit : isDigitOp (opOf w) = false) :
    ∀ e ∈ controlDirs st sl w kind, e < 4 := by
  intro e he
  rw [controlDirs] at he
  split at he
  · rcases List.mem_append.1 (List.mem_dedup.1 he) with he | he
    · exact dirsOf_lt _ e he
    · rw [List.mem_singleton.1 he]
      exact field_lt w 1 0
  case h_2 h => exact absurd h hop
  case h_3 h => rw [h] at hdigit; exact absurd hdigit (by decide)
  · rw [hsys] at he; exact dirsOf_lt _ e he
  · exact dirsOf_lt _ e he

/-! ### Control tokens at a slot -/

/-- With nothing left of an earlier firing, nothing leaves. -/
theorem flushOut_of_nil {s : State} {st : Site} (h : (s.tile st.key).outbox = []) : flushOut s st = none := by
  rw [flushOut, leavingAt, h]; rfl

theorem waitingDirs_of_nil {s : State} {st : Site} (h : (s.tile st.key).outbox = []) : waitingDirs s st = [] := by
  rw [waitingDirs, h]; rfl

/-- A slot of an ordinary op, with some input, takes the control token that stands at the head of every input. -/
theorem controlReady_eq_controlAll {s : State} {st : Site} {w : BitVec 32} (hin : slotInputs w ≠ []) (hmerge : opOf w ≠ 0x52)
    (hdigit : isDigitOp (opOf w) = false) (hcut : opOf w = 0x45 → recordCut s st w = false) :
    controlReady s st w = controlAll s st (slotInputs w) false := by
  have hempty : (slotInputs w).isEmpty = false := by simpa using hin
  have hno : ¬ (opOf w = 0x45 ∧ recordCut s st w = true) := fun ⟨h, hc⟩ => by simp [hcut h] at hc
  rw [controlReady]
  simp only [hempty, hdigit, hmerge, if_neg hno, Bool.false_eq_true, false_and, if_false, decide_false]

/-- A control token other than SOT, EOT and RECONF leaves by every destination of its slot, and changes no slot. -/
theorem passControl_plain {s : State} {st : Site} {w : BitVec 32} {dirs : List Nat} {t : Token}
    (hkind : t.kind = kORDER ∨ t.kind = kMARK ∨ t.kind = kSBARTOK) (hmerge : opOf w ≠ 0x52) (hsplit : opOf w ≠ 0x53)
    (hout : (s.tile st.key).outbox = []) (hroom : ∀ e ∈ controlDirs st (slotSt s st) w t.kind, 1 ≤ credits s st.k st.y st.x e)
    (hlink : linkFault s st (controlDirs st (slotSt s st) w t.kind) t.seg = none) :
    passControl s st w dirs t = (controlDirs st (slotSt s st) w t.kind).foldl
      (fun s e => sendFrom s st e { t with slot := BitVec.ofNat 4 (field w 12 9) }) (dirs.foldl (fun s d => popInput s st d) s) := by
  have hkinds : t.kind ≠ kSOT ∧ t.kind ≠ kEOT ∧ t.kind ≠ kRECONF := by
    rcases hkind with h | h | h <;> rw [h] <;> decide
  obtain ⟨hsot, heot, hreconf⟩ := hkinds
  have hfree : (controlDirs st (slotSt s st) w t.kind).any
      (fun d => (waitingDirs s st).contains d || decide (credits s st.k st.y st.x d < 1)) = false := by
    rw [List.any_eq_false]
    intro d hd
    have := hroom d hd
    simp only [waitingDirs_of_nil hout, List.contains_nil, Bool.false_or, decide_eq_true_eq]
    omega
  rw [passControl]
  simp only [hfree, hlink, hsot, heot, hreconf, hmerge, hsplit, Bool.false_eq_true, if_false, false_and]

section

variable {s : State} {st : Site}

/-- The event at an ordinary slot: no frame tile, no systolic tile, nothing left to send, and an op that takes control tokens
from all its inputs together and sends them over links. -/
structure PlainSlot (s : State) (st : Site) : Prop where
  turn : s.self = .tile st.k st.y st.x st.n
  site : siteOf s st.k st.y st.x st.n = some st
  noFrames : isFrames st = false
  noSystolic : isSystolic st = false
  nothingLeft : (s.tile st.key).outbox = []
  noMerge : opOf (slotWord st st.n) ≠ 0x52
  noSplit : opOf (slotWord st st.n) ≠ 0x53
  noDigit : isDigitOp (opOf (slotWord st st.n)) = false
  noCut : opOf (slotWord st st.n) = 0x45 → recordCut s st (slotWord st st.n) = false

/-- Control tokens that do not match raise TOKEN. -/
theorem controlTokenForward_bad (h : PlainSlot s st) (hin : slotInputs (slotWord st st.n) ≠ []) {seg : Nat}
    (hctl : controlAll s st (slotInputs (slotWord st st.n)) false = .bad seg) :
    exec .controlTokenForward s = .next (tileFault s st fcTOKEN seg) := by
  show execControlTokenForward s = _
  rw [execControlTokenForward, onTile_ready s st _ h.turn h.site]
  simp only [flushOut_of_nil h.nothingLeft, h.noFrames, h.noSystolic, wordOf', Bool.false_eq_true, if_false,
    controlReady_eq_controlAll hin h.noMerge h.noDigit h.noCut, hctl]

/-- A control token other than SOT, EOT and RECONF passes the slot once it stands at every input. -/
theorem controlTokenForward_go (h : PlainSlot s st) (hup : linksUp s st = true) (hin : slotInputs (slotWord st st.n) ≠ [])
    {dirs : List Nat} {t : Token} (hctl : controlAll s st (slotInputs (slotWord st st.n)) false = .go dirs t)
    (hkind : t.kind = kORDER ∨ t.kind = kMARK ∨ t.kind = kSBARTOK)
    (hroom : ∀ e ∈ controlDirs st (slotSt s st) (slotWord st st.n) t.kind, 1 ≤ credits s st.k st.y st.x e) :
    exec .controlTokenForward s = .next ((controlDirs st (slotSt s st) (slotWord st st.n) t.kind).foldl
      (fun s e => sendFrom s st e { t with slot := BitVec.ofNat 4 (field (slotWord st st.n) 12 9) })
      (dirs.foldl (fun s d => popInput s st d) s)) := by
  have hsot : (t.kind == kSOT) = false := by
    rcases hkind with h | h | h <;> rw [h] <;> decide
  have hlink := linkFault_eq_none hup (controlDirs_lt (sl := slotSt s st) (kind := t.kind) h.noSystolic h.noSplit h.noDigit) t.seg
  show execControlTokenForward s = _
  rw [execControlTokenForward, onTile_ready s st _ h.turn h.site]
  simp only [flushOut_of_nil h.nothingLeft, h.noFrames, h.noSystolic, wordOf', Bool.false_eq_true, if_false,
    controlReady_eq_controlAll hin h.noMerge h.noDigit h.noCut, hctl, hsot, Bool.and_false,
    passControl_plain hkind h.noMerge h.noSplit h.nothingLeft hroom hlink]

end

/-! ### FIFO tiles and line buffers -/

/-- A FIFO tile releases its oldest token once the one released before it has gone. -/
theorem fifoTilePass_releases {s : State} {st : Site} {d : BitVec 2} {t : Token} {rest : List (Nat × Token)}
    (hturn : s.self = .tile st.k st.y st.x st.n) (hsite : siteOf s st.k st.y st.x st.n = some st) (hmode : isFifo st = true)
    (hel : fromElastic s st d.toNat = none) (hfifo : (rangeOf s st.key st.c).fifo = (d.toNat, t) :: rest)
    (hout : (rangeOf s st.key st.c).out = []) :
    exec (.fifoTilePass d) s = .next (modRange s st.key st.c (fun r => { r with fifo := rest, out := [(d.toNat, t)] })) := by
  show execFifoTilePass d s = _
  rw [execFifoTilePass, onTile_ready s st _ hturn hsite]
  simp only [hmode, hel, hfifo, hout, Bool.true_eq_false, if_false, if_true]

/-- A line buffer of two lines, with no line held, sends a NULL for the line above and the arriving token. -/
theorem lineBufferEmit_firstLine {s : State} {st : Site} {d : BitVec 2} {t : Token}
    (hturn : s.self = .tile st.k st.y st.x st.n) (hsite : siteOf s st.k st.y st.x st.n = some st) (hup : linksUp s st = true)
    (hmode : isLineBuffer st = true) (hhead : plainHead s st d.toNat = some t) (hdata : t.isData = true)
    (htwo : field st.cfg.cfg 18 16 = 2) (hnil : (rangeOf s st.key st.c).lines = []) (hlen : 0 < field st.cfg.cfg 15 4)
    (hroom : hasRoom s st (field (slotWord st t.slot.toNat) 16 13) 2 = true) {i : Instr}
    (hdec : decodeSlot (slotWord st t.slot.toNat) = .ok i) :
    let v := slotWord st t.slot.toNat
    let next := BitVec.ofNat 4 (field v 12 9)
    exec (.lineBufferEmit d) s = .next (modRange (tokenToBytes (emit (emit (popInput s st d.toNat) st (field v 16 13)
        { kind := kNULL, slot := next, tag := t.tag, frame := t.frame, seg := t.seg }) st (field v 16 13) { t with slot := next }) st 0 t)
      st.key st.c (fun r => { r with lines := r.lines ++ [t] })) := by
  have hctl : t.isControl = false := by
    have : t.kind = kWORD ∨ t.kind = kDIGIT ∨ t.kind = kNULL := by simpa [Token.isData] using hdata
    rcases this with h | h | h <;> rw [Token.isControl, h] <;> rfl
  have hheld : linesHeld st.cfg.cfg = 2 := by rw [linesHeld, htwo]; rfl
  have hfirst : ¬ 1 * field st.cfg.cfg 15 4 ≤ 0 := by omega
  show execLineBufferEmit d s = _
  rw [execLineBufferEmit, onTile_ready s st _ hturn hsite]
  simp only [hmode, hhead, hctl, hdata, hheld, hnil, hroom, hdec, Except.toOption, Option.isNone_some,
    linkFault_eq_none hup (dirsOf_lt _), Bool.true_eq_false, Bool.false_eq_true, if_false]
  simp only [show (List.range (2 - 1)).reverse = [0] from rfl, List.map_cons, List.map_nil, List.foldl_cons, List.foldl_nil,
    List.length_nil, Nat.zero_add, if_neg hfirst, Nat.zero_mod]

/-! ### Frame tiles -/

/-- A frame that has taken a token (03_fabric.md R76, 16_ref_d_l.md R356). -/
def Frame.taking (fr : Frame) (t : Token) : Frame :=
  { fr with present := fr.present ||| (1#16 <<< t.frame.toNat), closed := fr.closed || decide (t.slot = 15), seg := Nat.max fr.seg t.seg }

theorem isFifo_of_isFrames {st : Site} (h : isFrames st = true) : isFifo st = false := by
  simp only [isFrames, Bool.and_eq_true, beq_iff_eq] at h
  simp [isFifo, h.1.2]

/-- A tile that is no FIFO tile drops the token that it takes from its input. -/
theorem popInput_of_not_fifo {s : State} {st : Site} (h : isFifo st = false) (d : Nat) :
    popInput s st d = setInput s st.key d ((inputOf s st.key d).drop 1) := by
  rw [popInput, h]; rfl

/-- The frame offset of a token below 16 is its low field, and its high field is 0. -/
theorem frame_fields {f : BitVec 8} (h : f.toNat < 16) : field f 3 0 = f.toNat ∧ field f 7 4 = 0 := by
  simp only [field_eq_div_mod]
  omega

theorem frame_high_ne_zero {f : BitVec 8} (h : 16 ≤ f.toNat) : field f 7 4 ≠ 0 := by
  have := f.isLt
  simp only [field_eq_div_mod]
  omega

section

variable {s : State} {st : Site} {d : BitVec 2} {t : Token}
  (hturn : s.self = .tile st.k st.y st.x st.n) (hsite : siteOf s st.k st.y st.x st.n = some st)
  (hmode : isFrames st = true) (hhead : plainHead s st d.toNat = some t)

include hturn hsite hmode hhead

/-- A token that no frame holds: no WORD, or a frame offset of 16 or more. -/
theorem frameWrite_token (hctl : t.isControl = false) (h : t.kind ≠ kWORD ∨ 16 ≤ t.frame.toNat) :
    exec (.frameWrite d) s = .next (tileFault s st fcTOKEN t.seg) := by
  have hbad : t.kind ≠ kWORD ∨ field t.frame 7 4 ≠ 0 := h.imp_right frame_high_ne_zero
  show execFrameWrite d s = _
  rw [execFrameWrite, onTile_ready s st _ hturn hsite]
  simp only [hmode, hhead, hctl, if_pos hbad, Bool.true_eq_false, Bool.false_eq_true, if_false]

/-- A tag whose frame is not here. -/
theorem frameWrite_tag (hctl : t.isControl = false) (hkind : t.kind = kWORD) (hframe : t.frame.toNat < 16)
    (h : poolSize st.ctx ≤ t.tag.toNat ∨ frameHome st.ctx t.tag.toNat ≠ some st.t) :
    exec (.frameWrite d) s = .next (tileFault s st fcTAG t.seg) := by
  have hgood : ¬ (t.kind ≠ kWORD ∨ field t.frame 7 4 ≠ 0) := by simp [hkind, (frame_fields hframe).2]
  show execFrameWrite d s = _
  rw [execFrameWrite, onTile_ready s st _ hturn hsite]
  simp only [hmode, hhead, hctl, if_neg hgood, if_pos h, Bool.true_eq_false, Bool.false_eq_true, if_false]

section

variable (hkind : t.kind = kWORD) (hframe : t.frame.toNat < 16) (hpool : t.tag.toNat < poolSize st.ctx)
  (hhome : frameHome st.ctx t.tag.toNat = some st.t)

include hkind hframe hpool hhome

/-- A slot of a frame that holds a token already. -/
theorem frameWrite_frame (h : (Map.get {} (rangeOf s st.key st.c).frames t.tag.toNat).present.getLsbD t.frame.toNat = true) :
    exec (.frameWrite d) s = .next (tileFault s st fcFRAME t.seg) := by
  obtain ⟨hlow, hhigh⟩ := frame_fields hframe
  have hctl : t.isControl = false := by rw [Token.isControl, hkind]; rfl
  have hgood : ¬ (t.kind ≠ kWORD ∨ field t.frame 7 4 ≠ 0) := by simp [hkind, hhigh]
  have htag : ¬ (poolSize st.ctx ≤ t.tag.toNat ∨ frameHome st.ctx t.tag.toNat ≠ some st.t) := by simp [hhome, hpool]
  show execFrameWrite d s = _
  rw [execFrameWrite, onTile_ready s st _ hturn hsite]
  simp only [hmode, hhead, hctl, if_neg hgood, if_neg htag, hlow, h, Bool.true_eq_false, Bool.false_eq_true, if_false, if_true]

/-- A token that its frame can hold: its payload stands at its slot, whose presence bit is set. -/
theorem frameWrite_stores (h : (Map.get {} (rangeOf s st.key st.c).frames t.tag.toNat).present.getLsbD t.frame.toNat = false) :
    exec (.frameWrite d) s = .next (modRange (writePay (setInput s st.key d.toNat ((inputOf s st.key d.toNat).drop 1))
      (frameAt st t.tag.toNat t.frame.toNat) 0xFFFF t.payload) st.key st.c
      (fun r => { r with frames := Map.set {} r.frames t.tag.toNat ((Map.get {} (rangeOf s st.key st.c).frames t.tag.toNat).taking t) })) := by
  obtain ⟨hlow, hhigh⟩ := frame_fields hframe
  have hctl : t.isControl = false := by rw [Token.isControl, hkind]; rfl
  have hgood : ¬ (t.kind ≠ kWORD ∨ field t.frame 7 4 ≠ 0) := by simp [hkind, hhigh]
  have htag : ¬ (poolSize st.ctx ≤ t.tag.toNat ∨ frameHome st.ctx t.tag.toNat ≠ some st.t) := by simp [hhome, hpool]
  show execFrameWrite d s = _
  rw [execFrameWrite, onTile_ready s st _ hturn hsite]
  simp only [hmode, hhead, hctl, if_neg hgood, if_neg htag, hlow, h, Bool.true_eq_false, Bool.false_eq_true, if_false,
    popInput_of_not_fifo (isFifo_of_isFrames hmode), Frame.taking]

end

end

/-- A frame operand as the consumer gets it. -/
def operandTok (s : State) (st : Site) (tag slot node : Nat) : Token :=
  { kind := kWORD, slot := BitVec.ofNat 4 node, tag := BitVec.ofNat 12 tag, valid := 0xFFFF
    payload := readPay s (frameAt st tag slot), seg := (Map.get {} (rangeOf s st.key st.c).frames tag).seg }

/-- A frame whose operand in a slot has been sent. -/
def Frame.without (fr : Frame) (slot : Nat) : Frame :=
  let left := fr.present &&& ~~~(1#16 <<< slot)
  { fr with present := left, seg := if left = 0 then 0 else fr.seg }

/-- A frame that still sends is not released. -/
theorem releaseFrame_of_sending {s : State} {st : Site} {tag n i : Nat} (h : (rangeOf s st.key st.c).sending = some (tag, n, i)) :
    releaseFrame s st tag = s := by
  rw [releaseFrame]
  simp only [h, decide_true, Bool.true_eq_false, and_false, if_false]

/-- A frame tile that sends the operands of a node, one more of which follows, sends the next of them. -/
theorem frameOperandSend_sends {s : State} {st : Site} {y' x' slot first cnt tag i : Nat}
    (hturn : s.self = .tile st.k st.y st.x st.n) (hsite : siteOf s st.k st.y st.x st.n = some st) (hmode : isFrames st = true)
    (hnext : neighbour st.y st.x (consumerDir st.cfg.cfg) = some (y', x')) (hsend : (rangeOf s st.key st.c).sending = some (tag, slot, i))
    (hmore : i + 1 < cnt) (hgood : poisoned s (frameAt st tag (first + i)) 64 = false)
    (hnode : (nodesOf st).find? (fun m => decide (m.1 = slot)) = some (slot, first, cnt))
    (hroom : ((s.tile (tileKey st.k y' x')).fch.filter (fun e => decide (e.dir = opposite (consumerDir st.cfg.cfg)))).length < 4) :
    exec .frameOperandSend s = .next (modRange (s.modTile (tileKey st.k y' x') (fun ti => { ti with
        fch := ti.fch ++ [{ node := slot, dir := opposite (consumerDir st.cfg.cfg), at_ := ti.arrivals, tok := operandTok s st tag (first + i) slot }]
        arrivals := ti.arrivals + 1 })) st.key st.c (fun r => { r with
      frames := Map.set {} r.frames tag ((Map.get {} (rangeOf s st.key st.c).frames tag).without (first + i))
      sending := some (tag, slot, i + 1) })) := by
  show execFrameOperandSend s = _
  rw [execFrameOperandSend, onTile_ready s st _ hturn hsite]
  simp only [hmode, hnext, hsend, Option.orElse_some, hnode, if_neg (Nat.not_le.2 hroom), hgood, if_pos hmore, Bool.true_eq_false,
    Bool.false_eq_true, if_false]
  rw [releaseFrame_of_sending (n := slot) (i := i + 1) (by rw [rangeOf_modRange_same])]
  rfl

/-! ### Pass stages -/

section

variable {s : State} {st : Site} {t : Token}
  (hturn : s.self = .tile st.k st.y st.x st.n) (hsite : siteOf s st.k st.y st.x st.n = some st) (hup : linksUp s st = true)
  (hmem : isMemTile st.y st.x = true) (hrect : inRect st st.y st.x = true) (hkind : t.kind ≠ kRECONF)

include hturn hsite hup hmem hrect hkind

/-- A pass stage forwards the token at W to E. -/
theorem passStage_westToEast (hhead : plainHead s st 3 = some t) (hroom : 1 ≤ credits s st.k st.y st.x 1) :
    exec .passStage s = .next (sendFrom (popInput s st 3) st 1 t) := by
  have hlink := linkFault_eq_none hup (dirs := [1]) (by simp) t.seg
  show execPassStage s = _
  rw [execPassStage, onTile_ready s st _ hturn hsite]
  simp only [hmem, hrect, hhead, hlink, hkind, if_neg (Nat.not_lt.2 hroom), Bool.true_eq_false, or_self, if_false]

/-- With none at W, it forwards the token at N to S. -/
theorem passStage_northToSouth (hwest : plainHead s st 3 = none) (hhead : plainHead s st 0 = some t)
    (hroom : 1 ≤ credits s st.k st.y st.x 2) : exec .passStage s = .next (sendFrom (popInput s st 0) st 2 t) := by
  have hlink := linkFault_eq_none hup (dirs := [2]) (by simp) t.seg
  show execPassStage s = _
  rw [execPassStage, onTile_ready s st _ hturn hsite]
  simp only [hmem, hrect, hwest, hhead, hlink, hkind, if_neg (Nat.not_lt.2 hroom), Bool.true_eq_false, or_self, if_false, Option.getD_some]

omit hup hkind in
/-- A KILL at the E output of a pass stage goes on upstream, to W. -/
theorem killForward_passStage {s' : State} (hkill : takeKill s st 1 = some (t, s')) :
    exec (.killForward 1) s = .next (sendKill s' st 3 t.tag (killMask t) t.seg) := by
  show execKillForward 1 s = _
  rw [execKillForward, onTile_ready s st _ hturn hsite]
  simp only [show (1 : BitVec 2).toNat = 1 from rfl, hkill, hmem, hrect, Bool.and_self, if_true]

end

/-! ### KILL at a digit slot -/

/-- Taking a KILL leaves the slots as they were. -/
theorem slotSt_takeKill {s s' : State} {st : Site} {d : Nat} {t : Token} (h : takeKill s st d = some (t, s')) (st' : Site) :
    slotSt s' st' = slotSt s st' := by
  rw [takeKill] at h
  split at h
  · cases h
  · cases h
    exact slotSt_modTile _ _ _ _ (fun _ => rfl)

/-- No lanes, no KILL. -/
theorem killInputs_zero (s : State) (st : Site) (f : Slot) (d : DigitSt) (tag : BitVec 12) (seg : Nat) : killInputs s st f d tag 0 0 seg = s := by
  have hnone : ∀ x : BitVec 16, ¬ (0 &&& x ≠ 0) := fun x => by simp
  rw [killInputs]
  simp only [hnone, false_and, if_false]

/-- Without early termination, the one slot of a killed chain notes the lanes of the KILL, and nothing goes upstream. -/
theorem killApply_oneSlot {s s' : State} {st : Site} {d : BitVec 2} {t : Token} {m : Nat}
    (hturn : s.self = .tile st.k st.y st.x st.n) (hsite : siteOf s st.k st.y st.x st.n = some st)
    (hkill : takeKill s st d.toNat = some (t, s')) (hone : killedSlots s st d.toNat t.tag = [m]) (hmode : st.ctx.mode.getLsbD 3 = false)
    (hchain : (slotSt s { st with n := m }).digit.isChain t.tag = true) :
    ∃ u, exec (.killApply d) s = .next u ∧ (slotSt u { st with n := m }).digit.killed =
      Map.modify 0 (slotSt s { st with n := m }).digit.killed d.toNat (· ||| killMask t) := by
  show ∃ u, execKillApply d s = .next u ∧ _
  rw [execKillApply, onTile_ready s st _ hturn hsite]
  simp only [hkill, hone, List.foldl_cons, List.foldl_nil, slotSt_takeKill hkill, hchain, hmode, Bool.false_and, Bool.false_eq_true,
    if_true, if_false, killInputs_zero]
  refine ⟨_, rfl, ?_⟩
  rw [slotSt_modTile, slotSt_setSlotSt_same]
  · rfl
  · exact fun _ => rfl

/-- Settles O38: each event of a tile by the lemma about it; the fields of words are named as fields. -/
theorem tileEvents : Obligations.TileEvents := by
  intro s st d t hturn hsite hup w
  have hnext : ∀ v : BitVec 32, v.toNat / 2 ^ 9 % 16 = field v 12 9 := fun v => (field_eq_div_mod v 12 9).symm
  have hdest : ∀ v : BitVec 32, v.toNat / 2 ^ 13 % 16 = field v 16 13 := fun v => (field_eq_div_mod v 16 13).symm
  simp only [hnext, hdest]
  refine ⟨?oneInput, ?twoInputs, ?fifo, ?lines, ?frameWrite, ?frameFaults, ?operand, ?pass, ?kill⟩
  case oneInput =>
    intro hframes hsys hout hin hhead hkind hmerge hsplit hdigit hcut hroom
    have hslot : PlainSlot s st := ⟨hturn, hsite, hframes, hsys, hout, hmerge, hsplit, hdigit, hcut⟩
    have hctl : controlAll s st (slotInputs w) false = .go [d.toNat] t := by
      rw [hin, controlAll]; simp [hhead]
    exact controlTokenForward_go hslot hup (hin.trans_ne (List.cons_ne_nil _ _)) hctl hkind hroom
  case twoInputs =>
    intro d' t' hframes hsys hout hin hhead hhead' hmerge hsplit hdigit hcut
    have hslot : PlainSlot s st := ⟨hturn, hsite, hframes, hsys, hout, hmerge, hsplit, hdigit, hcut⟩
    have hne : slotInputs (slotWord st st.n) ≠ [] := hin.trans_ne (List.cons_ne_nil _ _)
    refine ⟨fun hdiff => ?_, fun hkind hsame hroom => ?_⟩
    · have hctl : controlAll s st (slotInputs w) false = .bad t.seg := by
        rw [hin, controlAll]; simp [hhead, hhead', Ne.symm hdiff]
      exact controlTokenForward_bad hslot hne hctl
    · have hctl : controlAll s st (slotInputs w) false = .go [d.toNat, d'] t := by
        rw [hin, controlAll]; simp [hhead, hhead', hsame]
      exact controlTokenForward_go hslot hup hne hctl hkind hroom
  case fifo =>
    intro rest hmode hel hfifo hout
    exact fifoTilePass_releases hturn hsite hmode hel hfifo hout
  case lines =>
    intro hmode hhead hdata htwo hnil hlen hroom ⟨i, hdec⟩
    rw [show 8 = 2 ^ (18 + 1 - 16) from rfl, ← field_eq_div_mod] at htwo
    rw [show 12 = 15 + 1 - 4 from rfl, ← field_eq_div_mod] at hlen
    exact lineBufferEmit_firstLine hturn hsite hup hmode hhead hdata htwo hnil hlen hroom hdec
  case frameWrite =>
    intro hmode hhead hkind hframe hpool hhome hfree
    refine ⟨_, frameWrite_stores hturn hsite hmode hhead hkind hframe hpool hhome hfree, ?_, ?_, fun a ha => ?_, ?_⟩
    · rw [inputOf_modRange, inputOf_writePay, inputOf_setInput_same]
    · rw [readPay_modRange, readPay_writePay_all]
    · rw [readByte_modRange, readByte_writePay_outside _ _ a _ _ ha, readByte_setInput]
    · rw [rangeOf_modRange_same, Map.get_set_same, Frame.taking]
  case frameFaults =>
    intro hmode hhead hctl
    exact ⟨frameWrite_token hturn hsite hmode hhead hctl, frameWrite_tag hturn hsite hmode hhead hctl,
      frameWrite_frame hturn hsite hmode hhead⟩
  case operand =>
    intro y' x' slot first cnt tag i hmode hbeyond hsend hmore hgood hnode hroom
    refine ⟨_, operandTok s st tag (first + i) slot, frameOperandSend_sends hturn hsite hmode hbeyond hsend hmore hgood hnode hroom,
      rfl, rfl, rfl, ?_, ?_⟩
    · rw [fch_modRange, State.modTile_tile_same]
    · rw [rangeOf_modRange_same]
  case pass =>
    intro hmem hrect hkind
    refine ⟨passStage_westToEast hturn hsite hup hmem hrect hkind, passStage_northToSouth hturn hsite hup hmem hrect hkind, ?_⟩
    rintro s' hkill rfl
    exact killForward_passStage hturn hsite hmem hrect hkill
  case kill =>
    intro s' m hkill hone hmode hchain
    obtain ⟨u, hrun, hkilled⟩ := killApply_oneSlot hturn hsite hkill hone hmode hchain
    refine ⟨u, hrun, fun b => ?_⟩
    rw [hkilled, Map.modify, Map.get_set_same, BitVec.getLsbD_or]

end Sys2Proof.Machine
end

section
/-!
The turns of an AG tile (02_execution_model.md R31 to R34, 03_fabric.md R79, 06_memory.md R141, 18_ref_s.md R406, R408): what
an entry tile sends, what an exit tile takes, which lines leave, and what a push brings.
-/
namespace Sys2Proof.Machine

open Sys2Proof

/-! ### Entry tiles -/

/-- An AG tile whose port is not closing, and whose command of an indirect engine is where it should be. -/
structure AgTurn (s : State) (k n : Nat) : Prop where
  turn : s.self = .ag k n
  noClose : closeIfDue s k n = none
  sent : resend s k n = s

/-- A turn of an entry tile. -/
theorem streamTokenEmit_eq {s : State} {k n : Nat} (hturn : s.self = .ag k n) (hentry : (s.port (portKey k n)).entry = true) :
    exec .streamTokenEmit s = .next (firstDone s (emitStep s k n) k n) := by
  show execStreamTokenEmit s = _
  rw [execStreamTokenEmit]
  simp only [hturn, hentry, if_true]

section

variable {s : State} {k n : Nat} {a : AgSite} {g : Prog} {e : Edge}

/-- The turn of an entry tile with room, tokens to spend, and a link that works. -/
theorem emitStep_of_room (h : AgTurn s k n) (hprog : (s.port (portKey k n)).prog = some g) (hsite : progSite s k n = some a)
    (hedge : a.ctx.edge n = some e) (hroom : agRoom s k n ≠ 0) (hmeter : (meterTake s k n).isSome = true)
    (hlink : linkDown s (linkOfAg (portKey k n)) = false) (hsb : g.sbDue = false) :
    emitStep s k n =
      if g.inSeg = false then (if maySot s a && !Config.readsOn s.tick then emitSot s a g e.slot else betweenSegs s a g e.slot)
      else if g.elems ≤ g.pos then emitEot s a g e.slot
      else if g.seam then seamTurn s a g e.slot true else elemTurn s a g e.slot true := by
  rw [emitStep]
  simp only [h.noClose, h.sent, hprog, hsite, hedge, hroom, hmeter, hlink, hsb, ne_eq, not_false_eq_true, decide_true, Bool.and_true,
    Bool.true_and, Bool.true_or, Bool.and_false, Bool.false_eq_true, if_false, if_true]

/-- Within a segment of an SLOAD, the next token leaves once its elements stand at the tile; else the tile reads on. -/
theorem elemTurn_load (hkind : g.kind = .load) (hm : g.toks < a.ctx.m) (slot : Nat) :
    elemTurn s a g slot true =
      match (if Config.readsOn s.tick then none else g.unitsAt (g.segsDone * g.elems + g.pos) (Nat.min (64 / g.esize) (g.elems - g.pos))) with
      | some bytes => emitWord s a g slot bytes (progIter g 0) (fun g' => { g' with
          pos := g'.pos + Nat.min (64 / g.esize) (g.elems - g.pos)
          fetched := g'.fetched.filter (fun e => decide (g.segsDone * g.elems + g.pos + Nat.min (64 / g.esize) (g.elems - g.pos) ≤ e.1)) })
      | none => readAhead s a g := by
  rw [elemTurn]
  simp only [if_neg (Nat.not_le.2 hm), hkind, Bool.true_and]
  cases Config.readsOn s.tick <;> rfl

end

/-! ### Exit tiles -/

/-- With an empty hold buffer, nothing drains. -/
theorem drain_of_nil {s : State} {k n : Nat} (h : (s.port (portKey k n)).hold = []) : drain s k n = s := by
  rw [drain, h]; rfl

/-- What an exit tile does with the token at its head. -/
def absorbToken (s : State) (k n : Nat) (a : AgSite) (t : Token) : State :=
  let p := s.port (portKey k n)
  if t.kind = kRECONF ∨ t.kind = kMARK then popPort s k n
  else if t.kind = kORDER then absorbOrder s a t
  else if t.kind = kSBARTOK then absorbSbar s a t
  else match p.prog with
    | none => s
    | some g =>
      if g.segTotal ≤ g.segsDone ∧ g.inSeg = false then s
      else if t.kind = kSOT then
        if g.inSeg then agFault s a fcTOKEN g.open_ 0 (progIter g 0)
        else setProg (popPort s k n) k n { g with inSeg := true, pos := 0, sub := 0, toks := 0,
                                                  marks := g.marks ++ [(t.number, g.segsDone, p.orders)] }
      else if g.inSeg = false then agFault s a fcTOKEN p.segNo 0 (progIter g 0)
      else if t.kind = kEOT then absorbEot s a g t
      else absorbData s a g t

/-- A turn of an exit tile that nothing holds and whose hold buffer is empty. -/
theorem streamTokenAbsorb_eq {s : State} {k n : Nat} {a : AgSite} {t : Token} {rest : List Token} (h : AgTurn s k n)
    (hexit : (s.port (portKey k n)).entry = false) (hhold : (s.port (portKey k n)).hold = [])
    (hscatter : scatterDone (s.port (portKey k n)) = none) (hin : (s.port (portKey k n)).inp = t :: rest)
    (hsite : agSiteOf s k n = some a) (hfree : portHeld s (s.port (portKey k n)) = false) :
    exec .streamTokenAbsorb s = .next (firstDone s (absorbToken s k n a t) k n) := by
  show execStreamTokenAbsorb s = _
  rw [execStreamTokenAbsorb]
  simp only [h.turn, hexit, Bool.false_eq_true, if_false]
  rw [absorbStep]
  simp only [h.noClose, drain_of_nil hhold, h.sent, hscatter, hin, hsite, hfree, hexit, Bool.false_eq_true, false_or, if_false]
  rfl

/-- A token of a segment, where a program is there to take it. -/
theorem absorbToken_of_program {s : State} {k n : Nat} {a : AgSite} {t : Token} {g : Prog}
    (hprog : (s.port (portKey k n)).prog = some g) (htakes : g.inSeg = true ∨ g.segsDone < g.segTotal)
    (hkind : t.kind = kSOT ∨ t.kind = kEOT ∨ t.kind = kWORD ∨ t.kind = kNULL) :
    absorbToken s k n a t =
      if t.kind = kSOT then
        (if g.inSeg then agFault s a fcTOKEN g.open_ 0 (progIter g 0)
         else setProg (popPort s k n) k n { g with inSeg := true, pos := 0, sub := 0, toks := 0,
                                                   marks := g.marks ++ [(t.number, g.segsDone, (s.port (portKey k n)).orders)] })
      else if g.inSeg = false then agFault s a fcTOKEN (s.port (portKey k n)).segNo 0 (progIter g 0)
      else if t.kind = kEOT then absorbEot s a g t
      else absorbData s a g t := by
  have hplain : ¬ (t.kind = kRECONF ∨ t.kind = kMARK) ∧ t.kind ≠ kORDER ∧ t.kind ≠ kSBARTOK := by
    rcases hkind with h | h | h | h <;> rw [h] <;> decide
  obtain ⟨hpop, horder, hsbar⟩ := hplain
  have hnotOver : ¬ (g.segTotal ≤ g.segsDone ∧ g.inSeg = false) := fun ⟨hle, hout⟩ => by
    rcases htakes with hin | hlt
    · simp [hin] at hout
    · omega
  rw [absorbToken]
  simp only [if_neg hpop, if_neg horder, if_neg hsbar, hprog, if_neg hnotOver]

/-! ### Lines -/

/-- A change to a context touches no port. -/
theorem port_modCtx (s : State) (k j c : Nat) (f : Ctx → Ctx) (i : Nat) : (modCtx s k j c f).port i = s.port i := by
  rw [modCtx]
  split
  · rfl
  · split <;> rfl

/-- Noting that a stream's access has come first touches no port. -/
theorem port_firstDone (s t : State) (k n i : Nat) : (firstDone s t k n).port i = t.port i := by
  rw [firstDone]
  split
  · rfl
  · split
    · rfl
    · split
      · split
        · exact port_modCtx _ _ _ _ _ _
        · rfl
      · rfl

/-- Changes to the lines of a port leave the mode of its stream as it was. -/
theorem replayAt_setPort_lines (s : State) (k n : Nat) (l : List LineReq) :
    replayAt (s.setPort (portKey k n) { s.port (portKey k n) with lines := l }) k n = replayAt s k n := by
  simp only [replayAt, State.setPort_port_same]
  rfl

/-- A line that is not due stays, and so do those after it. -/
theorem flushDue_of_not_due {k n m : Nat} {s : State} (h : ∀ l, (s.port (portKey k n)).lines.head? = some l → l.due = false) :
    flushDue k n false m s = s := by
  cases m with
  | zero => rfl
  | succ m =>
    rw [flushDue]
    split
    case h_1 l rest hl =>
      have hdue : l.due = false := h l (by rw [hl]; rfl)
      simp only [hdue, Bool.or_self, Bool.false_eq_true, if_false]
    case h_2 => rfl

/-- Under REPLAY the oldest line, when it is due, goes into the hold buffer, and those after it stay while they are not. -/
theorem flushDue_holds_oldest {k n m : Nat} {s : State} {x : LineReq} {more : List LineReq}
    (hlines : (s.port (portKey k n)).lines = x :: more) (hdue : x.due = true) (hmore : ∀ y ∈ more, y.due = false)
    (hreplay : replayAt s k n = true) :
    flushDue k n false (m + 1) s =
      s.setPort (portKey k n) { s.port (portKey k n) with lines := more, hold := (s.port (portKey k n)).hold ++ [.line x] } := by
  have hone : flushOne s k n =
      s.setPort (portKey k n) { s.port (portKey k n) with lines := more, hold := (s.port (portKey k n)).hold ++ [.line x] } := by
    rw [flushOne]
    simp only [hlines, hreplay, if_true]
  rw [flushDue]
  simp only [hlines, hdue, Bool.or_false, if_true, hone, State.setPort_port_same]
  split
  · rfl
  · refine flushDue_of_not_due (fun l hl => hmore l ?_)
    rw [State.setPort_port_same] at hl
    exact List.mem_of_mem_head? hl

/-- The time of an open line is over. -/
theorem coalesceTimeout_eq {s : State} {k n i : Nat} {l : LineReq} {a : AgSite} (hturn : s.self = .ag k n)
    (hl : (s.port (portKey k n)).lines[i]? = some l) (hsite : agSiteOf s k n = some a) :
    exec (.coalesceTimeout i) s = .next (firstDone s (flushDue k n false 8 (s.setPort (portKey k n)
      { s.port (portKey k n) with lines := (s.port (portKey k n)).lines.set i { l with due := true } })) k n) := by
  show execCoalesceTimeout i s = _
  rw [execCoalesceTimeout]
  simp only [hturn, hl, hsite]

/-! ### Pushes -/

/-- A pushed line becomes two tokens where a push stream is open, and is dropped elsewhere. -/
theorem pushArrival_eq {s : State} {k n : Nat} {l : BitVec 1024} {more : List (BitVec 1024)} (hturn : s.self = .ag k n)
    (harr : (s.port (portKey k n)).arriving = l :: more) :
    ∃ u, exec .pushArrival s = .next u ∧ u.port (portKey k n) = { s.port (portKey k n) with
      arriving := more
      pushed := if pushOpen s k n = true then (s.port (portKey k n)).pushed ++ [l.extractLsb' 0 512, l.extractLsb' 512 512]
        else (s.port (portKey k n)).pushed } := by
  have hopen : ∀ f, pushOpen (s.modPort (portKey k n) f) k n = pushOpen s k n := fun _ => rfl
  show ∃ u, execPushArrival s = .next u ∧ _
  rw [execPushArrival]
  simp only [hturn, harr, hopen]
  refine ⟨_, rfl, ?_⟩
  cases pushOpen s k n with
  | true => simp only [if_true, State.modPort_port_same]
  | false => simp only [Bool.false_eq_true, if_false, State.modPort_port_same]

/-- Settles O41: the turns of an AG tile, entry, exit, lines and pushes, by the lemma about each. -/
theorem streamTileEvents : Obligations.StreamTileEvents := by
  intro s k n a g e t rest hturn p out cnt
  refine ⟨?entry, ?exit, ?line, ?order, ?push⟩
  case entry =>
    intro hentry hclose hsent hprog hsite hedge hroom hmeter hlink hsb
    rw [streamTokenEmit_eq hturn hentry, emitStep_of_room ⟨hturn, hclose, hsent⟩ hprog hsite hedge hroom hmeter hlink hsb]
    refine ⟨fun hseg hmay => ?_, fun hseg hmay => ?_, fun hseg hend => ?_, ?load⟩
    · cases Config.readsOn s.tick <;> simp only [hseg, hmay, if_true, Bool.true_and, Bool.not_true, Bool.not_false, Bool.false_eq_true, if_false, out]
    · simp only [hseg, hmay, if_true, Bool.false_and, Bool.false_eq_true, if_false, out]
    · simp only [hseg, hend, Bool.true_eq_false, if_true, if_false, out]
    case load =>
      intro hseg hpos hkind hseam hm from_
      simp only [hseg, if_neg (Nat.not_le.2 hpos), hseam, Bool.true_eq_false, Bool.false_eq_true, if_false, elemTurn_load hkind hm]
      refine ⟨fun bytes hb => ?_, fun hb => ?_⟩
      · rw [show g.unitsAt (g.segsDone * g.elems + g.pos) (Nat.min (64 / g.esize) (g.elems - g.pos)) = some bytes from hb]
        cases Config.readsOn s.tick <;> rfl
      · rw [show g.unitsAt (g.segsDone * g.elems + g.pos) (Nat.min (64 / g.esize) (g.elems - g.pos)) = none from hb, ite_self]
  case exit =>
    intro hexit hclose hsent hhold hscatter hin hsite hfree
    rw [streamTokenAbsorb_eq ⟨hturn, hclose, hsent⟩ hexit hhold hscatter hin hsite hfree]
    refine ⟨fun h => ?_, fun h => ?_, fun h => ?_, fun hprog hseg => ?inside, fun hprog hseg hmore h => ?_, fun hprog hseg hmore h => ?_⟩
    case inside =>
      refine ⟨fun h => ?_, fun h => ?_, fun h => ?_⟩
      · rw [absorbToken_of_program hprog (.inl hseg) (by simp [h])]
        simp [h, hseg, out]
      · rw [absorbToken_of_program hprog (.inl hseg) (by rcases h with h | h <;> simp [h])]
        rcases h with h | h <;> simp [h, hseg, out]
      · rw [absorbToken_of_program hprog (.inl hseg) (by simp [h])]
        simp only [h, hseg, if_true, out]
    · simp only [absorbToken, if_pos h, out]
    · simp [absorbToken, h, out]
    · simp [absorbToken, h, out]
    · rw [absorbToken_of_program hprog (.inr hmore) (by rcases h with h | h | h <;> simp [h])]
      rcases h with h | h | h <;> simp [h, hseg, out, p]
    · rw [absorbToken_of_program hprog (.inr hmore) (by simp [h])]
      simp only [h, hseg, if_true, Bool.false_eq_true, if_false, out, p]
  case line =>
    intro i l hl hsite
    exact coalesceTimeout_eq hturn hl hsite
  case order =>
    intro x more hlines hsite
    refine ⟨fun hreplay hmore => ?_, fun i l hdue hl => ?_⟩
    · refine ⟨_, coalesceTimeout_eq hturn (i := 0) (l := x) (by rw [hlines]; rfl) hsite, ?_⟩
      rw [port_firstDone, flushDue_holds_oldest (x := { x with due := true }) (more := more)]
      · simp only [State.setPort_port_same, p, and_self]
      · rw [State.setPort_port_same, hlines]; rfl
      · rfl
      · exact hmore
      · rw [replayAt_setPort_lines, hreplay]
    · refine ⟨_, coalesceTimeout_eq hturn (i := i + 1) (l := l) (by rw [hlines]; exact hl) hsite, ?_⟩
      rw [port_firstDone, flushDue_of_not_due]
      · rw [State.setPort_port_same, hlines]
        exact ⟨rfl, rfl⟩
      · rw [State.setPort_port_same, hlines]
        rintro y ⟨rfl⟩
        exact hdue
  case push =>
    intro l more harr
    obtain ⟨u, hrun, hport⟩ := pushArrival_eq hturn harr
    exact ⟨u, hrun, by rw [hport], by rw [hport]⟩

end Sys2Proof.Machine
end

section
/-!
The events of a region of a core (02_execution_model.md R40, 10_faults_modes.md R226, R227, R237, 15_ref_a_c.md R340): the
switch of contexts, the re-run of a discarded segment, the scan-out of a stopped context, and the watchdog.
-/
namespace Sys2Proof.Machine

open Sys2Proof

/-! ### The steps of a scan-out -/

section

variable {d : BitVec 2} {s : State} {k : Nat} {g : Region} (hreg : s.region k d.toNat = some g)
  (c : Nat) (asid : BitVec 16) (va : Nat) (fin : State → State)

include hreg

/-- The scan-out waits until nothing of the region is on its way. -/
theorem scanStep_waits (h : areaFree s k d.toNat = false) : scanStep s k d.toNat c asid va fin = s := by
  rw [scanStep]
  simp only [hreg, h, if_true]

section

variable (hfree : areaFree s k d.toNat = true)

include hfree

/-- It begins with every line of the area to be written. -/
theorem scanStep_begins (h : g.scanLeft = none) : scanStep s k d.toNat c asid va fin = modRegion s k d.toNat (fun q =>
    { q with scanLeft := some (List.range (areaSize g.rect (copiesAt s k d.toNat c + 1) / 128)), scanned := [] }) := by
  rw [scanStep]
  simp only [hreg, hfree, h, Bool.true_eq_false, if_false]

/-- One of the lines left is written. -/
theorem scanStep_line {left : List Nat} {i key : Nat} {u : State} (h : g.scanLeft = some left)
    (hi : left[Config.pieceOrder s.tick % left.length]? = some i) (hreach : engReach s (loaderEng k) asid (va + 128 * i) 128 .write = .ok u key) :
    let line := areaLine u.tick i (headerOf u k d.toNat c)
    scanStep s k d.toNat c asid va fin = modRegion (perform u key (line.map some)) k d.toNat (fun r =>
      { r with scanLeft := some (left.eraseIdx (Config.pieceOrder s.tick % left.length)), scanned := r.scanned ++ [(i, line)] }) := by
  rw [scanStep]
  simp only [hreg, hfree, h, Bool.true_eq_false, if_false]
  cases left with
  | nil => simp at hi
  | cons y ys =>
    show scanLine s k d.toNat c asid va (y :: ys) = _
    rw [scanLine]
    simp only [hi, hreach]

/-- With no line left, what follows a scan-out follows. -/
theorem scanStep_ends (h : g.scanLeft = some []) : scanStep s k d.toNat c asid va fin = fin s := by
  rw [scanStep]
  simp only [hreg, hfree, h, Bool.true_eq_false, if_false]

end

end

/-- A switch that has waited for a scan-out goes on after it (15_ref_a_c.md R340, R345). -/
def goOn (sw : Option Switch) (k j : Nat) (s : State) : State :=
  match sw with | some w => finishSwitch s k j w | none => s

section

variable {d : BitVec 2} {s : State} {k : Nat} {g : Region}
  (hturn : s.self = .core k) (hreg : s.region k d.toNat = some g)

include hturn hreg

/-! ### The switch of contexts -/

section

variable {w : Switch} {a : Nat} {x : Ctx} (hsw : g.switching = some w) (hact : g.active = some a) (hctx : g.ctx a = some x)

include hsw hact hctx

/-- At the boundary, with the outgoing context drained, every entry tile that has room and may send emits its RECONF. -/
theorem reconfEmit_emits (hset : w.settling = false) (hstop : g.stopped = none) (hrerun : x.rerun = none)
    (hbound : atBoundary s k d.toNat = true) (hdrain : drained s k d.toNat a = true)
    (hroom : ∀ e ∈ entryTiles s k x, agRoom s k e.1 ≠ 0 ∧ (meterTake s k e.1).isSome = true) :
    exec (.reconfEmit d) s = .next (modRegion ((entryTiles s k x).foldl (fun s e =>
        deliver (stirred ((meterTake s k e.1).getD s) k d.toNat) k (agSite e.1).1 (agSite e.1).2.1 (agSite e.1).2.2 (reconfTok e.2 w.slot))
      (dropCopies (dropSettled s k d.toNat a) k d.toNat a 0)) k d.toNat (fun r => { r with switching := some { w with settling := true } })) := by
  have hall : (entryTiles s k x).any (fun e => agRoom s k e.1 == 0 || (meterTake s k e.1).isNone) = false := by
    rw [List.any_eq_false]
    intro e he
    obtain ⟨hr, hm⟩ := hroom e he
    simp [hr, Option.isSome_iff_ne_none.1 hm]
  show execReconfEmit d s = _
  rw [execReconfEmit]
  simp only [hturn, hreg, hsw, hact, hctx, hset, hstop, hrerun, hbound, hdrain, hall, Option.isSome_none, Bool.true_eq_false, decide_false,
    Bool.or_self, Bool.false_eq_true, if_false]

/-- The switch waits for the boundary and the drain, and emits once only. -/
theorem reconfEmit_waits (h : w.settling = true ∨ atBoundary s k d.toNat = false ∨ drained s k d.toNat a = false) :
    exec (.reconfEmit d) s = .next s := by
  show execReconfEmit d s = _
  rw [execReconfEmit]
  rcases h with h | h | h <;>
    simp only [hturn, hreg, hsw, hact, hctx, h, decide_true, Bool.true_or, Bool.or_true, if_true]

end

/-- With no RECONF left in the region, the standing tokens are parked, every tile leaves the context, and the switch ends. -/
theorem cswitchSettle_ends {w : Switch} (hsw : g.switching = some w) (hset : w.settling = true)
    (hleft : reconfLeft s k d.toNat g.rect = false) :
    exec (.cswitchSettle d) s = .next (finishSwitch (deactivate (parkActive s k d.toNat) k d.toNat) k d.toNat w) := by
  show execCswitchSettle d s = _
  rw [execCswitchSettle]
  simp only [hturn, hreg, hsw, hset, hleft, Bool.true_eq_false, Bool.false_eq_true, or_self, if_false]

/-! ### Re-runs -/

section

variable {c : Nat} {x : Ctx} {u : Rerun} (hact : g.active = some c) (hctx : g.ctx c = some x) (hrerun : x.rerun = some u)

include hact hctx hrerun

/-- A segment that waits for no page, or whose page has come, runs again. -/
theorem replayRerun_runs (h : u.waits = none ∨ u.status = some 0) :
    exec (.replayRerun d) s = .next (modCtx s k d.toNat c (fun x => { x with rerun := none })) := by
  show execReplayRerun d s = _
  rw [execReplayRerun]
  simp only [hturn, hreg, hact, hctx, hrerun]
  cases hw : u.waits with
  | none => rfl
  | some page =>
    have hs : u.status = some 0 := h.resolve_left (by simp [hw])
    simp only [hs, if_true]

/-- A page that could not be fetched makes the DEEP fault final. -/
theorem replayRerun_stops {code : Nat} (hw : u.waits.isSome = true) (hs : u.status = some code) (hc : code ≠ 0) :
    exec (.replayRerun d) s = .next (stopLoad (discard (deliverSeg (modCtx s k d.toNat c (fun x => { x with rerun := none }))
      k d.toNat c u.fault true 0) k d.toNat c u.seg) k d.toNat c fcDEEP) := by
  obtain ⟨page, hpage⟩ := Option.isSome_iff_exists.1 hw
  show execReplayRerun d s = _
  rw [execReplayRerun]
  simp only [hturn, hreg, hact, hctx, hrerun, hpage, hs, if_neg hc]

/-- A segment waits for its page. -/
theorem replayRerun_waits (hw : u.waits.isSome = true) (hs : u.status = none) : exec (.replayRerun d) s = .next s := by
  obtain ⟨page, hpage⟩ := Option.isSome_iff_exists.1 hw
  show execReplayRerun d s = _
  rw [execReplayRerun]
  simp only [hturn, hreg, hact, hctx, hrerun, hpage, hs]

end

/-! ### The scan-out -/

/-- The turn of a region that a FREEZE fault has stopped. -/
theorem freezeScanComplete_fault {c : Nat} {f : SegFault} {x : Ctx} (hstop : g.stopped = some (c, some f))
    (hctx : ctxAt s k d.toNat c = some x) (hcmd : saveCmd s k g = none) :
    exec (.freezeScanComplete d) s = .next (scanStep s k d.toNat c x.asid x.save (fun s =>
      goOn g.switching k d.toNat (scanOut (deliverSeg s k d.toNat c f false x.save) k d.toNat c x.asid x.save))) := by
  show execFreezeScanComplete d s = _
  rw [execFreezeScanComplete]
  simp only [hturn, hreg, hstop, hctx, hcmd]
  rfl

/-- The turn of a region that a CSAVE has stopped. -/
theorem freezeScanComplete_save {c va : Nat} {q : QCmd} (hstop : g.stopped = some (c, none)) (hcmd : saveCmd s k g = some (q, va)) :
    exec (.freezeScanComplete d) s = .next (scanStep s k d.toNat c q.asid va (fun s =>
      goOn g.switching k d.toNat
        (endCmd (scanOut (pinArea s q.asid g.rect (copiesAt s k d.toNat c + 1) va k d.toNat c) k d.toNat c q.asid va) k q.id 0))) := by
  show execFreezeScanComplete d s = _
  rw [execFreezeScanComplete]
  simp only [hturn, hreg, hstop, hcmd]
  rfl

/-! ### The watchdog -/

section

variable {c : Nat} (hact : g.active = some c)

include hact

/-- A region in which nothing has moved for 2^24 cycles raises WATCHDOG against its oldest segment in flight. -/
theorem watchdog_barks (hstop : g.stopped = none) (hstill : watchStill s k d.toNat = false)
    (hcount : 2 ^ 24 ≤ watchCount s k d.toNat) {n : Nat} {rest : List Nat} (h : (liveSegs s k d.toNat c).map (·.n) = n :: rest) :
    exec (.watchdog d) s = .next (segFault s k d.toNat c { code := fcWATCHDOG, seg := rest.foldl Nat.min n }) := by
  show execWatchdog d s = _
  rw [execWatchdog]
  simp only [hturn, hreg, hact, hstop, hstill, Nat.not_lt.2 hcount, h, Option.isSome_none, Bool.false_eq_true, or_self, if_false]

/-- With no segment in flight there is none to raise it against. -/
theorem watchdog_nothingLive (h : liveSegs s k d.toNat c = []) : exec (.watchdog d) s = .next s := by
  show execWatchdog d s = _
  rw [execWatchdog]
  simp only [hturn, hreg, hact, h, List.map_nil, ite_self]

/-- A region with a tripped entry tile, or one in which something has moved since, raises none. -/
theorem watchdog_quiet (h : watchStill s k d.toNat = true ∨ watchCount s k d.toNat < 2 ^ 24) : exec (.watchdog d) s = .next s := by
  show execWatchdog d s = _
  rw [execWatchdog]
  simp only [hturn, hreg, hact, if_pos (Or.inr h)]

end

end

/-- Settles O45: each event of a region by the lemma about it. -/
theorem regionEvents : Obligations.RegionEvents := by
  intro d s k g hturn hreg j
  refine ⟨?emit, ?emitWaits, ?settle, ?rerun, ?scan, ?watchdog⟩
  case emit =>
    intro w a x hsw hact hctx
    exact reconfEmit_emits hturn hreg hsw hact hctx
  case emitWaits =>
    intro w a x hsw hact hctx
    exact reconfEmit_waits hturn hreg hsw hact hctx
  case settle =>
    intro w hsw hset hleft t
    rw [cswitchSettle_ends hturn hreg hsw hset hleft, finishSwitch]
    refine ⟨fun hq => ?_, fun q hq hop => ?_, fun q hq hop => ?_⟩
    · rw [show findCmd _ k w.cmdId = _ from hq]
    · rw [show findCmd _ k w.cmdId = _ from hq]; simp only [if_neg hop]; rfl
    · rw [show findCmd _ k w.cmdId = _ from hq]; simp only [if_pos hop]; rfl
  case rerun =>
    intro c x u hact hctx hrerun t
    exact ⟨replayRerun_runs hturn hreg hact hctx hrerun, fun code => replayRerun_stops hturn hreg hact hctx hrerun,
      replayRerun_waits hturn hreg hact hctx hrerun⟩
  case scan =>
    intro after scans
    have hscans : ∀ c asid va fin fin', exec (.freezeScanComplete d) s = .next (scanStep s k j c asid va fin) → fin s = after fin' →
        scans c asid va fin' := by
      intro c asid va fin fin' hrun hfin
      refine ⟨fun hb => ?_, fun hf hl => ?_, fun left i u key hf hl hi hr => ?_, fun hf hl => ?_⟩
      · rw [hrun, scanStep_waits hreg c asid va fin hb]
      · rw [hrun, scanStep_begins hreg c asid va fin hf hl]
      · rw [hrun, scanStep_line hreg c asid va fin hf hl hi hr]
      · rw [hrun, scanStep_ends hreg c asid va fin hf hl, hfin]
    exact ⟨fun c f x hstop hctx hcmd => hscans _ _ _ _ _ (freezeScanComplete_fault hturn hreg hstop hctx hcmd) rfl,
      fun c q va hstop hcmd => hscans _ _ _ _ _ (freezeScanComplete_save hturn hreg hstop hcmd) rfl⟩
  case watchdog =>
    intro c hact hstop
    exact ⟨fun hstill hcount => ⟨fun e rest => watchdog_barks hturn hreg hact hstop hstill hcount, watchdog_nothingLive hturn hreg hact⟩,
      watchdog_quiet hturn hreg hact⟩

end Sys2Proof.Machine
end

section
/-!
The words that no control thread reads: slot words (03_fabric.md R62), handler words (08_assayers.md R182) and stream
commands (13_encodings.md R285). Each is its fields side by side, so taking it apart into them and putting it together
from them undo each other; what remains of a round trip is that each table of opcodes is one to one.
-/
namespace Sys2Proof

/-! ### Fields of a word -/

/-- A field within a field is a field of the word. -/
theorem extractLsb'_within {n l m s t : Nat} (x : BitVec n) (h : t + m ≤ l) :
    (x.extractLsb' s l).extractLsb' t m = x.extractLsb' (s + t) m := by
  ext i hi
  have hlt : t + i < l := by omega
  simp [hlt, Nat.add_assoc]

/-- One bit read as a flag is that bit read as a field. -/
theorem ofBool_getLsbD {n : Nat} (x : BitVec n) (i : Nat) : BitVec.ofBool (x.getLsbD i) = x.extractLsb' i 1 := by
  rw [BitVec.getLsbD_eq_extractLsb']
  exact (by decide : ∀ b : BitVec 1, BitVec.ofBool (b == 1#1) = b) _

/-- An opcode known by its number, as it stands in a table of opcodes. -/
theorem some_ofNat_eq {n k : Nat} {β : Type} {x : BitVec n} {f : β} (h : x.toNat = k) : some (BitVec.ofNat n k, f) = some (x, f) := by
  rw [← h, BitVec.ofNat_toNat, BitVec.setWidth_eq]

/-! ### Slot words -/

/-- The slot word of an op and the fields beside it (R62). -/
def slotWordOf (op : BitVec 7) (f : Slot) : BitVec 32 := op ++ f.a ++ f.b ++ f.d ++ f.n ++ f.m

theorem encodeSlot_eq (i : Instr) : encodeSlot i = (slotOp i).map (fun x => slotWordOf x.1 x.2) := rfl

theorem slotWordOf_op (op : BitVec 7) (f : Slot) : (slotWordOf op f).extractLsb' 25 7 = op := by
  simp (disch := omega) only [slotWordOf, BitVec.extractLsb'_append_eq_of_le, Nat.reduceSub, BitVec.extractLsb'_eq_self]

theorem slotFields_slotWordOf (op : BitVec 7) (f : Slot) : slotFields (slotWordOf op f) = f := by
  simp (disch := omega) only [slotFields, slotWordOf, BitVec.extractLsb'_append_eq_of_le,
    BitVec.extractLsb'_append_eq_of_add_le, Nat.reduceSub, BitVec.extractLsb'_eq_self]

theorem slotWordOf_slotFields (w : BitVec 32) : slotWordOf (w.extractLsb' 25 7) (slotFields w) = w := by
  simp (disch := omega) only [slotWordOf, slotFields, BitVec.extractLsb'_append_extractLsb'_eq_extractLsb']
  exact BitVec.extractLsb'_eq_self

theorem slotWordOf_eq_iff {op : BitVec 7} {f : Slot} {w : BitVec 32} :
    slotWordOf op f = w ↔ w.extractLsb' 25 7 = op ∧ slotFields w = f := by
  constructor
  · rintro rfl
    exact ⟨slotWordOf_op op f, slotFields_slotWordOf op f⟩
  · rintro ⟨rfl, rfl⟩
    exact slotWordOf_slotFields w

theorem encodeSlot_eq_some_iff {i : Instr} {w : BitVec 32} :
    encodeSlot i = some w ↔ slotOp i = some (w.extractLsb' 25 7, slotFields w) := by
  simp only [encodeSlot_eq, Option.map_eq_some_iff, slotWordOf_eq_iff]
  constructor
  · rintro ⟨⟨op, f⟩, h, rfl, rfl⟩
    exact h
  · intro h
    exact ⟨_, h, rfl, rfl⟩

/-- The instruction that Table 13.9 gives an op has that op. -/
theorem slotOp_of_decodeSlot {i : Instr} {w : BitVec 32} (h : decodeSlot w = .ok i) :
    slotOp i = some (w.extractLsb' 25 7, slotFields w) := by
  unfold decodeSlot at h
  split at h
  case h_70 => cases h
  all_goals
    rename_i hop
    cases h
    exact some_ofNat_eq hop

/-- The op of an instruction stands in Table 13.9 beside that instruction alone. -/
theorem decodeSlot_of_slotOp {i : Instr} {w : BitVec 32} (h : slotOp i = some (w.extractLsb' 25 7, slotFields w)) :
    decodeSlot w = .ok i := by
  unfold slotOp at h
  split at h
  case h_70 => cases h
  all_goals
    obtain ⟨hop, rfl⟩ := Prod.mk.inj (Option.some.inj h)
    rw [decodeSlot, ← hop]
    rfl

theorem decodeSlot_iff_encodeSlot {i : Instr} {w : BitVec 32} : decodeSlot w = .ok i ↔ encodeSlot i = some w :=
  ⟨fun h => encodeSlot_eq_some_iff.2 (slotOp_of_decodeSlot h), fun h => decodeSlot_of_slotOp (encodeSlot_eq_some_iff.1 h)⟩

/-! ### Handler words -/

/-- A handler word with two source registers (Table 8.6): its fixed fields and its registers. -/
theorem twoSourceWord_eq_iff {s a d : BitVec 5} {fn : BitVec 3} {w : BitVec 32} :
    0#7 ++ s ++ a ++ fn ++ d ++ 11#7 = w ↔
      (w.extractLsb' 0 7 = 11#7 ∧ w.extractLsb' 12 3 = fn ∧ w.extractLsb' 25 7 = 0#7) ∧
        w.extractLsb' 20 5 = s ∧ w.extractLsb' 15 5 = a ∧ w.extractLsb' 7 5 = d := by
  constructor
  · rintro rfl
    simp (disch := omega) only [BitVec.extractLsb'_append_eq_of_le, BitVec.extractLsb'_append_eq_of_add_le,
      Nat.reduceSub, BitVec.extractLsb'_eq_self, and_self]
  · rintro ⟨⟨hop, hfn, hhi⟩, rfl, rfl, rfl⟩
    rw [← hop, ← hfn, ← hhi]
    simp (disch := omega) only [BitVec.extractLsb'_append_extractLsb'_eq_extractLsb']
    exact BitVec.extractLsb'_eq_self

theorem encodeAssayer_ayMsg_iff {a d : BitVec 5} {w : BitVec 32} :
    encodeAssayer (.ayMsg a d) = some w ↔
      (w.extractLsb' 0 7 = 11#7 ∧ w.extractLsb' 12 3 = 5#3 ∧ w.extractLsb' 20 12 = 0#12) ∧
        w.extractLsb' 15 5 = a ∧ w.extractLsb' 7 5 = d := by
  constructor
  · rintro ⟨⟩
    simp (disch := omega) only [BitVec.extractLsb'_append_eq_of_le, BitVec.extractLsb'_append_eq_of_add_le,
      Nat.reduceSub, BitVec.extractLsb'_eq_self, and_self]
  · rintro ⟨⟨hop, hfn, hhi⟩, rfl, rfl⟩
    simp (disch := omega) only [encodeAssayer, ← hop, ← hfn, ← hhi,
      BitVec.extractLsb'_append_extractLsb'_eq_extractLsb', BitVec.extractLsb'_eq_self]

theorem encodeAssayer_ayRet_iff {a : BitVec 5} {w : BitVec 32} :
    encodeAssayer (.ayRet a) = some w ↔
      (w.extractLsb' 0 15 = 11#15 ∧ w.extractLsb' 20 12 = 32#12) ∧ w.extractLsb' 15 5 = a := by
  constructor
  · rintro ⟨⟩
    simp (disch := omega) only [BitVec.extractLsb'_append_eq_of_le, BitVec.extractLsb'_append_eq_of_add_le,
      Nat.reduceSub, BitVec.extractLsb'_eq_self, and_self]
  · rintro ⟨⟨hlo, hhi⟩, rfl⟩
    simp (disch := omega) only [encodeAssayer, ← hlo, ← hhi,
      BitVec.extractLsb'_append_extractLsb'_eq_extractLsb', BitVec.extractLsb'_eq_self]

theorem encodeAssayer_ayBudget_iff {d : BitVec 5} {w : BitVec 32} :
    encodeAssayer (.ayBudget d) = some w ↔
      (w.extractLsb' 0 7 = 11#7 ∧ w.extractLsb' 12 20 = 8193#20) ∧ w.extractLsb' 7 5 = d := by
  constructor
  · rintro ⟨⟩
    simp (disch := omega) only [BitVec.extractLsb'_append_eq_of_le, BitVec.extractLsb'_append_eq_of_add_le,
      Nat.reduceSub, BitVec.extractLsb'_eq_self, and_self]
  · rintro ⟨⟨hop, hhi⟩, rfl⟩
    simp (disch := omega) only [encodeAssayer, ← hop, ← hhi,
      BitVec.extractLsb'_append_extractLsb'_eq_extractLsb', BitVec.extractLsb'_eq_self]

/-- The word of an instruction of Table 8.6 is no other's of the table. -/
theorem decodeAssayer_of_encodeAssayer {i : Instr} {w : BitVec 32} (hi : ∀ v, i ≠ .assayerRiscvInstruction v)
    (h : encodeAssayer i = some w) : decodeAssayer w = i := by
  cases i with
  | ayLdl s a d | ayStl s a d | ayFill s a d | ayPush s a d | ayEvict s a d | ayLock s a d | ayStat s a d =>
    obtain ⟨⟨hop, hfn, hhi⟩, rfl, rfl, rfl⟩ := twoSourceWord_eq_iff.1 (Option.some.inj h)
    simp [decodeAssayer, hop, hfn, hhi]
  | ayMsg a d =>
    obtain ⟨⟨hop, hfn, hhi⟩, rfl, rfl⟩ := encodeAssayer_ayMsg_iff.1 h
    simp [decodeAssayer, hop, hfn, hhi]
  | ayRet a =>
    obtain ⟨⟨hlo, hhi⟩, rfl⟩ := encodeAssayer_ayRet_iff.1 h
    have htop : w.extractLsb' 25 7 = 1#7 := by
      rw [← extractLsb'_within (l := 12) (s := 20) (t := 5) w (by decide), hhi]; rfl
    simp [decodeAssayer, hlo, hhi, htop]
  | ayBudget d =>
    obtain ⟨⟨hop, hhi⟩, rfl⟩ := encodeAssayer_ayBudget_iff.1 h
    have hfn : w.extractLsb' 12 3 = 1#3 := by
      rw [← extractLsb'_within (l := 20) (s := 12) (t := 0) w (by decide), hhi]; rfl
    have htop : w.extractLsb' 25 7 = 1#7 := by
      rw [← extractLsb'_within (l := 20) (s := 12) (t := 13) w (by decide), hhi]; rfl
    have hlo : w.extractLsb' 0 15 ≠ 11#15 := fun hlo => by
      rw [← extractLsb'_within (l := 15) (s := 0) (t := 12) w (by decide), hlo] at hfn
      exact absurd hfn (by decide)
    simp [decodeAssayer, hop, hfn, htop, hlo, hhi]
  | assayerRiscvInstruction v => exact absurd rfl (hi v)
  | _ => cases h

/-- Every word is that of the handler instruction it stands for. -/
theorem encodeAssayer_decodeAssayer (w : BitVec 32) : encodeAssayer (decodeAssayer w) = some w := by
  fun_cases decodeAssayer w with
  | case1 h => exact congrArg some (twoSourceWord_eq_iff.2 ⟨h, rfl, rfl, rfl⟩)
  | case2 _ h => exact congrArg some (twoSourceWord_eq_iff.2 ⟨h, rfl, rfl, rfl⟩)
  | case3 _ _ h => exact congrArg some (twoSourceWord_eq_iff.2 ⟨h, rfl, rfl, rfl⟩)
  | case4 _ _ _ h => exact congrArg some (twoSourceWord_eq_iff.2 ⟨h, rfl, rfl, rfl⟩)
  | case5 _ _ _ _ h => exact congrArg some (twoSourceWord_eq_iff.2 ⟨h, rfl, rfl, rfl⟩)
  | case6 _ _ _ _ _ h => exact encodeAssayer_ayMsg_iff.2 ⟨h, rfl, rfl⟩
  | case7 _ _ _ _ _ _ h => exact congrArg some (twoSourceWord_eq_iff.2 ⟨h, rfl, rfl, rfl⟩)
  | case8 _ _ _ _ _ _ _ h => exact congrArg some (twoSourceWord_eq_iff.2 ⟨h, rfl, rfl, rfl⟩)
  | case9 _ _ _ _ _ _ _ _ h => exact encodeAssayer_ayRet_iff.2 ⟨h, rfl⟩
  | case10 _ _ _ _ _ _ _ _ _ h => exact encodeAssayer_ayBudget_iff.2 ⟨h, rfl⟩
  | case11 => rfl

/-! ### Stream commands -/

/-- The stream command of an opcode and the fields beside it (R285). -/
def cmdWordOf (op : BitVec 8) (c : Cmd) : QWord :=
  op ++ BitVec.ofBool c.waitEn ++ c.waitF ++ BitVec.ofBool c.sigEn ++ c.sigF ++ c.sid ++ c.bind ++ c.flags ++ c.ops

theorem encodeCmd_eq (i : Instr) : encodeCmd i = (cmdOp i).map (fun x => cmdWordOf x.1 x.2) := rfl

theorem cmdWordOf_op (op : BitVec 8) (c : Cmd) : (cmdWordOf op c).extractLsb' 120 8 = op := by
  simp (disch := omega) only [cmdWordOf, BitVec.extractLsb'_append_eq_of_le, Nat.reduceSub, BitVec.extractLsb'_eq_self]

theorem cmdFields_cmdWordOf (op : BitVec 8) (c : Cmd) : cmdFields (cmdWordOf op c) = c := by
  have hflag : ∀ b : Bool, (BitVec.ofBool b == 1#1) = b := by decide
  simp (disch := omega) only [cmdFields, cmdWordOf, BitVec.getLsbD_eq_extractLsb', BitVec.extractLsb'_append_eq_of_le,
    BitVec.extractLsb'_append_eq_of_add_le, Nat.reduceSub, BitVec.extractLsb'_eq_self, hflag]

theorem cmdWordOf_cmdFields (q : QWord) : cmdWordOf (q.extractLsb' 120 8) (cmdFields q) = q := by
  simp (disch := omega) only [cmdWordOf, cmdFields, ofBool_getLsbD, BitVec.extractLsb'_append_extractLsb'_eq_extractLsb']
  exact BitVec.extractLsb'_eq_self

theorem cmdWordOf_eq_iff {op : BitVec 8} {c : Cmd} {q : QWord} :
    cmdWordOf op c = q ↔ q.extractLsb' 120 8 = op ∧ cmdFields q = c := by
  constructor
  · rintro rfl
    exact ⟨cmdWordOf_op op c, cmdFields_cmdWordOf op c⟩
  · rintro ⟨rfl, rfl⟩
    exact cmdWordOf_cmdFields q

theorem encodeCmd_eq_some_iff {i : Instr} {q : QWord} :
    encodeCmd i = some q ↔ cmdOp i = some (q.extractLsb' 120 8, cmdFields q) := by
  simp only [encodeCmd_eq, Option.map_eq_some_iff, cmdWordOf_eq_iff]
  constructor
  · rintro ⟨⟨op, c⟩, h, rfl, rfl⟩
    exact h
  · intro h
    exact ⟨_, h, rfl, rfl⟩

/-- The command that Table 13.6 or Table 12.3 gives an opcode has that opcode, whatever its flags chose. -/
theorem cmdOp_of_decodeCmd {i : Instr} {q : QWord} (h : decodeCmd q = .ok i) :
    cmdOp i = some (q.extractLsb' 120 8, cmdFields q) := by
  dsimp only [decodeCmd] at h
  split at h
  case h_1 hop =>
    split at h <;>
    · cases h
      exact some_ofNat_eq hop
  case h_26 hop =>
    split at h
    case h_5 => cases h
    all_goals
      cases h
      exact some_ofNat_eq hop
  case h_27 => cases h
  all_goals
    rename_i hop
    cases h
    exact some_ofNat_eq hop

/-- The opcode of a well-formed command, with the flags that its rule fixes where commands share an opcode (SLOAD's flag 0,
a METER's function), stands in the tables beside that command alone. -/
theorem decodeCmd_of_cmdOp {i : Instr} {q : QWord} (hwf : i.wf = true)
    (h : cmdOp i = some (q.extractLsb' 120 8, cmdFields q)) : decodeCmd q = .ok i := by
  cases i with
  | sload c | sloadPush c | meterCeil c | meterCeilall c | meterPoint c | meterCut c =>
    obtain ⟨hop, rfl⟩ := Prod.mk.inj (Option.some.inj h)
    simp only [Instr.wf, cmdOk, Bool.and_eq_true, beq_iff_eq] at hwf
    simp [decodeCmd, ← hop, hwf]
  | sstore c | sgather c | sscatter c | kvadmit c | sclose c | sbar c | sown c | sseg c | cload c | cswitch c | cretire c
  | csave c | crestore c | hcopy c | hfill c | selpred c | seltopk c | seampack c | collred c | collgath c | collscat c
  | pgpin c | pgrel c | migrate c =>
    obtain ⟨hop, rfl⟩ := Prod.mk.inj (Option.some.inj h)
    rw [decodeCmd, ← hop]
    rfl
  | _ => cases h

/-- Settles O57: slot words and commands by the two directions of their tables, handler words by the fields of each form. -/
theorem otherWordsRoundTrip : Obligations.OtherWordsRoundTrip := by
  refine ⟨?slotBack, ?slotForth, ?handlerBack, ?handlerForth, ?cmdBack, ?cmdForth⟩
  case slotBack => exact fun i w => decodeSlot_iff_encodeSlot.2
  case slotForth => exact fun i w => decodeSlot_iff_encodeSlot.1
  case handlerBack => exact fun i w => decodeAssayer_of_encodeAssayer
  case handlerForth => exact encodeAssayer_decodeAssayer
  case cmdBack => exact fun i q hwf h => decodeCmd_of_cmdOp hwf (encodeCmd_eq_some_iff.1 h)
  case cmdForth => exact fun i q h => encodeCmd_eq_some_iff.2 (cmdOp_of_decodeCmd h)

end Sys2Proof
end

section
/-!
What an answered access leaves behind (06_memory.md R137, 10_faults_modes.md R215, R216, R236): the steps of a slice change
the slices alone, the way over the mesh the counts of failed retransmissions, and a translation the translation caches.
-/
namespace Sys2Proof.Machine

open Sys2Proof

/-! ### What the steps of a slice leave alone -/

/-- s and t differ in nothing but the slices. -/
def onlySlices (s t : State) : Prop := t = { s with slices := t.slices }

theorem onlySlices_refl (s : State) : onlySlices s s := rfl

theorem onlySlices.trans {s t u : State} (hst : onlySlices s t) (htu : onlySlices t u) : onlySlices s u := by
  unfold onlySlices at *
  rw [htu, hst]

theorem onlySlices_ite {c : Prop} [Decidable c] {s t u : State} (ht : onlySlices s t) (hu : onlySlices s u) :
    onlySlices s (if c then t else u) := by
  split
  · exact ht
  · exact hu

theorem onlySlices_foldl {α : Type} {f : State → α → State} (hf : ∀ s a, onlySlices s (f s a)) (l : List α) (s : State) :
    onlySlices s (l.foldl f s) := by
  induction l generalizing s with
  | nil => exact onlySlices_refl s
  | cons a l ih => exact (hf s a).trans (ih (f s a))

section

variable (s : State) (i : Nat)

theorem onlySlices_modSlice (f : Slice → Slice) : onlySlices s (s.modSlice i f) := rfl

theorem onlySlices_setWay (set w : Nat) (x : Option Way) : onlySlices s (s.setWay i set w x) := rfl

theorem onlySlices_touchWay (set w : Nat) : onlySlices s (touchWay s i set w) := rfl

theorem onlySlices_setMiss (line : Nat) (f : Miss → Miss) : onlySlices s (setMiss s i line f) := rfl

theorem onlySlices_dropMiss (line : Nat) : onlySlices s (dropMiss s i line) := rfl

theorem onlySlices_letIn (line : Nat) (o : Origin) (met : Bool) : onlySlices s (letIn s i line o met) := rfl

theorem onlySlices_letOut (line : Nat) (o : Origin) : onlySlices s (letOut s i line o) := rfl

theorem onlySlices_queueEvent (e : SliceEv) : onlySlices s (queueEvent s i e).1 := by
  unfold queueEvent
  split <;> rfl

theorem onlySlices_writeBack (w : Option Way) : onlySlices s (writeBack s i w) := by
  cases w with
  | none => exact onlySlices_refl s
  | some x => exact onlySlices_ite (onlySlices_modSlice s i _) (onlySlices_refl s)

/-! ### The steps of a miss (08_assayers.md R177) -/

theorem onlySlices_missFault (m : Miss) : onlySlices s (missFault s i m) :=
  onlySlices_ite (onlySlices_dropMiss s i _) (onlySlices_setMiss s i _ _)

theorem onlySlices_missFill (m : Miss) : onlySlices s (missFill s i m) :=
  onlySlices_ite
    ((onlySlices_queueEvent s i (missEv m 1)).trans
      (onlySlices_ite (onlySlices_setMiss _ i _ _) (onlySlices_ite (onlySlices_missFault _ i m) (onlySlices_dropMiss _ i _))))
    (onlySlices_dropMiss s i _)

theorem onlySlices_missInstall (m : Miss) : onlySlices s (missInstall s i m) :=
  (onlySlices_setWay s i _ _ _).trans (onlySlices_missFill _ i m)

theorem onlySlices_missFetch (m : Miss) : onlySlices s (missFetch s i m) :=
  onlySlices_ite (onlySlices_missInstall s i m) (onlySlices_ite (onlySlices_setMiss s i _ _) (onlySlices_setMiss s i _ _))

theorem onlySlices_missHook (m : Miss) : onlySlices s (missHook s i m) :=
  onlySlices_ite
    ((onlySlices_queueEvent s i (missEv m 0)).trans
      (onlySlices_ite (onlySlices_setMiss _ i _ _) (onlySlices_ite (onlySlices_missFault _ i m) (onlySlices_missFetch _ i m))))
    (onlySlices_missFetch s i m)

theorem onlySlices_missEvict (m : Miss) : onlySlices s (missEvict s i m) :=
  onlySlices_ite (onlySlices_setMiss s i _ _)
    ((onlySlices_writeBack s i _).trans ((onlySlices_setWay _ i _ _ _).trans
      ((onlySlices_touchWay _ i _ _).trans (onlySlices_missHook _ i m))))

theorem onlySlices_startMiss (line : Nat) (o : Origin) : onlySlices s (startMiss s i line o) := by
  unfold startMiss
  split
  · exact onlySlices_refl s
  · dsimp only
    split
    · exact (onlySlices_modSlice s i _).trans (onlySlices_ite
        ((onlySlices_queueEvent _ i _).trans (onlySlices_ite (onlySlices_refl _) (onlySlices_missEvict _ i _)))
        (onlySlices_missEvict _ i _))
    · exact (onlySlices_modSlice s i _).trans (onlySlices_missEvict _ i _)

theorem onlySlices_admitList (l : List (Nat × Origin)) (sets : List Nat) : onlySlices s (admitList i l s sets) := by
  induction l generalizing s sets with
  | nil => exact onlySlices_refl s
  | cons e rest ih =>
    have drop := onlySlices_modSlice s i (fun x => { x with waiting := x.waiting.filter (fun y => decide (y ≠ e)) })
    exact onlySlices_ite (drop.trans (ih _ sets)) (onlySlices_ite (ih s _) (drop.trans ((onlySlices_startMiss _ i _ _).trans (ih _ sets))))

theorem onlySlices_admitWaiting : onlySlices s (admitWaiting s i) := by
  refine (onlySlices_foldl (fun t m => ?_) (s.slice i).misses s).trans (onlySlices_admitList _ i _ _)
  split
  · exact onlySlices_missFetch t i m
  · exact onlySlices_missEvict t i m
  · exact onlySlices_refl t

theorem onlySlices_joinMiss (line : Nat) (o : Origin) : onlySlices s (joinMiss s i line o) :=
  onlySlices_ite (onlySlices_ite (onlySlices_refl s) (onlySlices_modSlice s i _)) (onlySlices_startMiss s i line o)

/-- However an access to a line stands, no more than the slices changes. -/
theorem onlySlices_lineAccess (line : Nat) (o : Origin) : onlySlices s (lineAccess s i line o).1 := by
  unfold lineAccess
  split
  case isTrue => rfl
  case isFalse =>
    refine (onlySlices_admitWaiting s i).trans ?_
    generalize admitWaiting s i = t
    dsimp only
    split
    case isTrue => exact onlySlices_letIn t i _ o _
    case isFalse =>
      split
      · exact (onlySlices_ite (onlySlices_refl t) (onlySlices_touchWay t i _ _)).trans (onlySlices_letOut _ i _ o)
      · refine (onlySlices_joinMiss t i line (originFor t i line o)).trans ?_
        split
        · split
          · exact onlySlices_letIn _ i _ o _
          · exact onlySlices_letOut _ i _ o
        · exact onlySlices_letIn _ i _ o _

end

/-! ### One access at its home -/

section

variable {s t : State} {pa n key key' : Nat} {kd : Kind} {o : Origin}

/-- An access that meets no fault at the last is answered in the state it has come to. -/
theorem eq_of_unfaulted {c : Prop} [Decidable c] {x : Code} (h : (if c then Acc.fault s x else .ready s key) = .ready t key') : t = s := by
  split at h <;> cases h
  rfl

theorem onlySlices_atHome (h : atHome s key pa n kd o = .ready t key') : onlySlices s t := by
  unfold atHome at h
  cases htgt : target pa with
  | slice i =>
    have hline := onlySlices_lineAccess s i (pa / 128) o
    simp only [htgt] at h
    split at h <;> rename_i hl
    · cases h
    · cases h
    · rw [hl] at hline
      cases eq_of_unfaulted h
      exact hline
  | scratch k lsa =>
    simp only [htgt] at h
    cases eq_of_unfaulted h
    exact onlySlices_refl _
  | host | adit | regs | none =>
    simp only [htgt] at h
    split at h
    · cases h
    · split at h
      · cases h
      · cases eq_of_unfaulted h
        exact onlySlices_refl _

/-- A check that refuses nothing leaves its state. -/
theorem eq_of_unrefused {c : Prop} [Decidable c] {u : State} {x : Code} (h : (if c then (s, none) else (u, some x)) = (t, none)) :
    t = s := by
  split at h <;> cases h
  rfl

/-- A target that permits an access logs nothing. -/
theorem eq_of_targetCheck {master : Nat} (h : targetCheck s master pa n kd = (t, none)) : t = s := by
  unfold targetCheck at h
  cases htgt : target pa with
  | slice i =>
    simp only [htgt] at h
    exact eq_of_unrefused h
  | scratch k lsa =>
    simp only [htgt] at h
    split at h
    · split at h <;> cases h
      rfl
    · cases h
  | host =>
    simp only [htgt] at h
    exact eq_of_unrefused h
  | adit e off =>
    simp only [htgt] at h
    split at h
    · exact eq_of_unrefused h
    · cases h
      rfl
  | regs | none =>
    simp only [htgt] at h
    cases h
    rfl

theorem eq_of_checkOnce (h : checkOnce s pa n kd o = (t, none)) : t = s := by
  unfold checkOnce at h
  split at h
  · cases h
    rfl
  · exact eq_of_targetCheck h

theorem onlySlices_reachHome (h : reachHome s pa n kd o = .ready t key) : onlySlices s t := by
  unfold reachHome at h
  split at h
  · cases h
  · split at h
    · cases h
    · rename_i hc
      cases eq_of_checkOnce hc
      exact onlySlices_atHome h

/-! ### The way there, and the translation before it -/

/-- s and t differ in nothing but the translation caches, the slices and the counts of failed retransmissions. -/
def tagsOnly (s t : State) : Prop :=
  t = { s with tcaches := t.tcaches, slices := t.slices, resent := t.resent, head := { s.head with retries := t.head.retries } }

theorem tagsOnly_refl (s : State) : tagsOnly s s := rfl

theorem tagsOnly.trans {s t u : State} (hst : tagsOnly s t) (htu : tagsOnly t u) : tagsOnly s u := by
  unfold tagsOnly at *
  rw [htu, hst]

theorem onlySlices.toTagsOnly (h : onlySlices s t) : tagsOnly s t := by
  unfold onlySlices at h
  rw [h]
  rfl

theorem tagsOnly_crossFrom (s : State) (from_ to_ pa : Nat) : tagsOnly s (crossFrom s from_ to_ pa).1 := by
  unfold crossFrom
  dsimp only
  split <;> rfl

theorem tagsOnly_reach (h : reach s pa n kd o = .ready t key) : tagsOnly s t := by
  unfold reach at h
  split at h
  · cases h
  · rename_i p hp
    have hcross := tagsOnly_crossFrom s (masterDie o.master) (homeDie p.home) pa
    split at h
    · exact (onlySlices_atHome h).toTagsOnly
    · split at h <;> rename_i hc
      · cases h
      · rw [show crossFrom s (masterDie o.master) (homeDie p.home) pa = _ from hc] at hcross
        exact hcross.trans (onlySlices_reachHome h).toTagsOnly

theorem tagsOnly_walkAccess {c : Nat} {full : Bool} (h : walkAccess s c pa n kd full = .ready t key) : tagsOnly s t := by
  unfold walkAccess at h
  dsimp only at h
  split at h
  · cases h
    exact tagsOnly_refl s
  · rename_i p hp
    have hcross := tagsOnly_crossFrom s (walkerDie c) (homeDie p.home) pa
    split at h
    · exact (onlySlices_atHome h).toTagsOnly
    · split at h <;> rename_i hc
      · cases h
      · rw [hc] at hcross
        split at h <;> rename_i hk
        · cases h
        · refine hcross.trans ?_
          split at hk
          · cases eq_of_targetCheck hk
            exact (onlySlices_atHome h).toTagsOnly
          · cases hk
            exact (onlySlices_atHome h).toTagsOnly

/-- A walk whose every read is answered. -/
theorem tagsOnly_walkAll {c : Nat} (l : List (Nat × Nat × Kind × Bool)) (h : walkAll c l s = .ready t key) : tagsOnly s t := by
  induction l generalizing s key with
  | nil =>
    cases h
    exact tagsOnly_refl _
  | cons e rest ih =>
    unfold walkAll at h
    split at h
    · rename_i hfirst
      split at h
      · cases h
      · exact (tagsOnly_walkAccess hfirst).trans (ih h)
    · exact tagsOnly_walkAccess h

theorem tagsOnly_walkFor {c va : Nat} {asid : BitVec 16} (h : walkFor s c asid va = .ready t key) : tagsOnly s t := by
  unfold walkFor at h
  split at h
  · cases h
  · split at h
    · cases h
      exact tagsOnly_refl s
    · exact tagsOnly_walkAll _ h

theorem tagsOnly_threadWalk {k : Nat} {va : Word} (h : threadWalk s k va = .ready t key) : tagsOnly s t := by
  unfold threadWalk at h
  split at h
  · cases h
    exact tagsOnly_refl s
  · exact tagsOnly_walkFor h

/-- A translation that finds a page posts no fetch: it changes its cache or nothing. -/
theorem tagsOnly_translate {c va : Nat} {asid : BitVec 16} {post seam : Bool} (h : translate s c asid va kd post = (t, .ok pa seam)) :
    tagsOnly s t := by
  unfold translate at h
  split at h
  · cases h
  · split at h
    · split at h <;> cases h
      exact tagsOnly_refl s
    · split at h <;> cases h
      rfl

theorem tagsOnly_locate {k va : Nat} {asid : BitVec 16} {post : Bool} {x : Nat × Bool} (h : locate s k asid va kd post = (t, .ok x)) :
    tagsOnly s t := by
  unfold locate at h
  split at h
  · dsimp only at h
    split at h <;> cases h
    exact tagsOnly_refl s
  · split at h
    · cases h
    · rename_i htr
      split at h <;> cases h
      exact tagsOnly_translate htr

end

/-- Settles O12: the walk, the translation and the access at its home, one after the other. -/
theorem answeredAccessChangesTagsOnly : Obligations.AnsweredAccessChangesTagsOnly := by
  rintro s s' k va n kd key ⟨_, s0, w, s1, pa, seam, p, hwalk, hloc, _, _, _, hreach⟩
  exact (tagsOnly_threadWalk hwalk).trans ((tagsOnly_locate hloc).trans (tagsOnly_reach hreach))

end Sys2Proof.Machine
end

section
/-!
What reaches the machine from outside a core (06_memory.md R135, 07_consistency.md R168, 10_faults_modes.md R236,
14_system.md R303, R306, R307): window accesses, requests of the host and of other modules, failing links, soft errors.
-/
namespace Sys2Proof.Machine

open Sys2Proof

theorem nfield_eq (x hi lo : Nat) : nfield x hi lo = x / 2 ^ lo % 2 ^ (hi + 1 - lo) := by rw [nfield, Nat.shiftRight_eq_div_pow]

/-- A field of the low bits is that field of the number, as far as it lies in them. -/
theorem nfield_nfield_low {x m hi lo : Nat} (h : hi ≤ m) : nfield (nfield x m 0) hi lo = nfield x hi lo := by
  simp only [nfield_eq, Nat.pow_zero, Nat.div_one, Nat.sub_zero]
  by_cases hlo : lo ≤ hi + 1
  · rw [show m + 1 = lo + (m + 1 - lo) by omega, Nat.pow_add, Nat.mod_mul_right_div_self, Nat.mod_mod_of_dvd]
    exact Nat.pow_dvd_pow 2 (by omega)
  · simp [show hi + 1 - lo = 0 by omega, Nat.mod_one]

theorem onModule_run {s : State} (h : s.self = .module) (r : Res) : onModule s r = r := by rw [onModule, h]

/-! ### Accesses at a window port and of the host (R135, R168) -/

/-- A window access that is permitted is performed; the headframe and the host learn what it has read. -/
theorem windowStep_of_ready {s t : State} {d key : Nat} {r : WindowReq} (hn : 1 ≤ r.bytes.length)
    (hchunk : r.csa % 64 + r.bytes.length ≤ 64) (hexp : r.master = 1016 → 5 ≤ s.head.step)
    (hr : reach s (csaPa d r.csa) r.bytes.length (if r.write then .write else .read) (ownOrigin r.master.toNat) = .ready t key) :
    let answers (t : State) (l : List Byte) : State :=
      if r.master = 1016 ∨ r.master = 1008 then answer t (csaPa d r.csa) (.done l) else t
    windowStep s d r = if r.write = true then answers (writeMem t key r.bytes) [] else answers t (readMem t key r.bytes.length) := by
  have hopen : ¬ (r.master = 1016 ∧ exposed s = false) := by
    rintro ⟨hm, he⟩
    simp [exposed, hexp hm] at he
  rw [windowStep]
  simp only [hr, if_neg hopen, if_neg (show ¬ (r.bytes.length = 0 ∨ 64 < r.csa % 64 + r.bytes.length) by omega)]

theorem windowAccess_eq {s : State} {k y x n : Nat} {r : WindowReq} (hturn : s.self = .tile k y x n)
    (hcore : r.csa / 2 ^ 23 % 2 ^ 7 = coreNum k) (hsite : memTileSite (r.csa / 2 ^ 15 % 2 ^ 8) = (y, x)) :
    exec (.windowAccess r) s = .next (windowStep s (coreDie k) r) := by
  have hnum : nfield r.csa 29 23 = coreNum k := by rw [nfield_eq, hcore]
  have htile : nfield (nfield r.csa 22 0) 22 15 = r.csa / 2 ^ 15 % 2 ^ 8 := by rw [nfield_nfield_low le_rfl, nfield_eq]
  show execWindowAccess r s = _
  rw [execWindowAccess, hturn]
  exact if_pos ⟨hnum, htile ▸ hsite⟩

/-- What becomes of a request of the host, by what its home makes of it. -/
def hostOutcome (r : HostReq) : Acc → State
  | .wait s => s
  | .fault s c => answer s r.addr (if c = fcECC then .poisoned else .refused)
  | .ready s key => if r.write then answer (perform s key (r.bytes.map some)) r.addr (.done [])
                    else answer s r.addr (.done (readMem s key r.bytes.length))

/-- A request of the host within one line of the stack, once HDM is exposed, goes to its home. -/
theorem hostCxlMemRequest_eq {s : State} {i : Nat} {r : HostReq} (hturn : s.self = .slice i) (hexp : 5 ≤ s.head.step)
    (hn : 1 ≤ r.bytes.length) (hline : r.addr % 128 + r.bytes.length ≤ 128) (hstack : r.addr + r.bytes.length ≤ 2 ^ 39)
    (hhome : homeSlice r.addr = i) :
    exec (.hostCxlMemRequest r) s =
      .next (hostOutcome r (reach s r.addr r.bytes.length (if r.write then .write else .read) (rawOrigin 5 1016))) := by
  have hone : oneLine r.addr r.bytes.length = true := decide_eq_true ⟨hn, hline, hstack⟩
  have hopen : exposed s = true := decide_eq_true hexp
  show execHostCxlMemRequest r s = _
  rw [execHostCxlMemRequest, hturn]
  exact if_pos (by simp only [hone, hopen, hhome, decide_true, Bool.and_self])

/-! ### Requests of other modules (R307) -/

theorem amoSize_pos (z : BitVec 1) : 0 < amoSize z := by
  unfold amoSize
  split <;> decide

/-- A remote request that is answered takes its effect. -/
theorem remoteReach_of_ready {s t : State} {port a n key : Nat} {kd : Kind} (f : State → Nat → State) (hn : 0 < n) (hline : a % 128 + n ≤ 128)
    (hmem : ∀ d l, target a ≠ .scratch d l) (hr : reach s a n kd (rawOrigin Config.otherOriginator (960 + port)) = .ready t key) :
    remoteReach s port a n kd f = f t key := by
  rw [remoteReach, if_neg (by omega)]
  cases ht : target a with
  | scratch d l => exact absurd ht (hmem d l)
  | slice | host | adit | regs | none => simp only [hr]

/-- A remote atomic is performed at its home, indivisibly. -/
theorem remoteAtomic_of_ready {s t : State} {port a key : Nat} {z : BitVec 1} (new : Nat → Option Nat) (hal : a % amoSize z = 0)
    (hline : a % 128 + amoSize z ≤ 128) (hmem : ∀ d l, target a ≠ .scratch d l)
    (hr : reach s a (amoSize z) .atomic (rawOrigin Config.otherOriginator (960 + port)) = .ready t key) :
    remoteAtomic s port a z new =
      (new (readNat t key (amoSize z))).elim t (fun v => perform t key (cellsOf (amoSize z) v)) := by
  rw [remoteAtomic]
  simp only [hal, ne_eq, not_true_eq_false, if_false]
  rw [remoteReach_of_ready _ (amoSize_pos z) hline hmem hr]
  cases new (readNat t key (amoSize z)) with
  | none => rfl
  | some v => rfl

/-! ### Links (R236, R306) -/

section

variable {s : State} {l : Nat} (hturn : s.self = .module)

include hturn

/-- The link carries the flit of a request: it is sent again, and the seventh failure charges LINK to the access. -/
theorem linkRetransmit_of_request {i : Nat} {r : Req} (hi : s.egress.findIdx? (onLink s l) = some i) (hr : s.egress[i]? = some r) :
    (r.resent < 6 → exec (.linkRetransmit l) s = .next { s with egress := s.egress.set i { r with resent := r.resent + 1 } }) ∧
    (6 ≤ r.resent → ∃ t, exec (.linkRetransmit l) s = .next t ∧ t.egress = s.egress.set i { linkFails r with resent := 0 } ∧
      t.head.deadPorts = if l < 16 then s.head.deadPorts ||| (1 <<< l) else s.head.deadPorts) := by
  have hrun : exec (.linkRetransmit l) s = execLinkRetransmit l s := rfl
  rw [hrun, execLinkRetransmit, onModule_run hturn]
  simp only [hi, hr]
  refine ⟨fun h => if_pos h, fun h => ⟨_, if_neg (Nat.not_lt.2 h), ?_⟩⟩
  split
  · exact ⟨rfl, rfl⟩
  · exact ⟨rfl, rfl⟩

/-- An Adit port carries no request's flit: the failures count against the port, and the seventh ends it. -/
theorem linkRetransmit_of_port (hnone : ∀ r ∈ s.egress, onLink s l r = false) (hl : l < 16) :
    (Map.get 0 s.head.retries l < 6 → ∃ t, exec (.linkRetransmit l) s = .next t ∧ t.egress = s.egress ∧
      Map.get 0 t.head.retries l = Map.get 0 s.head.retries l + 1 ∧ t.head.deadPorts = s.head.deadPorts) ∧
    (6 ≤ Map.get 0 s.head.retries l → ∃ t, exec (.linkRetransmit l) s = .next t ∧ t.egress = s.egress ∧
      Map.get 0 t.head.retries l = 0 ∧ t.head.deadPorts = s.head.deadPorts ||| (1 <<< l)) := by
  have hrun : exec (.linkRetransmit l) s = execLinkRetransmit l s := rfl
  rw [hrun, execLinkRetransmit, onModule_run hturn]
  simp only [List.findIdx?_eq_none_iff.2 hnone, if_pos hl]
  constructor
  · intro h
    exact ⟨_, congrArg _ (if_pos (by omega)), rfl, Map.get_set_same 0 s.head.retries l (Map.get 0 s.head.retries l + 1), rfl⟩
  · intro h
    exact ⟨_, congrArg _ (if_neg (by omega)), rfl, Map.get_set_same 0 s.head.retries l 0, rfl⟩

/-- A link of the mesh or of the fabric carries no request's flit: the failures count against what crosses it next. -/
theorem linkRetransmit_of_edge (hnone : ∀ r ∈ s.egress, onLink s l r = false) (hl : 16 ≤ l) :
    exec (.linkRetransmit l) s = .next { s with resent := Map.set 0 s.resent (l - 16) (Map.get 0 s.resent (l - 16) + 1) } := by
  show execLinkRetransmit l s = _
  rw [execLinkRetransmit, onModule_run hturn]
  simp only [List.findIdx?_eq_none_iff.2 hnone, if_neg (Nat.not_lt.2 hl)]

end

/-- Settles O51: each kind of access by the lemma about it. -/
theorem accessesFromOutside : Obligations.AccessesFromOutside := by
  intro s s' k y x n i key
  refine ⟨?window, ?host, ?snoop, ?decrement, ?amo, ?cas, ?cancel, ?fetch, ?write, ?link, ?ecc⟩
  case window =>
    intro r hturn hcore hsite hn hchunk hexp pa answers hr
    rw [windowAccess_eq hturn hcore hsite, windowStep_of_ready hn hchunk hexp hr]
  case host =>
    intro r hturn hexp hn hline hstack hhome at_
    rw [hostCxlMemRequest_eq hturn hexp hn hline hstack hhome]
    refine ⟨fun hr => ?_, fun c hr => ?_⟩
    · exact congrArg (fun a => (.next (hostOutcome r a) : Res)) hr
    · exact congrArg (fun a => (.next (hostOutcome r a) : Res)) hr
  case snoop =>
    intro a bytes hturn hline hhost
    exact (onModule_run hturn _).trans (if_pos ⟨hline, hhost⟩)
  case decrement =>
    intro port job how code hturn
    exact onModule_run hturn _
  case amo =>
    intro p a op z b hturn hal hmem hline hr
    refine (onModule_run hturn _).trans (congrArg _ ?_)
    exact remoteAtomic_of_ready _ hal hline hmem hr
  case cas =>
    intro p a z d b hturn hal hmem hline hr
    refine (onModule_run hturn _).trans (congrArg _ ((remoteAtomic_of_ready _ hal hline hmem hr).trans ?_))
    by_cases h : readNat s' key (amoSize z) = d.toNat % 2 ^ (8 * amoSize z)
    · simp only [if_pos h, Option.elim_some]
    · simp only [if_neg h, Option.elim_none]
  case cancel =>
    intro port job origin hturn
    exact onModule_run hturn _
  case fetch =>
    intro port a hturn hal
    exact (onModule_run hturn _).trans (congrArg _ (if_neg hal))
  case write =>
    intro a bytes p hturn
    exact onModule_run hturn _
  case link =>
    intro l hturn
    exact ⟨fun r => linkRetransmit_of_request hturn, linkRetransmit_of_port hturn, linkRetransmit_of_edge hturn⟩
  case ecc =>
    intro a j hturn hslice
    refine ⟨{ s with poison := Map.set false s.poison (a / 8) true }, (onModule_run hturn _).trans ?_, rfl,
      fun b => Map.get_set false s.poison (a / 8) b true⟩
    rw [hslice]

end Sys2Proof.Machine
end

section
/-!
Requests on their way (01_device.md R13, 06_memory.md R137, 07_consistency.md R151, R164, 10_faults_modes.md R220,
18_ref_s.md R415): each step of a store from its core to its home and of its answer back; the end of a stream barrier
(R159) and the hand-over of a stream to an element engine (R144).
-/
namespace Sys2Proof.Machine

open Sys2Proof

/-! ### The way to the home (R151, R13, R164) -/

section

variable {s : State} {i : Nat} {r : Req}

/-- A slice moves a request to it that has no answer yet. -/
theorem l2Access_eq {j : Nat} (hturn : s.self = .slice j) (hr : s.egress[i]? = some r) (hhome : reqHome s r = j)
    (hopen : r.outcome = none) : exec (.l2Access i) s = .next (moveReq s i r) := by
  show execL2Access i s = _
  rw [execL2Access, hturn]
  simp only [hr, hhome, hopen, decide_true, Option.isNone_none, Bool.and_self, if_true]

theorem moveReq_of_not_left (hleft : r.left = false) (hfirst : olderStore s i r = false) :
    moveReq s i r = { s with egress := s.egress.eraseIdx i ++ [{ r with left := true }] } := by
  rw [moveReq]
  simp only [hleft, hfirst, if_true, Bool.false_eq_true, if_false]

theorem moveReq_of_heldBack (hleft : r.left = true) (hheld : heldBack s i r = true) : moveReq s i r = s := by
  rw [moveReq]
  simp only [hleft, hheld, if_true, Bool.true_eq_false, if_false]

/-- A request crosses the next edge of its route: over the first one, its die's UCIe egress, it goes behind the others, and over
a later one it keeps its place. -/
theorem moveReq_of_edge (hleft : r.left = true) (hfree : heldBack s i r = false)
    (hedge : r.hops < (reqEdges r.core (reqHome s r)).length) :
    moveReq s i r = { s with egress :=
      (if r.hops = 0 then s.egress.eraseIdx i ++ [{ r with hops := r.hops + 1, resent := 0 }]
       else s.egress.set i { r with hops := r.hops + 1, resent := 0 }) } := by
  rw [moveReq]
  simp only [hleft, hfree, Bool.true_eq_false, Bool.false_eq_true, if_false, if_pos (Or.inl hedge), Nat.ne_of_lt hedge, or_false]
  split <;> rfl

/-- However it crosses an edge, the request is among those on their way, and their number stays. -/
theorem mem_egress_crossed {r' : Req} (hr : s.egress[i]? = some r) {c : Prop} [Decidable c] :
    let l := if c then s.egress.eraseIdx i ++ [r'] else s.egress.set i r'
    r' ∈ l ∧ l.length = s.egress.length := by
  obtain ⟨hi, -⟩ := List.getElem?_eq_some_iff.1 hr
  dsimp only
  split
  · refine ⟨List.mem_append_right _ List.mem_cons_self, ?_⟩
    rw [List.length_append, List.length_singleton, List.length_eraseIdx_of_lt hi]
    omega
  · exact ⟨List.mem_set hi r', List.length_set⟩

/-! ### At the home (R137, R415) -/

/-- The origin of a store of the control thread. -/
def storeOrigin (r : Req) : Origin :=
  { okind := 0, master := coreMaster r.core, asid := r.asid, va := r.va, full := r.cells.length == 128 && r.cells.all (·.isSome) }

/-- The home notes its answer at the request. -/
def noteAnswer (s : State) (id : Nat) (c : Code) : State :=
  { s with egress := s.egress.map (fun q => if q.id = id then { q with outcome := some c } else q) }

/-- What becomes of a store of the control thread, by what its home makes of it. -/
def storeAnswered (r : Req) : Acc → State
  | .wait s => s
  | .fault s c => noteAnswer s r.id c
  | .ready s key => noteAnswer (perform s key r.cells) r.id 0

/-- A store that has crossed all edges to a slice reaches its home. -/
theorem moveReq_of_home (hleft : r.left = true) (hfree : heldBack s i r = false) (hslice : reqHome s r < 256)
    (hhere : (reqEdges r.core (reqHome s r)).length ≤ r.hops) (hthread : r.sid = none) :
    moveReq s i r = storeAnswered r (reachHome s r.pa r.cells.length .write (storeOrigin r)) := by
  have hend : ¬ (r.hops < (reqEdges r.core (reqHome s r)).length ∨
      (1000 ≤ reqHome s r ∧ r.hops = (reqEdges r.core (reqHome s r)).length)) := by omega
  rw [moveReq, storeOrigin]
  simp only [hleft, hfree, hend, hthread, Bool.true_eq_false, Bool.false_eq_true, if_false, Option.isSome_none]
  generalize reachHome s r.pa r.cells.length .write _ = a
  cases a <;> rfl

/-! ### The way back (R139, R220) -/

/-- A core takes an answer that has crossed its route, and moves one that has not over the next edge. -/
theorem accessReply_eq {c : Code} (hturn : s.self = .core r.core) (hr : s.egress[i]? = some r) (hanswer : r.outcome = some c) :
    exec (.accessReply i) s = .next (
      if r.back < (meshEdges (homeDie (reqHome s r)) (coreDie r.core)).length then
        { s with egress := s.egress.set i { r with back := r.back + 1, resent := 0 } }
      else replyReq s i r c) := by
  show execAccessReply i s = _
  rw [execAccessReply, hturn]
  simp only [hr, hanswer, ne_eq, not_true_eq_false, if_false]
  split <;> rfl

theorem replyReq_of_performed : replyReq s i r 0 = { s with egress := s.egress.eraseIdx i } := by
  rw [replyReq]
  exact if_pos rfl

theorem replyReq_of_refused {c : Code} (hcode : c ≠ 0) (hthread : r.sid = none) :
    replyReq s i r c = pendFault { s with egress := s.egress.eraseIdx i }
      { core := r.core, asid := r.asid, code := c, va := BitVec.ofNat 64 r.va, ipc := r.pc } := by
  rw [replyReq]
  simp only [if_neg hcode, hthread]

end

/-! ### Stream barriers and element engines (R159, R142, R144) -/

theorem streamBarrierResume_eq {s : State} {j h : Nat} {b : Barrier} (hturn : s.self = .core j)
    (hfind : s.barriers.find? (fun b => decide (b.id = h ∧ b.core = j)) = some b) (hall : barrierComplete s b = true) :
    exec (.streamBarrierResume h) s =
      let ended : State := { s with barriers := s.barriers.filter (fun x => decide (x.id ≠ h)) }
      .next (b.cmdId.elim ended (fun id => endCmd ended j id 0)) := by
  show execStreamBarrierResume h s = _
  rw [execStreamBarrierResume, hturn]
  simp only [hfind, hall, if_true]
  cases b.cmdId <;> rfl

@[simp] theorem baseDie_modBaseDie_same (s : State) (j : Nat) (f : StackSt → StackSt) :
    (s.modBaseDie j f).baseDie j = f (s.baseDie j) := by
  simp only [State.baseDie, State.modBaseDie, Map.get_set_same]

/-- An idle engine takes the first stream of its stack's queue. -/
theorem engineProbe_of_idle {s : State} {j e : Nat} {x : Nat × Nat} {more : List (Nat × Nat)} (hturn : s.self = .stack j)
    (he : e < 16) (hidle : Map.get none (s.baseDie j).ise e = none) (hqueue : (s.baseDie j).iseQueue = x :: more) :
    exec (.engineProbe e) s =
      .next (s.modBaseDie j (fun b => { b with iseQueue := more, ise := Map.set none b.ise e (some x) })) := by
  show execEngineProbe e s = _
  rw [execEngineProbe, hturn]
  simp only [if_pos he, probeStep, hidle, hqueue]

/-- Settles O42: each step of a request, of its answer, of a stream barrier and of an engine by the lemma about it. -/
theorem requestsAndBarriers : Obligations.RequestsAndBarriers := by
  intro s s' i j key r hr o edges back
  refine ⟨?leaves, ?crosses, ?performs, ?waits, ?reply, ?barrier, ?engine⟩
  case leaves =>
    intro hturn hhome hopen hleft hfirst
    rw [l2Access_eq hturn hr hhome hopen, moveReq_of_not_left hleft hfirst]
  case crosses =>
    intro hturn _ hhome hopen hleft hfree hedge
    refine ⟨_, (l2Access_eq hturn hr hhome hopen).trans (congrArg _ (moveReq_of_edge hleft hfree ?_)), rfl, mem_egress_crossed hr⟩
    rwa [hhome]
  case performs =>
    intro hturn hslice hhome hopen hthread hleft hfree hhere
    have hrun : exec (.l2Access i) s = .next (storeAnswered r (reachHome s r.pa r.cells.length .write o)) := by
      rw [l2Access_eq hturn hr hhome hopen, moveReq_of_home hleft hfree (by rwa [hhome]) (by rwa [hhome]) hthread]
      rfl
    refine ⟨fun hready => ⟨noteAnswer (perform s' key r.cells) r.id 0, ?_, rfl, rfl⟩,
      fun c hfault => ⟨noteAnswer s' r.id c, ?_, rfl, rfl⟩⟩
    · rw [hrun, hready, storeAnswered]
    · rw [hrun, hfault, storeAnswered]
  case waits =>
    intro hturn hhome hopen hleft hheld
    rw [l2Access_eq hturn hr hhome hopen, moveReq_of_heldBack hleft hheld]
  case reply =>
    intro c hturn hanswer
    rw [accessReply_eq hturn hr hanswer]
    refine ⟨fun hway => ?_, fun hthere hdone => ?_, fun hthere hcode hthread => ?_⟩
    · rw [if_pos hway]
    · rw [if_neg (Nat.not_lt.2 hthere), hdone, replyReq_of_performed]
    · rw [if_neg (Nat.not_lt.2 hthere), replyReq_of_refused hcode hthread]
  case barrier =>
    intro b h hturn hfind hall
    rw [streamBarrierResume_eq hturn hfind hall]
    exact ⟨fun hthread => by rw [hthread]; rfl, fun id hcmd => by rw [hcmd]; rfl⟩
  case engine =>
    intro h x more hturn hlt hidle hqueue
    refine ⟨_, engineProbe_of_idle hturn hlt hidle hqueue, ?_, ?_⟩
    · simp only [baseDie_modBaseDie_same, Map.get_set_same]
    · simp only [baseDie_modBaseDie_same]

end Sys2Proof.Machine
end

section
/-!
The instructions of a handler (08_assayers.md R171 to R173, R180 to R184, 15_ref_a_c.md R323): once a context's turn has come, an
instruction completes, waits or aborts as its body says, and then each instruction of Table 8.7 by what its body comes to.
-/
namespace Sys2Proof.Machine

open Sys2Proof

/-! ### Fields of a register -/

/-- A field whose high end is the register's is 0 just when nothing stands above its low end. -/
theorem field_top_eq_zero {v : BitVec 32} {lo : Nat} (h : v.toNat < 2 ^ lo) : field v 31 lo = 0 := by
  rw [field_eq_div_mod, Nat.div_eq_of_lt h, Nat.zero_mod]

theorem field_low {n : Nat} {v : BitVec n} (hi : Nat) : field v hi 0 = v.toNat % 2 ^ (hi + 1) := by
  rw [field_eq_div_mod, Nat.pow_zero, Nat.div_one, Nat.sub_zero]

/-- An operand whose one bit is a flag, with nothing above it. -/
theorem flagOperand {r : BitVec 32} (hr : r.toNat < 2) : field r 31 1 = 0 ∧ r.getLsbD 0 = decide (r.toNat = 1) := by
  refine ⟨field_top_eq_zero hr, ?_⟩
  rw [BitVec.getLsbD, Nat.testBit_zero, Nat.mod_eq_of_lt hr]

/-! ### The turn of a context (R173, R184) -/

section

variable {s t : State} {h cyc c : Nat} {e : SliceEv} {copy : Bool} {d : BitVec 5} {x : BitVec 32}

theorem onHart_run (hturn : s.self = .hart (h / 4) (h % 4)) (hruns : (s.hart h).ev = some e) (f : Nat → SliceEv → Res) :
    onHart s f = f h e := by
  rw [onHart, hturn]
  simp only [Nat.div_add_mod, hruns]

/-- An instruction completes in state t with x for its register, at the instruction after it. -/
def completes (s : State) (h cyc : Nat) (d : BitVec 5) (t : State) (x : BitVec 32) : Res :=
  .next (hartRetire (hartIssue t h) h cyc d.toNat x ((s.hart h).pc + 4))

/-- What an instruction of context h that ends within the budget comes to. -/
def handlerOutcome (s : State) (h cyc : Nat) : HRes → Res
  | .abort c => .next (abortHandler (hartIssue s h) h c)
  | .wait t => .next (hartIssue t h)
  | .done t rd x pc => .next (hartRetire (hartIssue t h) h cyc rd x pc)

theorem hartOp_run (ht : HandlerTurn s h e cyc) (f : Nat → SliceEv → HRes) :
    hartOp cyc copy s f = handlerOutcome s h cyc (f h e) := by
  have hcut : decide (budgetOf s h e < usedCycles s h + cyc) = false := decide_eq_false (Nat.not_lt.2 ht.time)
  rw [hartOp, onHart_run ht.turn ht.runs]
  simp only [ht.issue, hcut, Bool.true_eq_false, Bool.false_eq_true, Bool.false_and, if_false]
  cases f h e <;> rfl

theorem custom_run (ht : HandlerTurn s h e cyc) (f : Nat → SliceEv → (State → BitVec 32 → HRes) → HRes) :
    custom cyc copy d s f = handlerOutcome s h cyc (f h e (fun t x => .done t d.toNat x ((s.hart h).pc + 4))) := by
  rw [custom, hartOp_run ht]
  simp only [ht.next, Bool.true_eq_false, if_false]

/-- A custom instruction whose body gives a register its value completes. -/
theorem custom_completes (ht : HandlerTurn s h e cyc) {f : Nat → SliceEv → (State → BitVec 32 → HRes) → HRes}
    (hf : ∀ ok, f h e ok = ok t x) : custom cyc copy d s f = completes s h cyc d t x := by
  rw [custom_run ht, hf]
  rfl

theorem custom_aborts (ht : HandlerTurn s h e cyc) {f : Nat → SliceEv → (State → BitVec 32 → HRes) → HRes}
    (hf : ∀ ok, f h e ok = .abort c) : custom cyc copy d s f = .next (abortHandler (hartIssue s h) h c) := by
  rw [custom_run ht, hf]
  rfl

theorem custom_waits (ht : HandlerTurn s h e cyc) {f : Nat → SliceEv → (State → BitVec 32 → HRes) → HRes}
    (hf : ∀ ok, f h e ok = .wait t) : custom cyc copy d s f = .next (hartIssue t h) := by
  rw [custom_run ht, hf]
  rfl

/-- Issuing an instruction moves no line. -/
@[simp] theorem way_hartIssue (i set w : Nat) : (hartIssue s h).way i set w = s.way i set w := by
  simp only [State.way, State.cset, hartIssue, State.setHart_slice, State.modSlice, State.setSlice_slice]
  split
  case isTrue hi => rw [hi]
  case isFalse => rfl

end

/-- The way that a handle names (R181). -/
abbrev wayNamed (s : State) (h : Nat) (v : BitVec 32) : Option Way := s.way (h / 4) (handleSet v) (handleWay v)

/-! ### Lines to and from DMEM (ay.ldl, ay.stl) -/

section

variable {s : State} {h : Nat} {e : SliceEv} (g a d : BitVec 5)

theorem ayLdl_loads (ht : HandlerTurn s h e 8) (hmem : dmemCheck s h e (hx s h g).toNat 128 4 = none)
    (hok : handleOk s h e (hx s h a) false = true)
    (hsound : wayPoisoned s (wayNamed s h (hx s h a)) = false) :
    exec (.ayLdl g a d) s = completes s h 8 d
      (dmemWrite s h (hx s h g).toNat (wayBytes s (wayNamed s h (hx s h a))))
      (stateWord s h e (hx s h a)) := by
  show execAyLdl g a d s = _
  refine custom_completes ht (fun ok => ?_)
  simp only [hmem, hok, hsound, Bool.true_eq_false, Bool.false_eq_true, or_self, if_false]

theorem ayLdl_refuses (ht : HandlerTurn s h e 8) (hmem : dmemCheck s h e (hx s h g).toNat 128 4 = none)
    (hbad : handleOk s h e (hx s h a) false = false ∨ wayPoisoned s (wayNamed s h (hx s h a)) = true) :
    exec (.ayLdl g a d) s = completes s h 8 d s 0 := by
  show execAyLdl g a d s = _
  refine custom_completes ht (fun ok => ?_)
  simp only [hmem]
  exact if_pos hbad

theorem ayLdl_aborts {c : Nat} (ht : HandlerTurn s h e 8) (hmem : dmemCheck s h e (hx s h g).toNat 128 4 = some c) :
    exec (.ayLdl g a d) s = .next (abortHandler (hartIssue s h) h c) := by
  show execAyLdl g a d s = _
  refine custom_aborts ht (fun ok => ?_)
  simp only [hmem]

theorem ayStl_stores {t : State} (ht : HandlerTurn s h e 8) (hmem : dmemCheck s h e (hx s h g).toNat 128 4 = none)
    (hok : handleOk s h e (hx s h a) true = true) (hstore : storeLine s h e (hx s h a) (dmemRead s h (hx s h g).toNat 128) = some t) :
    exec (.ayStl g a d) s = completes s h 8 d t (stateWord t h e (hx s h a)) := by
  show execAyStl g a d s = _
  refine custom_completes ht (fun ok => ?_)
  simp only [hmem, hok, hstore, Bool.true_eq_false, if_false]

theorem ayStl_refuses (ht : HandlerTurn s h e 8) (hmem : dmemCheck s h e (hx s h g).toNat 128 4 = none)
    (hbad : handleOk s h e (hx s h a) true = false) : exec (.ayStl g a d) s = completes s h 8 d s 0 := by
  show execAyStl g a d s = _
  refine custom_completes ht (fun ok => ?_)
  simp only [hmem, hbad, if_true]

theorem ayStl_aborts {c : Nat} (ht : HandlerTurn s h e 8) (hmem : dmemCheck s h e (hx s h g).toNat 128 4 = some c) :
    exec (.ayStl g a d) s = .next (abortHandler (hartIssue s h) h c) := by
  show execAyStl g a d s = _
  refine custom_aborts ht (fun ok => ?_)
  simp only [hmem]

/-! ### Fetching lines (ay.fill) -/

theorem ayFill_counts {t : State} {got : Nat} (ht : HandlerTurn s h e 2) (hmem : dmemCheck s h e (hx s h a).toNat 8 8 = none)
    (hline : ofBytes (dmemRead s h (hx s h a).toNat 8) % 128 = 0) (hlo : 1 ≤ (hx s h g).toNat) (hhi : (hx s h g).toNat ≤ 16)
    (hfill : fillLines h e (hx s h g).toNat (ofBytes (dmemRead s h (hx s h a).toNat 8)) s 0 = (t, some got)) :
    exec (.ayFill g a d) s = completes s h 2 d t (BitVec.ofNat 32 got) := by
  show execAyFill g a d s = _
  refine custom_completes ht (fun ok => ?_)
  have harg : ¬ (ofBytes (dmemRead s h (hx s h a).toNat 8) % 128 ≠ 0 ∨ (hx s h g).toNat = 0 ∨ 16 < (hx s h g).toNat) := by omega
  simp only [hmem, if_neg harg, hfill]

theorem ayFill_waits {t : State} (ht : HandlerTurn s h e 2) (hmem : dmemCheck s h e (hx s h a).toNat 8 8 = none)
    (hline : ofBytes (dmemRead s h (hx s h a).toNat 8) % 128 = 0) (hlo : 1 ≤ (hx s h g).toNat) (hhi : (hx s h g).toNat ≤ 16)
    (hfill : fillLines h e (hx s h g).toNat (ofBytes (dmemRead s h (hx s h a).toNat 8)) s 0 = (t, none)) :
    exec (.ayFill g a d) s = .next (hartIssue t h) := by
  show execAyFill g a d s = _
  refine custom_waits ht (fun ok => ?_)
  have harg : ¬ (ofBytes (dmemRead s h (hx s h a).toNat 8) % 128 ≠ 0 ∨ (hx s h g).toNat = 0 ∨ 16 < (hx s h g).toNat) := by omega
  simp only [hmem, if_neg harg, hfill]

theorem ayFill_aborts (ht : HandlerTurn s h e 2) (hmem : dmemCheck s h e (hx s h a).toNat 8 8 = none)
    (harg : ofBytes (dmemRead s h (hx s h a).toNat 8) % 128 ≠ 0 ∨ (hx s h g).toNat = 0 ∨ 16 < (hx s h g).toNat) :
    exec (.ayFill g a d) s = .next (abortHandler (hartIssue s h) h acARG) := by
  show execAyFill g a d s = _
  refine custom_aborts ht (fun ok => ?_)
  simp only [hmem]
  exact if_pos harg

/-! ### Pushing a line to a core (ay.push) -/

/-- A number of a stream port (06_memory.md R141): the core above the low five bits, the port in them. -/
theorem pushOperand_fields {r : BitVec 32} (hr : r.toNat < 96 * 32) :
    ¬ (field r 31 12 ≠ 0 ∨ 96 ≤ r.toNat / 32) ∧ field r 11 5 = r.toNat / 32 ∧ field r 4 0 = r.toNat % 32 := by
  simp only [field_eq_div_mod]
  omega

theorem ayPush_refuses (ht : HandlerTurn s h e 2) (hport : (hx s h g).toNat < 96 * 32)
    (hbad : handleOk s h e (hx s h a) false = false ∨ wayPoisoned s (wayNamed s h (hx s h a)) = true) :
    exec (.ayPush g a d) s = completes s h 2 d s 3 := by
  obtain ⟨harg, hcore, -⟩ := pushOperand_fields hport
  show execAyPush g a d s = _
  refine custom_completes ht (fun ok => ?_)
  simp only [hcore, if_neg harg]
  exact if_pos hbad

section

variable (ht : HandlerTurn s h e 2) (hport : (hx s h g).toNat < 96 * 32) (hok : handleOk s h e (hx s h a) false = true)
  (hsound : wayPoisoned s (wayNamed s h (hx s h a)) = false)

include ht hport hok hsound

theorem ayPush_denied (hmay : mayPush s (96 * (h / 4 / 64) + (hx s h g).toNat / 32) (assayerMaster (h / 4)) = false) :
    exec (.ayPush g a d) s = completes s h 2 d
      (deny s (tgtCore (96 * (h / 4 / 64) + (hx s h g).toNat / 32)) (assayerMaster (h / 4)) (Config.pushAddr s.tick) 3) 2 := by
  obtain ⟨harg, hcore, -⟩ := pushOperand_fields hport
  show execAyPush g a d s = _
  refine custom_completes ht (fun ok => ?_)
  simp only [hcore, if_neg harg, hok, hsound, hmay, Bool.true_eq_false, Bool.false_eq_true, or_self, if_true, if_false]

theorem ayPush_closed (hmay : mayPush s (96 * (h / 4 / 64) + (hx s h g).toNat / 32) (assayerMaster (h / 4)) = true)
    (hclosed : pushOpen s (96 * (h / 4 / 64) + (hx s h g).toNat / 32) ((hx s h g).toNat % 32) = false) :
    exec (.ayPush g a d) s = completes s h 2 d s 1 := by
  obtain ⟨harg, hcore, hnum⟩ := pushOperand_fields hport
  show execAyPush g a d s = _
  refine custom_completes ht (fun ok => ?_)
  simp only [hcore, if_neg harg, hnum, hok, hsound, hmay, hclosed, Bool.true_eq_false, Bool.false_eq_true, or_self, if_true, if_false]

theorem ayPush_sends (hmay : mayPush s (96 * (h / 4 / 64) + (hx s h g).toNat / 32) (assayerMaster (h / 4)) = true)
    (hopen : pushOpen s (96 * (h / 4 / 64) + (hx s h g).toNat / 32) ((hx s h g).toNat % 32) = true)
    (hcredit : 0 < pushCredits (s.port (portKey (96 * (h / 4 / 64) + (hx s h g).toNat / 32) ((hx s h g).toNat % 32)))) :
    exec (.ayPush g a d) s = completes s h 2 d
      (s.modPort (portKey (96 * (h / 4 / 64) + (hx s h g).toNat / 32) ((hx s h g).toNat % 32)) (fun p => { p with
        arriving := p.arriving ++ [BitVec.ofNat 1024 (ofBytes (wayBytes s (wayNamed s h (hx s h a))))] })) 0 := by
  obtain ⟨harg, hcore, hnum⟩ := pushOperand_fields hport
  show execAyPush g a d s = _
  refine custom_completes ht (fun ok => ?_)
  simp only [hcore, if_neg harg, hnum, hok, hsound, hmay, hopen, hcredit.ne', Bool.true_eq_false, Bool.false_eq_true, or_self, if_false]

end

/-! ### Taking a line out (ay.evict) -/

section

variable (ht : HandlerTurn s h e 2) (harg : (hx s h g).toNat < 2)

include ht harg

theorem ayEvict_evicts {x : Way} (hhook : e.hook ≠ 2) (hok : handleOk s h e (hx s h a) false = true)
    (hfree : wayHeld s (h / 4) (handleSet (hx s h a)) (handleWay (hx s h a)) = false) (hway : wayNamed s h (hx s h a) = some x) :
    exec (.ayEvict g a d) s = completes s h 2 d
      ((writeBack s (h / 4) (wayNamed s h (hx s h a))).setWay (h / 4) (handleSet (hx s h a)) (handleWay (hx s h a))
        (if (hx s h g).toNat = 1 then some { x with dirty := false } else none)) 0 := by
  show execAyEvict g a d s = _
  refine custom_completes ht (fun ok => ?_)
  obtain ⟨htop, hkeep⟩ := flagOperand harg
  simp only [htop, hkeep, hhook, hok, hfree, hway, decide_eq_true_eq, ne_eq, not_true_eq_false, false_and,
    Bool.true_eq_false, Bool.false_eq_true, or_self, if_false]

theorem ayEvict_refuses (hhook : e.hook ≠ 2) (hbad : handleOk s h e (hx s h a) false = false ∨
      wayHeld s (h / 4) (handleSet (hx s h a)) (handleWay (hx s h a)) = true) :
    exec (.ayEvict g a d) s = completes s h 2 d s 1 := by
  show execAyEvict g a d s = _
  refine custom_completes ht (fun ok => ?_)
  simp only [(flagOperand harg).1, hhook, ne_eq, not_true_eq_false, false_and, if_false]
  exact if_pos hbad

end

theorem ayEvict_renames (ht : HandlerTurn s h e 2) (hhook : e.hook = 2) (harg : (hx s h g).toNat = 0)
    (hhandle : (hx s h a).toNat < 2 ^ 15) (hset : handleSet (hx s h a) = setOf e.line) (hother : handleWay (hx s h a) ≠ e.way)
    (hfree : wayHeld s (h / 4) (handleSet (hx s h a)) (handleWay (hx s h a)) = false)
    (hvictim : wayReserved s (h / 4) (handleSet (hx s h a)) (handleWay (hx s h a)) = false ∨
      handleWay (hx s h a) = (s.hart h).victim)
    (hway : wayNamed s h (hx s h a) = none ∨ taggedBy s (h / 4) e.entry (wayNamed s h (hx s h a)) = true) :
    exec (.ayEvict g a d) s = completes s h 2 d (renameVictim s h (handleSet (hx s h a)) (handleWay (hx s h a))) 0 := by
  show execAyEvict g a d s = _
  refine custom_completes ht (fun ok => ?_)
  obtain ⟨htop, hkeep⟩ := flagOperand (show (hx s h g).toNat < 2 by omega)
  have hchoose : (!wayHeld s (h / 4) (handleSet (hx s h a)) (handleWay (hx s h a)) &&
      (!wayReserved s (h / 4) (handleSet (hx s h a)) (handleWay (hx s h a)) ||
        decide (handleWay (hx s h a) = (s.hart h).victim))) = true := by
    simpa [hfree] using hvictim
  simp only [htop, ne_eq, not_true_eq_false, if_false]
  exact if_pos ⟨hhook, by rw [hkeep, harg]; rfl, field_top_eq_zero hhandle, hset, hother, hchoose, by simpa using hway⟩

/-! ### Messages (ay.msg) -/

theorem ayMsg_sends {t0 t : State} {pa i' : Nat} (ht : HandlerTurn s h e 2) (hmem : dmemCheck s h e (hx s h a).toNat 24 8 = none)
    (hpage : ayTranslate s h e (ofBytes (dmemRead s h (hx s h a).toNat 8)) .read = .ok t0 pa) (hhome : target pa = .slice i')
    (hcross : crossFrom t0 (h / 4 / 64) (i' / 64) pa = (t, false))
    (hmay : permitted t i' (assayerMaster (h / 4)) (pa / 128 * 128) 128 .read = true) :
    exec (.ayMsg a d) s = completes s h 2 d (sendMsg t i' (entryAsid s (h / 4) e.entry)
      (ofBytes (dmemRead s h (hx s h a).toNat 8)) (pa / 128) 4 (assayerMaster (h / 4))
      (BitVec.ofNat 128 (ofBytes (dmemRead s h ((hx s h a).toNat + 8) 16)))) 0 := by
  show execAyMsg a d s = _
  refine custom_completes ht (fun ok => ?_)
  simp only [hmem, hpage, hhome, hcross, hmay, if_true]

/-! ### Locking a line (ay.lock) -/

section

variable (ht : HandlerTurn s h e 4)

include ht

theorem ayLock_locks {t : State} {pa : Nat} (harg : (hx s h g).toNat = 1) (hmem : dmemCheck s h e (hx s h a).toNat 8 8 = none)
    (hline : ofBytes (dmemRead s h (hx s h a).toNat 8) % 128 = 0)
    (hpage : ayTranslate s h e (ofBytes (dmemRead s h (hx s h a).toNat 8)) .read = .ok t pa) :
    exec (.ayLock g a d) s = completes s h 4 d (lockLine t h e (ofBytes (dmemRead s h (hx s h a).toNat 8)) pa).1
      (lockLine t h e (ofBytes (dmemRead s h (hx s h a).toNat 8)) pa).2 := by
  show execAyLock g a d s = _
  refine custom_completes ht (fun ok => ?_)
  obtain ⟨htop, hflag⟩ := flagOperand (show (hx s h g).toNat < 2 by omega)
  simp only [htop, hflag, harg, hmem, hline, hpage, decide_true, ne_eq, not_true_eq_false, if_true, if_false]

theorem ayLock_untranslated {t : State} (harg : (hx s h g).toNat = 1) (hmem : dmemCheck s h e (hx s h a).toNat 8 8 = none)
    (hline : ofBytes (dmemRead s h (hx s h a).toNat 8) % 128 = 0)
    (hpage : ayTranslate s h e (ofBytes (dmemRead s h (hx s h a).toNat 8)) .read = .bad t) :
    exec (.ayLock g a d) s = completes s h 4 d t 0xFFFFFFFF := by
  show execAyLock g a d s = _
  refine custom_completes ht (fun ok => ?_)
  obtain ⟨htop, hflag⟩ := flagOperand (show (hx s h g).toNat < 2 by omega)
  simp only [htop, hflag, harg, hmem, hline, hpage, decide_true, ne_eq, not_true_eq_false, if_true, if_false]

theorem ayLock_unlocks {x : Way} (harg : (hx s h g).toNat = 0) (hhandle : (hx s h a).toNat < 2 ^ 15)
    (hway : wayNamed s h (hx s h a) = some x) (hmine : x.locked = some h) :
    exec (.ayLock g a d) s = completes s h 4 d (s.setWay (h / 4) (handleSet (hx s h a)) (handleWay (hx s h a))
      (some { x with locked := none, lockW := false })) 0 := by
  show execAyLock g a d s = _
  refine custom_completes ht (fun ok => ?_)
  obtain ⟨htop, hflag⟩ := flagOperand (show (hx s h g).toNat < 2 by omega)
  simp only [htop, hflag, harg, hway, field_top_eq_zero hhandle, hmine, Nat.zero_ne_one, decide_false, Bool.false_eq_true, ne_eq,
    not_true_eq_false, and_self, if_true, if_false]

theorem ayLock_empty (harg : (hx s h g).toNat = 0) (hway : wayNamed s h (hx s h a) = none) :
    exec (.ayLock g a d) s = completes s h 4 d s 1 := by
  show execAyLock g a d s = _
  refine custom_completes ht (fun ok => ?_)
  obtain ⟨htop, hflag⟩ := flagOperand (show (hx s h g).toNat < 2 by omega)
  simp only [htop, hflag, harg, hway, Nat.zero_ne_one, decide_false, Bool.false_eq_true, ne_eq, not_true_eq_false, if_false]

end

/-! ### Numbers of the slice (ay.stat, ay.budget) -/

/-- What ay.stat reads at a selector (Table 8.7), where it stands for something. -/
def statValue (s : State) (h : Nat) (e : SliceEv) (v : BitVec 32) : Nat → Option (BitVec 32)
  | 0 => some (if v = 0 ∨ handleOk s h e v false = false then 0 else stateWord s h e v)
  | 1 => some (BitVec.ofNat 32 (freeRegs s (h / 4)))
  | 2 => some (BitVec.ofNat 32 (s.slice (h / 4)).events.length)
  | 3 => some (BitVec.ofNat 32 (h / 4))
  | 4 => some (BitVec.ofNat 32 (field (s.entryWord (h / 4) e.entry 8) 31 0))
  | _ => none

section

variable (ht : HandlerTurn s h e 1)

include ht

theorem ayStat_reads {n : Nat} {x : BitVec 32} (hsel : (hx s h g).toNat = n) (hval : statValue s h e (hx s h a) n = some x) :
    exec (.ayStat g a d) s = completes s h 1 d s x := by
  show execAyStat g a d s = _
  refine custom_completes ht (fun ok => ?_)
  simp only [hsel]
  match n with
  | 0 | 1 | 2 | 3 | 4 => exact congrArg (ok s) (Option.some.inj hval)
  | n + 5 => cases hval

theorem ayStat_aborts (hsel : 4 < (hx s h g).toNat) : exec (.ayStat g a d) s = .next (abortHandler (hartIssue s h) h acILL) := by
  show execAyStat g a d s = _
  refine custom_aborts ht (fun ok => ?_)
  generalize (hx s h g).toNat = n at hsel
  match n with
  | n + 5 => rfl

theorem ayBudget_reads : exec (.ayBudget d) s = completes s h 1 d s (BitVec.ofNat 32 (budgetOf s h e - usedCycles s h)) := by
  show execAyBudget d s = _
  exact custom_completes ht (fun ok => rfl)

end

/-! ### The end of a handler (ay.ret) -/

@[simp] theorem actionOk_hartIssue (act : Nat) : actionOk (hartIssue s h) h e act = actionOk s h e act := by
  simp only [actionOk, way_hartIssue]

theorem ayRet_eq (hturn : s.self = .hart (h / 4) (h % 4)) (hruns : (s.hart h).ev = some e) (hissue : canIssue s h e = true) :
    exec (.ayRet a) s = if actionOk s h e ((hx s h a).toNat % 4) = false then .next (abortHandler (hartIssue s h) h acRET)
      else .next (endHandler ((hartIssue s h).modSlice (h / 4) (fun x => { x with instret := x.instret + 1 })) h e
        (decide ((hx s h a).toNat % 4 = 2))) := by
  show execAyRet a s = _
  rw [execAyRet, onHart_run hturn hruns]
  simp only [hissue, Bool.true_eq_false, if_false, field_low, actionOk_hartIssue, Nat.reduceAdd, Nat.reducePow]

end

/-- Settles O49: each instruction by the lemmas about what it comes to. -/
theorem assayerInstructions : Obligations.AssayerInstructions := by
  intro g a d s h e i v r w at_ done stop
  refine ⟨?lines, ?window, ?fill, ?push, ?evict, ?msg, ?lock, ?stat, ?ret⟩
  case lines =>
    intro ht hmem
    exact ⟨ayLdl_loads g a d ht hmem, ayLdl_refuses g a d ht hmem, fun t => ayStl_stores g a d ht hmem, ayStl_refuses g a d ht hmem⟩
  case window =>
    intro ht c hmem
    exact ⟨ayLdl_aborts g a d ht hmem, ayStl_aborts g a d ht hmem⟩
  case fill =>
    intro ht hmem va
    refine ⟨fun hline hlo hhi => ⟨?_, ?_⟩, ayFill_aborts g a d ht hmem⟩
    · exact fun t got => ayFill_counts g a d ht hmem hline hlo hhi
    · exact fun t => ayFill_waits g a d ht hmem hline hlo hhi
  case push =>
    intro ht hport k n
    refine ⟨ayPush_refuses g a d ht hport, fun hok hsound => ⟨?_, ?_, ?_⟩⟩
    · exact ayPush_denied g a d ht hport hok hsound
    · exact ayPush_closed g a d ht hport hok hsound
    · exact ayPush_sends g a d ht hport hok hsound
  case evict =>
    intro ht harg set way
    exact ⟨fun x => ayEvict_evicts g a d ht harg, ayEvict_refuses g a d ht harg, fun hhook hr => ayEvict_renames g a d ht hhook hr⟩
  case msg =>
    intro ht hmem va t0 t pa i'
    exact ayMsg_sends a d ht hmem
  case lock =>
    intro ht
    refine ⟨?_, fun x => ayLock_unlocks g a d ht, ayLock_empty g a d ht⟩
    intro va harg hmem hline
    exact ⟨fun t pa => ayLock_locks g a d ht harg hmem hline, fun t => ayLock_untranslated g a d ht harg hmem hline⟩
  case stat =>
    intro ht
    have reads {n : Nat} {x : BitVec 32} (hsel : r = BitVec.ofNat 32 n) (hn : n < 5) (hval : statValue s h e v n = some x) :
        exec (.ayStat g a d) s = done s 1 x :=
      ayStat_reads g a d ht (by rw [show hx s h g = _ from hsel, BitVec.toNat_ofNat, Nat.mod_eq_of_lt (by omega)]) hval
    refine ⟨fun hr hv hok => ?_, fun hr hbad => ?_, fun hr => ?_, fun hr => ?_, fun hr => ?_, fun hr => ?_, ?_, ?_⟩
    · exact reads hr (by decide) (congrArg some (if_neg (not_or.2 ⟨hv, ne_false_of_eq_true hok⟩)))
    · exact reads hr (by decide) (congrArg some (if_pos hbad))
    · exact reads hr (by decide) rfl
    · exact reads hr (by decide) rfl
    · exact reads hr (by decide) rfl
    · exact reads hr (by decide) (congrArg (fun n => some (BitVec.ofNat 32 n)) (field_low 31))
    · exact ayStat_aborts g a d ht
    · exact ayBudget_reads d ht
  case ret =>
    intro hturn hruns hissue
    rw [ayRet_eq a hturn hruns hissue]
    exact ⟨fun hok => if_neg (ne_false_of_eq_true hok), fun hbad => if_pos hbad⟩

end Sys2Proof.Machine
end

section
/-!
The rest of a handler's life (08_assayers.md R170 to R173, R175, R177 to R180, R184 to R187, 06_memory.md R140): its RISC-V
instructions and its budget, the events that start it with the registers of Table 8.3, fills that complete, and the end of an
entry's VALID.
-/
namespace Sys2Proof.Machine

open Sys2Proof

/-! ### RISC-V instructions (R170) -/

/-- The word of ADDI, by its fields. -/
theorem addiWord_fields {rd rs : BitVec 5} {imm : BitVec 12} {w : BitVec 32}
    (hw : w.toNat = imm.toNat * 2 ^ 20 + rs.toNat * 2 ^ 15 + rd.toNat * 2 ^ 7 + 0x13) :
    (field w 1 0 = 3 ∧ field w 6 0 = 0x13 ∧ field w 14 12 = 0) ∧
      field w 11 7 = rd.toNat ∧ field w 19 15 = rs.toNat ∧ w.extractLsb' 20 12 = imm := by
  have hrd : rd.toNat < 2 ^ 5 := rd.isLt
  have hrs : rs.toNat < 2 ^ 5 := rs.isLt
  have himm : imm.toNat < 2 ^ 12 := imm.isLt
  refine ⟨?_, ?_, ?_, ?_⟩
  · simp only [field_eq_div_mod]
    omega
  · simp only [field_eq_div_mod]
    omega
  · simp only [field_eq_div_mod]
    omega
  · apply BitVec.eq_of_toNat_eq
    rw [BitVec.extractLsb'_toNat, Nat.shiftRight_eq_div_pow]
    omega

theorem rvRun_addi {rd rs : BitVec 5} {imm : BitVec 12} {w : BitVec 32}
    (hw : w.toNat = imm.toNat * 2 ^ 20 + rs.toNat * 2 ^ 15 + rd.toNat * 2 ^ 7 + 0x13) (pc : BitVec 32) (x : Nat → BitVec 32) :
    rvRun w pc x = .alu rd.toNat (x rs.toNat + imm.signExtend 32) (pc + 4) 1 := by
  obtain ⟨⟨hlen, hop, hf3⟩, hrd, hrs, himm⟩ := addiWord_fields hw
  simp only [rvRun, rvWord, hlen, if_true, rvAct, hop, hf3, hrd, hrs, himm, rvOpImm]
  rfl

/-- The word of all ones stands for no instruction. -/
theorem rvRun_allOnes (pc : BitVec 32) (x : Nat → BitVec 32) : rvRun 0xFFFFFFFF pc x = .ill := rfl

/-- A RISC-V instruction of a context whose turn has come. -/
theorem assayerRiscvInstruction_run {s : State} {h : Nat} {e : SliceEv} {w : BitVec 32} {act : RvAct}
    (hact : rvRun w (s.hart h).pc (fun r => hx s h (BitVec.ofNat 5 r)) = act) (ht : HandlerTurn s h e (rvCycles act)) :
    exec (.assayerRiscvInstruction w) s =
      handlerOutcome s h (rvCycles act) (rvPerform s h e act ((s.hart h).pc + BitVec.ofNat 32 (rvWord w).2)) := by
  show execAssayerRiscvInstruction w s = _
  rw [execAssayerRiscvInstruction, ht.turn]
  simp only [Nat.div_add_mod, hact]
  rw [hartOp_run ht, hact]

/-! ### The budget (R184) -/

theorem budgetExpiry_eq {s : State} {h : Nat} {e : SliceEv} (hturn : s.self = .hart (h / 4) (h % 4))
    (hruns : (s.hart h).ev = some e) (hbegun : (s.hart h).start.isSome = true) :
    exec .budgetExpiry s = .next (if budgetOf s h e ≤ usedCycles s h then abortHandler s h acBUDGET else s) := by
  show execBudgetExpiry s = _
  rw [execBudgetExpiry, onHart_run hturn hruns]
  simp only [hbegun, true_and]
  split <;> rfl

/-! ### Events (R177 to R180, R185) -/

section

variable {s : State} {i k c hook : Nat} {e : SliceEv}

/-- The event at place k of the queue of slice i starts its handler in context c. -/
def startsAt (s : State) (i k c : Nat) (e : SliceEv) : State :=
  startHandler (s.modSlice i (fun x => { x with events := x.events.eraseIdx k })) i c e

/-- The one idle context takes the event. -/
theorem dispatchAt_of_idle (hidle : idleHarts s i = [c]) : dispatchAt s i k e = startsAt s i k c e := by
  rw [dispatchAt, hidle, startsAt]
  simp only [List.length_singleton, max_self, Nat.mod_one, List.getElem?_cons_zero]

variable (hturn : s.self = .slice i) (hev : (s.slice i).events[k]? = some e)

include hturn hev

/-- The turn of an event of the hook that may be dispatched. -/
theorem eventStep_of_dispatchable (hgo : dispatchable s i k e = true) (hhook : e.hook = hook) :
    eventStep hook k s = .next (if hook = 3 then dispatchMsg s i k e else dispatchAt s i k e) := by
  rw [eventStep, hturn]
  simp only [hev]
  exact if_pos ⟨hhook, hgo⟩

/-- But for a MSG, an event starts its handler in the one idle context. -/
theorem eventStep_of_idle (hgo : dispatchable s i k e = true) (hidle : idleHarts s i = [c]) (hhook : e.hook = hook) (hmsg : hook ≠ 3) :
    eventStep hook k s = .next (startsAt s i k c e) := by
  rw [eventStep_of_dispatchable hturn hev hgo hhook, if_neg hmsg, dispatchAt_of_idle hidle]

/-- A MSG whose line is present starts its handler there. -/
theorem msgEvent_of_present {w : Nat} (hgo : dispatchable s i k e = true) (hidle : idleHarts s i = [c]) (hhook : e.hook = 3)
    (hway : wayOf s i e.line = some w) : exec (.msgEvent k) s = .next (startsAt s i k c { e with way := w }) := by
  show eventStep 3 k s = _
  rw [eventStep_of_dispatchable hturn hev hgo hhook, if_pos rfl, dispatchMsg, hway]
  exact congrArg _ (dispatchAt_of_idle hidle)

/-- A MSG whose line is absent has it allocated (R178). -/
theorem msgEvent_of_absent (hgo : dispatchable s i k e = true) (hhook : e.hook = 3) (hway : wayOf s i e.line = none) :
    exec (.msgEvent k) s = .next (joinMiss s i e.line (msgOrigin e)) := by
  show eventStep 3 k s = _
  rw [eventStep_of_dispatchable hturn hev hgo hhook, if_pos rfl, dispatchMsg, hway]

theorem eventStep_of_held (hheld : dispatchable s i k e = false) : eventStep hook k s = .next s := by
  rw [eventStep, hturn]
  simp only [hev, hheld, Bool.false_eq_true, and_false, if_false]

end

/-! ### The state at a handler's entry (R179) -/

/-- A register that Table 8.3 does not name reads 0, and the others what it says. -/
theorem get_hookRegs (s : State) (i c r : Nat) (e : SliceEv) :
    Map.get 0 (hookRegs s i c e) r =
      (if r = 14 then BitVec.ofNat 32 ((dmemWin s i e.entry).2 - (dmemWin s i e.entry).1)
       else if r = 13 then BitVec.ofNat 32 (dmemWin s i e.entry).1
       else if r = 12 then BitVec.ofNat 32 e.hook
       else if r = 11 then BitVec.ofNat 32 ((dmemWin s i e.entry).2 - 128 + 32 * c)
       else if r = 10 then BitVec.ofNat 32 (handleOf e) else 0) := by
  simp only [hookRegs, List.foldl_cons, List.foldl_nil, Map.get_set, Map.get_nil]

@[simp] theorem hart_startHandler (s : State) (i c : Nat) (e : SliceEv) :
    (startHandler s i c e).hart (4 * i + c) =
      { x := hookRegs s i c e, pc := BitVec.ofNat 32 ((imemWin s i e.entry).1 + hookPc s i e.entry e.hook), ev := some e
        victim := e.way } := State.setHart_hart_same _ _ _

theorem hx_startHandler (s : State) (i c : Nat) (e : SliceEv) {r : BitVec 5} (hr : r ≠ 0) :
    hx (startHandler s i c e) (4 * i + c) r = Map.get 0 (hookRegs s i c e) r.toNat := by
  rw [hx, if_neg hr, hart_startHandler]

/-! ### Fills (R140, R177) -/

theorem l2FillComplete_eq {s : State} {i : Nat} (line : Nat) (hturn : s.self = .slice i) :
    let t := s.modSlice i (fun x => { x with writebacks := x.writebacks.filter (fun l => decide (l ≠ line)) })
    let fetched := (s.slice i).misses.find? (fun m => decide (m.line = line ∧ m.stage = .fetch ∧ m.hart = none))
    exec (.l2FillComplete line) s = .next (admitWaiting (fetched.elim t (missInstall t i)) i) := by
  show execL2FillComplete line s = _
  rw [execL2FillComplete, hturn]
  dsimp only
  split
  case h_1 m hm => rw [hm, Option.elim_some]
  case h_2 hm => rw [hm, Option.elim_none]

/-! ### The end of VALID (R175, R176) -/

/-- A read from a table whose values have been changed one by one. -/
theorem get_map_values {β γ : Type} {d : β} {d' : γ} {f : β → γ} (hf : f d = d') (m : Map β) (k : Nat) :
    Map.get d' (m.map (fun e => (e.1, f e.2))) k = f (Map.get d m k) := by
  induction m with
  | nil => exact hf.symm
  | cons e m ih =>
    rw [List.map_cons, Map.get, Map.get, ih]
    split <;> rfl

/-- A line whose tag was entry n carries none. -/
def untagged (n : Nat) (y : Way) : Way := if y.tag = n then { y with tag := 16 } else y

theorem untagged_tag_ne {n : Nat} (hn : n ≠ 16) (y : Way) : (untagged n y).tag ≠ n := by
  unfold untagged
  split
  case isTrue => exact hn.symm
  case isFalse h => exact h

/-- The same of every line of a set. -/
def untaggedSet (n : Nat) (c : CacheSet) : CacheSet := { c with ways := c.ways.map (fun e => (e.1, e.2.map (untagged n))) }

theorem way_dropTags (s : State) (i n set w : Nat) : (dropTags s i n).way i set w = (s.way i set w).map (untagged n) := by
  have hset : (dropTags s i n).cset i set = untaggedSet n (s.cset i set) := by
    rw [State.cset, dropTags, State.modSlice_slice_same]
    exact get_map_values (d := {}) (f := untaggedSet n) rfl _ _
  rw [State.way, hset]
  exact get_map_values (d := none) (f := Option.map (untagged n)) rfl _ _

theorem entryValid_clearEntry (s : State) (i n : Nat) : entryValid (clearEntry s i n) i n = false := by
  have hword : (clearEntry s i n).entryWord i n 0 = s.entryWord i n 0 &&& ~~~1 := by
    rw [State.entryWord, clearEntry, dropTags, State.modSlice_slice_same, State.setEntryWord, State.modSlice_slice_same]
    exact Map.get_set_same _ _ _ _
  rw [entryValid, hword, BitVec.getLsbD_and]
  exact Bool.and_false _

theorem way_clearEntry_tag_ne {s : State} {i n set w : Nat} {x : Way} (hn : n ≠ 16) (hx : (clearEntry s i n).way i set w = some x) :
    x.tag ≠ n := by
  rw [clearEntry, way_dropTags, Option.map_eq_some_iff] at hx
  obtain ⟨y, -, rfl⟩ := hx
  exact untagged_tag_ne hn y

theorem handlerValidClear_eq {s : State} {i : Nat} (n : BitVec 4) (hturn : s.self = .slice i) :
    exec (.handlerValidClear n) s = .next (clearEntry s i n.toNat) := by
  show execHandlerValidClear n s = _
  rw [execHandlerValidClear, hturn]

/-- Settles O50: each instruction, event and change of the table by the lemma about it. -/
theorem assayerEvents : Obligations.AssayerEvents := by
  intro s h i c k e
  refine ⟨?addi, ?ill, ?budget, ?starts, ?waits, ?entry, ?fill, ?clear⟩
  case addi =>
    intro ht rd rs imm w hw
    rw [assayerRiscvInstruction_run (rvRun_addi hw _ _) ht]
    simp only [rvPerform, ht.next, if_true, handlerOutcome, rvCycles, BitVec.ofNat_toNat, BitVec.setWidth_eq]
  case ill =>
    intro ht
    exact assayerRiscvInstruction_run (rvRun_allOnes _ _) ht
  case budget =>
    intro hturn hruns hbegun
    rw [budgetExpiry_eq hturn hruns hbegun]
    exact ⟨fun hover => by rw [if_pos hover], fun hleft => by rw [if_neg (Nat.not_le.2 hleft)]⟩
  case starts =>
    intro hturn hev hgo hidle
    have starts {hook : Nat} (hhook : e.hook = hook) (hmsg : hook ≠ 3) : eventStep hook k s = .next (startsAt s i k c e) :=
      eventStep_of_idle hturn hev hgo hidle hhook hmsg
    refine ⟨fun hhook => starts hhook (by decide), fun hhook => starts hhook (by decide), fun hhook => starts hhook (by decide),
      fun w => ?_, ?_⟩
    · exact msgEvent_of_present hturn hev hgo hidle
    · exact msgEvent_of_absent hturn hev hgo
  case waits =>
    intro hturn hev hheld
    have stays (hook : Nat) : eventStep hook k s = .next s := eventStep_of_held hturn hev hheld
    exact ⟨stays 0, stays 1, stays 2, stays 3⟩
  case entry =>
    have reads {r : BitVec 5} (hr : r ≠ 0) := (hx_startHandler s i c e hr).trans (get_hookRegs s i c r.toNat e)
    refine ⟨congrArg Hart.pc (hart_startHandler s i c e), ?_, ?_, ?_, ?_, ?_, ?_⟩
    all_goals exact reads (by decide)
  case fill =>
    intro line hturn t
    rw [l2FillComplete_eq line hturn]
    refine ⟨fun m hm => by rw [hm, Option.elim_some], fun hnone => ?_⟩
    rw [List.find?_eq_none.2 (fun m hm => by simpa using hnone m hm), Option.elim_none]
  case clear =>
    intro n hturn
    have hn : n.toNat ≠ 16 := Nat.ne_of_lt n.isLt
    exact ⟨clearEntry s i n.toNat, handlerValidClear_eq n hturn, rfl, entryValid_clearEntry s i n.toNat,
      fun set way x => way_clearEntry_tag_ne hn⟩

end Sys2Proof.Machine
end

section
/-!
Traps and stopped threads (10_faults_modes.md R220, R222, R235): STATUS and ECAUSE at a trap, what a trap changes, what
stopping the work of a task leaves alone and where its thread continues, and from these the entry of a trap, the faults of a
trap handler, the delivery of pending faults and the single step.
-/
namespace Sys2Proof.Machine

open Sys2Proof

/-! ### STATUS and ECAUSE at a trap (Tables 10.5 and 10.6) -/

theorem trapStatus_bits (st : Word) :
    (trapStatus st).getLsbD 0 = true ∧ (trapStatus st).getLsbD 1 = st.getLsbD 0 ∧ (trapStatus st).getLsbD 3 = false ∧
    (trapStatus st).getLsbD 4 = st.getLsbD 3 ∧ (trapStatus st).getLsbD 6 = st.getLsbD 6 ∧ (trapStatus st).getLsbD 7 = true := by
  cases hpriv : st.getLsbD 0 <;> cases haie : st.getLsbD 3
  all_goals
    rw [trapStatus, hpriv, haie]
    simp

/-- A field of a word whose number is known. -/
theorem extractLsb'_of_toNat {n v lo len f : Nat} {w : BitVec n} (hw : w.toNat = v) (hf : v / 2 ^ lo % 2 ^ len = f % 2 ^ len) :
    w.extractLsb' lo len = BitVec.ofNat len f := by
  apply BitVec.eq_of_toNat_eq
  rw [BitVec.extractLsb'_toNat, BitVec.toNat_ofNat, Nat.shiftRight_eq_div_pow, hw, hf]

/-- ASYNC, MORE, STEP and FINAL, as the number that they make side by side. -/
def ecauseFlags (async more step final : Bool) : Nat := async.toNat + 2 * more.toNat + 4 * step.toNat + 8 * final.toNat

theorem ecauseFlags_lt : ∀ async more step final : Bool, ecauseFlags async more step final < 2 ^ 4 := by decide

theorem ecauseFlags_async : ∀ async more step final : Bool,
    (BitVec.ofNat 4 (ecauseFlags async more step final)).getLsbD 0 = async := by decide

theorem ecauseFlags_step : ∀ async more step final : Bool,
    (BitVec.ofNat 4 (ecauseFlags async more step final)).getLsbD 2 = step := by decide

section

variable (code : Code) (async more step final : Bool) (region queue stream frec : Nat)

/-- The fields of ECAUSE stand side by side: none carries into another. -/
theorem ecauseImage_toNat : (ecauseImage code async more step final region queue stream frec).toNat =
    code.toNat + 2 ^ 8 * ecauseFlags async more step final + 2 ^ 12 * (region % 4) + 2 ^ 14 * (queue % 8) +
      2 ^ 17 * (stream % 32) + 2 ^ 32 * (frec % 2 ^ 32) := by
  have hcode : code.toNat < 2 ^ 8 := code.isLt
  have hflags := ecauseFlags_lt async more step final
  rw [ecauseImage, BitVec.toNat_ofNat]
  rw [ecauseFlags] at hflags ⊢
  omega

theorem ecauseImage_code : (ecauseImage code async more step final region queue stream frec).extractLsb' 0 8 = code := by
  rw [extractLsb'_of_toNat (f := code.toNat) (ecauseImage_toNat ..) (by omega), BitVec.ofNat_toNat, BitVec.setWidth_eq]

theorem ecauseImage_flags : (ecauseImage code async more step final region queue stream frec).extractLsb' 8 4 =
    BitVec.ofNat 4 (ecauseFlags async more step final) :=
  have hcode : code.toNat < 2 ^ 8 := code.isLt
  extractLsb'_of_toNat (ecauseImage_toNat ..) (by omega)

theorem ecauseImage_queue : (ecauseImage code async more step final region queue stream frec).extractLsb' 14 3 =
    BitVec.ofNat 3 queue :=
  have hcode : code.toNat < 2 ^ 8 := code.isLt
  have hflags := ecauseFlags_lt async more step final
  extractLsb'_of_toNat (ecauseImage_toNat ..) (by omega)

theorem ecauseImage_frec : (ecauseImage code async more step final region queue stream frec).extractLsb' 32 32 =
    BitVec.ofNat 32 frec :=
  have hcode : code.toNat < 2 ^ 8 := code.isLt
  have hflags := ecauseFlags_lt async more step final
  extractLsb'_of_toNat (ecauseImage_toNat ..) (by omega)

/-- A flag of ECAUSE is a bit of the four. -/
theorem ecauseImage_flag {i : Nat} (hi : i < 4) : (ecauseImage code async more step final region queue stream frec).getLsbD (8 + i) =
    (BitVec.ofNat 4 (ecauseFlags async more step final)).getLsbD i := by
  rw [← ecauseImage_flags code async more step final region queue stream frec, BitVec.getLsbD_extractLsb', decide_eq_true hi,
    Bool.true_and]

theorem ecauseImage_async : (ecauseImage code async more step final region queue stream frec).getLsbD 8 = async :=
  (ecauseImage_flag code async more step final region queue stream frec (by decide)).trans (ecauseFlags_async ..)

theorem ecauseImage_step : (ecauseImage code async more step final region queue stream frec).getLsbD 10 = step :=
  (ecauseImage_flag code async more step final region queue stream frec (by decide)).trans (ecauseFlags_step ..)

end

/-! ### The entry of a trap (R220) -/

theorem onlyThread_modThread (s : State) (k : Nat) (f : Thread → Thread) : onlyThread s (s.modThread k f) k :=
  ⟨rfl, fun j hj => State.modThread_thread_ne s k j f hj⟩

theorem onlyThread_takeTrap (s : State) (k : Nat) (epc ecause eval : Word) : onlyThread s (takeTrap s k epc ecause eval) k :=
  onlyThread_modThread s k _

/-- Settles O21: outside a trap handler the fault is a trap, and the fields are those of its STATUS and its ECAUSE. -/
theorem trapEntrySavesAndEnters : Obligations.TrapEntrySavesAndEnters := by
  intro s k c v hout
  obtain ⟨hpriv, hppriv, haie, hpaie, hstep, hintrap⟩ := trapStatus_bits (s.thread k).status
  rw [raise_trap s k c v hout, takeTrap_thread]
  exact ⟨onlyThread_takeTrap s k _ _ _, rfl, rfl, rfl, ecauseImage_code .., ecauseImage_flags .., ecauseImage_queue ..,
    ecauseImage_frec .., hpriv, hppriv, haie, hpaie, hstep, hintrap, rfl, rfl, rfl, rfl, rfl, rfl, rfl⟩

/-! ### What stopping a task's work leaves alone -/

/-- s and t differ in nothing but cores, ports, records, pins, collectives and save areas. -/
def onlyWork (s t : State) : Prop :=
  t = { s with cores := t.cores, ports := t.ports, records := t.records, pins := t.pins, colls := t.colls, saves := t.saves }

theorem onlyWork_refl (s : State) : onlyWork s s := rfl

theorem onlyWork.trans {s t u : State} (hst : onlyWork s t) (htu : onlyWork t u) : onlyWork s u := by
  unfold onlyWork at *
  rw [htu, hst]

theorem onlyWork.thread {s t : State} (h : onlyWork s t) (k : Nat) : t.thread k = s.thread k := by
  rw [h]
  rfl

theorem onlyWork.foreman {s t : State} (h : onlyWork s t) (d : Nat) : t.foreman d = s.foreman d := by
  rw [h]
  rfl

theorem onlyWork_ite {c : Prop} [Decidable c] {s t u : State} (ht : onlyWork s t) (hu : onlyWork s u) :
    onlyWork s (if c then t else u) := by
  split
  · exact ht
  · exact hu

theorem onlyWork_foldl {α : Type} {f : State → α → State} (hf : ∀ s a, onlyWork s (f s a)) (l : List α) (s : State) :
    onlyWork s (l.foldl f s) := by
  induction l generalizing s with
  | nil => exact onlyWork_refl s
  | cons a l ih => exact (hf s a).trans (ih (f s a))

section

variable (s : State) (k : Nat)

theorem onlyWork_setPort (p : Port) : onlyWork s (s.setPort k p) := rfl

theorem onlyWork_setRegion (j : Nat) (r : Option Region) : onlyWork s (s.setRegion k j r) := rfl

theorem onlyWork_modCore (f : Core → Core) : onlyWork s (s.modCore k f) := rfl

theorem onlyWork_modCmds (p : QCmd → Bool) (f : QCmd → QCmd) : onlyWork s (modCmds s k p f) := rfl

theorem onlyWork_dropPins (h : Holder) : onlyWork s (dropPins s h) := rfl

theorem onlyWork_withColls (l : List Coll) : onlyWork s { s with colls := l } := rfl

theorem onlyWork_dirtyRecord (n : Nat) (p : Port) : onlyWork s (dirtyRecord s k n p) := rfl

theorem onlyWork_closeSaved (x : Ctx) : onlyWork s (closeSaved s k x) := by
  unfold closeSaved
  split
  case h_1 => exact onlyWork_refl s
  case h_2 pa a _ =>
    refine (onlyWork_foldl (fun t e => ?_) a.ports s).trans rfl
    dsimp only
    split
    case isTrue => rfl
    case isFalse => exact (onlyWork_dirtyRecord t k e.1 e.2).trans rfl

theorem onlyWork_stopWork : onlyWork s (stopWork s k) := by
  unfold stopWork
  extract_lets shut retired mine coded
  have hshut : onlyWork s shut := onlyWork_foldl (fun t n => onlyWork_ite (onlyWork_setPort t _ _) (onlyWork_refl t)) _ s
  have hretired : onlyWork shut retired := onlyWork_modCmds shut k _ _
  have hcoded : onlyWork retired coded := onlyWork_withColls retired _
  refine ((hshut.trans hretired).trans hcoded).trans (onlyWork_foldl (fun t j => ?_) _ coded)
  split
  case h_1 => exact onlyWork_refl t
  case h_2 =>
    refine onlyWork_foldl (fun t c => ?_) _ t
    split
    case h_1 x _ =>
      refine onlyWork_ite ?_ (onlyWork_refl t)
      extract_lets freed
      have hfreed : onlyWork t freed := (onlyWork_closeSaved t k x).trans (onlyWork_dropPins _ _)
      split
      case h_1 => exact hfreed.trans (onlyWork_setRegion freed k j _)
      case h_2 => exact hfreed
    case h_2 => exact onlyWork_refl t

end

/-! ### Where a stopped thread goes on (R220, R222) -/

theorem raise_inTrap {s : State} {k : Nat} (h : inTrap s k = true) (c : Code) (v : Word) : raise s k c v = stopThread s k c := by
  rw [raise, if_pos h]

theorem stopThread_of_noTask {s : State} {k : Nat} (h : (s.thread k).task = none) (c : Code) :
    stopThread s k c = s.modThread k (fun t => { t with run := .parked }) := by
  simp only [stopThread, h]

/-- The foreman of the core's die is told of the end of its task. -/
def endTold (s : State) (k p : Nat) (how : EndKind) (code : Code) : State :=
  s.modForeman (coreDie k) (fun f => { f with inbox := f.inbox ++ [.ended p how code] })

section

variable {s : State} {k p : Nat}

/-- The end of a task: the foreman is told, what is left of the task's work goes, and the thread takes the idle state. -/
theorem endTask_eq_goIdle (h : (s.thread k).task = some p) (how : EndKind) (code : Code) :
    ∃ t, onlyWork (endTold s k p how code) t ∧ endTask s k how code = goIdle t k := by
  simp only [endTask, h]
  exact ⟨_, (((onlyWork_modCmds _ k _ _).trans (onlyWork_modCore _ k _)).trans (onlyWork_modCore _ k _)).trans
    (onlyWork_dropPins _ _), rfl⟩

theorem endTask_thread (h : (s.thread k).task = some p) (how : EndKind) (code : Code) :
    (endTask s k how code).thread k = idleThread (s.foreman (coreDie k)) (s.thread k) := by
  obtain ⟨t, ht, heq⟩ := endTask_eq_goIdle h how code
  rw [heq, goIdle, State.modThread_thread_same, ht.foreman, ht.thread, endTold, State.modForeman_foreman_same,
    State.modForeman_thread]
  rfl

theorem endTask_inbox (h : (s.thread k).task = some p) (how : EndKind) (code : Code) :
    ((endTask s k how code).foreman (coreDie k)).inbox = (s.foreman (coreDie k)).inbox ++ [.ended p how code] := by
  obtain ⟨t, ht, heq⟩ := endTask_eq_goIdle h how code
  rw [heq, goIdle, State.modThread_foreman, ht.foreman, endTold, State.modForeman_foreman_same]

theorem stopThread_of_task (h : (s.thread k).task = some p) (c : Code) :
    ((stopThread s k c).thread k) = idleThread (s.foreman (coreDie k)) (s.thread k) ∧
      .ended p .failed c ∈ ((stopThread s k c).foreman (coreDie k)).inbox := by
  have hwork := onlyWork_stopWork s k
  have hstill : ((stopWork s k).thread k).task = some p := by rw [hwork.thread, h]
  have hstop : stopThread s k c = endTask (stopWork s k) k .failed c := by simp only [stopThread, h]
  constructor
  · rw [hstop, endTask_thread hstill, hwork.thread, hwork.foreman]
  · rw [hstop, endTask_inbox hstill]
    exact List.mem_append_right _ (List.mem_singleton_self _)

end

/-! ### Pending faults and the single step (R220, R235) -/

section

variable {s : State} {k : Nat}

theorem asyncFaultDelivery_eq {f : PendFault} {rest : List PendFault} (hself : s.self = .thread k)
    (hrun : (s.thread k).run = .running) (haie : (s.thread k).status.getLsbD 3 = true) (hstall : (s.thread k).stall = none)
    (hawaits : (s.thread k).awaits = none) (hpend : (s.thread k).pend = f :: rest) (hmore : (s.thread k).more = false) :
    exec .asyncFaultDelivery s = .next (takeTrap (s.modThread k (fun t => { t with pend := rest, more := false })) k
      (pcOf s k) f.ecause f.eval) := by
  have hedge : betweenInstrs s k = true := by rw [betweenInstrs, hstall, hawaits]; rfl
  show execAsyncFaultDelivery s = _
  rw [execAsyncFaultDelivery, onThread_run s k _ hself, if_pos ⟨hrun, haie, hedge⟩]
  simp only [deliverAsync, hpend, hmore, Bool.false_eq_true, if_false, BitVec.ofNat_eq_ofNat, BitVec.or_zero]

/-- With no completion arrived, the step ends in its BKPT alone. -/
theorem singleStep_of_unfinished (hself : s.self = .thread k) (hdue : (s.thread k).stepDue = true)
    (htrap : trapDue s k = false) (hpend : (s.thread k).pend = []) (hout : inTrap s k = false)
    (hfin : (s.thread k).finished = none) :
    exec .singleStep s =
      .next (takeTrap s k (pcOf s k) (ecauseImage fcBKPT false false true false 0 7 0 0xFFFFFFFF) 0) := by
  show execSingleStep s = _
  rw [execSingleStep, onThread_run s k _ hself]
  simp [hdue, htrap, hpend, hout, hfin]

/-- A completion that has arrived comes with the step's BKPT, in a handler too. -/
theorem singleStep_of_finished {q n : Nat} {ipc : Word} (hself : s.self = .thread k) (hdue : (s.thread k).stepDue = true)
    (htrap : trapDue s k = false) (hpend : (s.thread k).pend = []) (hfin : (s.thread k).finished = some (q, n, ipc)) :
    exec .singleStep s = .next (stepCompletion s k q n ipc) := by
  show execSingleStep s = _
  rw [execSingleStep, onThread_run s k _ hself]
  simp [hdue, htrap, hpend, hfin]

/-- Once its record stands in the ring, an asynchronous fault that the thread waits for is a trap, in a handler too. -/
theorem afterRecord_trap {r : FRec} (hasync : r.async = true) (u : State) (frec : Nat) (epc : Word) :
    afterRecord u r frec (.trap epc) = takeTrap u r.core epc (r.image frec) r.eval := by
  simp [afterRecord, hasync]

end

/-- Settles O23: in a handler a fault stops the thread; a pending fault and the trap of a step are entered as every trap is. -/
theorem laterFaultsAndSingleStep : Obligations.LaterFaultsAndSingleStep := by
  refine ⟨fun s k c v hin => ?fault, fun f rest s k hself => ⟨?pending, fun hdue htrap hpend => ⟨?step, ?completion⟩⟩⟩
  case fault =>
    rw [raise_inTrap hin]
    refine ⟨fun hnone => stopThread_of_noTask hnone c, fun p htask => ?_⟩
    obtain ⟨hthread, hinbox⟩ := stopThread_of_task htask c
    rw [hthread]
    exact ⟨rfl, rfl, rfl, hinbox⟩
  case pending =>
    intro hrun haie hstall hawaits hpend hmore
    refine ⟨_, asyncFaultDelivery_eq hself hrun haie hstall hawaits hpend hmore, ?_⟩
    rw [takeTrap_thread, State.modThread_thread_same]
    obtain ⟨-, -, haie', hpaie, -, hintrap⟩ := trapStatus_bits (s.thread k).status
    exact ⟨rfl, rfl, rfl, rfl, rfl, haie', hpaie.trans haie, hintrap⟩
  case step =>
    intro hout hfin
    refine ⟨_, singleStep_of_unfinished hself hdue htrap hpend hout hfin, ?_⟩
    rw [takeTrap_thread]
    exact ⟨rfl, ecauseImage_code .., ecauseImage_step .., ecauseImage_async .., rfl, rfl⟩
  case completion =>
    intro q n ipc hfin r
    refine ⟨_, singleStep_of_finished hself hdue htrap hpend hfin, rfl, fun u e => ?_⟩
    rw [afterRecord_trap (r := r) rfl, takeTrap_thread]
    exact ⟨rfl, ecauseImage_code .., ecauseImage_step .., ecauseImage_async .., ecauseImage_frec .., rfl⟩

end Sys2Proof.Machine
end

section
/-!
What a step of a foreman keeps (11_scheduling.md R240 to R262): whichever tasks, jobs and keys it changes, the intake
descriptors and the head counters stand, and no message that waits is lost.
-/
namespace Sys2Proof.Machine

open Sys2Proof

/-- A foreman's step runs at the foreman whose turn it is. -/
theorem onForeman_run {s : State} {d : Nat} (h : s.self = .foreman d) (f : Nat → Res) : onForeman s f = f d := by
  simp only [onForeman, h]

/-! ### Reads after writes -/

theorem State.modForeman_foreman (s : State) (d e : Nat) (g : Foreman → Foreman) :
    (s.modForeman d g).foreman e = if e = d then g (s.foreman d) else s.foreman e := State.setForeman_foreman _ _ _ _

@[simp] theorem Foreman.entry_setEntry_same (f : Foreman) (p : Nat) (t : Option Task) : (f.setEntry p t).entry p = t :=
  Map.get_set_same _ _ _ _

@[simp] theorem Foreman.job_setJob_same (f : Foreman) (i : Nat) (j : Job) : (f.setJob i j).job i = j := Map.get_set_same _ _ _ _

@[simp] theorem Foreman.descWord_setDesc_same (f : Foreman) (q w : Nat) (v : BitVec 64) : (f.setDesc q w v).descWord q w = v :=
  Map.get_set_same _ _ _ _

theorem Foreman.descWord_setDesc_ne (f : Foreman) (q : Nat) {w w' : Nat} (v : BitVec 64) (h : w' ≠ w) :
    (f.setDesc q w v).descWord q w' = f.descWord q w' := Map.get_set_ne _ _ _ _ _ (by omega)

/-! ### The tasks of one foreman -/

/-- g is f but for tasks, jobs and keys, and the messages of f wait at g still. -/
def onlyTasks (f g : Foreman) : Prop :=
  g = { f with
    keyOvf := g.keyOvf, jobs := g.jobs, keys := g.keys, pool := g.pool, inbox := g.inbox, nextOrder := g.nextOrder } ∧
  f.inbox <+: g.inbox

section

variable {f g h : Foreman}

theorem onlyTasks_refl (f : Foreman) : onlyTasks f f := ⟨rfl, List.prefix_rfl⟩

theorem onlyTasks.trans (hfg : onlyTasks f g) (hgh : onlyTasks g h) : onlyTasks f h := by
  obtain ⟨hg, hin⟩ := hfg
  obtain ⟨hh, hin'⟩ := hgh
  exact ⟨by rw [hh, hg], hin.trans hin'⟩

theorem onlyTasks.desc (hfg : onlyTasks f g) : g.desc = f.desc := by rw [hfg.1]

theorem onlyTasks.head (hfg : onlyTasks f g) : g.head = f.head := by rw [hfg.1]

theorem onlyTasks.turn (hfg : onlyTasks f g) : g.turn = f.turn := by rw [hfg.1]

theorem onlyTasks.enabled (hfg : onlyTasks f g) (q : Nat) : g.enabled q = f.enabled q := by
  rw [Foreman.enabled, Foreman.descWord, hfg.desc]
  rfl

theorem onlyTasks_ite {c : Prop} [Decidable c] (hg : onlyTasks f g) (hh : onlyTasks f h) : onlyTasks f (if c then g else h) := by
  split
  · exact hg
  · exact hh

end

section

variable (f : Foreman)

theorem onlyTasks_setEntry (p : Nat) (t : Option Task) : onlyTasks f (f.setEntry p t) := ⟨rfl, List.prefix_rfl⟩

theorem onlyTasks_setKey (i : Nat) (k : Key) : onlyTasks f (f.setKey i k) := ⟨rfl, List.prefix_rfl⟩

theorem onlyTasks_setJob (i : Nat) (j : Job) : onlyTasks f (f.setJob i j) := ⟨rfl, List.prefix_rfl⟩

theorem onlyTasks_order (n : Nat) : onlyTasks f { f with nextOrder := n } := ⟨rfl, List.prefix_rfl⟩

theorem onlyTasks_message (m : Msg) : onlyTasks f { f with inbox := f.inbox ++ [m] } := ⟨rfl, List.prefix_append _ _⟩

theorem onlyTasks_unwait (p : Nat) : onlyTasks f (unwait f p) := ⟨rfl, List.prefix_rfl⟩

theorem onlyTasks_claimKey (n : Nat) (asid : BitVec 16) : onlyTasks f (claimKey f n asid) :=
  onlyTasks_ite (onlyTasks_refl f) (onlyTasks_ite (onlyTasks_setKey f _ _) (onlyTasks_refl f))

theorem onlyTasks_bumpKey (n : Nat) (completed : Bool) : onlyTasks f (bumpKey f n completed) :=
  have hovf : onlyTasks f { f with keyOvf := true } := ⟨rfl, List.prefix_rfl⟩
  onlyTasks_ite (onlyTasks_refl f) (onlyTasks_ite
    (onlyTasks_ite hovf (onlyTasks_setKey f _ _)) (onlyTasks_ite hovf (onlyTasks_setKey f _ _)))

theorem onlyTasks_settleKey (time n i : Nat) : onlyTasks f (settleKey time n f i) := by
  induction n generalizing f with
  | zero => exact onlyTasks_refl f
  | succ n ih =>
    unfold settleKey
    dsimp only
    split
    · exact onlyTasks_refl f
    · refine onlyTasks_ite ?cancel (onlyTasks_ite ?ready (onlyTasks_refl f))
      case cancel => exact ((onlyTasks_setKey f _ _).trans (onlyTasks_message _ _)).trans (ih _)
      case ready =>
        refine onlyTasks.trans ?_ (ih _)
        split
        · exact ((onlyTasks_setKey f _ _).trans (onlyTasks_setEntry _ _ _)).trans (onlyTasks_order _ _)
        · exact onlyTasks_setKey f _ _

theorem onlyTasks_settle (time i : Nat) : onlyTasks f (settle time f i) := onlyTasks_settleKey f time _ i

end

/-! ### The foremen of the module -/

/-- From s to t the foremen have changed no more than tasks, jobs and keys, and have lost no message. -/
def foremenKept (s t : State) : Prop := ∀ e, onlyTasks (s.foreman e) (t.foreman e)

section

variable {s t u : State}

theorem foremenKept_refl (s : State) : foremenKept s s := fun _ => onlyTasks_refl _

theorem foremenKept.trans (hst : foremenKept s t) (htu : foremenKept t u) : foremenKept s u := fun e => (hst e).trans (htu e)

theorem foremenKept_modForeman (s : State) (d : Nat) {g : Foreman → Foreman} (hg : onlyTasks (s.foreman d) (g (s.foreman d))) :
    foremenKept s (s.modForeman d g) := fun e => by
  rw [State.modForeman_foreman]
  split
  case isTrue h => rw [h]; exact hg
  case isFalse => exact onlyTasks_refl _

theorem foremenKept_foldl {α : Type} {f : State → α → State} (hf : ∀ s a, foremenKept s (f s a)) (l : List α) (s : State) :
    foremenKept s (l.foldl f s) := by
  induction l generalizing s with
  | nil => exact foremenKept_refl s
  | cons a l ih => exact (hf s a).trans (ih (f s a))

end

/-! ### What leaves the foremen as they are -/

/-- s and t have the same foremen. -/
def sameForemen (s t : State) : Prop := t.foremen = s.foremen

section

variable {s t u : State}

theorem sameForemen_refl (s : State) : sameForemen s s := rfl

theorem sameForemen.trans (hst : sameForemen s t) (htu : sameForemen t u) : sameForemen s u := Eq.trans htu hst

theorem sameForemen.foreman (h : sameForemen s t) (d : Nat) : t.foreman d = s.foreman d := by
  unfold sameForemen at h
  rw [State.foreman, h]
  rfl

theorem sameForemen.kept (h : sameForemen s t) : foremenKept s t := fun e => by
  rw [h.foreman e]
  exact onlyTasks_refl _

theorem sameForemen_ite {c : Prop} [Decidable c] (ht : sameForemen s t) (hu : sameForemen s u) :
    sameForemen s (if c then t else u) := by
  split
  · exact ht
  · exact hu

theorem sameForemen_foldl {α : Type} {f : State → α → State} (hf : ∀ s a, sameForemen s (f s a)) (l : List α) (s : State) :
    sameForemen s (l.foldl f s) := by
  induction l generalizing s with
  | nil => exact sameForemen_refl s
  | cons a l ih => exact (hf s a).trans (ih (f s a))

theorem tagsOnly.sameForemen (h : tagsOnly s t) : sameForemen s t := by
  unfold tagsOnly at h
  rw [h]
  rfl

theorem tagsOnly.mem (h : tagsOnly s t) : t.mem = s.mem := by
  unfold tagsOnly at h
  rw [h]

theorem tagsOnly.sent (h : tagsOnly s t) : t.sent = s.sent := by
  unfold tagsOnly at h
  rw [h]

theorem onlyWork.sameForemen (h : onlyWork s t) : sameForemen s t := by
  unfold onlyWork at h
  rw [h]
  rfl

end

section

variable (s : State) (k j c : Nat)

theorem sameForemen_setRegion (r : Option Region) : sameForemen s (s.setRegion k j r) := rfl

theorem sameForemen_modCore (f : Core → Core) : sameForemen s (s.modCore k f) := rfl

theorem sameForemen_modTile (f : Tile → Tile) : sameForemen s (s.modTile k f) := rfl

theorem sameForemen_dropPins (h : Holder) : sameForemen s (dropPins s h) := rfl

theorem sameForemen_modSites (r : Rect) (f : Nat → Nat → Tile → Tile) : sameForemen s (modSites s k r f) :=
  sameForemen_foldl (fun t _ => sameForemen_modTile t _ _) _ s

theorem sameForemen_modRegion (f : Region → Region) : sameForemen s (modRegion s k j f) := by
  unfold modRegion
  split
  · exact sameForemen_setRegion s k j _
  · exact sameForemen_refl s

theorem sameForemen_modCtx (f : Ctx → Ctx) : sameForemen s (modCtx s k j c f) := by
  unfold modCtx
  split
  · exact sameForemen_refl s
  · split
    · exact sameForemen_refl s
    · exact sameForemen_setRegion s k j _

theorem sameForemen_dropCopy : sameForemen s (dropCopy s k j c) := by
  unfold dropCopy
  split
  · exact sameForemen_refl s
  · exact (sameForemen_foldl (fun t _ => sameForemen_modTile t _ _) _ s).trans (sameForemen_setRegion _ k j _)

theorem sameForemen_dropCopies (keep : Nat) : sameForemen s (dropCopies s k j c keep) := by
  unfold dropCopies
  split
  · exact sameForemen_refl s
  · exact (sameForemen_foldl (fun t i => sameForemen_dropCopy t k i c) _ s).trans (sameForemen_modCtx _ k j c _)

theorem sameForemen_emptyCtx : sameForemen s (emptyCtx s k j c) := by
  unfold emptyCtx
  split
  case h_1 => exact sameForemen_refl s
  case h_2 r _ =>
    extract_lets freed idle cleared unbarred left
    have hfreed : sameForemen s freed :=
      (sameForemen_dropCopies s k j c 0).trans ((sameForemen_dropPins _ _).trans (sameForemen_dropPins _ _))
    have hidle : sameForemen freed idle := sameForemen_ite (sameForemen_modSites freed k _ _) (sameForemen_refl freed)
    have hcleared : sameForemen idle cleared := sameForemen_modSites idle k _ _
    have hbarred : sameForemen cleared unbarred := sameForemen_ite rfl (sameForemen_refl cleared)
    have hleft : sameForemen s left :=
      (hfreed.trans (hidle.trans (hcleared.trans hbarred))).trans (sameForemen_modRegion unbarred k j _)
    split
    · exact hleft.trans (sameForemen_ite (sameForemen_setRegion left k j _) (sameForemen_refl left))
    · exact hleft

theorem sameForemen_retireFrozen (p : Nat) : sameForemen s (retireFrozen s k p) := by
  refine sameForemen_foldl (fun t j => sameForemen_foldl (fun t c => ?_) _ t) _ s
  split
  · exact sameForemen_ite ((onlyWork_closeSaved t k _).sameForemen.trans (sameForemen_emptyCtx _ k j c)) (sameForemen_refl t)
  · exact sameForemen_refl t

theorem sameForemen_closeParked (l : List (Nat × Port)) : sameForemen s (closeParked k l s) := by
  induction l generalizing s with
  | nil => exact sameForemen_refl s
  | cons e rest ih =>
    exact (sameForemen_ite (sameForemen_refl s) (onlyWork_dirtyRecord s k _ _).sameForemen).trans
      ((sameForemen_dropPins _ _).trans (ih _))

theorem sameForemen_stopIssued (p : Nat) : sameForemen s (stopIssued s k p) := (onlyWork_modCmds s k _ _).sameForemen

theorem sameForemen_crossFrom (from_ to_ pa : Nat) : sameForemen s (crossFrom s from_ to_ pa).1 :=
  (tagsOnly_crossFrom s from_ to_ pa).sameForemen

theorem sameForemen_releaseCtxs (d p : Nat) : sameForemen s (releaseCtxs s d p) := rfl

end

end Sys2Proof.Machine
end

section
/-!
The messages of a foreman, and TEARDOWN (11_scheduling.md R249, R251, R259, R262): what the end of a task tells its job, what
a decrement adds to it, and what a cancel or a teardown leaves as it is.
-/
namespace Sys2Proof.Machine

open Sys2Proof

/-! ### Messages that leave (R251, R259) -/

section

variable {s : State} {a b pa : Nat}

/-- Where no flit has failed its last retransmission, a message gets through. -/
theorem crossFrom_of_linksUp (h : ∀ l, Map.get 0 s.resent l < 7) : crossFrom s a b pa = ((crossFrom s a b pa).1, false) := by
  refine Prod.ext rfl (List.any_eq_false.2 fun e _ => ?_)
  rw [decide_eq_true_eq, Nat.not_le]
  split
  · exact h e
  · exact h e

/-- The foreman of die d finds the message at the end of its inbox. -/
theorem tell_delivers (h : ∀ l, Map.get 0 s.resent l < 7) (d : Nat) (m : Msg) : m ∈ ((tell s a d m).foreman d).inbox := by
  rw [tell, crossFrom_of_linksUp h]
  simp

theorem tellModule_sends (h : ∀ l, Map.get 0 s.resent l < 7) (w : Nat) (m : AditMsg) : (w, m) ∈ (tellModule s a w m).sent := by
  rw [tellModule, crossFrom_of_linksUp h]
  exact List.mem_append_right _ (List.mem_singleton_self _)

/-- The first message of an inbox is taken out of it. -/
theorem takeMsg_zero {d : Nat} {m : Msg} {rest : List Msg} (h : (s.foreman d).inbox = m :: rest) :
    takeMsg s d 0 = some (m, s.modForeman d (fun f => { f with inbox := rest })) := by
  simp only [takeMsg, State.modForeman, h, List.getElem?_cons_zero, Option.map_some, List.eraseIdx_cons_zero]

end

/-! ### The end of a task (R249, R251) -/

/-- The job of a task that has ended is told: in this module its foreman, and else the module that sent the task. -/
def jobTold (s : State) (d : Nat) (t : Task) (how : EndKind) (code : Code) : State :=
  if recJob t.record = 0 then s
  else if isOwn s t.origin then tell s d (jobCluster (recJob t.record)) (.decrement (recJob t.record) how code)
  else tellModule s d (t.origin % 4096) (.decrement (recJob t.record) how code)

/-- Pool entry p is free. -/
def entryFreed (s : State) (d p q : Nat) : State := s.modForeman d (fun f => settleDrain (f.setEntry p none) q)

section

variable {s : State} {d p : Nat} {t : Task}

theorem settleDrain_pool (f : Foreman) (q : Nat) : (settleDrain f q).pool = f.pool := by
  unfold settleDrain
  split <;> rfl

theorem settleDrain_inbox (f : Foreman) (q : Nat) : (settleDrain f q).inbox = f.inbox := by
  unfold settleDrain
  split <;> rfl

theorem entryFreed_entry (s : State) (d p q : Nat) : ((entryFreed s d p q).foreman d).entry p = none := by
  rw [entryFreed, State.modForeman_foreman_same, Foreman.entry, settleDrain_pool]
  exact Foreman.entry_setEntry_same _ p none

theorem entryFreed_inbox (s : State) (d p q e : Nat) : ((entryFreed s d p q).foreman e).inbox = (s.foreman e).inbox := by
  rw [entryFreed, State.modForeman_foreman]
  split
  case isTrue h => rw [h, settleDrain_inbox]; rfl
  case isFalse => rfl

theorem foremenKept_signalKey (s : State) (d : Nat) (t : Task) (good : Bool) : foremenKept s (signalKey s d t good) := by
  have hcross := sameForemen_crossFrom s d (t.takenAt.getD d) 0
  unfold signalKey
  split <;> rename_i hc
  all_goals rw [hc] at hcross
  · exact hcross.kept
  · exact hcross.kept.trans (foremenKept_modForeman _ _ ((onlyTasks_bumpKey _ _ _).trans (onlyTasks_settle _ _ _)))

theorem signalKey_sent (s : State) (d : Nat) (t : Task) (good : Bool) : (signalKey s d t good).sent = s.sent := by
  have hcross := (tagsOnly_crossFrom s d (t.takenAt.getD d) 0).sent
  unfold signalKey
  split <;> rename_i hc
  all_goals rw [hc] at hcross
  · exact hcross
  · exact hcross

/-- After the job has been told, the end of a task frees its entry and loses no message. -/
theorem finishTask_afterTold (h : (s.foreman d).entry p = some t) (how : EndKind) (code : Code) :
    ∃ u, foremenKept (jobTold s d t how code) u ∧ u.sent = (jobTold s d t how code).sent ∧
      finishTask s d p how code = dropPins (releaseCtxs (entryFreed u d p t.queue) d p) (.task d p) := by
  simp only [finishTask, h]
  exact ⟨_, (foremenKept_modForeman _ d (onlyTasks_unwait _ p)).trans (foremenKept_signalKey _ d t _), signalKey_sent _ d t _, rfl⟩

theorem finishTask_spec (h : (s.foreman d).entry p = some t) (hup : ∀ l, Map.get 0 s.resent l < 7) (how : EndKind) (code : Code) :
    ((finishTask s d p how code).foreman d).entry p = none ∧
    (isOwn s t.origin = true → recJob t.record ≠ 0 →
      Msg.decrement (recJob t.record) how code ∈ ((finishTask s d p how code).foreman (jobCluster (recJob t.record))).inbox) ∧
    (isOwn s t.origin = false → recJob t.record ≠ 0 →
      (t.origin % 4096, AditMsg.decrement (recJob t.record) how code) ∈ (finishTask s d p how code).sent) := by
  obtain ⟨u, hkept, hsent, heq⟩ := finishTask_afterTold h how code
  have hsame : sameForemen (entryFreed u d p t.queue) (finishTask s d p how code) := by
    rw [heq]
    exact (sameForemen_releaseCtxs _ d p).trans (sameForemen_dropPins _ _)
  refine ⟨?freed, fun hown hjob => ?home, fun hown hjob => ?away⟩
  case freed => rw [hsame.foreman, entryFreed_entry]
  case home =>
    rw [hsame.foreman, entryFreed_inbox]
    refine (hkept _).2.subset ?_
    rw [jobTold, if_neg hjob, if_pos hown]
    exact tell_delivers hup _ _
  case away =>
    have hleaves : (finishTask s d p how code).sent = u.sent := by
      rw [heq]
      rfl
    rw [hleaves, hsent, jobTold, if_neg hjob, if_neg (ne_true_of_eq_false hown)]
    exact tellModule_sends hup _ _

theorem taskEnd_eq {how : EndKind} {code : Code} {rest : List Msg} (hself : s.self = .foreman d)
    (h : (s.foreman d).inbox = .ended p how code :: rest) :
    exec (.taskEnd 0) s = .next (finishTask (s.modForeman d (fun f => { f with inbox := rest })) d p how code) := by
  show execTaskEnd 0 s = _
  rw [execTaskEnd, onForeman_run hself, takeMsg_zero h]

end

/-! ### Decrements (R249) -/

theorem jobDecrement_eq {s : State} {d : Nat} {j : BitVec 16} {how : EndKind} {code : Code} {rest : List Msg}
    (hself : s.self = .foreman d) (h : (s.foreman d).inbox = .decrement j how code :: rest) :
    exec (.jobDecrement 0) s = .next (modJob (s.modForeman d (fun f => { f with inbox := rest })) j
      (fun e => if e.isOpen ∧ e.gen = jobGen j then { e.addEnd how code with count := e.count - 1 } else e)) := by
  show execJobDecrement 0 s = _
  rw [execJobDecrement, onForeman_run hself, takeMsg_zero h]

theorem modJob_job (s : State) (j : BitVec 16) (f : Job → Job) :
    ((modJob s j f).foreman (jobCluster j)).job (jobIndex j) = f ((s.foreman (jobCluster j)).job (jobIndex j)) := by
  rw [modJob, State.modForeman_foreman_same, Foreman.job_setJob_same]

/-- Taking a message out of an inbox leaves every job. -/
theorem job_withInbox (s : State) (d e i : Nat) (l : List Msg) :
    ((s.modForeman d (fun f => { f with inbox := l })).foreman e).job i = (s.foreman e).job i := by
  rw [State.modForeman_foreman]
  split
  case isTrue h => rw [h]; rfl
  case isFalse => rfl

/-- An end leaves a job open, and adds what its kind says (Table 11.5). -/
theorem addEnd_spec (e : Job) (how : EndKind) (code : Code) :
    (e.addEnd how code).isOpen = e.isOpen ∧
    (how = .completed → (e.addEnd how code).failed = e.failed ∧ (e.addEnd how code).anyCancel = e.anyCancel) ∧
    (how = .cancelled → (e.addEnd how code).anyCancel = true) ∧
    (how = .failed → e.failed < 2 ^ 32 - 1 → (e.addEnd how code).failed = e.failed + 1) := by
  cases how with
  | completed | cancelled | failed => simp [Job.addEnd]

/-! ### Cancels and TEARDOWN (R259, R261, R262) -/

section

variable (s : State) (d p q : Nat)

theorem foremenKept_endLater (how : EndKind) (code : Code) : foremenKept s (endLater s d p how code) :=
  foremenKept_modForeman s d (onlyTasks_message _ _)

theorem foremenKept_cancelTask : foremenKept s (cancelTask s d p) := by
  unfold cancelTask
  split
  case h_1 => exact foremenKept_refl s
  case h_2 t _ =>
    split
    case isTrue => exact foremenKept_refl s
    case isFalse =>
      split
      case h_1 | h_2 => exact (foremenKept_modForeman s d (onlyTasks_unwait _ p)).trans (foremenKept_endLater _ d p _ _)
      case h_3 =>
        have hclosed := sameForemen_closeParked s t.core t.ports
        exact (hclosed.trans (sameForemen_ite (sameForemen_retireFrozen _ t.core p) (sameForemen_refl _))).kept.trans
          (foremenKept_endLater _ d p _ _)
      case h_4 =>
        have hstopped := (sameForemen_stopIssued s t.core p).trans (sameForemen_closeParked _ t.core t.ports)
        exact (hstopped.trans ((sameForemen_retireFrozen _ t.core p).trans (sameForemen_modCore _ t.core _))).kept.trans
          (foremenKept_endLater _ d p _ _)
      case h_5 =>
        exact (foremenKept_modForeman s d (onlyTasks_setEntry _ p _)).trans (onlyWork_stopWork _ t.core).sameForemen.kept

theorem foremenKept_cancelWhere (f : Task → Bool) : foremenKept s (cancelWhere s d f) := by
  refine foremenKept_foldl (fun t e => ?_) _ s
  split
  · split
    · exact foremenKept_cancelTask t d e.1
    · exact foremenKept_refl t
  · exact foremenKept_refl t

theorem enabled_setDesc (f : Foreman) (v : BitVec 64) : (f.setDesc q 3 v).enabled q = v.getLsbD 0 := by
  rw [Foreman.enabled, Foreman.descWord_setDesc_same]

theorem enabled_settleDrain (f : Foreman) : (settleDrain f q).enabled q = f.enabled q := by
  unfold settleDrain
  split
  · rfl
  · rw [enabled_setDesc, Foreman.enabled]
    simp

theorem tearDown_disables : ((tearDown s d q).foreman d).enabled q = false := by
  rw [tearDown, State.modForeman_foreman_same, enabled_settleDrain, (foremenKept_cancelWhere _ d _ d).enabled,
    State.modForeman_foreman_same, enabled_setDesc]
  simp

end

theorem cancelArrival_eq {s : State} {d origin : Nat} {j : BitVec 16} {rest : List Msg}
    (hself : s.self = .foreman d) (h : (s.foreman d).inbox = .cancel j origin :: rest) :
    exec (.cancelArrival 0) s = .next (cancelWhere (s.modForeman d (fun f => { f with inbox := rest })) d
      (fun t => decide (t.origin % 4096 = origin ∧ recJob t.record = j))) := by
  show execCancelArrival 0 s = _
  rw [execCancelArrival, onForeman_run hself, takeMsg_zero h]

theorem teardown_eq {s : State} {d : Nat} (q : BitVec 4) (hself : s.self = .foreman d) :
    exec (.teardown q) s = .next (tearDown s d q.toNat) := by
  show execTeardown q s = _
  rw [execTeardown, onForeman_run hself]

end Sys2Proof.Machine
end

section
/-!
The intake of a foreman (11_scheduling.md R241, R243): ENABLE with its checks, and the record at the head of a queue; with
the messages this settles O27.
-/
namespace Sys2Proof.Machine

open Sys2Proof

/-! ### ENABLE (R241) -/

/-- The places of the ring, of the tail counter and of the head counter of queue n are checked. -/
def placesOk (f : Foreman) (n : Nat) : Bool :=
  stackOrHost (ringBase f n) (16 * ringRecords f n) && stackOrHost (tailPa f n) 8 && stackOrHost (headPa f n) 8

/-- Queue n is enabled, and its head counter is still to be read. -/
def queueOn (s : State) (d n : Nat) : State := s.modForeman d (fun f =>
  { f.setDesc n 3 ((f.descWord n 3 &&& ~~~4) ||| 1) with reading := f.reading.filter (fun m => decide (m ≠ n)) ++ [n] })

section

variable {s u v : State} {d key : Nat} (n : Nat)

theorem intakeEnable_eq (q : BitVec 4) (hself : s.self = .foreman d) :
    exec (.intakeEnable q) s = .next (if placesOk (s.foreman d) q.toNat then readHead (queueOn s d q.toNat) d q.toNat
      else s.modForeman d (fun f => refuseQueue f q.toNat)) := by
  show execIntakeEnable q s = _
  rw [execIntakeEnable, onForeman_run hself]
  rfl

theorem queueOn_enabled : ((queueOn s d n).foreman d).enabled n = true := by
  rw [queueOn, State.modForeman_foreman_same]
  exact (enabled_setDesc n (s.foreman d) _).trans (by simp)

/-- The head counter's place stands in another word than ENABLE. -/
theorem queueOn_headPa : headPa ((queueOn s d n).foreman d) n = headPa (s.foreman d) n := by
  rw [queueOn, State.modForeman_foreman_same, headPa, headPa]
  exact congrArg (field · 47 3 * 8) (Foreman.descWord_setDesc_ne (s.foreman d) n _ (by decide))

/-- The head counter of an enabled queue is read at its home. -/
theorem readHead_reads (hon : (v.foreman d).enabled n = true)
    (hreach : reach v (headPa (v.foreman d) n) 8 .read (foremanOrigin d) = .ready u key) :
    ((readHead v d n).foreman d).enabled n = true ∧ Map.get 0 ((readHead v d n).foreman d).head n = readNat u key 8 := by
  have hsame := (tagsOnly_reach hreach).sameForemen.foreman d
  rw [readHead, hon, if_neg (by decide)]
  simp only [hreach, State.modForeman_foreman_same, hsame]
  exact ⟨by simpa only [Foreman.enabled, Foreman.descWord] using hon, Map.get_set_same _ _ _ _⟩

theorem refuseQueue_spec (f : Foreman) : (refuseQueue f n).enabled n = false ∧ ((refuseQueue f n).descWord n 3).getLsbD 2 = true := by
  rw [refuseQueue, enabled_setDesc, Foreman.descWord_setDesc_same]
  simp

end

/-! ### Bytes of a number -/

theorem toBytes_length (n x : Nat) : (toBytes n x).length = n := by
  induction n generalizing x with
  | zero => rfl
  | succ n ih => rw [toBytes, List.length_cons, ih]

theorem ofBytes_toBytes (n x : Nat) : ofBytes (toBytes n x) = x % 2 ^ (8 * n) := by
  induction n generalizing x with
  | zero => simp [toBytes, ofBytes, Nat.mod_one]
  | succ n ih =>
    rw [toBytes, ofBytes, ih, BitVec.toNat_ofNat, Nat.mul_succ, Nat.add_comm (8 * n), Nat.pow_add, Nat.mod_mul]

section

variable (s : State) (pa : Nat)

theorem readByte_perform_inside (l : List Byte) {i : Nat} (h : i < l.length) :
    readByte (perform s pa (l.map some)) (pa + i) = l[i] := by
  rw [readByte, perform_mem, writeCellsM_get, if_pos (Nat.le_add_right _ _), Nat.add_sub_cancel_left, List.getElem?_map,
    List.getElem?_eq_getElem h]
  rfl

theorem readMem_perform (l : List Byte) : readMem (perform s pa (l.map some)) pa l.length = l :=
  List.ext_getElem (by simp [readMem]) fun i _ hi => by
    simpa [readMem] using readByte_perform_inside s pa l hi

theorem readNat_perform_cellsOf (n x : Nat) : readNat (perform s pa (cellsOf n x)) pa n = x % 2 ^ (8 * n) := by
  have hbytes := readMem_perform s pa (toBytes n x)
  rw [toBytes_length] at hbytes
  rw [readNat, cellsOf, hbytes, ofBytes_toBytes]

theorem readByte_perform_outside (n x : Nat) {a : Nat} (h : a < pa ∨ pa + n ≤ a) :
    readByte (perform s pa (cellsOf n x)) a = readByte s a := by
  rw [readByte, perform_mem]
  exact readByte_writeCells_outside s pa a _ (by rwa [cellsOf, List.length_map, toBytes_length])

end

/-! ### One record of a ring (R243, R245) -/

/-- Memory, the head counters and the turn of the foremen are the same. -/
def sameRings (s t : State) : Prop :=
  t.mem = s.mem ∧ ∀ e, (t.foreman e).head = (s.foreman e).head ∧ (t.foreman e).turn = (s.foreman e).turn

section

variable {s t u : State} {d key : Nat}

theorem sameRings_refl (s : State) : sameRings s s := ⟨rfl, fun _ => ⟨rfl, rfl⟩⟩

theorem sameRings.trans (hst : sameRings s t) (htu : sameRings t u) : sameRings s u := by
  obtain ⟨hm, hf⟩ := hst
  obtain ⟨hm', hf'⟩ := htu
  exact ⟨hm'.trans hm, fun e => ⟨(hf' e).1.trans (hf e).1, (hf' e).2.trans (hf e).2⟩⟩

theorem sameRings.readByte (h : sameRings s t) (a : Nat) : readByte t a = readByte s a := congrArg (Map.get 0 · a) h.1

theorem sameRings.readNat (h : sameRings s t) (pa n : Nat) : readNat t pa n = readNat s pa n := by
  simp only [Machine.readNat, readMem, h.readByte]

theorem sameRings_ite {c : Prop} [Decidable c] (ht : sameRings s t) (hu : sameRings s u) : sameRings s (if c then t else u) := by
  split
  · exact ht
  · exact hu

theorem foremenKept.sameRings (h : foremenKept s t) (hm : t.mem = s.mem) : sameRings s t :=
  ⟨hm, fun e => ⟨(h e).head, (h e).turn⟩⟩

theorem tagsOnly.sameRings (h : tagsOnly s t) : sameRings s t := h.sameForemen.kept.sameRings h.mem

theorem sameRings_setForeman (f : Foreman) (h : onlyTasks (s.foreman d) f) : sameRings s (s.setForeman d f) :=
  (foremenKept_modForeman s d (g := fun _ => f) h).sameRings rfl

theorem sameRings_setDesc (s : State) (d n w : Nat) (v : Foreman → BitVec 64) :
    sameRings s (s.modForeman d (fun f => f.setDesc n w (v f))) := by
  refine ⟨rfl, fun e => ?_⟩
  rw [State.modForeman_foreman]
  split
  case isTrue h => rw [h]; exact ⟨rfl, rfl⟩
  case isFalse => exact ⟨rfl, rfl⟩

theorem sameRings_modJob (s : State) (j : BitVec 16) (f : Job → Job) : sameRings s (modJob s j f) :=
  (foremenKept_modForeman s _ (onlyTasks_setJob _ _ _)).sameRings rfl

theorem sameRings_raiseJob (s : State) (j : BitVec 16) (asid : BitVec 16) : sameRings s (raiseJob s j asid) :=
  sameRings_ite (sameRings_refl s) (sameRings_modJob s j _)

theorem sameRings_tellModule (s : State) (a w : Nat) (m : AditMsg) : sameRings s (tellModule s a w m) := by
  have hcross := (tagsOnly_crossFrom s a 4 0).sameRings
  unfold tellModule
  split <;> rename_i hc
  all_goals rw [hc] at hcross
  · exact hcross
  · exact hcross

theorem sameRings_rejectRecord (s : State) (d q : Nat) (r : QWord) (asid : BitVec 16) (origin : Nat) (counted : Bool) :
    sameRings s (rejectRecord s d q r asid origin counted) :=
  (sameRings_setDesc s d q 3 _).trans (sameRings_ite (sameRings_refl _) (sameRings_ite (sameRings_tellModule _ d _ _)
    (sameRings_ite (sameRings_modJob _ _ _) (sameRings_refl _))))

theorem sameRings_admitRecord (s : State) (d q : Nat) (r : QWord) (asid : BitVec 16) (origin : Nat) (fromEnq : Bool) :
    sameRings s (admitRecord s d q r asid origin fromEnq) := by
  unfold admitRecord
  extract_lets f
  split
  case h_1 => exact sameRings_refl s
  case h_2 p _ =>
    extract_lets entered pooled waitKey
    have hpooled : onlyTasks f pooled :=
      ((onlyTasks_claimKey f _ asid).trans (onlyTasks_claimKey _ _ asid)).trans
        ((onlyTasks_setEntry _ p _).trans (onlyTasks_order _ _))
    split
    · exact sameRings_setForeman _ (hpooled.trans (onlyTasks_message _ _))
    · exact sameRings_setForeman _ (hpooled.trans (onlyTasks_ite (onlyTasks_setEntry _ p _)
        ((onlyTasks_setKey _ _ _).trans (onlyTasks_settle _ _ _))))

theorem tagsOnly_reachAll {o : Origin} (l : List (Nat × Nat × Kind)) (h : reachAll o l s = .ready t key) : tagsOnly s t := by
  induction l generalizing s key with
  | nil =>
    cases h
    exact tagsOnly_refl _
  | cons e rest ih =>
    unfold reachAll at h
    split at h
    · rename_i hfirst
      split at h
      · rename_i hrest
        cases h
        exact (tagsOnly_reach hfirst).trans (ih hrest)
      · cases h
      · cases h
    · rename_i hno
      exact absurd h (hno t key)

/-- The slot and the head counter of queue n are written, and the next queue has its turn. -/
def headTaken (s : State) (d n slot pa h : Nat) : State :=
  (perform (perform s slot (cellsOf 16 0)) pa (cellsOf 8 h)).modForeman d
    (fun f => { f with head := Map.set 0 f.head n h, turn := (n + 1) % 16 })

theorem headTaken_turn (s : State) (d n slot pa h : Nat) : ((headTaken s d n slot pa h).foreman d).turn = (n + 1) % 16 := by
  rw [headTaken, State.modForeman_foreman_same]

theorem headTaken_head (s : State) (d n slot pa h : Nat) : Map.get 0 ((headTaken s d n slot pa h).foreman d).head n = h := by
  rw [headTaken, State.modForeman_foreman_same, Map.get_set_same]

theorem readByte_headTaken (s : State) (d n : Nat) {slot pa a : Nat} (h : Nat) (hslot : a < slot ∨ slot + 16 ≤ a)
    (hpa : a < pa ∨ pa + 8 ≤ a) : readByte (headTaken s d n slot pa h) a = readByte s a :=
  (readByte_perform_outside _ pa 8 h hpa).trans (readByte_perform_outside s slot 16 0 hslot)

theorem readNat_headTaken (s : State) (d n slot pa h : Nat) : readNat (headTaken s d n slot pa h) pa 8 = h % 2 ^ 64 :=
  readNat_perform_cellsOf _ pa 8 h

/-- The record at the head of a queue is taken, and then admitted or rejected. -/
theorem intakeRecord_takes (q : BitVec 4) (hself : s.self = .foreman d) (hnext : nextQueue s (s.foreman d) = some q.toNat)
    (hroom : (s.foreman d).full = false)
    (hreach : reachAll (foremanOrigin d) [(headSlot (s.foreman d) q.toNat, 16, .read), (headSlot (s.foreman d) q.toNat, 16, .write),
      (headPa (s.foreman d) q.toNat, 8, .write)] s = .ready u key) :
    ∃ t, exec (.intakeRecord q) s = .next t ∧ sameRings (headTaken u d q.toNat (headSlot (s.foreman d) q.toNat)
      (headPa (s.foreman d) q.toNat) ((Map.get 0 (s.foreman d).head q.toNat + 1) % 2 ^ 64)) t := by
  have hgo : ¬ (nextQueue s (s.foreman d) ≠ some q.toNat ∨ (s.foreman d).full = true) := by simp [hnext, hroom]
  show ∃ t, execIntakeRecord q s = .next t ∧ _
  rw [execIntakeRecord, onForeman_run hself]
  dsimp only
  rw [if_neg hgo]
  simp only [hreach]
  split
  · exact ⟨_, rfl, (sameRings_raiseJob _ _ _).trans (sameRings_admitRecord _ _ _ _ _ _ _)⟩
  · exact ⟨_, rfl, sameRings_rejectRecord _ _ _ _ _ _ _⟩

end

/-- Settles O27: each message and each event of a queue, by what the foreman then does. -/
theorem intakeAndForemanMessages : Obligations.IntakeAndForemanMessages := by
  refine ⟨fun s d p how code j origin rest hself => ⟨fun hin hup x hentry => ?ended, ?decrement, cancelArrival_eq hself⟩,
    fun s d q hself => ⟨?enable, fun u key hnext hroom hreach => ?record, teardown_eq q hself, tearDown_disables s d q.toNat⟩⟩
  case ended =>
    obtain ⟨hfree, hhome, haway⟩ := finishTask_spec (s := s.modForeman d (fun f => { f with inbox := rest })) (p := p) (t := x)
      (by rw [State.modForeman_foreman_same]; exact hentry) hup how code
    exact ⟨_, taskEnd_eq hself hin, hfree, fun hown => hhome (decide_eq_true hown), fun hown => haway (decide_eq_false hown)⟩
  case decrement =>
    intro hin e hopen hgen
    refine ⟨_, jobDecrement_eq hself hin, ?_⟩
    rw [modJob_job, job_withInbox, if_pos ⟨hopen, hgen⟩]
    obtain ⟨hstill, hdone⟩ := addEnd_spec e how code
    exact ⟨rfl, hstill.trans hopen, hdone⟩
  case enable =>
    refine ⟨_, intakeEnable_eq q hself, fun hok => ?_, fun hbad => ?_⟩
    · refine ⟨_, if_pos hok, queueOn_enabled _, queueOn_headPa _, fun u key hreach => ?_⟩
      rw [if_pos (show placesOk (s.foreman d) q.toNat = true from hok)]
      exact readHead_reads _ (queueOn_enabled _) (by rwa [queueOn_headPa])
    · rw [if_neg (ne_true_of_eq_false (show placesOk (s.foreman d) q.toNat = false from hbad)), State.modForeman_foreman_same]
      exact refuseQueue_spec _ _
  case record =>
    obtain ⟨t, hexec, hrings⟩ := intakeRecord_takes q hself hnext hroom hreach
    obtain ⟨hhead, hturn⟩ := hrings.2 d
    have hfrom := (tagsOnly_reachAll _ hreach).sameRings
    refine ⟨t, hexec, hturn.trans (headTaken_turn ..), ?_, fun a hslot hpa => ?_, ?_⟩
    · rw [hhead, headTaken_head]
    · rw [hrings.readByte, readByte_headTaken _ _ _ _ hslot hpa, hfrom.readByte]
    · rw [hrings.readNat, readNat_headTaken, Nat.mod_mod]

end Sys2Proof.Machine
end

section
/-!
Binding, pre-emption by QUANT and cloning (11_scheduling.md R253, R255, R263): the first ready task that has a place, the
stop of a task whose QUANT has elapsed, and what the end of a window does to the copies of a load.
-/
namespace Sys2Proof.Machine

open Sys2Proof

/-! ### Binding (R253, R264) -/

section

variable {s s' u : State} {d p key : Nat} {x : Task} {z : Spot}

/-- The first ready task is bound at the place that is found for it, once its save slot, if it has one, can be read. -/
theorem taskBind_eq {later : List (Nat × Task)} (hself : s.self = .foreman d)
    (hready : readyTasks s (s.foreman d) = (p, x) :: later)
    (hslot : (if x.saved then slotReach s d p .read else .ready s 0) = .ready u key)
    (hspot : findSpot u d p x = .ok s' (some z)) : exec .taskBind s = .next (bindTask s' d p x z) := by
  show execTaskBind s = _
  rw [execTaskBind, onForeman_run hself, hready, bindFirst, hslot]
  simp only [hspot]

/-- A core whose KQ has room for six commands has room for those of any task. -/
theorem queueRoom_of_six (k : Nat) (saved : Bool) (h : (queueCmds s k 1).length + 6 ≤ 16) :
    queueRoom s k 1 (if saved then 6 else 2) = true := by
  rw [queueRoom, decide_eq_true_eq]
  split <;> omega

theorem bindTask_of_room (h : (queueCmds s z.core 1).length + 6 ≤ 16) :
    ((bindTask s d p x z).core z.core).bound = some p ∧
      ∃ y, ((bindTask s d p x z).foreman d).entry p = some y ∧ y.state = .bound ∧ y.record = x.record ∧ y.core = z.core := by
  rw [bindTask, queueRoom_of_six z.core x.saved h, if_neg (by decide)]
  simp

end

/-! ### The end of a QUANT (R263) -/

theorem quantExpiry_eq {s : State} {d p : Nat} {x : Task} (hself : s.self = .foreman d) (hentry : (s.foreman d).entry p = some x)
    (hrun : x.state = .running) (hlive : x.doomed = false) (hquant : (s.foreman d).quant (recType x.record) ≠ 0)
    (htime : 1000 * (s.foreman d).quant (recType x.record) ≤ s.time - x.boundAt) (hrival : hasRival s d p x = true) :
    exec (.quantExpiry p) s = .next (s.modForeman d (fun f => f.setEntry p (some { x with stopping := true }))) := by
  show execQuantExpiry p s = _
  rw [execQuantExpiry, onForeman_run hself]
  simp only [hentry]
  rw [if_pos ⟨hrun, hlive, hquant, htime, hrival⟩]

/-! ### The end of a window (R50, R255) -/

/-- The low windows that the load of context x has behind it, when one ends with this wait at its entry. -/
def lowRun (x : Ctx) (entryWait : Nat) : Nat := if entryWait < 8192 then x.lowWindows + 1 else 0

/-- Context c of region j has this many low windows behind it. -/
def lowSet (s : State) (k j c low : Nat) : State := modCtx s k j c (fun x => { x with lowWindows := low })

section

variable {s : State} {k c ew xw : Nat} {region : BitVec 2} {r : Region} {y : Ctx}

theorem cloneWindow_eq (hself : s.self = .core k) (hreg : s.region k region.toNat = some r) (hact : r.active = some c)
    (hctx : ctxAt s k region.toNat c = some y) :
    exec (.cloneWindow region ew xw) s = .next
      (if y.clones ≠ [] ∧ (2 ≤ lowRun y ew ∨ shapeWanted s (coreDie k) r) then takeCopyBack s k region.toNat c y
       else if 32768 ≤ ew ∧ xw < 4096 then addCopy (lowSet s k region.toNat c (lowRun y ew)) k region.toNat c r y
       else lowSet s k region.toNat c (lowRun y ew)) := by
  show execCloneWindow region ew xw s = _
  simp only [execCloneWindow, hself, hreg, hact, hctx, Option.bind_some, Option.map_some]
  exact (apply_ite Host.Outcome.next _ _ _).symm

/-- A load without copies that waits at its entry has no low window behind it. -/
theorem cloneWindow_uncloned (hself : s.self = .core k) (hreg : s.region k region.toNat = some r) (hact : r.active = some c)
    (hctx : ctxAt s k region.toNat c = some y) (hnone : y.clones = []) (hwait : 8192 ≤ ew) :
    exec (.cloneWindow region ew xw) s = .next
      (if 32768 ≤ ew ∧ xw < 4096 then addCopy (lowSet s k region.toNat c 0) k region.toNat c r y
       else lowSet s k region.toNat c 0) := by
  rw [cloneWindow_eq hself hreg hact hctx, if_neg (fun h => h.1 hnone), lowRun, if_neg (Nat.not_lt.2 hwait)]

theorem cloneWindow_lowTwice (hself : s.self = .core k) (hreg : s.region k region.toNat = some r) (hact : r.active = some c)
    (hctx : ctxAt s k region.toNat c = some y) (hsome : y.clones ≠ []) (hlow : ew < 8192) (honce : 1 ≤ y.lowWindows) :
    exec (.cloneWindow region ew xw) s = .next (takeCopyBack s k region.toNat c y) := by
  have htwo : 2 ≤ lowRun y ew := by
    rw [lowRun, if_pos hlow]
    omega
  rw [cloneWindow_eq hself hreg hact hctx, if_pos ⟨hsome, .inl htwo⟩]

/-- A copy of a REPLAY load enters at a segment boundary, and its context waits for the next one otherwise. -/
theorem addCopy_replay {j : Nat} {z : Nat × Rect} (hmay : mayClone s r y = true) (hplace : copyPlace s k j c r y = some z)
    (hmode : y.mode.getLsbD 0 = false) :
    addCopy s k j c r y = if (liveSegs s k j c).isEmpty then insertCopy s k j c z
      else modCtx s k j c (fun x => { x with copyDue := true }) := by
  simp only [addCopy, hmay, hplace, hmode, if_true, Bool.false_eq_true, if_false]

end

/-- Settles O28: each event takes the one branch that its hypotheses name. -/
theorem bindingQuantCloning : Obligations.BindingQuantCloning := by
  intro s s' d k p x z later region ew xw
  refine ⟨fun u key hself hready hslot hspot => ?bind, fun hself hentry hrun hlive hquant htime hrival => ?quant,
    fun hself r c y hreg hact hctx => ⟨fun z hnone hentry hexit hmay hplace hmode => ?copy, fun hsome hlow honce => ?back,
      fun hnone hlow hhigh => ?still⟩⟩
  case bind => exact ⟨taskBind_eq hself hready hslot hspot, bindTask_of_room⟩
  case quant =>
    refine ⟨_, quantExpiry_eq hself hentry hrun hlive hquant htime hrival, ?_⟩
    rw [State.modForeman_foreman_same, Foreman.entry_setEntry_same]
  case copy =>
    rw [cloneWindow_uncloned hself hreg hact hctx hnone (by omega), if_pos ⟨hentry, hexit⟩]
    exact congrArg _ (addCopy_replay hmay hplace hmode)
  case back => exact cloneWindow_lowTwice hself hreg hact hctx hsome hlow honce
  case still =>
    rw [cloneWindow_uncloned hself hreg hact hctx hnone hlow, if_neg (by omega)]
    rfl

end Sys2Proof.Machine
end

section
/-!
Commands that leave their queue (02_execution_model.md R45, R46), and what no change of a port's rate touches (12_power.md
R266 to R275): the cuts of a core, and the operating points and trips of its voltage and frequency regions.
-/
namespace Sys2Proof.Machine

open Sys2Proof

/-! ### A command that leaves its queue -/

@[simp] theorem comeToHead_id (s : State) (k : Nat) (c : QCmd) : (comeToHead s k c).2.id = c.id := rfl

theorem leftQueue_id (s : State) (k : Nat) (c : QCmd) : (leftQueue s k c).id = c.id := by
  unfold leftQueue atHead
  split <;> rfl

/-- A command whose turn it is to leave its queue is run by its engine. -/
theorem onQueue_of_leaves {s : State} {i : Instr} {k q pos : Nat} {c : QCmd} (h : Leaves s i k q pos c)
    (f : State → Nat → QCmd → Res) : onQueue s i f = f (released1 s k c) k (leftQueue s k c) := by
  obtain ⟨hturn, hhere, hword, hphase, hfirst, hfree, hbound, hlive⟩ := h
  simp only [onQueue, hturn, hhere, hword, Except.toOption, ne_eq, not_true_eq_false, if_false]
  by_cases hhead : c.headed = true
  case pos =>
    simp only [atHead, hhead, if_true] at hlive
    rcases hphase with hq | ⟨hr, -⟩
    case inl =>
      have hwait : (cmdFields c.word).waitEn = false := hfree.resolve_left (by simp [hq])
      simp [hq, hfirst, hwait, hhead, hlive, released1, leftQueue, atHead]
    case inr => simp [hr, hfirst, hhead, hlive, released1, leftQueue, atHead]
  case neg =>
    have hq : c.phase = .queued := hphase.resolve_right fun h => hhead h.2
    have hwait : (cmdFields c.word).waitEn = false := hfree.resolve_left (by simp [hq])
    have hb : bindOk s k (cmdFields c.word) (cmdOpcode c.word) = true := hbound.resolve_left hhead
    simp only [atHead, hhead, Bool.false_eq_true, if_false] at hlive
    simp [hq, hfirst, hwait, hhead, hb, hlive, released1, leftQueue, atHead]

/-! ### Meters and regions read after they are written -/

@[simp] theorem Core.meter_setMeter_same (c : Core) (n : Nat) (m : Meter) : (c.setMeter n m).meter n = m :=
  Map.get_set_same _ _ _ _

@[simp] theorem Core.vfRegion_setVf_same (c : Core) (j : Nat) (v : VfRegion) : (c.setVf j v).vfRegion j = v :=
  Map.get_set_same _ _ _ _

/-! ### What keeps the operating points -/

/-- s and t have the same headframe and in each core the same cuts and the same voltage and frequency regions. -/
structure SamePoints (s t : State) : Prop where
  head : t.head = s.head
  vf : ∀ k, (t.core k).vf = (s.core k).vf
  vcut : ∀ k, (t.core k).vcut = (s.core k).vcut
  hcut : ∀ k, (t.core k).hcut = (s.core k).hcut

section

variable {s t u : State} {k : Nat}

theorem SamePoints.refl (s : State) : SamePoints s s := ⟨rfl, fun _ => rfl, fun _ => rfl, fun _ => rfl⟩

theorem SamePoints.trans (hst : SamePoints s t) (htu : SamePoints t u) : SamePoints s u where
  head := htu.head.trans hst.head
  vf k := (htu.vf k).trans (hst.vf k)
  vcut k := (htu.vcut k).trans (hst.vcut k)
  hcut k := (htu.hcut k).trans (hst.hcut k)

theorem SamePoints.vfRegion (h : SamePoints s t) (k j : Nat) : (t.core k).vfRegion j = (s.core k).vfRegion j := by
  rw [Core.vfRegion, Core.vfRegion, h.vf]

theorem samePoints_ite {c : Prop} [Decidable c] (ht : SamePoints s t) (hu : SamePoints s u) :
    SamePoints s (if c then t else u) := by
  split
  · exact ht
  · exact hu

theorem samePoints_foldl {α : Type} {f : State → α → State} (hf : ∀ s a, SamePoints s (f s a)) (l : List α) (s : State) :
    SamePoints s (l.foldl f s) :=
  List.foldlRecOn l f (SamePoints.refl s) fun t ht a _ => ht.trans (hf t a)

theorem samePoints_modCore (s : State) (k : Nat) {f : Core → Core} (hvf : (f (s.core k)).vf = (s.core k).vf)
    (hvcut : (f (s.core k)).vcut = (s.core k).vcut) (hhcut : (f (s.core k)).hcut = (s.core k).hcut) :
    SamePoints s (s.modCore k f) := by
  refine ⟨rfl, fun j => ?_, fun j => ?_, fun j => ?_⟩ <;>
  · rw [State.modCore, State.setCore_core]
    split
    case isTrue h => rw [h]; assumption
    case isFalse => rfl

theorem samePoints_setMeter (s : State) (k n : Nat) (m : Core → Meter) :
    SamePoints s (s.modCore k (fun c => c.setMeter n (m c))) := samePoints_modCore s k rfl rfl rfl

theorem samePoints_settleMeter (s : State) (k n : Nat) : SamePoints s (settleMeter s k n) := samePoints_setMeter s k n _

theorem samePoints_lowerRate (s : State) (k n : Nat) : SamePoints s (lowerRate s k n) :=
  samePoints_ite ((samePoints_settleMeter s k n).trans (samePoints_setMeter _ k n _)) (SamePoints.refl s)

theorem samePoints_lowerRates (s : State) (k : Nat) : SamePoints s (lowerRates s k) :=
  samePoints_foldl (fun s n => samePoints_lowerRate s k n) _ s

theorem samePoints_noteFall (s : State) (k : Nat) (reason : BitVec 2) : SamePoints s (noteFall s k reason) :=
  samePoints_ite (SamePoints.refl s) (samePoints_modCore s k rfl rfl rfl)

theorem samePoints_fracFell (s : State) (k : Nat) (reason : BitVec 2) : SamePoints s (fracFell s k reason) :=
  (samePoints_noteFall s k reason).trans (samePoints_lowerRates _ k)

theorem samePoints_modCmds (s : State) (k : Nat) (p : QCmd → Bool) (f : QCmd → QCmd) : SamePoints s (modCmds s k p f) :=
  samePoints_modCore s k rfl rfl rfl

theorem samePoints_endCmd (s : State) (k id : Nat) (code : Code) : SamePoints s (endCmd s k id code) :=
  samePoints_modCmds s k _ _

/-- A change of the tripped regions changes beside them the watchdogs' counts alone. -/
theorem samePoints_changeTrips (s : State) (k : Nat) (f : State → State) : SamePoints (f s) (changeTrips s k f) :=
  samePoints_foldl (fun t e => by
    split
    · exact samePoints_modCore t k rfl rfl rfl
    · exact SamePoints.refl t) _ (f s)

end

end Sys2Proof.Machine
end

section
/-!
METER and the voltage slew (12_power.md R268, R269, R277 to R279): the fields of its operands, and what CUT makes of a core.
-/
namespace Sys2Proof.Machine

open Sys2Proof

/-- CEIL and BURST of CEIL and CEILALL (R277). -/
theorem ceil_fields (m : Cmd) :
    field m.ops 10 0 = m.ops.toNat % 2 ^ 11 ∧ field m.ops 17 11 = m.ops.toNat / 2 ^ 11 % 128 :=
  ⟨field_low 10, field_eq_div_mod ..⟩

/-- REGION, FSTEP and the voltage of POINT (R278). -/
theorem point_fields (m : Cmd) : field m.ops 1 0 = m.ops.toNat % 4 ∧ field m.ops 6 2 = m.ops.toNat / 4 % 32 ∧
    field m.ops 16 7 = m.ops.toNat / 128 % 1024 :=
  ⟨field_low 1, field_eq_div_mod .., field_eq_div_mod ..⟩

/-- VCUT and HCUT of CUT (R279). -/
theorem cut_fields (m : Cmd) : field m.ops 1 0 = m.ops.toNat % 4 ∧ field m.ops 2 2 = m.ops.toNat / 4 % 2 :=
  ⟨field_low 1, field_eq_div_mod ..⟩

section

variable {m : Cmd} {s : State} {k q pos : Nat} {c : QCmd}

theorem meterCeil_eq (h : Leaves s (.meterCeil m) k q pos c) : exec (.meterCeil m) s = .next (endCmd
    (setCeil (released1 s k c) k m.sid.toNat (m.ops.toNat % 2 ^ 11) (m.ops.toNat / 2 ^ 11 % 128)) k c.id 0) := by
  obtain ⟨hceil, hburst⟩ := ceil_fields m
  show execMeterCeil m s = _
  rw [execMeterCeil, onQueue_of_leaves h, leftQueue_id, hceil, hburst]

theorem meterCeilall_eq (h : Leaves s (.meterCeilall m) k q pos c) : exec (.meterCeilall m) s = .next (endCmd
    ((List.range 32).foldl (fun s n => setCeil s k n (m.ops.toNat % 2 ^ 11) (m.ops.toNat / 2 ^ 11 % 128)) (released1 s k c))
    k c.id 0) := by
  obtain ⟨hceil, hburst⟩ := ceil_fields m
  show execMeterCeilall m s = _
  rw [execMeterCeilall, onQueue_of_leaves h, leftQueue_id, hceil, hburst]

/-- POINT is refused, or begins its slew, with the clock switched first where it falls. -/
theorem meterPoint_eq (h : Leaves s (.meterPoint m) k q pos c) :
    let r := released1 s k c
    let j := m.ops.toNat % 4
    let fstep := m.ops.toNat / 4 % 32
    let mv := m.ops.toNat / 128 % 1024
    exec (.meterPoint m) s = .next
      (if vfExists (r.core k) j = false ∨ 24 < fstep ∨ mv % 10 ≠ 0 ∨ mv < vmin (400 + 50 * fstep) ∨ 750 < mv then
        faultCmd r k 1 (leftQueue s k c) fcCMD 0
      else setPhase ((if fstep < ((r.core k).vfRegion j).fstep then setFstep r k j fstep else r).modCore k
        (fun x => x.setVf j { x.vfRegion j with slew := some (c.id, fstep, mv) })) k c.id .started) := by
  obtain ⟨hj, hfstep, hmv⟩ := point_fields m
  have hphase : (leftQueue s k c).phase ≠ .started := by simp [leftQueue]
  show execMeterPoint m s = _
  rw [execMeterPoint, onQueue_of_leaves h, hj, hfstep, hmv, if_neg hphase, leftQueue_id]
  exact (apply_ite Host.Outcome.next _ _ _).symm

/-- The regions that CUT makes leave the cuts as it sets them. -/
theorem cuts_setRegions (x : Core) (v : Core → Nat → VfRegion) (l : List Nat) :
    (l.foldl (fun x j => x.setVf j (v x j)) x).vcut = x.vcut ∧ (l.foldl (fun x j => x.setVf j (v x j)) x).hcut = x.hcut :=
  List.foldlRecOn l _ (motive := fun y : Core => y.vcut = x.vcut ∧ y.hcut = x.hcut) ⟨rfl, rfl⟩ fun _ hy _ _ => hy

theorem meterCut_refused (h : Leaves s (.meterCut m) k q pos c)
    (hres : ∃ a b, a < 4 ∧ b < 4 ∧ residentIn (released1 s k c) k a b = true) :
    exec (.meterCut m) s = .next (faultCmd (released1 s k c) k 1 (leftQueue s k c) fcCFG 0) := by
  obtain ⟨a, b, ha, hb, hab⟩ := hres
  show execMeterCut m s = _
  rw [execMeterCut, onQueue_of_leaves h]
  exact if_pos (List.any_eq_true.2 ⟨a, List.mem_range.2 ha, List.any_eq_true.2 ⟨b, List.mem_range.2 hb, hab⟩⟩)

theorem meterCut_cuts (h : Leaves s (.meterCut m) k q pos c)
    (hfree : ∀ a b, a < 4 → b < 4 → residentIn (released1 s k c) k a b = false) :
    ∃ t, exec (.meterCut m) s = .next t ∧
      (t.core k).vcut = BitVec.ofNat 2 (m.ops.toNat % 4) ∧ (t.core k).hcut = decide (m.ops.toNat / 4 % 2 = 1) := by
  obtain ⟨hv, hh⟩ := cut_fields m
  have hnone : ¬ (List.range 4).any (fun a => (List.range 4).any (residentIn (released1 s k c) k a)) = true := by
    simpa using fun a ha b hb => hfree a b ha hb
  refine ⟨?t, ?run, ?spec⟩
  case run =>
    show execMeterCut m s = _
    rw [execMeterCut, onQueue_of_leaves h]
    exact if_neg hnone
  have hsame (t : State) : SamePoints t (endCmd (lowerRates t k) k (leftQueue s k c).id 0) :=
    (samePoints_lowerRates t k).trans (samePoints_endCmd _ k _ 0)
  rw [(hsame _).vcut, (hsame _).hcut, State.modCore_core_same, ← hv, ← hh]
  exact cuts_setRegions _ _ _

theorem voltageSlewDone_eq {i : BitVec 2} {id f v : Nat} (hself : s.self = .core k)
    (hslew : ((s.core k).vfRegion i.toNat).slew = some (id, f, v)) :
    exec (.voltageSlewDone i) s = .next (endCmd ((setFstep s k i.toNat f).modCore k (fun x =>
      x.setVf i.toNat { x.vfRegion i.toNat with mv := v, slew := none })) k id 0) := by
  show execVoltageSlewDone i s = _
  simp only [execVoltageSlewDone, hself, hslew]

end

/-- Settles O43: each command leaves its queue and takes the one branch that its hypotheses name. -/
theorem meterCommands : Obligations.MeterCommands := by
  intro m s k q pos c
  refine ⟨meterCeil_eq, meterCeilall_eq, fun h => ⟨fun hbad => ?bad, fun hgood hrise => ?rise, fun hgood hfall => ?fall⟩,
    fun h => ⟨meterCut_refused h, meterCut_cuts h⟩, fun i id f v hself hslew => voltageSlewDone_eq hself hslew⟩
  case bad => rw [meterPoint_eq h, if_pos hbad]
  case rise => rw [meterPoint_eq h, if_neg hgood, if_neg (Nat.not_lt.2 hrise)]
  case fall => rw [meterPoint_eq h, if_neg hgood, if_pos hfall]

end Sys2Proof.Machine
end

section
/-!
Power, rates, canaries, trips and notices (11_scheduling.md R265, 12_power.md R271 to R275): what each event of the power
controller, of a port's meter and of a region's canary does.
-/
namespace Sys2Proof.Machine

open Sys2Proof

section

variable {s : State} {k : Nat}

/-! ### phi-cap (R272) -/

theorem setPhiCap_head (s : State) (v : Nat) : (setPhiCap s v).head = { s.head with phiCap := v } := by
  have hsame : SamePoints { s with head := { s.head with phiCap := v } } (setPhiCap s v) :=
    samePoints_ite (samePoints_foldl (fun t k => samePoints_ite (samePoints_fracFell t k 1) (SamePoints.refl t)) _ _)
      (SamePoints.refl _)
  exact hsame.head

/-- s with one more measurement among the last 100. -/
def withMeasurement (s : State) (mw : Nat) : State := { s with head := { s.head with power := (mw :: s.head.power).take 100 } }

theorem powerMeasurement_eq (mw : Nat) (hself : s.self = .module) :
    let l := (mw :: s.head.power).take 100
    exec (.powerMeasurement mw) s = .next
      (if 4500000 < l.sum / l.length then setPhiCap (withMeasurement s mw) (Nat.max 8 (s.head.phiCap - 16))
      else if l.sum / l.length < 4400000 then setPhiCap (withMeasurement s mw) (Nat.min 255 (s.head.phiCap + 8))
      else withMeasurement s mw) := by
  show execPowerMeasurement mw s = _
  simp only [execPowerMeasurement, hself, withMeasurement]

theorem currentEstimate_eq (ma : Nat) (hself : s.self = .module) : exec (.currentEstimate ma) s = .next
    (if 8800000 < ma then setPhiCap s (Nat.max 8 (3 * s.head.phiCap / 4)) else s) := by
  show execCurrentEstimate ma s = _
  rw [execCurrentEstimate, hself]

/-! ### The applied rate of a port (R271) -/

theorem rateRamp_eq {n : Nat} (hself : s.self = .ag k n) : exec .rateRamp s = .next (raiseRate s k n) := by
  show execRateRamp s = _
  rw [execRateRamp, hself]

theorem raiseRate_rate {n : Nat} (h : ((s.core k).meter n).rate < targetRate s k n) :
    (((raiseRate s k n).core k).meter n).rate =
      Nat.min (targetRate s k n) (((s.core k).meter n).rate + ((s.core k).vfRegion (vfOfStream s k n)).mhz / 32) := by
  rw [raiseRate]
  simp only [if_pos h, State.modCore_core_same, Core.meter_setMeter_same]

theorem raiseRate_of_reached {n : Nat} (h : targetRate s k n ≤ ((s.core k).meter n).rate) : raiseRate s k n = s :=
  if_neg (Nat.not_lt.2 h)

/-! ### Canaries and trips (R273, R274) -/

theorem canarySample_spec (j : BitVec 2) (q : Int) (hself : s.self = .core k) (hexists : vfExists (s.core k) j.toNat = true) :
    ∃ t, exec (.canarySample j q) s = .next t ∧
      ((t.core k).vfRegion j.toNat).history = (canaryWeight q :: ((s.core k).vfRegion j.toNat).history).take 100000 ∧
      ((t.core k).vfRegion j.toNat).cool = if q ≤ 400 then ((s.core k).vfRegion j.toNat).cool + 1 else 0 := by
  refine ⟨?t, ?run, ?spec⟩
  case run =>
    show execCanarySample j q s = _
    rw [execCanarySample, hself]
    exact if_neg (Bool.eq_false_iff.not_left.2 hexists)
  rw [(samePoints_ite (samePoints_fracFell _ k 2) (SamePoints.refl _)).vfRegion, State.modCore_core_same,
    Core.vfRegion_setVf_same]
  exact ⟨rfl, rfl⟩

/-- What follows a trip of region j in the meters, the notices and the rates of core k. -/
theorem samePoints_afterTrip (s : State) (k j : Nat) : SamePoints s (fracFell ((List.range 32).foldl (fun s n =>
    if vfOfStream s k n = j then s.modCore k (fun c => c.setMeter n { c.meter n with b := 0, at_ := uncoreCycles s }) else s) s)
    k 3) :=
  (samePoints_foldl (fun t n => samePoints_ite (samePoints_setMeter t k n _) (SamePoints.refl t)) _ s).trans
    (samePoints_fracFell _ k 3)

theorem trip_trips {j : BitVec 2} {q : Int} (hself : s.self = .core k) (hexists : vfExists (s.core k) j.toNat = true)
    (hhot : 440 ≤ q) (hnot : ((s.core k).vfRegion j.toNat).tripped = false) :
    ∃ t, exec (.trip j q) s = .next t ∧ ((t.core k).vfRegion j.toNat).tripped = true ∧
      ((t.core k).vfRegion j.toNat).cool = 0 := by
  have hgo : ¬ (vfExists (s.core k) j.toNat = false ∨ q < 440 ∨ ((s.core k).vfRegion j.toNat).tripped = true) := by
    simp [hexists, hnot, hhot]
  refine ⟨?t, ?run, ?spec⟩
  case run =>
    show execTrip j q s = _
    rw [execTrip, hself]
    exact if_neg hgo
  rw [((samePoints_changeTrips s k _).trans (samePoints_afterTrip _ k j.toNat)).vfRegion, State.modCore_core_same,
    Core.vfRegion_setVf_same]
  exact ⟨rfl, rfl⟩

theorem trip_below {j : BitVec 2} {q : Int} (hself : s.self = .core k) (hcool : q < 440) : exec (.trip j q) s = .next s := by
  show execTrip j q s = _
  rw [execTrip, hself]
  exact if_pos (.inr (.inl hcool))

theorem tripEnd_ends {j : BitVec 2} (hself : s.self = .core k) (htrip : ((s.core k).vfRegion j.toNat).tripped = true)
    (hcool : 10 ≤ ((s.core k).vfRegion j.toNat).cool) :
    ∃ t, exec (.tripEnd j) s = .next t ∧ ((t.core k).vfRegion j.toNat).tripped = false := by
  refine ⟨?t, ?run, ?spec⟩
  case run =>
    show execTripEnd j s = _
    rw [execTripEnd, hself]
  rw [if_pos ⟨htrip, hcool⟩, (samePoints_changeTrips s k _).vfRegion, State.modCore_core_same, Core.vfRegion_setVf_same]

theorem tripEnd_waits {j : BitVec 2} (hself : s.self = .core k) (hwarm : ((s.core k).vfRegion j.toNat).cool < 10) :
    exec (.tripEnd j) s = .next s := by
  show execTripEnd j s = _
  rw [execTripEnd, hself]
  exact congrArg _ (if_neg fun h => Nat.not_le.2 hwarm h.2)

/-! ### Notices (R265, R275) -/

theorem throttleNotice_stays {r : BitVec 2} (hself : s.self = .core k) (hdue : r ∈ (s.core k).noticeDue)
    (hlate : notedLately s k r = false) (hstall : (s.thread k).stall = none) :
    exec (.throttleNotice r) s = .next
      (((s.modCore k (fun c => { c with noticeDue := c.noticeDue.erase r })).modCore k
        (fun c => { c with notices := Map.set none c.notices r.toNat (some s.time) })).modThread k
        (fun t => { t with throtPend := if t.throtPend < r then r else t.throtPend })) := by
  show execThrottleNotice r s = _
  rw [execThrottleNotice]
  simp [hself, hdue, hlate, hstall]

theorem throttleNotice_dropped {r : BitVec 2} (hself : s.self = .core k) (hdue : r ∈ (s.core k).noticeDue)
    (hlate : notedLately s k r = true) :
    exec (.throttleNotice r) s = .next (s.modCore k (fun c => { c with noticeDue := c.noticeDue.erase r })) := by
  show execThrottleNotice r s = _
  rw [execThrottleNotice]
  simp [hself, hdue, hlate]

end

/-- Settles O52: each event takes the one branch that its thresholds name, and what follows a fall of FRAC leaves the regions
and the headframe as they are. -/
theorem powerEvents : Obligations.PowerEvents := by
  intro s k
  refine ⟨fun mw hself => ⟨fun hhigh => ?high, fun hlow => ?low, fun hge hle => ?between⟩,
    fun ma hself => ⟨fun habove => ?above, fun hwithin => ?within⟩, setPhiCap_head s,
    fun n hself hbelow => ⟨_, rateRamp_eq hself, raiseRate_rate hbelow⟩, fun n hself hreached => ?reached,
    fun j q hself hexists => ⟨canarySample_spec j q hself hexists, trip_trips hself hexists, trip_below hself⟩,
    fun j hself => ⟨tripEnd_ends hself, tripEnd_waits hself⟩,
    fun r hself hdue => ⟨fun hlate hstall => ⟨_, throttleNotice_stays hself hdue hlate hstall, ?erased, ?noted, ?pends⟩,
      throttleNotice_dropped hself hdue⟩⟩
  case high => rw [powerMeasurement_eq mw hself, if_pos hhigh]; rfl
  case low => rw [powerMeasurement_eq mw hself, if_neg (by omega), if_pos hlow]; rfl
  case between => rw [powerMeasurement_eq mw hself, if_neg (by omega), if_neg (by omega)]; rfl
  case above => rw [currentEstimate_eq ma hself, if_pos habove]
  case within => rw [currentEstimate_eq ma hself, if_neg (by omega)]
  case reached => rw [rateRamp_eq hself, raiseRate_of_reached hreached]
  case erased => rw [State.modThread_core, State.modCore_core_same, State.modCore_core_same]
  case noted => rw [State.modThread_core, State.modCore_core_same, Map.get_set_same]
  case pends => rw [State.modThread_thread_same]; rfl

end Sys2Proof.Machine
end

section
/-!
The words of the control thread (13_encodings.md R280, R281, Table 13.1). A word is its fields side by side: to say that
the fields make up the word is to say what each field of the word is. Read one way this takes an encoded word apart for the
decoder, read the other way it puts a decoded word together again.
-/
namespace Sys2Proof

/-! ### The fields that a word is made of -/

theorem eq_append_iff {m n : Nat} {x : BitVec m} {y : BitVec n} {w : BitVec (m + n)} :
    w = x ++ y ↔ w.extractLsb' n m = x ∧ w.extractLsb' 0 n = y := by
  constructor
  · rintro rfl
    exact ⟨BitVec.extractLsb'_append_eq_left, BitVec.extractLsb'_append_eq_right⟩
  · rintro ⟨rfl, rfl⟩
    exact BitVec.extractLsb'_append_extractLsb'.symm

section

variable {a b c d e f g : Nat} {A : BitVec a} {B : BitVec b} {C : BitVec c} {D : BitVec d} {E : BitVec e} {F : BitVec f}
  {G : BitVec g}

theorem twoFields_eq_iff {w : BitVec (a + b)} : A ++ B = w ↔ w.extractLsb' b a = A ∧ w.extractLsb' 0 b = B := by
  rw [eq_comm, eq_append_iff]

theorem threeFields_eq_iff {w : BitVec (a + b + c)} : A ++ B ++ C = w ↔
    w.extractLsb' (c + b) a = A ∧ w.extractLsb' c b = B ∧ w.extractLsb' 0 c = C := by
  rw [eq_comm]
  simp (disch := omega) only [eq_append_iff, extractLsb'_within, Nat.add_zero, and_assoc]

theorem fourFields_eq_iff {w : BitVec (a + b + c + d)} : A ++ B ++ C ++ D = w ↔
    w.extractLsb' (d + c + b) a = A ∧ w.extractLsb' (d + c) b = B ∧ w.extractLsb' d c = C ∧ w.extractLsb' 0 d = D := by
  rw [eq_comm]
  simp (disch := omega) only [eq_append_iff, extractLsb'_within, Nat.add_zero, and_assoc]

theorem fiveFields_eq_iff {w : BitVec (a + b + c + d + e)} : A ++ B ++ C ++ D ++ E = w ↔
    w.extractLsb' (e + d + c + b) a = A ∧ w.extractLsb' (e + d + c) b = B ∧ w.extractLsb' (e + d) c = C ∧
      w.extractLsb' e d = D ∧ w.extractLsb' 0 e = E := by
  rw [eq_comm]
  simp (disch := omega) only [eq_append_iff, extractLsb'_within, Nat.add_zero, and_assoc]

theorem sixFields_eq_iff {w : BitVec (a + b + c + d + e + f)} : A ++ B ++ C ++ D ++ E ++ F = w ↔
    w.extractLsb' (f + e + d + c + b) a = A ∧ w.extractLsb' (f + e + d + c) b = B ∧ w.extractLsb' (f + e + d) c = C ∧
      w.extractLsb' (f + e) d = D ∧ w.extractLsb' f e = E ∧ w.extractLsb' 0 f = F := by
  rw [eq_comm]
  simp (disch := omega) only [eq_append_iff, extractLsb'_within, Nat.add_zero, and_assoc]

theorem sevenFields_eq_iff {w : BitVec (a + b + c + d + e + f + g)} : A ++ B ++ C ++ D ++ E ++ F ++ G = w ↔
    w.extractLsb' (g + f + e + d + c + b) a = A ∧ w.extractLsb' (g + f + e + d + c) b = B ∧
      w.extractLsb' (g + f + e + d) c = C ∧ w.extractLsb' (g + f + e) d = D ∧ w.extractLsb' (g + f) e = E ∧
      w.extractLsb' g f = F ∧ w.extractLsb' 0 g = G := by
  rw [eq_comm]
  simp (disch := omega) only [eq_append_iff, extractLsb'_within, Nat.add_zero, and_assoc]

theorem tenFields_eq_iff {h i j : Nat} {H : BitVec h} {I : BitVec i} {J : BitVec j} {w : BitVec (a + b + c + d + e + f + g + h + i + j)} :
    A ++ B ++ C ++ D ++ E ++ F ++ G ++ H ++ I ++ J = w ↔
      w.extractLsb' (j + i + h + g + f + e + d + c + b) a = A ∧ w.extractLsb' (j + i + h + g + f + e + d + c) b = B ∧
      w.extractLsb' (j + i + h + g + f + e + d) c = C ∧ w.extractLsb' (j + i + h + g + f + e) d = D ∧
      w.extractLsb' (j + i + h + g + f) e = E ∧ w.extractLsb' (j + i + h + g) f = F ∧ w.extractLsb' (j + i + h) g = G ∧
      w.extractLsb' (j + i) h = H ∧ w.extractLsb' j i = I ∧ w.extractLsb' 0 j = J := by
  rw [eq_comm]
  simp (disch := omega) only [eq_append_iff, extractLsb'_within, Nat.add_zero, and_assoc]

end

/-- A field read as one is its two parts read apart. -/
theorem extractLsb'_eq_iff_parts {k s : Nat} (m n : Nat) {w : BitVec k} {v : BitVec (m + n)} :
    w.extractLsb' s (m + n) = v ↔ w.extractLsb' (s + n) m = v.extractLsb' n m ∧ w.extractLsb' s n = v.extractLsb' 0 n := by
  constructor
  · rintro rfl
    rw [extractLsb'_within w (by omega), extractLsb'_within w (by omega), Nat.add_zero]
    exact ⟨rfl, rfl⟩
  · rintro ⟨hhi, hlo⟩
    rw [(eq_append_iff (w := v)).2 ⟨rfl, rfl⟩, ← hhi, ← hlo, BitVec.extractLsb'_append_extractLsb'_eq_extractLsb' rfl]

/-- What a guarded form decodes to: its guard holds and the instruction is the form's. -/
theorem ite_ok_eq_ok {c : Prop} [Decidable c] {x i : Instr} {e : DecodeError}
    (h : (if c then .ok x else .error e : Except DecodeError Instr) = .ok i) : c ∧ x = i := by
  split at h
  case isTrue hc => exact ⟨hc, Except.ok.inj h⟩
  case isFalse => cases h

theorem eq_ofNat_of_toNat {n k : Nat} {x : BitVec n} (h : x.toNat = k) : x = BitVec.ofNat n k := by
  rw [← h, BitVec.ofNat_toNat, BitVec.setWidth_eq]

/-! ### From a word to its instruction -/

section

variable {w : BitVec 32} {i : Instr}

theorem encodeThread_of_decodeAlu (hop : w.extractLsb' 26 6 = 1#6) : decodeAlu w = .ok i → encodeThread i = some w := by
  fun_cases decodeAlu w <;> intro h <;> cases h
  case case24 hnop => exact congrArg some (twoFields_eq_iff.2 ⟨hop, hnop⟩)
  case case19 hlow => exact congrArg some (fourFields_eq_iff.2 ⟨hop, rfl, rfl, hlow⟩)
  case case20 hlow => exact congrArg some (fourFields_eq_iff.2 ⟨hop, rfl, rfl, hlow⟩)
  all_goals
    rename_i hminor
    exact congrArg some (fiveFields_eq_iff.2 ⟨hop, rfl, rfl, rfl, hminor⟩)

theorem encodeThread_of_decodePred (hop : w.extractLsb' 26 6 = 16#6) : decodePred w = .ok i → encodeThread i = some w := by
  fun_cases decodePred w <;> intro h <;> cases h
  case case1 hminor | case2 hminor => exact congrArg some (fiveFields_eq_iff.2 ⟨hop, rfl, rfl, rfl, hminor⟩)
  case case3 hminor => exact congrArg some (fourFields_eq_iff.2 ⟨hop, rfl, rfl, hminor⟩)

theorem encodeThread_of_decodeBp (hop : w.extractLsb' 26 6 = 19#6) : decodeBp w = .ok i → encodeThread i = some w := by
  fun_cases decodeBp w <;> intro h <;> cases h
  case case1 hz | case2 hz =>
    exact congrArg some (fourFields_eq_iff.2 ⟨(extractLsb'_eq_iff_parts 6 1).2 ⟨hop, hz.2⟩, rfl, hz.1, rfl⟩)

theorem encodeThread_of_decodeBar (hop : w.extractLsb' 26 6 = 35#6) : decodeBar w = .ok i → encodeThread i = some w := by
  fun_cases decodeBar w <;> intro h <;> cases h
  case case1 hz | case4 hz =>
    exact congrArg some (fourFields_eq_iff.2 ⟨(extractLsb'_eq_iff_parts 6 5).2 ⟨hop, hz.2⟩, rfl, rfl, hz.1⟩)
  case case2 hlow | case3 hlow => exact congrArg some (fourFields_eq_iff.2 ⟨hop, rfl, rfl, hlow⟩)

theorem encodeThread_of_decodeTk (hop : w.extractLsb' 26 6 = 36#6) : decodeTk w = .ok i → encodeThread i = some w := by
  fun_cases decodeTk w <;> intro h <;> cases h
  case case1 hz => exact congrArg some (threeFields_eq_iff.2 ⟨(extractLsb'_eq_iff_parts 6 15).2 ⟨hop, hz.2⟩, rfl, hz.1⟩)
  case case2 hz => exact congrArg some (fiveFields_eq_iff.2 ⟨hop, rfl, hz.2, rfl, hz.1⟩)

theorem encodeThread_of_decodeIssue (hop : w.extractLsb' 26 6 = 42#6) : decodeIssue w = .ok i → encodeThread i = some w := by
  fun_cases decodeIssue w <;> intro h <;> cases h
  case case1 hz | case2 hz => exact congrArg some (threeFields_eq_iff.2 ⟨hop, rfl, hz⟩)

/-- A word that decodes is its instruction's: the fields that the instruction takes, the major and the fields that the
decoder tests make up the whole word. Case h_k is major k of Table 13.2, and h_57 every other. -/
theorem encodeThread_of_decodeThread (h : decodeThread w = .ok i) : encodeThread i = some w := by
  unfold decodeThread at h
  split at h
  case h_57 => cases h
  all_goals rename_i hop; replace hop := eq_ofNat_of_toNat hop
  case h_1 => exact encodeThread_of_decodeAlu hop h
  case h_16 => exact encodeThread_of_decodePred hop h
  case h_19 => exact encodeThread_of_decodeBp hop h
  case h_35 => exact encodeThread_of_decodeBar hop h
  case h_36 => exact encodeThread_of_decodeTk hop h
  case h_42 => exact encodeThread_of_decodeIssue hop h
  case h_2 | h_3 | h_4 | h_5 | h_22 | h_49 | h_50 | h_51 =>
    cases h
    exact congrArg some (fourFields_eq_iff.2 ⟨hop, rfl, rfl, rfl⟩)
  case h_10 | h_21 =>
    cases h
    exact congrArg some (threeFields_eq_iff.2 ⟨hop, rfl, rfl⟩)
  case h_15 | h_18 | h_24 | h_25 | h_26 =>
    cases h
    exact congrArg some (fiveFields_eq_iff.2 ⟨hop, rfl, rfl, rfl, rfl⟩)
  case h_32 | h_33 =>
    cases h
    exact congrArg some (sixFields_eq_iff.2 ⟨hop, rfl, rfl, rfl, rfl, rfl⟩)
  all_goals obtain ⟨hz, rfl⟩ := ite_ok_eq_ok h
  case h_53 | h_56 => exact congrArg some (twoFields_eq_iff.2 ⟨hop, hz⟩)
  case h_20 => exact congrArg some (twoFields_eq_iff.2 ⟨(extractLsb'_eq_iff_parts 6 5).2 ⟨hop, hz⟩, rfl⟩)
  case h_52 | h_55 => exact congrArg some (twoFields_eq_iff.2 ⟨(extractLsb'_eq_iff_parts 6 10).2 ⟨hop, hz⟩, rfl⟩)
  case h_34 => exact congrArg some (twoFields_eq_iff.2 ⟨(extractLsb'_eq_iff_parts 6 24).2 ⟨hop, hz⟩, rfl⟩)
  case h_44 => exact congrArg some (threeFields_eq_iff.2 ⟨hop, rfl, hz⟩)
  case h_45 | h_47 | h_54 => exact congrArg some (threeFields_eq_iff.2 ⟨(extractLsb'_eq_iff_parts 6 5).2 ⟨hop, hz.2⟩, rfl, hz.1⟩)
  case h_23 | h_48 => exact congrArg some (fourFields_eq_iff.2 ⟨hop, rfl, hz, rfl⟩)
  case h_29 => exact congrArg some (fourFields_eq_iff.2 ⟨(extractLsb'_eq_iff_parts 6 5).2 ⟨hop, hz.2⟩, rfl, hz.1, rfl⟩)
  case h_43 | h_46 => exact congrArg some (fourFields_eq_iff.2 ⟨hop, rfl, rfl, hz⟩)
  case h_6 | h_7 | h_8 | h_39 => exact congrArg some (fiveFields_eq_iff.2 ⟨hop, rfl, rfl, hz, rfl⟩)
  case h_9 => exact congrArg some (fiveFields_eq_iff.2 ⟨hop, rfl, hz, rfl, rfl⟩)
  case h_37 => exact congrArg some (fiveFields_eq_iff.2 ⟨hop, rfl, rfl, rfl, hz⟩)
  case h_38 =>
    obtain ⟨hlow, hmid, hhigh⟩ := hz
    exact congrArg some (fiveFields_eq_iff.2 ⟨(extractLsb'_eq_iff_parts 6 5).2 ⟨hop, hhigh⟩, rfl, hmid, rfl, hlow⟩)
  case h_41 => exact congrArg some (fiveFields_eq_iff.2 ⟨hop, rfl, hz.2, rfl, hz.1⟩)
  case h_11 | h_14 | h_17 => exact congrArg some (sixFields_eq_iff.2 ⟨hop, rfl, rfl, rfl, rfl, hz⟩)
  case h_13 => exact congrArg some (sixFields_eq_iff.2 ⟨hop, rfl, rfl, hz, rfl, rfl⟩)
  case h_27 | h_28 | h_40 => exact congrArg some (sixFields_eq_iff.2 ⟨hop, rfl, hz.2, rfl, hz.1, rfl⟩)
  case h_12 => exact congrArg some (sevenFields_eq_iff.2 ⟨hop, rfl, rfl, hz, rfl, rfl, rfl⟩)
  case h_30 => exact congrArg some (tenFields_eq_iff.2 ⟨hop, rfl, rfl, rfl, rfl, rfl, hz.2, rfl, rfl, hz.1⟩)
  case h_31 =>
    obtain ⟨hlow, hone, hmid⟩ := hz
    exact congrArg some (tenFields_eq_iff.2 ⟨hop, rfl, rfl, rfl, hmid, rfl, hone, rfl, rfl, hlow⟩)


/-! ### From an instruction to its word -/

/-- An instruction's word decodes to it: the word's fields are the instruction's own, and no form tried before it has them. -/
theorem decodeThread_of_encodeThread (h : encodeThread i = some w) : decodeThread w = .ok i := by
  cases i with
  | add | sub | mul | mulh | div | divu | rem | remu | and | or | xor | shl | shr | sar | min | max | minu | maxu
  | sext | zext | randk =>
    obtain ⟨hop, rfl, rfl, rfl, hminor⟩ := fiveFields_eq_iff.1 (Option.some.inj h)
    rw [decodeThread, hop]
    show decodeAlu w = _
    simp [decodeAlu, hminor, extractLsb'_eq_iff_parts 5 11]
  | clz | popc =>
    obtain ⟨hop, rfl, rfl, hlow⟩ := fourFields_eq_iff.1 (Option.some.inj h)
    obtain ⟨-, hminor⟩ := (extractLsb'_eq_iff_parts 5 11).1 hlow
    rw [decodeThread, hop]
    show decodeAlu w = _
    simp [decodeAlu, hminor, hlow]
  | nop | sysret | yield => cases h; rfl
  | addi | andi | ori | xori | jalr | csrw | csrs | csrc =>
    obtain ⟨hop, rfl, rfl, rfl⟩ := fourFields_eq_iff.1 (Option.some.inj h)
    rw [decodeThread, hop]; rfl
  | addpc | jal =>
    obtain ⟨hop, rfl, rfl⟩ := threeFields_eq_iff.1 (Option.some.inj h)
    rw [decodeThread, hop]; rfl
  | cmpiCc | brCc | ld | ldu | st =>
    obtain ⟨hop, rfl, rfl, rfl, rfl⟩ := fiveFields_eq_iff.1 (Option.some.inj h)
    rw [decodeThread, hop]; rfl
  | lda | str =>
    obtain ⟨hop, rfl, rfl, rfl, rfl, rfl⟩ := sixFields_eq_iff.1 (Option.some.inj h)
    rw [decodeThread, hop]; rfl
  | shli | shri | sari | qset =>
    obtain ⟨hop, rfl, rfl, hz, rfl⟩ := fiveFields_eq_iff.1 (Option.some.inj h)
    rw [decodeThread, hop]; exact if_pos hz
  | lih =>
    obtain ⟨hop, rfl, hz, rfl, rfl⟩ := fiveFields_eq_iff.1 (Option.some.inj h)
    rw [decodeThread, hop]; exact if_pos hz
  | watch =>
    obtain ⟨hop, rfl, rfl, rfl, hz⟩ := fiveFields_eq_iff.1 (Option.some.inj h)
    rw [decodeThread, hop]; exact if_pos hz
  | qmov =>
    obtain ⟨hop, rfl, hmid, rfl, hlow⟩ := fiveFields_eq_iff.1 (Option.some.inj h)
    rw [decodeThread, hop]; exact if_pos ⟨hlow, hmid⟩
  | amsg =>
    obtain ⟨htop, rfl, hmid, rfl, hlow⟩ := fiveFields_eq_iff.1 (Option.some.inj h)
    obtain ⟨hop, hhigh⟩ := (extractLsb'_eq_iff_parts 6 5).1 htop
    rw [decodeThread, hop]; exact if_pos ⟨hlow, hmid, hhigh⟩
  | madd | cmpCc | sel =>
    obtain ⟨hop, rfl, rfl, rfl, rfl, hz⟩ := sixFields_eq_iff.1 (Option.some.inj h)
    rw [decodeThread, hop]; exact if_pos hz
  | biti =>
    obtain ⟨hop, rfl, rfl, hz, rfl, rfl⟩ := sixFields_eq_iff.1 (Option.some.inj h)
    rw [decodeThread, hop]; exact if_pos hz
  | ldq | stq | qseti =>
    obtain ⟨hop, rfl, hhigh, rfl, hlow, rfl⟩ := sixFields_eq_iff.1 (Option.some.inj h)
    rw [decodeThread, hop]; exact if_pos ⟨hlow, hhigh⟩
  | bitf =>
    obtain ⟨hop, rfl, rfl, hz, rfl, rfl, rfl⟩ := sevenFields_eq_iff.1 (Option.some.inj h)
    rw [decodeThread, hop]; exact if_pos hz
  | amo =>
    obtain ⟨hop, rfl, rfl, rfl, rfl, rfl, hone, rfl, rfl, hlow⟩ := tenFields_eq_iff.1 (Option.some.inj h)
    rw [decodeThread, hop]; exact if_pos ⟨hlow, hone⟩
  | cas =>
    obtain ⟨hop, rfl, rfl, rfl, hmid, rfl, hone, rfl, rfl, hlow⟩ := tenFields_eq_iff.1 (Option.some.inj h)
    rw [decodeThread, hop]; exact if_pos ⟨hlow, hone, hmid⟩
  | jmp =>
    obtain ⟨htop, rfl⟩ := twoFields_eq_iff.1 (Option.some.inj h)
    obtain ⟨hop, hz⟩ := (extractLsb'_eq_iff_parts 6 5).1 htop
    rw [decodeThread, hop]; exact if_pos hz
  | trap | bkpt =>
    obtain ⟨htop, rfl⟩ := twoFields_eq_iff.1 (Option.some.inj h)
    obtain ⟨hop, hz⟩ := (extractLsb'_eq_iff_parts 6 10).1 htop
    rw [decodeThread, hop]; exact if_pos hz
  | fence =>
    obtain ⟨htop, rfl⟩ := twoFields_eq_iff.1 (Option.some.inj h)
    obtain ⟨hop, hz⟩ := (extractLsb'_eq_iff_parts 6 24).1 htop
    rw [decodeThread, hop]; exact if_pos hz
  | take =>
    obtain ⟨hop, rfl, hz⟩ := threeFields_eq_iff.1 (Option.some.inj h)
    rw [decodeThread, hop]; exact if_pos hz
  | done | cancel | exit =>
    obtain ⟨htop, rfl, hlow⟩ := threeFields_eq_iff.1 (Option.some.inj h)
    obtain ⟨hop, hhigh⟩ := (extractLsb'_eq_iff_parts 6 5).1 htop
    rw [decodeThread, hop]; exact if_pos ⟨hlow, hhigh⟩
  | loop | csrr =>
    obtain ⟨hop, rfl, hz, rfl⟩ := fourFields_eq_iff.1 (Option.some.inj h)
    rw [decodeThread, hop]; exact if_pos hz
  | enq | join =>
    obtain ⟨hop, rfl, rfl, hz⟩ := fourFields_eq_iff.1 (Option.some.inj h)
    rw [decodeThread, hop]; exact if_pos hz
  | pref =>
    obtain ⟨htop, rfl, hlow, rfl⟩ := fourFields_eq_iff.1 (Option.some.inj h)
    obtain ⟨hop, hhigh⟩ := (extractLsb'_eq_iff_parts 6 5).1 htop
    rw [decodeThread, hop]; exact if_pos ⟨hlow, hhigh⟩
  | pand | por =>
    obtain ⟨hop, rfl, rfl, rfl, hminor⟩ := fiveFields_eq_iff.1 (Option.some.inj h)
    rw [decodeThread, hop]
    show decodePred w = _
    simp [decodePred, hminor]
  | pnot =>
    obtain ⟨hop, rfl, rfl, hlow⟩ := fourFields_eq_iff.1 (Option.some.inj h)
    obtain ⟨-, hminor⟩ := (extractLsb'_eq_iff_parts 3 17).1 hlow
    rw [decodeThread, hop]
    show decodePred w = _
    simp [decodePred, hlow, hminor]
  | bp | bpn =>
    obtain ⟨htop, rfl, hz, rfl⟩ := fourFields_eq_iff.1 (Option.some.inj h)
    obtain ⟨hop, hn⟩ := (extractLsb'_eq_iff_parts 6 1).1 htop
    rw [decodeThread, hop]
    show decodeBp w = _
    simp [decodeBp, hz, hn]
  | barInit | barWait =>
    obtain ⟨htop, rfl, rfl, hminor⟩ := fourFields_eq_iff.1 (Option.some.inj h)
    obtain ⟨hop, hhigh⟩ := (extractLsb'_eq_iff_parts 6 5).1 htop
    rw [decodeThread, hop]
    show decodeBar w = _
    simp [decodeBar, hminor, hhigh, extractLsb'_eq_iff_parts 5 11]
  | barArv | barDrp =>
    obtain ⟨hop, rfl, rfl, hlow⟩ := fourFields_eq_iff.1 (Option.some.inj h)
    obtain ⟨-, hminor⟩ := (extractLsb'_eq_iff_parts 5 11).1 hlow
    rw [decodeThread, hop]
    show decodeBar w = _
    simp [decodeBar, hlow, hminor]
  | tkpush =>
    obtain ⟨htop, rfl, hlow⟩ := threeFields_eq_iff.1 (Option.some.inj h)
    obtain ⟨hop, hhigh⟩ := (extractLsb'_eq_iff_parts 6 15).1 htop
    rw [decodeThread, hop]
    show decodeTk w = _
    simp [decodeTk, hlow, hhigh]
  | tkpop =>
    obtain ⟨hop, rfl, hmid, rfl, hlow⟩ := fiveFields_eq_iff.1 (Option.some.inj h)
    rw [decodeThread, hop]
    show decodeTk w = _
    simp [decodeTk, hlow, hmid]
  | issue | issuew =>
    obtain ⟨hop, rfl, hminor⟩ := threeFields_eq_iff.1 (Option.some.inj h)
    rw [decodeThread, hop]
    show decodeIssue w = _
    simp [decodeIssue, hminor]
  | _ => cases h

end

/-- Settles O56: each direction by the fields of each form. -/
theorem threadWordsRoundTrip : Obligations.ThreadWordsRoundTrip :=
  ⟨fun _ _ => decodeThread_of_encodeThread, fun _ _ => encodeThread_of_decodeThread⟩

/-- Settles O55: a word decodes to the instruction whose word it is, so each is checked on the encoder's side; the words of no
instruction are decoded as they stand. -/
theorem listedWordsDecode : Obligations.ListedWordsDecode := by
  have thread : ∀ {i w}, encodeThread i = some w → decodeThread w = .ok i := threadWordsRoundTrip.1 _ _
  have slot : ∀ {i w}, encodeSlot i = some w → decodeSlot w = .ok i := decodeSlot_iff_encodeSlot.2
  refine ⟨thread rfl, thread rfl, thread rfl, thread rfl, thread rfl, thread rfl, thread rfl, thread rfl, thread rfl, rfl,
    slot rfl, slot rfl, decodeAssayer_of_encodeAssayer nofun rfl, decodeAssayer_of_encodeAssayer nofun rfl, rfl⟩

end Sys2Proof

end

section
/-!
Fields that the layout of a control-thread word allows and its rules do not (13_encodings.md R281, R282, R284).
-/
namespace Sys2Proof.Machine

open Sys2Proof

/-- An instruction with a field beyond its limits traps in place of anything it does. -/
theorem threadOp_illegal {s : State} {k : Nat} {i : Instr} {f : Nat → Res} (hs : s.self = .thread k) (hi : threadOk i = false) :
    threadOp i s f = .next (raise s k fcILLEGAL (wordOf i)) := by
  rw [threadOp, onThread_run s k _ hs, hi]
  rfl

/-- Settles O9: each of these instructions is a `threadOp`, whose limits the hypothesis says are broken. -/
theorem illegalFieldsTrap : Obligations.IllegalFieldsTrap := by
  intro d a b p c i g po w o n s k hs ill
  refine ⟨fun hc => ?cond, fun hb => ?width, fun hp => ?bits, fun ho => ?distance, fun hn => ?csr⟩
  case cond =>
    have hbad : condListed c = false := decide_eq_false (by omega)
    exact ⟨threadOp_illegal hs hbad, threadOp_illegal hs hbad, threadOp_illegal hs hbad⟩
  case width =>
    have hbad : widthListed b = false := decide_eq_false (by omega)
    exact ⟨threadOp_illegal hs hbad, threadOp_illegal hs hbad⟩
  case bits =>
    have hbad : fieldFits po w = false := decide_eq_false (by omega)
    exact ⟨threadOp_illegal hs hbad, threadOp_illegal hs hbad⟩
  case distance => exact threadOp_illegal hs (decide_eq_false (by omega))
  case csr =>
    exact ⟨threadOp_illegal hs hn, threadOp_illegal hs hn, threadOp_illegal hs hn, threadOp_illegal hs hn⟩

end Sys2Proof.Machine
end

section
/-!
The mailbox (14_system.md R309, R311, R312): what a request that stands in the mailbox does, and with which STATUS it ends.
-/
namespace Sys2Proof.Machine

open Sys2Proof

/-- Outside recovery the host has written GO with this code in the mailbox, and it is the module's turn. -/
structure Asked (s : State) (code : Nat) : Prop where
  turn : s.self = .module
  live : mboxLive s = true
  served : s.head.recovery = false
  go : s.head.busy = true
  code : s.head.mboxReq.toNat % 256 = code

/-- Every code, listed or not, can be asked for, whatever stands in the log. -/
theorem asked_code (code : BitVec 8) (log : List LogEntry) :
    Asked { State.reset with self := .module, head := { step := 5, busy := true, mboxReq := code.setWidth 512, log } }
      code.toNat := by
  refine ⟨rfl, rfl, rfl, rfl, ?_⟩
  change (code.setWidth 512).toNat % 256 = code.toNat
  rw [BitVec.toNat_setWidth]
  omega

section

variable {s : State} {code : Nat}

/-- A request that is asked for ends with the effect and the STATUS that its meaning gives. -/
theorem mbox_of_asked (h : Asked s code) {f : State × Nat} {t : State} {status : Nat} (hf : f = (t, status)) :
    mbox s code f = .next (mboxDone t status) := by
  obtain ⟨hturn, hlive, hserved, hgo, hcode⟩ := h
  have hasked : mboxCode s = code := (field_low 7).trans hcode
  rw [mbox, onModule_run hturn, hf]
  simp [hlive, hserved, hgo, hasked]

theorem measured_of_room (hroom : logFull s = false) (asid : BitVec 16) (f : State → State) :
    measured s asid f =
      (f (extendMr s 3 asid (Config.measureAddr s.tick) (sha512 (toBytes 64 s.head.mboxReq.toNat))), 0) := by
  rw [measured, hroom]
  rfl

theorem measured_of_full (hfull : logFull s = true) (asid : BitVec 16) (f : State → State) : measured s asid f = (s, 2) := by
  rw [measured, if_pos hfull]

/-! ### ASIDSET (R309, 10_faults_modes.md R212) -/

theorem asidset_of_bad_descriptor {asid : BitVec 16} {pa : Nat} (h : Asked s 1) (hpa : pa + 128 ≤ 2 ^ 47)
    (hbad : descOk (readMem s (hostBase + pa) 128) = false) : exec (.asidset asid pa) s = .next (mboxDone s 2) :=
  mbox_of_asked h ((if_neg (Nat.not_lt.2 hpa)).trans (if_pos hbad))

theorem asidset_of_descriptor {asid : BitVec 16} {pa : Nat} (h : Asked s 1) (hroom : logFull s = false) (hpa : pa + 128 ≤ 2 ^ 47)
    (hok : descOk (readMem s (hostBase + pa) 128) = true) :
    let b := readMem s (hostBase + pa) 128
    let put := extendMr s 3 asid (Config.measureAddr s.tick) (sha512 (toBytes 64 s.head.mboxReq.toNat))
    exec (.asidset asid pa) s = .next (mboxDone (writeMem put (descAddr put asid) (toBytes 8 (imgAt b 0 8 / 2 * 2 + 1) ++ b.drop 8)) 0) :=
  mbox_of_asked h ((if_neg (Nat.not_lt.2 hpa)).trans ((if_neg (by simp [hok])).trans (measured_of_room hroom asid _)))

/-! ### HANDLER (R309, R311, 08_assayers.md R175) -/

/-- The slices that a HANDLER request names. -/
def handlerSlices (r : HandlerReq) : List Nat :=
  ((List.range 64).filter (fun i => r.mask.getLsbD i)).map (fun i => 64 * r.die.toNat + i)

/-- The images of a HANDLER request fit the windows that its words name. -/
def ImagesFit (r : HandlerReq) : Prop :=
  r.imem.length ≤ 1024 * ((r.words.getD 1 0).toNat / 2 ^ 5 % 64) ∧ r.dmem.length ≤ 256 * ((r.words.getD 1 0).toNat / 2 ^ 17 % 128)

/-- All named slices after the check of R175, once the entry has been placed on each of them and its images measured into MR1. -/
def handlerChecked (s : State) (r : HandlerReq) : State :=
  let u := (handlerSlices r).foldl (fun s i => placeHandler s i r.entry.toNat r) s
  (handlerSlices r).foldl (fun s i => validateEntry s i r.entry.toNat)
    (extendMr u 1 ((r.words.getD 0 0).extractLsb' 16 16) (Config.measureAddr u.tick) (sha512 (r.imem ++ r.dmem)))

theorem not_images_exceed {r : HandlerReq} (hfit : ImagesFit r) :
    ¬ (1024 * field (r.words.getD 1 0) 10 5 < r.imem.length ∨ 256 * field (r.words.getD 1 0) 23 17 < r.dmem.length) := by
  rw [field_eq_div_mod, field_eq_div_mod]
  exact not_or.2 ⟨Nat.not_lt.2 hfit.1, Nat.not_lt.2 hfit.2⟩

theorem handler_of_room {r : HandlerReq} (h : Asked s 2) (hroom : logFull s = false) (hfit : ImagesFit r) :
    exec (.handler r) s = .next
      (if (handlerSlices r).all (fun i => entryValid (handlerChecked s r) i r.entry.toNat) = true then mboxDone (handlerChecked s r) 0
       else mboxDone ((handlerSlices r).foldl (fun s i => clearEntry s i r.entry.toNat) (handlerChecked s r)) 2) := by
  have hroom' : ¬ logFull s = true := by simp [hroom]
  split
  case isTrue hall =>
    exact mbox_of_asked h ((if_neg (not_images_exceed hfit)).trans ((if_neg hroom').trans (if_pos hall)))
  case isFalse hsome =>
    exact mbox_of_asked h ((if_neg (not_images_exceed hfit)).trans ((if_neg hroom').trans (if_neg hsome)))

theorem handler_of_full {r : HandlerReq} (h : Asked s 2) (hfull : logFull s = true) (hfit : ImagesFit r) :
    exec (.handler r) s = .next (mboxDone ((handlerSlices r).foldl (fun s i => refuseEntry s i r.entry.toNat) s) 2) :=
  mbox_of_asked h ((if_neg (not_images_exceed hfit)).trans (if_pos hfull))

/-! ### Codes that are not listed -/

theorem unlistedCode_eq {c : BitVec 8} (hunlisted : c = 0 ∨ 9 < c.toNat) (h : Asked s c.toNat) :
    exec (.mailboxUnlistedCode c) s = .next (mboxDone s 1) := by
  have hnone : ¬ (1 ≤ c.toNat ∧ c.toNat ≤ 9) := by
    rcases hunlisted with rfl | hbig
    · decide
    · omega
  exact (if_neg hnone).trans (mbox_of_asked h rfl)

end

/-- Settles O53: each request by the rule about its code. A full log that leaves a HANDLER's slices with ERR is log 121, the
operands that the step carries are log 147, and what is hashed is log 77. -/
theorem mailboxRequests : Obligations.MailboxRequests := by
  intro s hturn hlive hserved hgo asks put
  have asked {code : Nat} (h : asks code) : Asked s code := ⟨hturn, hlive, hserved, hgo, h⟩
  refine ⟨fun hroom => ⟨?access, ?aperture, ?route, ?asidset, ?badDescriptor, ?handler, ?reset⟩,
    fun hfull => ⟨?routeFull, ?apertureFull, ?resetFull, ?handlerFull⟩, ?attest, ?module, ?release, ?releaseEarly, ?unlisted, ?done⟩
  case access =>
    intro t m entry ht h
    exact mbox_of_asked (asked h) ((if_neg (Nat.not_le.2 ht)).trans (measured_of_room hroom 0 _))
  case aperture => exact fun a entry h => mbox_of_asked (asked h) (measured_of_room hroom 0 _)
  case route => exact fun m mask h => mbox_of_asked (asked h) (measured_of_room hroom 0 _)
  case asidset => exact fun asid pa h hpa hok => asidset_of_descriptor (asked h) hroom hpa hok
  case badDescriptor => exact fun asid pa h hpa hbad => asidset_of_bad_descriptor (asked h) hpa hbad
  case handler => exact fun r h himem hdmem => handler_of_room (asked h) hroom ⟨himem, hdmem⟩
  case reset => exact fun h => mbox_of_asked (asked h) (if_neg (by simp [hroom]))
  case routeFull => exact fun m mask h => mbox_of_asked (asked h) (measured_of_full hfull 0 _)
  case apertureFull => exact fun a entry h => mbox_of_asked (asked h) (measured_of_full hfull 0 _)
  case resetFull => exact fun h => mbox_of_asked (asked h) (if_pos hfull)
  case handlerFull => exact fun r h himem hdmem => handler_of_full (asked h) hfull ⟨himem, hdmem⟩
  case attest => exact fun nonce pa h hpa => mbox_of_asked (asked h) (if_neg (Nat.not_lt.2 hpa))
  case module => exact fun m h hearly => mbox_of_asked (asked h) (if_pos hearly)
  case release => exact fun h hhold => mbox_of_asked (asked h) (if_pos hhold)
  case releaseEarly => exact fun h hfree => mbox_of_asked (asked h) (if_neg (by simp [hfree]))
  case unlisted => exact fun c hunlisted h => unlistedCode_eq hunlisted (asked h)
  case done => exact fun v => ⟨rfl, rfl, rfl⟩

end Sys2Proof.Machine
end

section
/-!
Resets, bring-up, task types and the control registers (14_system.md R300, R305, R310, R313, R314, 11_scheduling.md R246): what
a cold reset leaves alone, each step of bring-up, the rules on a task type, and who writes and reads which register.
-/
namespace Sys2Proof

/-- Of a table from which the keys outside p are dropped, the others read as before. -/
theorem Map.get_filter_key {β : Type} (d : β) (m : Map β) (p : Nat → Bool) (k : Nat) :
    Map.get d (m.filter (fun e => p e.1)) k = if p k = true then Map.get d m k else d := by
  induction m with
  | nil => simp
  | cons e t ih =>
    obtain ⟨a, v⟩ := e
    by_cases ha : p a = true
    · rw [List.filter_cons, if_pos ha, Map.get, Map.get, ih]
      by_cases hak : a = k
      · rw [if_pos hak, if_pos hak, if_pos (hak ▸ ha)]
      · rw [if_neg hak, if_neg hak]
    · rw [List.filter_cons, if_neg ha, ih, Map.get]
      by_cases hak : a = k
      · rw [if_neg (hak ▸ ha), if_neg (hak ▸ ha)]
      · rw [if_neg hak]

end Sys2Proof

namespace Sys2Proof.Machine

open Sys2Proof

/-! ### The state of reset (R313) -/

/-- Settles O59: no byte of memory is listed, and every thread and core stands at its reset value. -/
theorem resetIsSafe : Obligations.ResetIsSafe :=
  by
  have hstatus : statusLegal 1 = true := by decide
  have hflags : flagsLegal 0 = true := by decide
  exact ⟨Map.wf_nil 0, fun _ => hstatus, fun _ => hflags⟩

/-- A cold reset keeps the host's memory and other modules', and what is none of the stacks' or the tiles'. -/
theorem readByte_cold (s : State) {x : Nat} (hx : x < 0x8000000000 ∨ hostBase ≤ x) : readByte s.cold x = readByte s x :=
  (Map.get_filter_key 0 s.mem (fun a => decide (a < 0x8000000000 ∨ hostBase ≤ a)) x).trans (if_pos (decide_eq_true hx))

/-! ### Bring-up (R313) -/

/-- Bring-up goes on: step 7 has not completed, and neither a hold, nor recovery, nor a failure stops it. -/
theorem bringupStep_eq {s : State} (hturn : s.self = .module) (hstep : s.head.step < 7) (hfree : s.head.holding = false)
    (hserved : s.head.recovery = false) (hgood : s.head.failure = none) (c : Option (BitVec 32)) :
    exec (.bringupStep c) s = .next (c.elim (bringup s (s.head.step + 1)) (stepFails s)) := by
  have hgoes : ¬ (7 ≤ s.head.step ∨ s.head.holding = true ∨ s.head.recovery = true ∨ s.head.failure.isSome = true) := by
    simp [Nat.not_le.2 hstep, hfree, hserved, hgood]
  refine (onModule_run hturn _).trans ((if_neg hgoes).trans ?_)
  cases c <;> rfl

/-- Step 3 clears the stacks. -/
theorem readByte_bringup_three (s : State) {x : Nat} (hx : x < 0x8000000000) : readByte (bringup s 3) x = 0 :=
  (Map.get_filter_key 0 s.mem (fun a => decide (0x8000000000 ≤ a)) x).trans
    (if_neg (by rw [decide_eq_true_eq]; omega))

/-! ### Register writes and reads (R300, R304, R305, R310) -/

section

variable {s : State} {w : RegWrite}

theorem registerWrite_of_headframe (hturn : s.self = .module) (hal : w.offset % 8 = 0) (hmaster : w.master = 1008)
    (hsome : regBlock w.offset ≠ .unassigned) : exec (.registerWrite w) s = .next (writeBlock s (regBlock w.offset) w.value) :=
  (onModule_run hturn _).trans ((if_neg (not_not.2 hal)).trans ((if_pos hmaster).trans (congrArg _ (if_neg hsome))))

/-- The host's write to a block that it reaches is performed where it may write, and refused and logged elsewhere. -/
theorem registerWrite_of_host (hturn : s.self = .module) (hal : w.offset % 8 = 0) (hmaster : w.master = 1016)
    (hreach : hostReaches s (regBlock w.offset) = true) :
    exec (.registerWrite w) s = if hostMayWrite (regBlock w.offset) = true then .next (writeBlock s (regBlock w.offset) w.value)
      else .next (refuseReg s 1016 w.offset Kind.write.denial) := by
  have hother : w.master ≠ 1008 := by rw [hmaster]; decide
  exact (onModule_run hturn _).trans ((if_neg (not_not.2 hal)).trans ((if_neg hother).trans (if_pos ⟨hmaster, hreach⟩)))

theorem readRegister_of_headframe (s : State) {off : Nat} (hal : off % 8 = 0) :
    readRegister s 1008 off = (s, readBlockWord s (regBlock off)) :=
  (if_neg (not_not.2 hal)).trans (if_pos rfl)

/-- The host's read of a block that it reaches answers the word that stands there, or is refused and logged. -/
theorem readRegister_of_host {off : Nat} (hal : off % 8 = 0) (hreach : hostReaches s (regBlock off) = true) :
    readRegister s 1016 off =
      if hostMayRead (regBlock off) = true ∧ (readBlockWord s (regBlock off)).isSome = true then (s, readBlockWord s (regBlock off))
      else (deny s (blockTarget (regBlock off)) 1016 (regsBase + off) Kind.read.denial, none) :=
  (if_neg (not_not.2 hal)).trans ((if_neg (by decide)).trans (if_pos ⟨rfl, hreach⟩))

theorem hostReaches_of_served (hserved : s.head.recovery = false) (b : RegBlock) : hostReaches s b = true ↔ 5 ≤ s.head.step := by
  unfold hostReaches
  rw [hserved, if_neg Bool.false_ne_true, exposed, decide_eq_true_eq]

theorem hostReaches_of_recovery (hrec : s.head.recovery = true) (b : RegBlock) :
    hostReaches s b = true ↔ ∃ off, b = .pithead off ∧ (off < 0x50 ∨ (0x1000 ≤ off ∧ off < 0x2000)) := by
  unfold hostReaches
  rw [if_pos hrec]
  cases b <;> simp

end

/-! ### What stands in a register (Tables 8.2, 11.1, 11.4) -/

/-- BUSY of a handler-table entry, and its reserved bits. -/
theorem readEntry_zero (s : State) (i n : Nat) :
    (readEntry s i n 0).getLsbD 7 = entryBusy s i n ∧ readEntry s i n 0 &&& 0xFFFFFFFF0000FF00 = 0 := by
  rw [readEntry, if_pos rfl, BitVec.and_or_distrib_right, BitVec.and_assoc]
  cases entryBusy s i n <;> simp

theorem readDesc_full (f : Foreman) (q : Nat) : (readDesc f q 3).getLsbD 5 = f.full := by
  rw [readDesc, if_pos rfl]
  cases f.full <;> simp

/-- POOLUSED stands above KEYOVF. -/
theorem readForemanReg_poolUsed (f : Foreman) (h : f.pool.length ≤ 1024) :
    (readForemanReg f 4).toNat / 2 ^ 10 % 2 ^ 11 = f.pool.length := by
  have hovf := f.keyOvf.toNat_le
  show (BitVec.ofNat 64 (f.pool.length * 2 ^ 10 + f.keyOvf.toNat)).toNat / 2 ^ 10 % 2 ^ 11 = f.pool.length
  rw [BitVec.toNat_ofNat]
  omega

theorem readBlockWord_slice (s : State) (i : Nat) {n : Nat} (hn : n < 16) :
    readBlockWord s (.slice i (128 * n)) = some (readEntry s i n 0) := by
  have hentry : 128 * n / 128 = n ∧ 128 * n % 128 / 8 = 0 := by omega
  rw [readBlockWord, readSlice, if_pos (by omega), hentry.1, hentry.2]

theorem readBlockWord_desc (s : State) (d : Nat) {q : Nat} (hq : q < 16) :
    readBlockWord s (.foreman d (32 * q + 24)) = some (readDesc (s.foreman d) q 3) := by
  have hword : (32 * q + 24) / 32 = q ∧ (32 * q + 24) % 32 / 8 = 3 := by omega
  rw [readBlockWord, readForeman, if_pos (by omega), hword.1, hword.2]

/-! ### Task types (11_scheduling.md R246) -/

section

variable {s : State} {d : Nat} {n : BitVec 10}

theorem taskTypeValid_eq (hturn : s.self = .foreman d) : exec (.taskTypeValid n) s = .next (validateType s d n.toNat) :=
  onForeman_run hturn _

/-- The rules on the fields of a task type. -/
def TypeFits (f : Foreman) (n : Nat) : Prop :=
  f.image n % 64 = 0 ∧ f.entryPc n % 4 = 0 ∧ 1 ≤ f.typeCage n ∧ f.typeCage n ≤ 64 ∧ f.scratch n ≤ 32

/-- A task type whose fields break a rule gets ERR. -/
theorem validateType_of_unfit {n : Nat} (hnew : (s.foreman d).typeValid n = false) (hunfit : ¬ TypeFits (s.foreman d) n) :
    validateType s d n = s.modForeman d (fun f => f.setType n 6 ((s.foreman d).typeWord n 6 ||| 4)) := by
  rw [validateType, hnew]
  exact (if_neg Bool.false_ne_true).trans (if_neg hunfit)

/-- A task type that keeps the rules becomes VALID once its image is measured into MR2. -/
theorem validateType_of_fits {n va : Nat} {bytes : List Byte} (hnew : (s.foreman d).typeValid n = false)
    (hfits : TypeFits (s.foreman d) n)
    (himage : imageAt s ((s.foreman d).typeAsid n) ((s.foreman d).image n) = some (va, bytes)) (hroom : logFull s = false) :
    validateType s d n = (extendMr s 2 ((s.foreman d).typeAsid n) (BitVec.ofNat 64 va) (sha512 bytes)).modForeman d
      (fun f => f.setType n 6 (((s.foreman d).typeWord n 6 &&& ~~~4) ||| 1)) := by
  rw [validateType, hnew, himage, hroom]
  exact (if_neg Bool.false_ne_true).trans ((if_pos hfits).trans (if_neg Bool.false_ne_true))

theorem typeValid_setType {f : Foreman} {n : Nat} (hn : n < 1024) (v : BitVec 64) :
    (f.setType n 6 v).typeValid n = v.getLsbD 0 := by
  rw [Foreman.typeValid, Foreman.typeWord, Foreman.setType, Map.get_set_same, decide_eq_true hn, Bool.true_and]

end

/-- Settles O54: each step, each register and each task type by the lemma about it. That a failed step raises vectors 3 and then
2 is log 149, what is hashed of a task type's image is log 77, and the host's denial at the pithead is log 60. -/
theorem resetAndRegisters : Obligations.ResetAndRegisters := by
  intro s hturn
  refine ⟨?cold, fun hstep hfree hserved hgood => ?bringup, fun hstops c => ?stopped, fun w hal => ?write, fun off hal => ?read,
    fun blk => ?reach, fun i n v hn hv => ?entry, fun d q v hq hv => ?full, fun d v hpool hv => ?used, fun u d n hu hnew => ?type⟩
  case cold => exact ⟨s.cold, onModule_run hturn _, rfl, rfl, rfl, rfl, rfl, rfl, rfl, fun x hx => readByte_cold s hx⟩
  case bringup =>
    have hrun := bringupStep_eq hturn hstep hfree hserved hgood
    refine ⟨fun c => hrun (some c), hrun none, fun htwo => ?_, fun hfour => ?_⟩
    · refine ⟨bringup s 3, by rw [hrun none, htwo]; rfl, rfl, fun x => readByte_bringup_three s⟩
    · exact ⟨bringup s 5, by rw [hrun none, hfour]; rfl, rfl, rfl⟩
  case stopped => exact (onModule_run hturn _).trans (if_pos hstops)
  case write =>
    refine ⟨registerWrite_of_headframe hturn hal, fun hmaster hreach hmay => ?_, fun hmaster hreach hmay => ?_⟩
    · rw [registerWrite_of_host hturn hal hmaster hreach, if_pos hmay]
    · rw [registerWrite_of_host hturn hal hmaster hreach, hmay, if_neg Bool.false_ne_true]
      rfl
  case read =>
    refine ⟨readRegister_of_headframe s hal, fun hreach hmay hsome => ?_, fun hreach hdenied => ?_⟩
    · rw [readRegister_of_host hal hreach, if_pos ⟨hmay, hsome⟩]
    · rw [readRegister_of_host hal hreach, if_neg]
      rintro ⟨hmay, hsome⟩
      rcases hdenied with hno | hnone
      · exact Bool.false_ne_true (hno.symm.trans hmay)
      · rw [hnone] at hsome
        exact Bool.false_ne_true hsome
  case reach => exact ⟨fun hserved => hostReaches_of_served hserved blk, fun hrec => hostReaches_of_recovery hrec blk⟩
  case entry =>
    rw [readBlockWord_slice s i hn] at hv
    exact Option.some.inj hv ▸ readEntry_zero s i n
  case full =>
    rw [readBlockWord_desc s d hq] at hv
    exact Option.some.inj hv ▸ readDesc_full _ q
  case used => exact Option.some.inj hv ▸ readForemanReg_poolUsed _ hpool
  case type =>
    refine ⟨fun hbad => ?_, fun va bytes himage hpc hcage hcage64 hscratch hbytes hroom => ?_⟩
    · have hunfit : ¬ TypeFits (u.foreman d) n.toNat := by
        rintro ⟨himage, -, hcage, hcage64, -⟩
        omega
      exact (taskTypeValid_eq hu).trans (congrArg _ (validateType_of_unfit hnew hunfit))
    · refine ⟨_, (taskTypeValid_eq hu).trans (congrArg _ (validateType_of_fits hnew ⟨himage, hpc, hcage, hcage64, hscratch⟩
        hbytes hroom)), ?_, ?_⟩
      · rw [State.modForeman_foreman_same, typeValid_setType n.isLt]
        simp
      · exact Map.get_set_same 0 _ 2 _

end Sys2Proof.Machine
end

section
/-!
The register instructions of the control thread (15_ref_a_c.md R316 to R318, 16_ref_d_l.md R348, 18_ref_s.md R395): numbers
and bits of the values that the model forms, said once for each way of forming one, and from these the result of each form.
-/
namespace Sys2Proof.Machine

open Sys2Proof

/-! ### Running a register instruction -/

section

variable {s : State} {k : Nat}

theorem aluRR_run (hs : s.self = .thread k) (d a b : BitVec 5) (f : Word → Word → Word) :
    aluRR s d a b f = .next (retire (wg s k d (f (rg s k a) (rg s k b))) k) := onThread_run s k _ hs

theorem aluR_run (hs : s.self = .thread k) (d a : BitVec 5) (f : Word → Word) :
    aluR s d a f = .next (retire (wg s k d (f (rg s k a))) k) := onThread_run s k _ hs

/-- An instruction whose fields are within their limits does what it means. -/
theorem threadOp_legal {i : Instr} {f : Nat → Res} (hs : s.self = .thread k) (hi : threadOk i = true) : threadOp i s f = f k := by
  rw [threadOp, onThread_run s k _ hs, hi]
  rfl

end

/-! ### Integers and words (04_formats.md Table 4.6) -/

/-- The low bits of a number as an integer are a word's, sign-extended. -/
theorem ofInt_sextN (w v n : Nat) : BitVec.ofInt w (sextN v n) = (BitVec.ofNat n v).signExtend w := by
  rw [BitVec.signExtend, BitVec.toInt_eq_toNat_cond, BitVec.toNat_ofNat]
  rfl

theorem sextBytes_toNat (x : Word) (n : Nat) : sextBytes n x.toNat = (x.truncate (8 * n)).signExtend 64 := by
  rw [sextBytes, wrap, ofInt_sextN, BitVec.ofNat_toNat]

theorem zextBytes_toNat (x : Word) (n : Nat) : zextBytes n x.toNat = (x.truncate (8 * n)).zeroExtend 64 := by
  apply BitVec.eq_of_toNat_eq
  simp [zextBytes]

theorem sshiftRight_eq_ofInt (x : Word) (n : Nat) : x.sshiftRight n = BitVec.ofInt 64 (x.toInt / 2 ^ n) := by
  rw [BitVec.sshiftRight, Int.shiftRight_eq_div_pow]
  rfl

theorem wrap_tdiv (x y : Word) : wrap 64 (Int.tdiv x.toInt y.toInt) = x.sdiv y :=
  BitVec.eq_of_toInt_eq (by rw [wrap, BitVec.toInt_ofInt, BitVec.toInt_sdiv])

theorem wrap_tmod (x y : Word) : wrap 64 (Int.tmod x.toInt y.toInt) = x.srem y := by
  rw [wrap, ← BitVec.toInt_srem, BitVec.ofInt_toInt]

/-- The high half of a word of 128 bits, from its number as an integer. -/
theorem ofInt_fdiv_eq_extract (p : BitVec 128) : BitVec.ofInt 64 (p.toInt.fdiv (2 ^ 64)) = p.extractLsb' 64 64 := by
  apply BitVec.eq_of_toNat_eq
  have hp := p.isLt
  rw [Int.fdiv_eq_ediv_of_nonneg _ (by decide), BitVec.toNat_ofInt, BitVec.extractLsb'_toNat, Nat.shiftRight_eq_div_pow,
    BitVec.toInt_eq_toNat_cond]
  split <;> omega

/-- The product of two words as integers is the product of the words made 128 bits wide. -/
theorem toInt_mul_signExtend (x y : Word) : (x.signExtend 128 * y.signExtend 128).toInt = x.toInt * y.toInt := by
  have hx := BitVec.toInt_lt (x := x)
  have hx' := BitVec.le_toInt x
  have hy := BitVec.toInt_lt (x := y)
  have hy' := BitVec.le_toInt y
  rw [BitVec.toInt_mul, BitVec.toInt_signExtend_of_le (by decide), BitVec.toInt_signExtend_of_le (by decide)]
  have hbound : |x.toInt * y.toInt| ≤ 2 ^ 63 * 2 ^ 63 := by
    rw [abs_mul]
    exact mul_le_mul (abs_le.2 ⟨by simpa using hx', by simpa using hx.le⟩) (abs_le.2 ⟨by simpa using hy', by simpa using hy.le⟩)
      (abs_nonneg _) (by decide)
  obtain ⟨hlo, hhi⟩ := abs_le.1 hbound
  exact Int.bmod_eq_of_le (by norm_num at hlo ⊢; omega) (by norm_num at hhi ⊢; omega)

theorem wrap_mulh (x y : Word) :
    wrap 64 (Int.fdiv (x.toInt * y.toInt) (2 ^ 64)) = (x.signExtend 128 * y.signExtend 128).extractLsb' 64 64 := by
  rw [wrap, ← toInt_mul_signExtend, ofInt_fdiv_eq_extract]

theorem quotS_eq (x y : Word) : quotS x y = if y = 0 then BitVec.allOnes 64 else x.sdiv y := by rw [quotS, wrap_tdiv]

theorem quotU_eq (x y : Word) : quotU x y = if y = 0 then BitVec.allOnes 64 else x / y := by
  rw [quotU, ← BitVec.toNat_udiv, BitVec.ofNat_toNat, BitVec.setWidth_eq]

theorem remU_eq (x y : Word) : remU x y = if y = 0 then x else x % y := by
  rw [remU, ← BitVec.toNat_umod, BitVec.ofNat_toNat, BitVec.setWidth_eq]

theorem remS_eq (x y : Word) : remS x y = if y = 0 then x else x.srem y := by rw [remS, wrap_tmod]

/-! ### Counts of bits (R316, 17_ref_m_r.md R378) -/

/-- The leading zeros stand above the highest bit that is set. -/
theorem leadZeros_spec (n x : Nat) (hx : x < 2 ^ n) :
    leadZeros n x ≤ n ∧ x < 2 ^ (n - leadZeros n x) ∧ (leadZeros n x < n → 2 ^ (n - 1 - leadZeros n x) ≤ x) := by
  rw [leadZeros]
  split
  case isTrue h => simp [h]
  case isFalse h =>
    have hlog : x.log2 < n := (Nat.log2_lt h).2 hx
    refine ⟨by omega, ?_, fun _ => ?_⟩
    · rw [show n - (n - 1 - x.log2) = x.log2 + 1 by omega]
      exact Nat.lt_log2_self
    · rw [show n - 1 - (n - 1 - x.log2) = x.log2 by omega]
      exact Nat.log2_self_le h

theorem popCount_eq_countP (n x : Nat) : popCount n x = (List.range n).countP (fun i => x.testBit i) := by
  induction n generalizing x with
  | zero => rfl
  | succ n ih =>
    rw [popCount, ih, List.range_succ_eq_map, List.countP_cons, List.countP_map, Nat.add_comm]
    simp [Function.comp_def, Nat.testBit_succ, Nat.testBit_zero]
    rcases Nat.mod_two_eq_zero_or_one x with h | h <;> simp [h]

/-! ### Bits put into a word (R327, R367) -/

/-- The low w bits of a word, moved up by lo. -/
theorem fieldMask_getLsbD (lo w : Nat) {j : Nat} (hj : j < 64) :
    (BitVec.ofNat 64 (2 ^ w - 1) <<< lo).getLsbD j = decide (lo ≤ j ∧ j < lo + w) := by
  rw [BitVec.getLsbD_shiftLeft, BitVec.getLsbD_ofNat, Nat.testBit_two_pow_sub_one, Bool.eq_iff_iff]
  simp only [Bool.and_eq_true, Bool.not_eq_true', decide_eq_true_eq, decide_eq_false_iff_not]
  omega

/-- The bits of a word after a field of it has been replaced. -/
theorem insertBits_getLsbD (x v : Word) (lo w : Nat) {j : Nat} (hj : j < 64) :
    (insertBits x v lo w).getLsbD j = if lo ≤ j ∧ j < lo + w then v.getLsbD (j - lo) else x.getLsbD j := by
  rw [insertBits, BitVec.getLsbD_or, BitVec.getLsbD_and, BitVec.getLsbD_and, BitVec.getLsbD_not, fieldMask_getLsbD lo w hj,
    BitVec.getLsbD_shiftLeft]
  by_cases h : lo ≤ j ∧ j < lo + w
  · simp [h, hj, Nat.not_lt.2 h.1]
  · simp [h, hj]

/-- Settles O1: a form with two sources is `aluRR` of its function, one with a single source `aluR`; what is left is that
each function's integers are the words that the rule names. -/
theorem aluResults : Obligations.AluResults := by
  refine ⟨fun d a b s k hs => ?two, fun d a w s k hs => ?one⟩
  case two =>
    have run (f : Word → Word → Word) := aluRR_run hs d a b f
    refine ⟨run (· + ·), run (· - ·), run (· * ·), (run (fun x y => wrap 64 (Int.fdiv (x.toInt * y.toInt) (2 ^ 64)))).trans ?mulh, (run quotS).trans ?div, (run quotU).trans ?divu, (run remS).trans ?rem,
      (run remU).trans ?remu, run (· &&& ·), run (· ||| ·), run (· ^^^ ·), run (fun x y => x <<< (y.toNat % 64)),
      run (fun x y => x >>> (y.toNat % 64)), (run (fun x y => x.sshiftRight (y.toNat % 64))).trans ?sar,
      (run (fun x y => if x.sle y then x else y)).trans ?min, (run (fun x y => if x.sle y then y else x)).trans ?max,
      (run (fun x y => if x.ule y then x else y)).trans ?minu, (run (fun x y => if x.ule y then y else x)).trans ?maxu,
      run (fun x y => (Float.gen (x.extractLsb' 0 32) y).zeroExtend 64), onThread_run s k _ hs⟩
    case mulh => rw [wrap_mulh]
    case div => rw [quotS_eq]
    case divu => rw [quotU_eq]
    case rem => rw [remS_eq]
    case remu => rw [remU_eq]
    case sar => rw [sshiftRight_eq_ofInt]
    case min | max => simp only [BitVec.sle_iff_toInt_le]
    case minu | maxu => simp only [BitVec.ule_iff_toNat_le]
  case one =>
    dsimp only
    obtain ⟨hle, hlt, hbit⟩ := leadZeros_spec 64 (rg s k a).toNat (rg s k a).isLt
    refine ⟨⟨_, hle, aluR_run hs d a (fun x => BitVec.ofNat 64 (leadZeros 64 x.toNat)), hlt, hbit⟩,
      (aluR_run hs d a (fun x => BitVec.ofNat 64 (popCount 64 x.toNat))).trans ?popc, ?byte, ?half, ?word⟩
    case popc => rw [popCount_eq_countP]; rfl
    all_goals
      rintro rfl
      exact ⟨(threadOp_legal hs rfl).trans (congrArg (setG s k d) (sextBytes_toNat _ _)),
        (threadOp_legal hs rfl).trans (congrArg (setG s k d) (zextBytes_toNat _ _))⟩

/-! ### Immediates, bit fields and command registers (R317, R318, R327, 17_ref_m_r.md R391) -/

/-- The bits of an unsigned field of a word. -/
theorem fieldBits_getLsbD (x : Word) (p n : Nat) {j : Nat} (hj : j < 64) :
    (BitVec.ofNat 64 (x.toNat / 2 ^ p % 2 ^ n)).getLsbD j = (decide (j < n) && x.getLsbD (p + j)) := by
  rw [BitVec.getLsbD_ofNat, decide_eq_true hj, Bool.true_and, Nat.testBit_mod_two_pow, Nat.testBit_div_two_pow, Nat.add_comm]
  rfl

/-- The bits of a signed field of a word: past its end its last bit goes on. -/
theorem signedFieldBits_getLsbD (x : Word) (p w : Nat) {j : Nat} (hj : j < 64) :
    (wrap 64 (sextN (x.toNat / 2 ^ p % 2 ^ (w + 1)) (w + 1))).getLsbD j = x.getLsbD (p + Nat.min j w) := by
  have bit (i : Nat) (hi : i < w + 1) : (BitVec.ofNat (w + 1) (x.toNat / 2 ^ p % 2 ^ (w + 1))).getLsbD i = x.getLsbD (p + i) := by
    rw [BitVec.getLsbD_ofNat, decide_eq_true hi, Bool.true_and, Nat.testBit_mod_two_pow, decide_eq_true hi, Bool.true_and,
      Nat.testBit_div_two_pow, Nat.add_comm]
    rfl
  rw [wrap, ofInt_sextN, BitVec.getLsbD_signExtend, decide_eq_true hj, Bool.true_and]
  split
  case isTrue h => rw [bit j h, show j.min w = j from Nat.min_eq_left (by omega)]
  case isFalse h => rw [BitVec.msb_eq_getLsbD_last, Nat.add_sub_cancel, bit w (by omega), show j.min w = w from Nat.min_eq_right (by omega)]

/-- Settles O2: the whole-word forms are `aluR` of their function, and the bit fields are read bit by bit. -/
theorem immediateResults : Obligations.ImmediateResults := by
  intro d a b c i n p w h o s k hs
  dsimp only
  refine ⟨aluR_run hs d a (· ||| i.zeroExtend 64), aluR_run hs d a (· ^^^ i.zeroExtend 64), aluR_run hs d a (· <<< n.toNat),
    aluR_run hs d a (· >>> n.toNat), (aluR_run hs d a (fun x => x.sshiftRight n.toNat)).trans ?sari, ⟨_,
      aluR_run hs d d (fun x => insertBits x (i.zeroExtend 64) (16 * h.toNat) 16), fun j hj => ?lih⟩, onThread_run s k _ hs,
    onThread_run s k _ hs, fun hfit => ?fields⟩
  case sari => rw [sshiftRight_eq_ofInt]
  case lih =>
    rw [insertBits_getLsbD _ _ _ _ hj]
    simp only [BitVec.getLsbD_setWidth, show j - 16 * h.toNat < 64 by omega, decide_true, Bool.true_and]
  case fields =>
    have hok : fieldFits p w = true := decide_eq_true hfit
    refine ⟨⟨_, threadOp_legal hs hok, fun j hj => ?_⟩, ⟨_, threadOp_legal hs hok, fun j hj => ?_⟩,
      ⟨_, threadOp_legal hs hok, fun j hj => ?_⟩⟩
    · rw [if_neg (by decide), fieldBits_getLsbD _ _ _ hj]
      simp only [Nat.lt_succ_iff]
    · rw [if_pos rfl, signedFieldBits_getLsbD _ _ _ hj]
    · rw [insertBits_getLsbD _ _ _ _ hj]
      simp only [show j < p.toNat + (w.toNat + 1) ↔ j ≤ p.toNat + w.toNat by omega]

theorem toNat_append_add {m n : Nat} (x : BitVec m) (y : BitVec n) : (x ++ y).toNat = x.toNat * 2 ^ n + y.toNat := by
  rw [BitVec.toNat_append, ← Nat.shiftLeft_add_eq_or_of_lt y.isLt, Nat.shiftLeft_eq]

/-- Settles O3: the word is its fields side by side, and each form is `aluR` of its function. -/
theorem addiAndiWordAndResult : Obligations.AddiAndiWordAndResult := by
  intro d a i s k hs
  refine ⟨congrArg some ?addi, congrArg some ?andi, aluR_run hs d a (· + sextW i), aluR_run hs d a (· &&& i.zeroExtend 64)⟩
  all_goals
    simp only [toNat_append_add]
    simp
    omega

/-- Settles O4: the word is its fields side by side, the decoder tests the low byte of the major, and the result is the
predicate's choice. -/
theorem selWordAndResult : Obligations.SelWordAndResult := by
  intro d a b p s k hs
  refine ⟨congrArg some ?word, fun w hmajor hlow => ?reserved, onThread_run s k _ hs⟩
  case word =>
    simp only [toNat_append_add]
    simp
    omega
  case reserved =>
    rw [decodeThread, hmajor]
    exact if_neg hlow

/-- The two compares under a condition that is listed. -/
theorem compare_run {s : State} {k : Nat} {c : BitVec 4} {a : BitVec 5} {v : Word → Bool} (hs : s.self = .thread k)
    (hc : condListed c = true) (hv : ∀ y, holds c (rg s k a) y = v y) (p : BitVec 3) (b : BitVec 5) (i : BitVec 14) :
    exec (.cmpCc p a b c) s = .next (retire (wp s k p (v (rg s k b))) k) ∧
    exec (.cmpiCc p a c i) s = .next (retire (wp s k p (v (cmpImm c i))) k) := by
  rw [← hv, ← hv]
  exact ⟨threadOp_legal hs hc, threadOp_legal hs hc⟩

/-- Settles O5: each condition is the comparison of the words, or of their numbers, that Table 15.4 names. -/
theorem predicateResults : Obligations.PredicateResults := by
  intro p q r a b i s k hs
  have cmp {c : BitVec 4} {v : Word → Bool} (hc : condListed c = true) (hv : ∀ y, holds c (rg s k a) y = v y) :=
    compare_run hs hc hv p b i
  exact ⟨cmp rfl fun _ => rfl, cmp rfl fun _ => rfl, cmp rfl fun _ => rfl, cmp rfl fun _ => rfl, cmp rfl fun _ => rfl,
    cmp rfl fun _ => rfl, cmp rfl fun _ => rfl, cmp rfl fun _ => rfl, cmp rfl fun _ => rfl, cmp rfl fun _ => rfl,
    onThread_run s k _ hs, onThread_run s k _ hs, onThread_run s k _ hs⟩

theorem setHalf_getLsbD (q : QWord) (h : BitVec 1) (v : Word) {j : Nat} (hj : j < 128) : (setHalf q h v).getLsbD j =
    if 64 * h.toNat ≤ j ∧ j < 64 * h.toNat + 64 then v.getLsbD (j - 64 * h.toNat) else q.getLsbD j := by
  rw [setHalf]
  split
  case isTrue h0 =>
    subst h0
    rw [BitVec.getLsbD_append]
    by_cases hlow : j < 64
    · simp [hlow]
    · simp [hlow, show j - 64 < 64 by omega, show 64 + (j - 64) = j by omega]
  case isFalse h0 =>
    rw [(BitVec.eq_zero_or_eq_one h).resolve_left h0, BitVec.getLsbD_append]
    by_cases hlow : j < 64
    · simp [hlow, Nat.not_le.2 hlow]
    · simp [hlow, hj, Nat.not_lt.1 hlow]

theorem setChunk_getLsbD (q : QWord) (c : BitVec 3) (v : BitVec 16) {j : Nat} (hj : j < 128) : (setChunk q c v).getLsbD j =
    if 16 * c.toNat ≤ j ∧ j < 16 * c.toNat + 16 then v.getLsbD (j - 16 * c.toNat) else q.getLsbD j := by
  have hmask (i : Nat) : (0xFFFF : QWord).getLsbD i = decide (i < 16) := by
    rw [show (0xFFFF : QWord) = BitVec.ofNat 128 (2 ^ 16 - 1) from rfl, BitVec.getLsbD_ofNat, Nat.testBit_two_pow_sub_one]
    by_cases h : i < 16 <;> simp [h]
    omega
  rw [setChunk, BitVec.getLsbD_or, BitVec.getLsbD_and, BitVec.getLsbD_not, BitVec.getLsbD_shiftLeft, BitVec.getLsbD_shiftLeft,
    hmask, BitVec.getLsbD_setWidth]
  by_cases hlo : 16 * c.toNat ≤ j
  · by_cases hhi : j < 16 * c.toNat + 16
    · simp [hlo, hhi, hj, Nat.not_lt.2 hlo, show j - 16 * c.toNat < 16 by omega, show j - 16 * c.toNat < 128 by omega]
    · simp [hlo, hhi, hj, Nat.not_lt.2 hlo, show ¬ j - 16 * c.toNat < 16 by omega, show 16 ≤ j - 16 * c.toNat by omega]
  · simp [hlo, hj, Nat.not_le.1 hlo]

/-- Settles O6: the words are their fields side by side, and a write puts its half or chunk in place. -/
theorem commandRegisterWrites : Obligations.CommandRegisterWrites := by
  intro q r c a h i s k hs
  refine ⟨congrArg some ?qset, congrArg some ?qseti, congrArg some ?qmov,
    ⟨_, onThread_run s k _ hs, fun j hj => setHalf_getLsbD _ h _ hj⟩,
    ⟨_, onThread_run s k _ hs, fun j hj => setChunk_getLsbD _ c i hj⟩, onThread_run s k _ hs⟩
  all_goals
    simp only [toNat_append_add]
    simp
    omega

/-! ### Branches, jumps and traps (15_ref_a_c.md R329, 16_ref_d_l.md R361, R368, 18_ref_s.md R417) -/

theorem branch_eq {n : Nat} (s : State) (k : Nat) (b : Bool) (o : BitVec n) : branch s k b o =
    if b then .next (retireTo s k (pcOf s k + 4 * o.signExtend 64)) else .next (retire s k) := by
  cases b <;> rfl

/-- Settles O8: a branch goes to its label where its predicate or condition holds, and the jumps always. -/
theorem branchesAndJumps : Obligations.BranchesAndJumps := by
  intro d a b c p o12 o20 o21 i s k hs
  refine ⟨fun hc => ?brCc,
    (onThread_run s k _ hs).trans (branch_eq s k _ _), (onThread_run s k _ hs).trans ((branch_eq s k _ _).trans ?bpn),
    onThread_run s k _ hs, onThread_run s k _ hs, (onThread_run s k _ hs).trans (ite_not ..),
    fun hmin hmax => ?loop⟩
  case brCc =>
    have hok : condListed c = true := decide_eq_true (by omega)
    exact (threadOp_legal (i := .brCc a b c o12) hs hok).trans (branch_eq s k _ _)
  case bpn => cases rp s k p <;> rfl
  case loop =>
    have hok : loopFits o12 = true := decide_eq_true ⟨hmin, hmax⟩
    exact threadOp_legal hs hok

theorem sysretStatus_bits (st : Word) : (sysretStatus st).getLsbD 0 = st.getLsbD 1 ∧ (sysretStatus st).getLsbD 3 = st.getLsbD 4 ∧
    (sysretStatus st).getLsbD 7 = false := by
  cases hppriv : st.getLsbD 1 <;> cases hpaie : st.getLsbD 4
  all_goals
    rw [sysretStatus, hppriv, hpaie]
    simp

theorem wordOf_take (d : BitVec 5) : wordOf (.take d) = BitVec.ofNat 64 (0xB0000000 + d.toNat * 2 ^ 21) := by
  apply BitVec.eq_of_toNat_eq
  have hd := d.isLt
  show (BitVec.zeroExtend 64 (44#6 ++ d ++ 0#21)).toNat = _
  rw [BitVec.toNat_setWidth, toNat_append_add, toNat_append_add]
  simp
  omega

/-- Settles O22: TRAP and BKPT are their faults, and SYSRET and TAKE look at PRIV first. -/
theorem trapBkptSysret : Obligations.TrapBkptSysret := by
  intro i d s k hs
  refine ⟨onThread_run s k _ hs, onThread_run s k _ hs, fun hpriv => ⟨_, (onThread_run s k _ hs).trans (if_pos hpriv),
    onlyThread_modThread s k _, ?_⟩, fun huser => ?user⟩
  · rw [returnFromTrap, State.modThread_thread_same]
    obtain ⟨hpriv', haie, hintrap⟩ := sysretStatus_bits (s.thread k).status
    exact ⟨rfl, hpriv', haie, hintrap, rfl, rfl⟩
  case user =>
    have hno : ¬ isPriv s k = true := by rw [huser]; exact Bool.false_ne_true
    rw [← wordOf_take]
    exact ⟨(onThread_run s k _ hs).trans (if_neg hno), (onThread_run s k _ hs).trans (if_pos huser)⟩

end Sys2Proof.Machine
end

section
/-!
Accesses of the control thread (16_ref_d_l.md R365, R366, 15_ref_a_c.md R319, R324, R332, 18_ref_s.md R414, R415): what an
access answers once it reaches its home and what a store does at its place, and from these each loading, storing and atomic
form.
-/
namespace Sys2Proof.Machine

open Sys2Proof

/-! ### Numbers in memory (00_scope.md R2) -/

theorem ofBytes_lt (l : List Byte) : ofBytes l < 2 ^ (8 * l.length) := by
  induction l with
  | nil => decide
  | cons b l ih =>
    have hb := b.isLt
    rw [ofBytes, List.length_cons, Nat.mul_succ, Nat.pow_add, Nat.mul_comm]
    omega

theorem readNat_lt (s : State) (key n : Nat) : readNat s key n < 2 ^ (8 * n) := by
  have h := ofBytes_lt (readMem s key n)
  rwa [readMem, List.length_map, List.length_range] at h

theorem ofBytes_map_range (f : Nat → Byte) (n : Nat) :
    ofBytes ((List.range n).map f) = ((List.range n).map (fun i => (f i).toNat * 256 ^ i)).sum := by
  induction n generalizing f with
  | zero => rfl
  | succ n ih =>
    rw [List.range_succ_eq_map, List.map_cons, List.map_map, List.map_cons, List.map_map, List.sum_cons, ofBytes, ih,
      ← List.sum_map_mul_left]
    simp only [Function.comp_def, Nat.pow_succ, pow_zero, Nat.mul_one]
    congr 3
    funext i
    ring

/-- A number in memory is the sum of its bytes, the lowest first. -/
theorem readNat_eq_sum (s : State) (key n : Nat) :
    readNat s key n = ((List.range n).map (fun i => (readByte s (key + i)).toNat * 256 ^ i)).sum := ofBytes_map_range _ n

theorem toBytes_eq_map (n v : Nat) : toBytes n v = (List.range n).map (fun i => BitVec.ofNat 8 (v / 256 ^ i)) := by
  induction n generalizing v with
  | zero => rfl
  | succ n ih =>
    rw [toBytes, ih, List.range_succ_eq_map, List.map_cons, List.map_map]
    simp only [pow_zero, Nat.div_one, Function.comp_def, Nat.pow_succ', Nat.div_div_eq_div_mul]

theorem cellsOf_eq_map (n v : Nat) : cellsOf n v = (List.range n).map (fun i => some (BitVec.ofNat 8 (v / 256 ^ i))) := by
  rw [cellsOf, toBytes_eq_map, List.map_map]
  rfl

theorem zextBytes_readNat (s : State) (key n : Nat) : zextBytes n (readNat s key n) = BitVec.ofNat 64 (readNat s key n) := by
  rw [zextBytes, Nat.mod_eq_of_lt (readNat_lt s key n)]

/-! ### What an answered access leaves as it was -/

section

variable {s t : State}

theorem tagsOnly.threads (h : tagsOnly s t) : t.threads = s.threads := by
  unfold tagsOnly at h
  rw [h]

theorem rg_congr (h : t.threads = s.threads) (k : Nat) (r : BitVec 5) : rg t k r = rg s k r := by
  rw [rg, rg, State.thread, State.thread, h]

theorem rq_congr (h : t.threads = s.threads) (k : Nat) (r : BitVec 3) : rq t k r = rq s k r := by
  rw [rq, rq, State.thread, State.thread, h]

theorem readNat_congr (h : t.mem = s.mem) (key n : Nat) : readNat t key n = readNat s key n := by
  simp only [readNat, readMem, readByte, h]

variable {k n key : Nat} {va : Word} {kd : Kind}

theorem tagsOnly_of_reaches (h : reaches s k va n kd t key) : tagsOnly s t := answeredAccessChangesTagsOnly s t k va n kd key h

theorem rg_of_reaches (h : reaches s k va n kd t key) (r : BitVec 5) : rg t k r = rg s k r :=
  rg_congr (tagsOnly_of_reaches h).threads k r

theorem readNat_of_reaches (h : reaches s k va n kd t key) (a m : Nat) : readNat t a m = readNat s a m :=
  readNat_congr (tagsOnly_of_reaches h).mem a m

/-! ### The answer of an access (R366, R319) -/

theorem accessAt_misaligned (h : va.toNat % n ≠ 0) (f : State → Nat → Res) :
    accessAt s k va n kd f = .next (raise s k fcALIGN va) := if_pos h

theorem storeAt_misaligned (h : va.toNat % n ≠ 0) (cells : List (Option Byte)) :
    storeAt s k va n cells = .next (raise s k fcALIGN va) := if_pos h

/-- An access that reaches its home is answered there. -/
theorem accessAt_reaches (h : reaches s k va n kd t key) (f : State → Nat → Res) : accessAt s k va n kd f = f t key := by
  obtain ⟨hal, s0, w, s1, pa, seam, p, hwalk, hloc, hplace, hbehind, hahead, hreach⟩ := h
  rw [accessAt]
  simp only [hal, ne_eq, not_true_eq_false, if_false, hwalk, hloc, hplace, hbehind, hahead, Bool.or_self, Bool.false_eq_true, hreach]

theorem releaseAt_released {sc : Nat} (h : released s k sc = true) (f : Res) : releaseAt s k sc f = f := if_pos h

theorem releaseAt_waits {sc : Nat} (h : released s k sc = false) (f : Res) : releaseAt s k sc f = waitAt s k false := by
  rw [releaseAt, h]
  rfl

theorem atomicAt_released {r sc : BitVec 2} (h : r.getLsbD 1 = true → released s k sc.toNat = true) (f : State → Nat → Res) :
    atomicAt s k sc r va n f = accessAt s k va n .atomic f := by
  have hgo : (orderReleases r && !released s k sc.toNat) = false := by
    cases hr : orderReleases r with
    | false => rfl
    | true => rw [h hr]; rfl
  rw [atomicAt, hgo, if_neg Bool.false_ne_true]

end

/-- Settles O11: an access that reaches its home is answered with the number that its bytes make. -/
theorem loadsGiveTheBytes : Obligations.LoadsGiveTheBytes := by
  intro d a z sc q o o12 s s' k key hs n value
  have hvalue {va : Word} {m : Nat} (h : reaches s k va m .read s' key) : readNat s' key m = value m := by
    rw [readNat_of_reaches h, readNat_eq_sum]
  have hload {va : Word} {m : Nat} (h : reaches s k va m .read s' key) (f : State → Nat → Res) :
      loadAt s k va m f = f s' (value m) := by rw [loadAt, accessAt_reaches h, hvalue h]
  refine ⟨fun h => ⟨(onThread_run s k _ hs).trans (hload h _), (onThread_run s k _ hs).trans ((hload h _).trans ?_)⟩,
    fun h => (onThread_run s k _ hs).trans (hload h _), fun h => (onThread_run s k _ hs).trans (hload h _)⟩
  have hz := zextBytes_readNat s' key n
  rw [hvalue h] at hz
  exact congrArg (setG s' k d) hz

/-! ### Atomics (R319, R332) -/

/-- The new values of Table 13.4, code by code. -/
theorem amoNew_eq (op : BitVec 3) (n old y : Nat) : amoNew op n old y =
    if op = 0 then y else if op = 1 then (old + y) % 2 ^ (8 * n) else if op = 2 then old &&& y else if op = 3 then old ||| y
    else if op = 4 then old ^^^ y else if op = 5 then (if sextN old (8 * n) ≤ sextN y (8 * n) then old else y)
    else if op = 6 then (if sextN old (8 * n) ≤ sextN y (8 * n) then y else old) else (if old ≤ y then y else old) := by
  have hop : ∀ op : BitVec 3, op = 0 ∨ op = 1 ∨ op = 2 ∨ op = 3 ∨ op = 4 ∨ op = 5 ∨ op = 6 ∨ op = 7 := by decide
  rcases hop op with rfl | rfl | rfl | rfl | rfl | rfl | rfl | rfl <;> rfl

/-- Settles O14: both forms are answered at the home, where the old value is read and the new one written. -/
theorem atomicsReadChangeWrite : Obligations.AtomicsReadChangeWrite := by
  intro d a b op sc r z s s' k key hs hrel n hreach old y new
  have hat (f : State → Nat → Res) : atomicAt s k sc r (rg s k a) n f = f s' key :=
    (atomicAt_released hrel f).trans (accessAt_reaches hreach f)
  refine ⟨(onThread_run s k _ hs).trans ((hat _).trans ?amo), (onThread_run s k _ hs).trans ((hat _).trans ?cas)⟩
  case amo =>
    dsimp only
    rw [rg_of_reaches hreach, amoNew_eq, show amoSize z = n from rfl, zextBytes_readNat]
    rfl
  case cas =>
    dsimp only
    rw [rg_of_reaches hreach, rg_of_reaches hreach]
    rfl

/-! ### Barrier objects (R324, R325) -/

/-- ARV at the current phase, of an object that expects threads. -/
theorem barArrive_arv {b : BarObj} {d : Word} (hexp : b.expect ≠ 0) (hd : d.toNat = b.phase) : barArrive b d false =
    some (if b.arrived + 1 = b.expect then ⟨(b.phase + 1) % 2 ^ 64, b.expect, 0⟩ else ⟨b.phase, b.expect, b.arrived + 1⟩,
      BitVec.ofNat 64 (b.phase + 1)) := by
  simp only [barArrive, hexp, hd, ne_eq, not_true_eq_false, or_self, if_false, Bool.false_eq_true, barSettle]

/-- DRP at the current phase. -/
theorem barArrive_drp {b : BarObj} {d : Word} (hexp : b.expect ≠ 0) (hd : d.toNat = b.phase) : barArrive b d true =
    some (if b.arrived = b.expect - 1 then ⟨(b.phase + 1) % 2 ^ 64, b.expect - 1, 0⟩ else ⟨b.phase, b.expect - 1, b.arrived⟩,
      BitVec.allOnes 64) := by
  simp only [barArrive, hexp, hd, ne_eq, not_true_eq_false, or_self, if_false, if_true, barSettle]

theorem barArrive_refused {b : BarObj} {d : Word} (h : b.expect = 0 ∨ d.toNat ≠ b.phase) (drop : Bool) :
    barArrive b d drop = none := if_pos h

/-- Settles O18: each form is answered at the object, and ARV and DRP go by `barArrive` of it. -/
theorem barrierObjectsCount : Obligations.BarrierObjectsCount := by
  intro d a b s s' k key hs hreach phase expect arrived write
  refine ⟨fun hrel => ?releasing, fun hph => ?wait⟩
  case releasing =>
    have hat (f : State → Nat → Res) : onThread s (fun k => barAt s k a f) = f s' key := by
      rw [onThread_run s k _ hs, barAt, releaseAt_released hrel, accessAt_reaches hreach]
    have harrive (drop : Bool) : onThread s (fun k => barAt s k a (fun s key => barArriveAt s k d key drop)) =
        barArriveAt s' k d key drop := by
      rw [onThread_run s k _ hs, barAt, releaseAt_released hrel, accessAt_reaches hreach]
    refine ⟨fun hpos hlt => ?init, fun hout => ?badInit, fun hexp hd => ⟨?arv, ?drp⟩, fun hbad => ⟨?badArv, ?badDrp⟩⟩
    case init =>
      refine ((onThread_run s k _ hs).trans ((releaseAt_released hrel _).trans (accessAt_reaches hreach _))).trans ?_
      rw [rg_of_reaches hreach]
      exact if_neg (by omega)
    case badInit =>
      refine ((onThread_run s k _ hs).trans ((releaseAt_released hrel _).trans (accessAt_reaches hreach _))).trans ?_
      rw [rg_of_reaches hreach]
      exact if_pos hout
    case arv =>
      refine (harrive false).trans ?_
      rw [barArriveAt, barArrive_arv hexp (by rw [rg_of_reaches hreach]; exact hd)]
      dsimp only [setG]
      rw [apply_ite barCells, apply_ite (perform s' key)]
      rfl
    case drp =>
      refine (harrive true).trans ?_
      rw [barArriveAt, barArrive_drp hexp (by rw [rg_of_reaches hreach]; exact hd)]
      dsimp only [setG]
      rw [apply_ite barCells, apply_ite (perform s' key)]
      rfl
    case badArv | badDrp =>
      refine (harrive _).trans ?_
      rw [barArriveAt, barArrive_refused (by rw [rg_of_reaches hreach]; exact hbad)]
  case wait =>
    refine ((onThread_run s k _ hs).trans (accessAt_reaches hreach _)).trans ?_
    rw [rg_of_reaches hreach]
    exact if_neg (Nat.not_le.2 hph)

/-! ### Stores (R414, R415, 07_consistency.md R155) -/

section

variable {s s0 s1 s2 : State} {k n pa key w : Nat} {va : Word} {p : Place} {seam : Bool}

/-- A store away from the memory tiles leaves toward its home, unless one of its bytes is being loaded. -/
theorem storeAt_leaves (h : storePlace s k va n s1 pa p)
    (hfree : (s1.thread k).loads.any (fun l => decide (l.pa < pa + n ∧ pa < l.pa + l.n)) = false)
    (haway : isTileHome p.home = false) (cells : List (Option Byte)) : storeAt s k va n cells = .next (retire { s1 with
      egress := s1.egress ++ [{ id := s1.nextId, core := k, sid := none, cmdId := none, asid := (s1.thread k).asid,
                                va := va.toNat, pa, cells, pc := pcOf s1 k, left := false }]
      nextId := s1.nextId + 1 } k) := by
  obtain ⟨hal, s0, w, seam, hwalk, hloc, hplace⟩ := h
  rw [storeAt]
  simp only [hal, ne_eq, not_true_eq_false, if_false, hwalk, hloc, hplace, hfree, haway, Bool.or_self, Bool.and_false, Bool.false_eq_true]

/-- A store that a memory tile permits, behind no earlier access of its own to the same bytes, lands there at once. -/
theorem storeAt_lands (h : storePlace s k va n s1 pa p) (hahead : ownAhead s1 k pa n = false) (htile : isTileHome p.home = true)
    (hreach : reach s1 pa n .write (threadOrigin s1 k va) = .ready s2 key) (cells : List (Option Byte)) :
    storeAt s k va n cells = .next (retire (perform s2 key cells) k) := by
  obtain ⟨hal, s0, w, seam, hwalk, hloc, hplace⟩ := h
  rw [storeAt]
  simp only [hal, ne_eq, not_true_eq_false, if_false, hwalk, hloc, hplace, hahead, htile, Bool.false_and, Bool.false_eq_true, if_true,
    hreach]

/-- A store that a memory tile does not permit is refused. -/
theorem storeAt_tileRefuses {c : Code} (h : storePlace s k va n s1 pa p) (hahead : ownAhead s1 k pa n = false)
    (htile : isTileHome p.home = true) (hreach : reach s1 pa n .write (threadOrigin s1 k va) = .fault s2 c)
    (cells : List (Option Byte)) : storeAt s k va n cells = storeRefused s2 k va c := by
  obtain ⟨hal, s0, w, seam, hwalk, hloc, hplace⟩ := h
  rw [storeAt]
  simp only [hal, ne_eq, not_true_eq_false, if_false, hwalk, hloc, hplace, hahead, htile, Bool.false_and, Bool.false_eq_true, if_true,
    hreach]

/-- A store over Adit with no usable port is refused. -/
theorem storeAt_noPort (hal : va.toNat % n = 0) (hwalk : threadWalk s k va = .ready s0 w)
    (hloc : locate s0 k (s0.thread k).asid va.toNat .write true = (s1, .ok (pa, seam))) (hplace : placeOf s1 pa = .error fcLINK)
    (cells : List (Option Byte)) : storeAt s k va n cells = storeRefused s1 k va fcLINK := by
  rw [storeAt]
  simp only [hal, ne_eq, not_true_eq_false, if_false, hwalk, hloc, hplace, if_true]

end

/-- Settles O13: the three forms are `storeAt` of their bytes, STR once it is released. -/
theorem storesLandOrLeave : Obligations.StoresLandOrLeave := by
  intro g a q z sc o o12 s s1 s2 k pa key p hs n bytes leaves stores
  have hstores {va : Word} {m v : Nat} {i : Instr} (hi : exec i s = storeAt s k va m (cellsOf m v)) : stores va m v i := by
    rw [cellsOf_eq_map] at hi
    exact ⟨fun hplace => ⟨fun hfree haway => hi.trans (storeAt_leaves hplace hfree haway _),
      fun hahead htile hreach => hi.trans (storeAt_lands hplace hahead htile hreach _),
      fun c hahead htile hreach => hi.trans (storeAt_tileRefuses hplace hahead htile hreach _)⟩,
      fun s0 w seam hal hwalk hloc hport => hi.trans (storeAt_noPort hal hwalk hloc hport _)⟩
  refine ⟨hstores (onThread_run s k _ hs), hstores (onThread_run s k _ hs),
    fun hrel => hstores ((onThread_run s k _ hs).trans (releaseAt_released hrel _)),
    fun hheld => ⟨_, (onThread_run s k _ hs).trans (releaseAt_waits hheld _), rfl, rfl, ?_⟩⟩
  rw [pcOf, State.modThread_thread_same]
  rfl

/-- Settles O17: the size is the first thing that an access looks at, and a releasing form comes to it once it is released. -/
theorem misalignedAccessTraps : Obligations.MisalignedAccessTraps := by
  intro d a b q op z sc z1 o o12 s k hs traps va va12
  have hload {i : Instr} {x : Word} {n : Nat} {kd : Kind} {f : State → Nat → Res} (hi : exec i s = accessAt s k x n kd f) :
      traps x n i := fun hal => hi.trans (accessAt_misaligned hal f)
  have hstore {i : Instr} {x : Word} {n : Nat} {cells : List (Option Byte)} (hi : exec i s = storeAt s k x n cells) :
      traps x n i := fun hal => hi.trans (storeAt_misaligned hal cells)
  have hrun (f : Nat → Res) : onThread s f = f k := onThread_run s k f hs
  refine ⟨hload (hrun _), hload (hrun _), hload (hrun _), hload (hrun _), hstore (hrun _), hstore (hrun _), hload (hrun _),
    hload (hrun _), fun hrel => ?released, hload (hrun _)⟩
  have hbar {i : Instr} {x : BitVec 5} {f : State → Nat → Res} (hi : exec i s = barAt s k x f) : traps (rg s k x) 16 i :=
    hload (hi.trans (releaseAt_released hrel _))
  exact ⟨hbar (hrun _), hbar (hrun _), hbar (hrun _),
    fun hal => (hrun _).trans ((releaseAt_released hrel _).trans (if_pos hal))⟩

/-- Settles O19: the forms go on where they are released and have room, and stall otherwise. -/
theorem tokenFifosAndFence : Obligations.TokenFifosAndFence := by
  intro n d sc e rest s k hs
  have hrun (f : Nat → Res) : onThread s f = f k := onThread_run s k f hs
  refine ⟨fun hrel hroom hfirst => ?push, fun hrel hno => ?pushStalls, fun hno => ?popStalls, fun hhead hfirst => ?pop, fun l => ?read,
    fun hrel => (hrun _).trans (releaseAt_released hrel _)⟩
  case push =>
    have hgo : (fifoFull s k n.toNat || pushAhead s k n.toNat 6) = false := by
      rw [hfirst, Bool.or_false]
      exact decide_eq_false (by omega)
    exact (hrun _).trans ((releaseAt_released hrel _).trans (if_neg (by rw [hgo]; exact Bool.false_ne_true)))
  case pushStalls =>
    have hstall : (fifoFull s k n.toNat || pushAhead s k n.toNat 6) = true := by
      rw [Bool.or_eq_true]
      exact hno.imp_left (fun h => decide_eq_true h)
    exact (hrun _).trans ((releaseAt_released hrel _).trans (if_pos hstall))
  case popStalls =>
    refine (hrun _).trans ?_
    cases hfifo : fifo s k n.toNat with
    | nil => rfl
    | cons x l => exact if_pos (hno.resolve_left (by rw [hfifo]; exact List.cons_ne_nil x l))
  case pop =>
    refine (hrun _).trans ?_
    rw [hhead]
    exact if_neg (by rw [hfirst]; exact Bool.false_ne_true)
  case read =>
    rw [fifo, setFifo, State.modCore_core_same]
    exact Map.get_set_same _ _ _ _

/-! ### CSRs (15_ref_a_c.md R343) -/

section

variable {s : State} {k : Nat} {i : Instr} {c : BitVec 16} {new : Word → Word → Option Word} {a : BitVec 5}

/-- A CSR instruction that forms no new value writes none. -/
theorem csrOp_reads (hs : s.self = .thread k) (hi : threadOk i = true) (hnew : new (readCsr s k c) (rg s k a) = none) (d : BitVec 5) :
    csrOp i d c new a s = .next (retire (wg s k d (readCsr s k c)) k) := by
  simp only [csrOp, threadOp_legal hs hi, hnew]
  rfl

/-- A CSR instruction writes a new value that the thread's mode lets it write. -/
theorem csrOp_writes {v : Word} (hs : s.self = .thread k) (hi : threadOk i = true) (hnew : new (readCsr s k c) (rg s k a) = some v)
    (hmay : isPriv s k = true ∨ csrPriv c (readCsr s k c) v = false) (d : BitVec 5) :
    csrOp i d c new a s = .next (writeCsr (retire (wg s k d (readCsr s k c)) k) k c v) := by
  simp only [csrOp, threadOp_legal hs hi, hnew]
  refine if_neg ?_
  rintro ⟨huser, hpriv⟩
  rcases hmay with h | h
  · exact Bool.false_ne_true (huser.symm.trans h)
  · exact Bool.false_ne_true (h.symm.trans hpriv)

/-- A CSR instruction that may not write raises PRIV. -/
theorem csrOp_refused {v : Word} (hs : s.self = .thread k) (hi : threadOk i = true) (hnew : new (readCsr s k c) (rg s k a) = some v)
    (huser : isPriv s k = false) (hpriv : csrPriv c (readCsr s k c) v = true) (d : BitVec 5) :
    csrOp i d c new a s = .next (raise s k fcPRIV (wordOf i)) := by
  simp only [csrOp, threadOp_legal hs hi, hnew]
  exact if_pos ⟨huser, hpriv⟩

end

theorem statusWrite_handler (old v : Word) : (old &&& ~~~statusWrite ||| v &&& statusWrite).getLsbD 7 = old.getLsbD 7 := by
  simp [statusWrite]

/-- Settles O24: CSRR reads, and the three others write what they form where the mode lets them. -/
theorem csrReadsAndWrites : Obligations.CsrReadsAndWrites := by
  intro d a c s k hs hc old write
  have hset : exec (.csrs d a c) s = csrOp (.csrs d a c) d c (fun old v => if a = 0 then none else some (old ||| v)) a s := rfl
  have hclear : exec (.csrc d a c) s = csrOp (.csrc d a c) d c (fun old v => if a = 0 then none else some (old &&& ~~~v)) a s := rfl
  have hwrite : exec (.csrw d a c) s = csrOp (.csrw d a c) d c (fun _ v => some v) a s := rfl
  have hwriteOk : threadOk (.csrw d a c) = true := hc
  have hsetOk : threadOk (.csrs d a c) = true := hc
  have hclearOk : threadOk (.csrc d a c) = true := hc
  refine ⟨csrOp_reads (i := .csrr d c) (new := fun _ _ => none) (a := 0) hs hc rfl d,
    fun hmay => hwrite.trans (csrOp_writes hs hwriteOk rfl hmay d),
    fun ha hmay => hset.trans (csrOp_writes hs hsetOk (if_neg ha) hmay d),
    fun ha hmay => hclear.trans (csrOp_writes hs hclearOk (if_neg ha) hmay d),
    fun ha => ⟨hset.trans (csrOp_reads hs hsetOk (if_pos ha) d), hclear.trans (csrOp_reads hs hclearOk (if_pos ha) d)⟩,
    fun huser hpriv => hwrite.trans (csrOp_refused hs hwriteOk rfl huser hpriv d),
    fun v => ⟨?tvec, ?epc, ?eval, ?flags, ?status⟩⟩
  case tvec => exact congrArg Thread.tvec (State.modThread_thread_same s k _)
  case epc => exact congrArg Thread.epc (State.modThread_thread_same s k _)
  case eval => exact congrArg Thread.eval (State.modThread_thread_same s k _)
  case flags => exact congrArg Core.flags (State.modCore_core_same s k _)
  case status =>
    rw [show readCsr (writeCsr s k 0x010 v) k 0x010 = (s.thread k).status &&& ~~~statusWrite ||| v &&& statusWrite from
      congrArg Thread.status (State.modThread_thread_same s k _), statusWrite_handler]

end Sys2Proof.Machine
end

section
/-!
What an access of the control thread leaves alone however it ends (06_memory.md R137, 10_faults_modes.md R215, R216, R236,
14_system.md R304): answered, waiting or refused, it changes caches, slices, links, denial logs and fetches alone. From this,
what a loading or storing form can do, and the bytes and registers that the storing forms leave alone.
-/
namespace Sys2Proof.Machine

open Sys2Proof

/-- s and t differ in nothing but what an access changes on its way, whether or not it is answered. -/
def onlyWay (s t : State) : Prop :=
  t = { s with tcaches := t.tcaches, slices := t.slices, resent := t.resent, head := t.head, denials := t.denials, fetches := t.fetches }

/-- The state in which an access has been answered, waits or has met a fault. -/
def Acc.state : Acc → State
  | .ready s _ => s
  | .wait s => s
  | .fault s _ => s

section

variable {s t u : State}

theorem onlyWay_refl (s : State) : onlyWay s s := rfl

theorem onlyWay.trans (hst : onlyWay s t) (htu : onlyWay t u) : onlyWay s u := by
  unfold onlyWay at *
  rw [htu, hst]

theorem onlyWay.mem (h : onlyWay s t) : t.mem = s.mem := by rw [h]

theorem onlyWay.threads (h : onlyWay s t) : t.threads = s.threads := by rw [h]

theorem onlyWay.cores (h : onlyWay s t) : t.cores = s.cores := by rw [h]

theorem onlySlices.onlyWay (h : onlySlices s t) : onlyWay s t := by
  unfold onlySlices at h
  rw [h]
  rfl

theorem tagsOnly.onlyWay (h : tagsOnly s t) : onlyWay s t := by
  unfold tagsOnly at h
  rw [h]
  rfl

theorem onlyWay_ite {c : Prop} [Decidable c] (ht : onlyWay s t) (hu : onlyWay s u) : onlyWay s (if c then t else u) := by
  split
  · exact ht
  · exact hu

end

/-! ### The way to the home and the access there -/

section

variable (s : State) (pa n : Nat) (kd : Kind)

theorem onlyWay_crossFrom (from_ to_ : Nat) : onlyWay s (crossFrom s from_ to_ pa).1 := (tagsOnly_crossFrom s from_ to_ pa).onlyWay

theorem onlyWay_targetCheck (master : Nat) : onlyWay s (targetCheck s master pa n kd).1 := by
  unfold targetCheck
  split
  case h_1 => split <;> rfl
  case h_2 =>
    split
    · dsimp only
      split <;> rfl
    · rfl
  case h_3 => split <;> rfl
  case h_4 =>
    split
    · split <;> rfl
    · rfl
  case h_5 => rfl

theorem onlyWay_checkOnce (o : Origin) : onlyWay s (checkOnce s pa n kd o).1 := by
  unfold checkOnce
  split
  · exact onlyWay_refl s
  · exact onlyWay_targetCheck s pa n kd o.master

theorem onlyWay_atHome (key : Nat) (o : Origin) : onlyWay s (atHome s key pa n kd o).state := by
  unfold atHome
  split
  case h_1 i _ =>
    have hline := (onlySlices_lineAccess s i (pa / 128) o).onlyWay
    split <;> rename_i hl <;> rw [hl] at hline
    · exact hline
    · exact hline
    · dsimp only
      split <;> exact hline
  case h_2 => dsimp only; split <;> exact onlyWay_refl s
  case h_3 =>
    dsimp only
    split
    · exact onlyWay_refl s
    · split
      · exact onlyWay_refl s
      · split <;> exact onlyWay_refl s

theorem onlyWay_reachHome (o : Origin) : onlyWay s (reachHome s pa n kd o).state := by
  unfold reachHome
  split
  · exact onlyWay_refl s
  · have hcheck := onlyWay_checkOnce s pa n kd o
    split <;> rename_i hc <;> rw [hc] at hcheck
    · exact hcheck
    · exact hcheck.trans (onlyWay_atHome _ pa n kd _ o)

theorem onlyWay_reach (o : Origin) : onlyWay s (reach s pa n kd o).state := by
  unfold reach
  split
  · exact onlyWay_refl s
  · rename_i p _
    split
    · exact onlyWay_atHome s pa n kd _ o
    · have hcross := onlyWay_crossFrom s pa (masterDie o.master) (homeDie p.home)
      split <;> rename_i hc
      · rw [show crossFrom s _ _ pa = _ from hc] at hcross
        exact hcross
      · rw [show crossFrom s _ _ pa = _ from hc] at hcross
        exact hcross.trans (onlyWay_reachHome _ pa n kd o)

/-! ### Translations -/

/-- The access table that a walker may meet, if any. -/
theorem onlyWay_walkerCheck (c : Nat) : onlyWay s (if (walkerMaster c).isSome then
    targetCheck s (ownOrigin ((walkerMaster c).getD (1024 + c))).master pa n kd else (s, none)).1 := by
  split
  · exact onlyWay_targetCheck s pa n kd _
  · exact onlyWay_refl s

theorem onlyWay_walkAccess (c : Nat) (full : Bool) : onlyWay s (walkAccess s c pa n kd full).state := by
  unfold walkAccess
  dsimp only
  split
  · exact onlyWay_refl s
  · rename_i p _
    split
    · exact onlyWay_atHome s pa n kd _ _
    · have hcross := onlyWay_crossFrom s pa (walkerDie c) (homeDie p.home)
      split <;> rename_i hc <;> rw [hc] at hcross
      · exact hcross
      · rename_i t
        have hcheck := onlyWay_walkerCheck t pa n kd c
        split <;> rename_i hk <;> rw [hk] at hcheck
        · exact hcross.trans hcheck
        · exact (hcross.trans hcheck).trans (onlyWay_atHome _ pa n kd _ _)

end

section

variable (s : State)

theorem onlyWay_walkAll (c : Nat) (l : List (Nat × Nat × Kind × Bool)) : onlyWay s (walkAll c l s).state := by
  induction l generalizing s with
  | nil => exact onlyWay_refl s
  | cons e rest ih =>
    obtain ⟨pa, n, kd, full⟩ := e
    have hfirst := onlyWay_walkAccess s pa n kd c full
    unfold walkAll
    split
    · rename_i t key h
      rw [h] at hfirst
      have hrest := hfirst.trans (ih t)
      split
      · rename_i u hw
        rw [hw] at hrest
        refine hrest.trans ?_
        dsimp only [Acc.state]
        split <;> rfl
      · exact hrest
    · exact hfirst

theorem onlyWay_walkFor (c : Nat) (asid : BitVec 16) (va : Nat) : onlyWay s (walkFor s c asid va).state := by
  unfold walkFor
  split
  · exact onlyWay_refl s
  · split
    · exact onlyWay_refl s
    · exact onlyWay_walkAll s c _

theorem onlyWay_threadWalk (k : Nat) (va : Word) : onlyWay s (threadWalk s k va).state := by
  unfold threadWalk
  split
  · exact onlyWay_refl s
  · exact onlyWay_walkFor s _ _ _

theorem onlyWay_postFetch (asid : BitVec 16) (va : Nat) : onlyWay s (postFetch s asid va) := by
  unfold postFetch
  dsimp only
  split
  · exact onlyWay_refl s
  · split <;> rfl

theorem onlyWay_translate (c : Nat) (asid : BitVec 16) (va : Nat) (kd : Kind) (post : Bool) :
    onlyWay s (translate s c asid va kd post).1 := by
  unfold translate
  split
  · exact onlyWay_refl s
  · split
    · split <;> exact onlyWay_refl s
    · split
      · rfl
      · exact onlyWay_ite (onlyWay_postFetch s asid va) (onlyWay_refl s)

theorem onlyWay_locate (k : Nat) (asid : BitVec 16) (va : Nat) (kd : Kind) (post : Bool) :
    onlyWay s (locate s k asid va kd post).1 := by
  unfold locate
  split
  · dsimp only
    split <;> exact onlyWay_refl s
  · have htr := onlyWay_translate s (cacheCore k) asid va kd post
    split <;> rename_i h <;> rw [h] at htr
    · exact htr
    · split <;> exact htr

end

/-! ### What an access and a store can do (R366, R415) -/

/-- r is what an access of core k's thread may answer: a fault or a wait of its own, or what follows at its home. -/
def accessOutcome (s : State) (k : Nat) (va : Word) (n : Nat) (kd : Kind) (f : State → Nat → Res) (r : Res) : Prop :=
  (∃ t c, onlyWay s t ∧ r = .next (raise t k c va)) ∨ (∃ t, onlyWay s t ∧ r = waitAt t k false) ∨
    ∃ t key, reaches s k va n kd t key ∧ r = f t key

theorem accessAt_outcome (s : State) (k : Nat) (va : Word) (n : Nat) (kd : Kind) (f : State → Nat → Res) :
    accessOutcome s k va n kd f (accessAt s k va n kd f) := by
  by_cases hal : va.toNat % n = 0
  case neg => exact .inl ⟨s, fcALIGN, onlyWay_refl s, accessAt_misaligned hal f⟩
  have hwalk := onlyWay_threadWalk s k va
  unfold accessAt
  rw [if_neg (not_not_intro hal)]
  split
  case h_1 t h => rw [h] at hwalk; exact .inr (.inl ⟨t, hwalk, rfl⟩)
  case h_2 t c h => rw [h] at hwalk; exact .inl ⟨t, c, hwalk, rfl⟩
  case h_3 s0 w h =>
    rw [h] at hwalk
    have hloc := hwalk.trans (onlyWay_locate s0 k (s0.thread k).asid va.toNat kd true)
    split
    case h_1 t c hl => rw [hl] at hloc; exact .inl ⟨t, c, hloc, rfl⟩
    case h_2 s1 pa seam hl =>
      rw [hl] at hloc
      split
      case h_1 c _ => exact .inl ⟨s1, c, hloc, rfl⟩
      case h_2 p hp =>
        by_cases hb : (behind s1 k p.home || ownAhead s1 k pa n) = true
        case pos => rw [if_pos hb]; exact .inr (.inl ⟨s1, hloc, rfl⟩)
        case neg =>
          rw [if_neg hb]
          have hreach := hloc.trans (onlyWay_reach s1 pa n kd (threadOrigin s1 k va))
          split
          case h_1 t c hr => rw [hr] at hreach; exact .inl ⟨t, c, hreach, rfl⟩
          case h_2 t hr => rw [hr] at hreach; exact .inr (.inl ⟨t, hreach, rfl⟩)
          case h_3 t key hr =>
            obtain ⟨hbehind, hahead⟩ := Bool.or_eq_false_iff.1 (Bool.eq_false_iff.2 hb)
            exact .inr (.inr ⟨t, key, ⟨hal, s0, w, s1, pa, seam, p, h, hl, hp, hbehind, hahead, hr⟩, rfl⟩)

/-- r is what a store of core k's thread may answer: a fault or a wait of its own, a refusal, a write at a memory tile, or a
write on its way. -/
def storeOutcome (s : State) (k : Nat) (va : Word) (n : Nat) (cells : List (Option Byte)) (r : Res) : Prop :=
  (∃ t c, onlyWay s t ∧ r = .next (raise t k c va)) ∨ (∃ t, onlyWay s t ∧ r = waitAt t k false) ∨
    (∃ t c, onlyWay s t ∧ r = storeRefused t k va c) ∨
    (∃ s1 pa p t key, storePlace s k va n s1 pa p ∧ isTileHome p.home = true ∧ reach s1 pa n .write (threadOrigin s1 k va) = .ready t key ∧
      onlyWay s t ∧ r = .next (retire (perform t key cells) k)) ∨
    ∃ t q, onlyWay s t ∧ r = .next (retire { t with egress := t.egress ++ [q], nextId := t.nextId + 1 } k)

theorem storeAt_outcome (s : State) (k : Nat) (va : Word) (n : Nat) (cells : List (Option Byte)) :
    storeOutcome s k va n cells (storeAt s k va n cells) := by
  by_cases hal : va.toNat % n = 0
  case neg => exact .inl ⟨s, fcALIGN, onlyWay_refl s, storeAt_misaligned hal cells⟩
  have hwalk := onlyWay_threadWalk s k va
  unfold storeAt
  rw [if_neg (not_not_intro hal)]
  split
  case h_1 t h => rw [h] at hwalk; exact .inr (.inl ⟨t, hwalk, rfl⟩)
  case h_2 t c h => rw [h] at hwalk; exact .inl ⟨t, c, hwalk, rfl⟩
  case h_3 s0 w h =>
    rw [h] at hwalk
    have hloc := hwalk.trans (onlyWay_locate s0 k (s0.thread k).asid va.toNat .write true)
    split
    case h_1 t c hl => rw [hl] at hloc; exact .inl ⟨t, c, hloc, rfl⟩
    case h_2 s1 pa seam hl =>
      rw [hl] at hloc
      split
      case h_1 c _ =>
        split
        · exact .inr (.inr (.inl ⟨s1, c, hloc, rfl⟩))
        · exact .inl ⟨s1, c, hloc, rfl⟩
      case h_2 p hp =>
        split
        case isTrue => exact .inr (.inl ⟨s1, hloc, rfl⟩)
        case isFalse =>
          split
          case isTrue htile =>
            have hreach := hloc.trans (onlyWay_reach s1 pa n .write (threadOrigin s1 k va))
            split
            case h_1 t key hr =>
              rw [hr] at hreach
              exact .inr (.inr (.inr (.inl ⟨s1, pa, p, t, key, ⟨hal, s0, w, seam, h, hl, hp⟩, htile, hr, hreach, rfl⟩)))
            case h_2 t hr => rw [hr] at hreach; exact .inr (.inl ⟨t, hreach, rfl⟩)
            case h_3 t c hr => rw [hr] at hreach; exact .inr (.inr (.inl ⟨t, c, hreach, rfl⟩))
          case isFalse => exact .inr (.inr (.inr (.inr ⟨s1, _, hloc, rfl⟩)))

/-! ### What a wait, a fault and a retirement keep -/

/-- t has the general registers of core k's thread and the bytes of s. -/
def keepsFile (s t : State) (k : Nat) : Prop := (∀ g, rg t k g = rg s k g) ∧ t.mem = s.mem

section

variable {s t u : State} {k : Nat}

theorem keepsFile_refl (s : State) (k : Nat) : keepsFile s s k := ⟨fun _ => rfl, rfl⟩

theorem keepsFile.trans (hst : keepsFile s t k) (htu : keepsFile t u k) : keepsFile s u k :=
  ⟨fun g => (htu.1 g).trans (hst.1 g), htu.2.trans hst.2⟩

theorem keepsFile.readByte (h : keepsFile s t k) (x : Nat) : Machine.readByte t x = Machine.readByte s x := by
  rw [Machine.readByte, h.2]
  rfl

theorem onlyWay.keepsFile (h : onlyWay s t) (k : Nat) : keepsFile s t k := ⟨rg_congr h.threads k, h.mem⟩

theorem keepsFile_modThread (s : State) (k : Nat) (f : Thread → Thread) (h : (f (s.thread k)).g = (s.thread k).g) :
    keepsFile s (s.modThread k f) k := ⟨fun r => rg_modThread s k r f h, rfl⟩

theorem keepsFile_retire (s : State) (k : Nat) : keepsFile s (retire s k) k := ⟨fun _ => rg_retireTo s k _ _, rfl⟩

theorem keepsFile_raise (h : inTrap s k = false) (c : Code) (v : Word) : keepsFile s (raise s k c v) k := by
  rw [raise_trap s k c v h]
  exact keepsFile_modThread s k _ rfl

theorem keepsFile_leaves (s : State) (k : Nat) (l : List Req) (n : Nat) : keepsFile s { s with egress := l, nextId := n } k := ⟨fun _ => rfl, rfl⟩

theorem keepsFile_pendFault (s : State) (k : Nat) (r : FRec) : keepsFile s (pendFault s r) k := ⟨fun _ => rfl, rfl⟩

theorem inTrap_congr (h : t.threads = s.threads) (k : Nat) : inTrap t k = inTrap s k := by
  rw [inTrap, inTrap, State.thread, State.thread, h]

theorem markDirty_threads (s : State) (i line : Nat) : (markDirty s i line).threads = s.threads := by
  unfold markDirty
  split
  · split <;> rfl
  · rfl

theorem perform_threads (s : State) (key : Nat) (cells : List (Option Byte)) : (perform s key cells).threads = s.threads := by
  unfold perform
  split
  · exact markDirty_threads _ _ _
  · rfl

theorem readByte_perform_of_outside (s : State) {key x : Nat} {cells : List (Option Byte)} (h : x < key ∨ key + cells.length ≤ x) :
    readByte (perform s key cells) x = readByte s x := by
  rw [readByte, perform_mem]
  exact readByte_writeCells_outside s key x cells h

end

/-! ### The frame of a store and of an atomic (R414, R415, R319, R325) -/

section

variable {s t : State} {k n : Nat} {va : Word}

/-- The place of a store is one. -/
theorem storePlace_unique {s1 s2 : State} {pa pa' : Nat} {p p' : Place} (h : storePlace s k va n s1 pa p)
    (h' : storePlace s k va n s2 pa' p') : s1 = s2 ∧ pa = pa' ∧ p = p' := by
  obtain ⟨-, s0, w, seam, hwalk, hloc, hplace⟩ := h
  obtain ⟨-, s0', w', seam', hwalk', hloc', hplace'⟩ := h'
  cases hwalk.symm.trans hwalk'
  cases hloc.symm.trans hloc'
  cases hplace.symm.trans hplace'
  exact ⟨rfl, rfl, rfl⟩

/-- An access reaches one place in memory, in one state. -/
theorem reaches_unique {kd : Kind} {u : State} {key key' : Nat} (h : reaches s k va n kd t key) (h' : reaches s k va n kd u key') :
    t = u ∧ key = key' := by
  obtain ⟨-, s0, w, s1, pa, seam, p, hwalk, hloc, -, -, -, hreach⟩ := h
  obtain ⟨-, s0', w', s1', pa', seam', p', hwalk', hloc', -, -, -, hreach'⟩ := h'
  cases hwalk.symm.trans hwalk'
  cases hloc.symm.trans hloc'
  cases hreach.symm.trans hreach'
  exact ⟨rfl, rfl⟩

/-- A store that goes on keeps the registers and the bytes, but for the cells that a memory tile has taken. -/
theorem storeAt_keeps (hout : inTrap s k = false) {cells : List (Option Byte)} (ht : storeAt s k va n cells = .next t) :
    keepsFile s t k ∨ ∃ s1 pa p u key, storePlace s k va n s1 pa p ∧ isTileHome p.home = true ∧
      reach s1 pa n .write (threadOrigin s1 k va) = .ready u key ∧ (∀ g, rg t k g = rg s k g) ∧
      ∀ x, (x < key ∨ key + cells.length ≤ x) → readByte t x = readByte s x := by
  obtain ⟨u, c, hway, h⟩ | ⟨u, hway, h⟩ | ⟨u, c, hway, h⟩ | ⟨s1, pa, p, u, key, hplace, htile, hreach, hway, h⟩ | ⟨u, q, hway, h⟩ :=
    storeAt_outcome s k va n cells
  all_goals cases ht.symm.trans h
  · exact .inl ((hway.keepsFile k).trans (keepsFile_raise ((inTrap_congr hway.threads k).trans hout) c va))
  · exact .inl ((hway.keepsFile k).trans (keepsFile_modThread u k _ rfl))
  · exact .inl ((hway.keepsFile k).trans ((keepsFile_pendFault u k _).trans (keepsFile_retire _ k)))
  · refine .inr ⟨s1, pa, p, u, key, hplace, htile, hreach, fun g => ?_, fun x hx => ?_⟩
    · rw [(keepsFile_retire _ k).1 g, rg_congr (perform_threads u key cells), (hway.keepsFile k).1 g]
    · rw [(keepsFile_retire _ k).readByte x, readByte_perform_of_outside u hx, (hway.keepsFile k).readByte x]
  · exact .inl ((hway.keepsFile k).trans ((keepsFile_leaves u k _ _).trans (keepsFile_retire _ k)))

/-- What an atomic does at its home, where it goes on: dst alone of the registers, and n bytes from the key on. -/
def atomicWrites (u : State) (k key n : Nat) (dst : Option (BitVec 5)) (t : State) : Prop :=
  (∀ g, dst ≠ some g → rg t k g = rg u k g) ∧ ∀ x, (x < key ∨ key + n ≤ x) → readByte t x = readByte u x

theorem keepsFile.atomicWrites {u : State} (h : keepsFile u t k) (key n : Nat) (dst : Option (BitVec 5)) : atomicWrites u k key n dst t :=
  ⟨fun g _ => h.1 g, fun x _ => h.readByte x⟩

theorem atomicWrites_perform (u : State) (k key n : Nat) (dst : Option (BitVec 5)) {cells : List (Option Byte)}
    (hlen : cells.length = n) : atomicWrites u k key n dst (perform u key cells) :=
  ⟨fun g _ => rg_congr (perform_threads u key cells) k g, fun _ hx => readByte_perform_of_outside u (by rwa [hlen])⟩

theorem atomicWrites_ite {u t1 t2 : State} {key : Nat} {dst : Option (BitVec 5)} {c : Prop} [Decidable c]
    (h1 : atomicWrites u k key n dst t1) (h2 : atomicWrites u k key n dst t2) : atomicWrites u k key n dst (if c then t1 else t2) := by
  split
  · exact h1
  · exact h2

/-- The result goes to the destination, and the instruction retires. -/
theorem atomicWrites.setG {u w : State} {key : Nat} {d : BitVec 5} (h : atomicWrites u k key n (some d) w) (v : Word) :
    atomicWrites u k key n (some d) (retire (wg w k d v) k) := by
  have hwg : (wg w k d v).mem = w.mem := by
    unfold wg
    split <;> rfl
  refine ⟨fun g hg => ?_, fun x hx => ?_⟩
  · rw [(keepsFile_retire _ k).1 g, rg_wg_ne _ _ _ (fun hd => hg (congrArg some hd)), h.1 g hg]
  · rw [(keepsFile_retire _ k).readByte x, readByte, hwg]
    exact h.2 x hx

theorem atomicWrites.retire {u w : State} {key : Nat} {dst : Option (BitVec 5)} (h : atomicWrites u k key n dst w) :
    atomicWrites u k key n dst (retire w k) :=
  ⟨fun g hg => ((keepsFile_retire w k).1 g).trans (h.1 g hg), fun x hx => ((keepsFile_retire w k).readByte x).trans (h.2 x hx)⟩

/-- An access that goes on keeps the registers and the bytes, or has done at its home what f does there. -/
theorem accessAt_keeps (hout : inTrap s k = false) {kd : Kind} {f : State → Nat → Res} (ht : accessAt s k va n kd f = .next t) :
    keepsFile s t k ∨ ∃ u key, reaches s k va n kd u key ∧ f u key = .next t := by
  obtain ⟨u, c, hway, h⟩ | ⟨u, hway, h⟩ | ⟨u, key, hreach, h⟩ := accessAt_outcome s k va n kd f
  · cases ht.symm.trans h
    exact .inl ((hway.keepsFile k).trans (keepsFile_raise ((inTrap_congr hway.threads k).trans hout) c va))
  · cases ht.symm.trans h
    exact .inl ((hway.keepsFile k).trans (keepsFile_modThread u k _ rfl))
  · exact .inr ⟨u, key, hreach, h.symm.trans ht⟩

theorem waitAt_keeps {edge : Bool} (ht : waitAt s k edge = .next t) : keepsFile s t k := by
  cases ht
  exact keepsFile_modThread s k _ rfl

end

theorem cellsOf_length (n v : Nat) : (cellsOf n v).length = n := by rw [cellsOf, List.length_map, toBytes_length]

theorem barCells_length (b : BarObj) : (barCells b).length = 16 := by
  simp only [barCells, List.length_map, List.length_append, toBytes_length]

/-- Settles O16: a store keeps the file or lands at a memory tile, and an atomic keeps the file or acts at its home. -/
theorem storingFormsFrame : Obligations.StoringFormsFrame := by
  intro d a b q op z sc r z1 o o12 s t k hs hout store atomic
  have hfile {i : Instr} {va : Word} {n : Nat} (h : exec i s = .next t → keepsFile s t k) : store i va n := fun ht =>
    ⟨(h ht).1, fun _ _ _ _ _ x => (h ht).readByte x, fun _ _ _ _ _ _ _ _ x _ => (h ht).readByte x, fun _ x => (h ht).readByte x⟩
  have hstore {i : Instr} {va : Word} {n v : Nat} (hi : exec i s = storeAt s k va n (cellsOf n v)) : store i va n := by
    intro ht
    obtain hkeep | ⟨s1, pa, p, u, key, hplace, htile, hreach, hg, hx⟩ := storeAt_keeps hout (hi.symm.trans ht)
    · exact hfile (fun _ => hkeep) ht
    · refine ⟨hg, fun s2 pa' p' hplace' haway => ?_, fun s2 pa' p' u' key' hplace' _ hreach' x hout' => ?_, fun hno => ?_⟩
      · obtain ⟨-, -, rfl⟩ := storePlace_unique hplace hplace'
        exact absurd (haway.symm.trans htile) Bool.false_ne_true
      · obtain ⟨rfl, rfl, rfl⟩ := storePlace_unique hplace hplace'
        cases hreach.symm.trans hreach'
        exact hx x (by rwa [cellsOf_length])
      · exact absurd ⟨s1, pa, p, hplace⟩ hno
  have hwait {i : Instr} {dst : Option (BitVec 5)} {va : Word} {n : Nat} (h : exec i s = .next t → keepsFile s t k) : atomic i dst va n :=
    fun ht => ⟨fun g _ => (h ht).1 g, fun _ _ _ x _ => (h ht).readByte x, fun _ x => (h ht).readByte x⟩
  have hatomic {i : Instr} {dst : Option (BitVec 5)} {va : Word} {n : Nat} {f : State → Nat → Res}
      (hi : exec i s = accessAt s k va n .atomic f)
      (hf : ∀ u key, inTrap u k = false → f u key = .next t → atomicWrites u k key n dst t) : atomic i dst va n := by
    intro ht
    obtain hkeep | ⟨u, key, hreach, hu⟩ := accessAt_keeps hout (hi.symm.trans ht)
    · exact hwait (fun _ => hkeep) ht
    · have htags := tagsOnly_of_reaches hreach
      obtain ⟨hg, hx⟩ := hf u key ((inTrap_congr htags.threads k).trans hout) hu
      have hkeep := htags.onlyWay.keepsFile k
      refine ⟨fun g hd => (hg g hd).trans (hkeep.1 g), fun u' key' hreach' x hout' => ?_, fun hno => absurd ⟨u, key, hreach⟩ hno⟩
      obtain ⟨rfl, rfl⟩ := reaches_unique hreach hreach'
      exact (hx x hout').trans (hkeep.readByte x)
  have hbar {i : Instr} {dst : Option (BitVec 5)} {f : State → Nat → Res} (hi : exec i s = barAt s k a f)
      (hf : ∀ u key, inTrap u k = false → f u key = .next t → atomicWrites u k key 16 dst t) : atomic i dst (rg s k a) 16 := by
    cases hrel : released s k 2 with
    | true => exact hatomic (hi.trans (releaseAt_released hrel _)) hf
    | false => exact hwait fun ht => waitAt_keeps ((releaseAt_waits hrel _).symm.trans (hi.symm.trans ht))
  have harrive (drop : Bool) (u : State) (key : Nat) (hin : inTrap u k = false) (hu : barArriveAt u k d key drop = .next t) :
      atomicWrites u k key 16 (some d) t := by
    unfold barArriveAt at hu
    split at hu <;> cases hu
    · exact (keepsFile_raise hin _ _).atomicWrites key 16 _
    · exact (atomicWrites_perform u k key 16 _ (barCells_length _)).setG _
  have hordered {i : Instr} {n : Nat} {f : State → Nat → Res} (hi : exec i s = atomicAt s k sc r (rg s k a) n f)
      (hf : ∀ u key, inTrap u k = false → f u key = .next t → atomicWrites u k key n (some d) t) : atomic i (some d) (rg s k a) n := by
    unfold atomicAt at hi
    split at hi
    · exact hwait fun ht => waitAt_keeps (hi.symm.trans ht)
    · exact hatomic hi hf
  have hrun (f : Nat → Res) : onThread s f = f k := onThread_run s k f hs
  refine ⟨hstore (hrun _), hstore (hrun _), ?str, hordered (hrun _) fun u key _ hu => ?amo, hordered (hrun _) fun u key _ hu => ?cas,
    hbar (hrun _) fun u key hin hu => ?init, hbar (hrun _) (harrive false), hbar (hrun _) (harrive true)⟩
  case str =>
    cases hrel : released s k sc.toNat with
    | true => exact hstore ((hrun _).trans (releaseAt_released hrel _))
    | false => exact hfile fun ht => waitAt_keeps ((releaseAt_waits hrel _).symm.trans ((hrun _).symm.trans ht))
  case amo =>
    cases hu
    exact (atomicWrites_perform u k key _ _ (cellsOf_length _ _)).setG _
  case cas =>
    cases hu
    exact (atomicWrites_ite (atomicWrites_perform u k key _ _ (cellsOf_length _ _)) ((keepsFile_refl u k).atomicWrites key _ _)).setG _
  case init =>
    extract_lets v at hu
    split at hu <;> cases hu
    · exact (keepsFile_raise hin _ _).atomicWrites key 16 _
    · exact (atomicWrites_perform u k key 16 _ (barCells_length _)).retire

/-! ### PREF, WATCH and AMSG (17_ref_m_r.md R390, 19_ref_t_z.md R437, 15_ref_a_c.md R321) -/

section

variable {s s0 s1 : State} {k w pa i : Nat} {va : Word} {seam : Bool}

/-- A prefetch changes caches and slices alone. -/
theorem onlyWay_prefetch (s : State) (k : Nat) (va : Word) : onlyWay s (prefetch s k va) := by
  have htr := onlyWay_translate s (cacheCore k) (s.thread k).asid va.toNat .read false
  unfold prefetch
  split <;> rename_i h <;> rw [h] at htr
  · exact htr
  · split
    · exact onlyWay_ite htr (htr.trans (onlySlices_joinMiss _ _ _ _).onlyWay)
    · exact htr

/-- A prefetch of an absent stack line that the core may read begins its miss. -/
theorem prefetch_misses (htr : translate s (cacheCore k) (s.thread k).asid va.toNat .read false = (s1, .ok pa seam))
    (htgt : target pa = .slice i) (hmay : permitted s1 i (coreMaster k) (pa / 128 * 128) 128 .read = true)
    (habsent : wayOf s1 i (pa / 128) = none) (hnew : (s1.slice i).misses.any (fun m => decide (m.line = pa / 128)) = false) :
    prefetch s k va = joinMiss s1 i (pa / 128) { threadOrigin s1 k (BitVec.ofNat 64 (128 * (va.toNat / 128))) with pref := true } := by
  unfold prefetch
  simp only [htr, htgt, hmay, habsent, hnew, Bool.true_eq_false, Option.isSome_none, Bool.false_eq_true, or_self, if_false]

/-- What a PREF whose translation waits no more answers: its line's miss, or nothing. -/
theorem execPref_eq (hs : s.self = .thread k) (a : BitVec 5) (o : BitVec 14) (hgo : ∀ u, threadWalk s k (ea s k a o) ≠ .wait u) :
    ∃ t, exec (.pref a o) s = .next (retire t k) ∧ onlyWay s t ∧
      ∀ s0 w, inWindow (ea s k a o).toNat = false → prefsBusy s k < 16 → threadWalk s k (ea s k a o) = .ready s0 w →
        t = prefetch s0 k (ea s k a o) := by
  have hwalk := onlyWay_threadWalk s k (ea s k a o)
  show ∃ t, execPref a o s = _ ∧ _
  rw [execPref, onThread_run s k _ hs]
  dsimp only
  by_cases hbusy : 16 ≤ prefsBusy s k ∨ inWindow (ea s k a o).toNat = true
  case pos =>
    refine ⟨s, if_pos hbusy, onlyWay_refl s, fun s0 w hwin hfew _ => ?_⟩
    rcases hbusy with h | h
    · omega
    · exact absurd (hwin.symm.trans h) Bool.false_ne_true
  case neg =>
    rw [if_neg hbusy]
    cases hw : threadWalk s k (ea s k a o) with
    | wait u => exact absurd hw (hgo u)
    | fault u c =>
      rw [hw] at hwalk
      exact ⟨u, rfl, hwalk, fun _ _ _ _ h => by cases h⟩
    | ready u x =>
      rw [hw] at hwalk
      exact ⟨_, rfl, hwalk.trans (onlyWay_prefetch u k _), fun _ _ _ _ h => by cases h; rfl⟩

/-- A WATCH that reaches bytes other than those it was given returns them. -/
theorem watchAt_returns {key : Nat} {d a b : BitVec 5} (h : reaches s k (rg s k a) 8 .read s1 key)
    (hne : BitVec.ofNat 64 (readNat s1 key 8) ≠ rg s k b) :
    watchAt s k d a b = .next (retire (wg s1 k d (BitVec.ofNat 64 (readNat s1 key 8))) k) := by
  rw [watchAt, loadAt, accessAt_reaches h]
  exact if_pos (by rwa [rg_of_reaches h])

end

/-- Settles O20: a PREF is its prefetch or nothing, a WATCH that returns waits no more, and an AMSG is the event that it sends. -/
theorem prefWatchAmsg : Obligations.PrefWatchAmsg := by
  intro d a b q o s s' k key hs
  refine ⟨fun hgo => ?pref, fun hidle hreach hne => ?watch, fun hwatching hreach hne => ?poll,
    fun pa seam s0 w s1 u s2 i hrel hal hwalk hloc htgt hmesh hcheck => ?amsg⟩
  case pref =>
    obtain ⟨t, ht, hway, hprefetch⟩ := execPref_eq hs a o hgo
    refine ⟨t, ht, hway.mem, hway.threads, fun i pa seam s0 w s1 hwin hwalk hfew htr htgt hmay habsent hnew => ?_⟩
    rw [hprefetch s0 w hwin hfew hwalk]
    exact prefetch_misses htr htgt hmay habsent hnew
  case watch =>
    have hreturns := watchAt_returns (d := d) hreach hne
    show execWatch d a b s = _
    rw [execWatch, onThread_run s k _ hs]
    rw [hidle, hreturns]
    refine (if_neg Bool.false_ne_true).trans (if_neg ?_)
    rintro ⟨hstall, -⟩
    rw [retire, retireTo_thread] at hstall
    cases hstall
  case poll =>
    show execApertureWatchPoll s = _
    rw [execApertureWatchPoll, onThread_run s k _ hs]
    rw [hwatching]
    exact watchAt_returns hreach hne
  case amsg =>
    refine (onThread_run s k _ hs).trans ((releaseAt_released hrel _).trans ?_)
    simp only [hal, ne_eq, not_true_eq_false, if_false, hwalk, hloc, htgt, hmesh, hcheck]

end Sys2Proof.Machine
end

section
/-!
The invariant of the control thread's steps (18_ref_s.md R414, 10_faults_modes.md R220, 15_ref_a_c.md R343): every operation on
registers, memory, traps and CSRs keeps a safe state safe, and so do the fetch before an instruction and the begin of a turn.
-/
namespace Sys2Proof.Machine

open Sys2Proof

/-! ### Operations that keep a state safe -/

/-- t is safe where s is. -/
def keepsSafe (s t : State) : Prop := Safe s → Safe t

section

variable {s t u : State} {k : Nat}

theorem keepsSafe_refl (s : State) : keepsSafe s s := id

theorem keepsSafe.trans (hst : keepsSafe s t) (htu : keepsSafe t u) : keepsSafe s u := fun h => htu (hst h)

theorem keepsSafe_ite {c : Prop} [Decidable c] (ht : keepsSafe s t) (hu : keepsSafe s u) : keepsSafe s (if c then t else u) := by
  split
  · exact ht
  · exact hu

theorem keepsSafe_foldl {α : Type} {f : State → α → State} (hf : ∀ s a, keepsSafe s (f s a)) (l : List α) (s : State) :
    keepsSafe s (l.foldl f s) := by
  induction l generalizing s with
  | nil => exact keepsSafe_refl s
  | cons a l ih => exact (hf s a).trans (ih (f s a))

/-- Memory, the threads and the cores are all that safety speaks of. -/
theorem keepsSafe_of_same (hmem : t.mem = s.mem) (hthreads : t.threads = s.threads) (hcores : t.cores = s.cores) : keepsSafe s t := by
  rintro ⟨hm, hs, hf⟩
  refine ⟨by rwa [hmem], fun j => ?_, fun j => ?_⟩
  · rw [State.thread, hthreads]
    exact hs j
  · rw [State.core, hcores]
    exact hf j

theorem onlyWay.keepsSafe (h : onlyWay s t) : keepsSafe s t := keepsSafe_of_same h.mem h.threads h.cores

theorem keepsSafe_modThread {f : Thread → Thread} (hf : statusLegal (s.thread k).status = true → statusLegal (f (s.thread k)).status = true) :
    keepsSafe s (s.modThread k f) := by
  rintro ⟨hm, hs, hc⟩
  refine ⟨hm, fun j => ?_, hc⟩
  rw [State.modThread, State.setThread_thread]
  split
  · exact hf (hs k)
  · exact hs j

theorem keepsSafe_modCore {f : Core → Core} (hf : flagsLegal (s.core k).flags = true → flagsLegal (f (s.core k)).flags = true) :
    keepsSafe s (s.modCore k f) := by
  rintro ⟨hm, hs, hc⟩
  refine ⟨hm, hs, fun j => ?_⟩
  rw [State.modCore, State.setCore_core]
  split
  · exact hf (hc k)
  · exact hc j

end

section

variable (s : State) (k : Nat)

theorem keepsSafe_wg (d : BitVec 5) (v : Word) : keepsSafe s (wg s k d v) := keepsSafe_ite (keepsSafe_refl s) (keepsSafe_modThread id)

theorem keepsSafe_wp (d : BitVec 3) (b : Bool) : keepsSafe s (wp s k d b) := keepsSafe_ite (keepsSafe_refl s) (keepsSafe_modThread id)

theorem keepsSafe_wq (d : BitVec 3) (v : QWord) : keepsSafe s (wq s k d v) := keepsSafe_modThread id

theorem keepsSafe_retireTo (pc : Word) : keepsSafe s (retireTo s k pc) := keepsSafe_modThread id

theorem keepsSafe_retire : keepsSafe s (retire s k) := keepsSafe_retireTo s k _

theorem keepsSafe_setFifo (n : Nat) (l : List (BitVec 8)) : keepsSafe s (setFifo s k n l) := keepsSafe_modCore id

theorem keepsSafe_modCmds (p : QCmd → Bool) (f : QCmd → QCmd) : keepsSafe s (modCmds s k p f) := keepsSafe_modCore id

theorem keepsSafe_setPort (p : Port) : keepsSafe s (s.setPort k p) := keepsSafe_of_same rfl rfl rfl

theorem keepsSafe_withColls (l : List Coll) : keepsSafe s { s with colls := l } := keepsSafe_of_same rfl rfl rfl

theorem keepsSafe_setRegion (j : Nat) (r : Option Region) : keepsSafe s (s.setRegion k j r) := keepsSafe_modCore id

theorem keepsSafe_endByNotice (d : BitVec 5) (reason : BitVec 2) : keepsSafe s (endByNotice s k d reason) :=
  (keepsSafe_modThread id).trans ((keepsSafe_wg _ k d _).trans (keepsSafe_retire _ k))

end

/-! ### STATUS and FLAGS (10_faults_modes.md Table 10.5, 04_formats.md Table 4.10) -/

section

variable {x y m : Word}

theorem statusLegal_iff : statusLegal x = true ↔ x &&& ~~~(0xDB : Word) = 0 := beq_iff_eq

theorem statusLegal_or (hx : statusLegal x = true) (hy : statusLegal y = true) : statusLegal (x ||| y) = true := by
  rw [statusLegal_iff] at *
  rw [BitVec.and_comm, BitVec.and_or_distrib_left, BitVec.and_comm _ x, BitVec.and_comm _ y, hx, hy]
  rfl

/-- Bits picked from legal ones are legal. -/
theorem statusLegal_and (hm : statusLegal m = true) (x : Word) : statusLegal (x &&& m) = true := by
  rw [statusLegal_iff] at *
  rw [BitVec.and_assoc, hm]
  exact BitVec.and_zero

theorem statusLegal_and_left (hx : statusLegal x = true) (m : Word) : statusLegal (x &&& m) = true := by
  rw [BitVec.and_comm]
  exact statusLegal_and hx m

theorem statusLegal_ite {c : Prop} [Decidable c] (hx : statusLegal x = true) (hy : statusLegal y = true) :
    statusLegal (if c then x else y) = true := by
  split
  · exact hx
  · exact hy

end

theorem statusLegal_trapStatus (st : Word) : statusLegal (trapStatus st) = true :=
  statusLegal_or (statusLegal_or (statusLegal_or (statusLegal_and (by decide) st) (by decide)) (statusLegal_ite (by decide) (by decide)))
    (statusLegal_ite (by decide) (by decide))

theorem statusLegal_sysretStatus (st : Word) : statusLegal (sysretStatus st) = true :=
  statusLegal_or (statusLegal_or (statusLegal_and (by decide) st) (statusLegal_ite (by decide) (by decide)))
    (statusLegal_ite (by decide) (by decide))

theorem flagsLegal_masked (v : Word) : flagsLegal (v &&& flagsMask) = true := by
  rw [flagsLegal, beq_iff_eq, BitVec.and_assoc, BitVec.and_not_self]
  exact BitVec.and_zero

/-! ### Memory (18_ref_s.md R414) -/

section

variable (s : State)

theorem markDirty_cores (i line : Nat) : (markDirty s i line).cores = s.cores := by
  unfold markDirty
  split
  · split <;> rfl
  · rfl

theorem dropFetched_flags (line k : Nat) : ((dropFetched s line).core k).flags = (s.core k).flags := by
  have hget := get_map_values (d := ({} : Core)) (d' := ({} : Core))
    (f := fun c : Core => { c with icache := c.icache.filter (fun l => decide (l ≠ line)) }) rfl s.cores k
  exact (congrArg Core.flags hget :)

/-- A write at its home keeps memory canonical and drops cached instructions alone. -/
theorem keepsSafe_perform (key : Nat) (cells : List (Option Byte)) : keepsSafe s (perform s key cells) := by
  rintro ⟨hm, hs, hf⟩
  refine ⟨perform_wf s key cells hm, fun j => ?_, fun j => ?_⟩
  · rw [State.thread, perform_threads]
    exact hs j
  · unfold perform
    split
    · rw [State.core, markDirty_cores]
      exact (congrArg _ (dropFetched_flags s _ j)).trans (hf j)
    · exact hf j

/-! ### Stopped threads and traps (10_faults_modes.md R220, R222) -/

variable (k : Nat)

theorem keepsSafe_dropPins (h : Holder) : keepsSafe s (dropPins s h) := keepsSafe_of_same rfl rfl rfl

theorem keepsSafe_closeSaved (x : Ctx) : keepsSafe s (closeSaved s k x) := by
  unfold closeSaved
  split
  case h_1 => exact keepsSafe_refl s
  case h_2 pa a _ =>
    refine (keepsSafe_foldl (fun t e => ?_) a.ports s).trans (keepsSafe_of_same rfl rfl rfl)
    extract_lets recorded ids ended
    have hrecorded : keepsSafe t recorded := keepsSafe_ite (keepsSafe_refl t) (keepsSafe_of_same rfl rfl rfl)
    exact (hrecorded.trans (keepsSafe_modCmds _ k _ _)).trans ((keepsSafe_dropPins _ _).trans (keepsSafe_modCmds _ k _ _))

theorem keepsSafe_stopWork : keepsSafe s (stopWork s k) := by
  unfold stopWork
  extract_lets shut retired mine coded
  have hshut : keepsSafe s shut :=
    keepsSafe_foldl (fun t n => keepsSafe_ite (keepsSafe_setPort t _ _) (keepsSafe_refl t)) _ s
  have hretired : keepsSafe shut retired := keepsSafe_modCmds shut k _ _
  have hcoded : keepsSafe retired coded := keepsSafe_withColls retired _
  refine ((hshut.trans hretired).trans hcoded).trans (keepsSafe_foldl (fun t j => ?_) _ coded)
  split
  case h_1 => exact keepsSafe_refl t
  case h_2 =>
    refine keepsSafe_foldl (fun t c => ?_) _ t
    split
    case h_1 x _ =>
      refine keepsSafe_ite ?_ (keepsSafe_refl t)
      extract_lets freed
      have hfreed : keepsSafe t freed := (keepsSafe_closeSaved t k x).trans (keepsSafe_dropPins _ _)
      split
      case h_1 => exact hfreed.trans (keepsSafe_setRegion freed k j _)
      case h_2 => exact hfreed
    case h_2 => exact keepsSafe_refl t

theorem keepsSafe_goIdle : keepsSafe s (goIdle s k) := keepsSafe_modThread fun _ => show statusLegal 1 = true by decide

theorem keepsSafe_endTask (how : EndKind) (code : Code) : keepsSafe s (endTask s k how code) := by
  unfold endTask
  split
  case h_1 => exact keepsSafe_goIdle s k
  case h_2 p _ =>
    extract_lets d told orphaned emptied freed
    have htold : keepsSafe s told := keepsSafe_of_same rfl rfl rfl
    have horphaned : keepsSafe told orphaned := keepsSafe_modCmds told k _ _
    have hemptied : keepsSafe orphaned emptied := keepsSafe_modCore id
    have hfreed : keepsSafe emptied freed := (keepsSafe_modCore id).trans (keepsSafe_dropPins _ _)
    exact ((htold.trans horphaned).trans (hemptied.trans hfreed)).trans (keepsSafe_goIdle freed k)

theorem keepsSafe_stopThread (code : Code) : keepsSafe s (stopThread s k code) := by
  unfold stopThread
  split
  · exact keepsSafe_modThread id
  · exact (keepsSafe_stopWork s k).trans (keepsSafe_endTask _ k _ _)

theorem keepsSafe_takeTrap (epc ecause eval : Word) : keepsSafe s (takeTrap s k epc ecause eval) :=
  keepsSafe_modThread fun _ => statusLegal_trapStatus _

theorem keepsSafe_raise (c : Code) (v : Word) : keepsSafe s (raise s k c v) :=
  keepsSafe_ite (keepsSafe_stopThread s k c) (keepsSafe_takeTrap s k _ _ _)

theorem keepsSafe_writeCsr (n : BitVec 16) (v : Word) : keepsSafe s (writeCsr s k n v) := by
  unfold writeCsr
  split
  case h_2 => exact keepsSafe_modThread fun h => statusLegal_or (statusLegal_and_left h _) (statusLegal_and (by decide) v)
  case h_8 => exact keepsSafe_modCore fun _ => flagsLegal_masked v
  case h_9 => exact keepsSafe_refl s
  all_goals exact keepsSafe_modThread id

end

/-! ### Answers that keep a state safe -/

/-- Whatever next state r gives is safe where s is. -/
def safeAnswer (s : State) (r : Res) : Prop := ∀ t, r = .next t → keepsSafe s t

section

variable {s t : State} {k n : Nat} {va : Word} {r r' : Res}

theorem safeAnswer_next (h : keepsSafe s t) : safeAnswer s (.next t) := fun _ ht => by
  cases ht
  exact h

theorem keepsSafe.answer (h : keepsSafe s t) (hr : safeAnswer t r) : safeAnswer s r := fun u hu => h.trans (hr u hu)

theorem safeAnswer_ite {c : Prop} [Decidable c] (h : safeAnswer s r) (h' : safeAnswer s r') : safeAnswer s (if c then r else r') := by
  split
  · exact h
  · exact h'

theorem safeAnswer_onThread {f : Nat → Res} (hf : ∀ k, safeAnswer s (f k)) : safeAnswer s (onThread s f) := by
  unfold onThread
  split
  · exact hf _
  · exact fun _ h => by cases h

theorem safeAnswer_raise (c : Code) (v : Word) : safeAnswer s (.next (raise s k c v)) := safeAnswer_next (keepsSafe_raise s k c v)

theorem safeAnswer_setG (d : BitVec 5) (v : Word) : safeAnswer s (setG s k d v) :=
  safeAnswer_next ((keepsSafe_wg s k d v).trans (keepsSafe_retire _ k))

theorem safeAnswer_retire : safeAnswer s (.next (retire s k)) := safeAnswer_next (keepsSafe_retire s k)

theorem safeAnswer_waitAt (edge : Bool) : safeAnswer s (waitAt s k edge) := safeAnswer_next (keepsSafe_modThread id)

theorem safeAnswer_stallAt (edge taking : Bool) (d : BitVec 5) : safeAnswer s (stallAt s k edge d taking) :=
  safeAnswer_ite (safeAnswer_next ((keepsSafe_modThread id).trans (keepsSafe_endByNotice _ k d _))) (safeAnswer_next (keepsSafe_modThread id))

theorem safeAnswer_releaseAt {sc : Nat} (h : safeAnswer s r) : safeAnswer s (releaseAt s k sc r) := safeAnswer_ite h (safeAnswer_waitAt false)

theorem safeAnswer_accessAt {kd : Kind} {f : State → Nat → Res} (hf : ∀ t key, safeAnswer t (f t key)) :
    safeAnswer s (accessAt s k va n kd f) := by
  obtain ⟨t, c, hway, h⟩ | ⟨t, hway, h⟩ | ⟨t, key, hreach, h⟩ := accessAt_outcome s k va n kd f <;> rw [h]
  · exact hway.keepsSafe.answer (safeAnswer_raise c va)
  · exact hway.keepsSafe.answer (safeAnswer_waitAt false)
  · exact (tagsOnly_of_reaches hreach).onlyWay.keepsSafe.answer (hf t key)

theorem safeAnswer_atomicAt {sc r : BitVec 2} {f : State → Nat → Res} (hf : ∀ t key, safeAnswer t (f t key)) :
    safeAnswer s (atomicAt s k sc r va n f) := safeAnswer_ite (safeAnswer_waitAt false) (safeAnswer_accessAt hf)

theorem safeAnswer_barAt {a : BitVec 5} {f : State → Nat → Res} (hf : ∀ t key, safeAnswer t (f t key)) :
    safeAnswer s (barAt s k a f) := safeAnswer_releaseAt (safeAnswer_accessAt hf)

theorem safeAnswer_barArriveAt (d : BitVec 5) (key : Nat) (drop : Bool) : safeAnswer s (barArriveAt s k d key drop) := by
  unfold barArriveAt
  split
  · exact safeAnswer_raise _ _
  · exact (keepsSafe_perform s key _).answer (safeAnswer_setG d _)

theorem safeAnswer_storeAt (cells : List (Option Byte)) : safeAnswer s (storeAt s k va n cells) := by
  obtain ⟨t, c, hway, h⟩ | ⟨t, hway, h⟩ | ⟨t, c, hway, h⟩ | ⟨-, -, -, t, key, -, -, -, hway, h⟩ | ⟨t, q, hway, h⟩ :=
    storeAt_outcome s k va n cells <;> rw [h]
  · exact hway.keepsSafe.answer (safeAnswer_raise c va)
  · exact hway.keepsSafe.answer (safeAnswer_waitAt false)
  · exact hway.keepsSafe.answer (safeAnswer_next (keepsSafe.trans (keepsSafe_of_same rfl rfl rfl) (keepsSafe_retire _ k)))
  · exact hway.keepsSafe.answer ((keepsSafe_perform t key cells).answer safeAnswer_retire)
  · exact hway.keepsSafe.answer (safeAnswer_next (keepsSafe.trans (keepsSafe_of_same rfl rfl rfl) (keepsSafe_retire _ k)))

theorem safeAnswer_csrOp (i : Instr) (d a : BitVec 5) (c : BitVec 16) (new : Word → Word → Option Word) :
    safeAnswer s (csrOp i d c new a s) := by
  refine safeAnswer_onThread fun k => safeAnswer_ite ?_ (safeAnswer_raise _ _)
  cases hnew : new (readCsr s k c) (rg s k a) with
  | none =>
    dsimp only
    rw [hnew]
    exact safeAnswer_setG d _
  | some v =>
    dsimp only
    rw [hnew]
    exact safeAnswer_ite (safeAnswer_raise _ _)
      (safeAnswer_next (((keepsSafe_wg s k d _).trans (keepsSafe_retire _ k)).trans (keepsSafe_writeCsr _ k c _)))

theorem keepsSafe_fileWrite (s : State) (k : Nat) (w : FileWrite) : keepsSafe s (w.apply s k) := by
  cases w with
  | none => exact keepsSafe_refl s
  | g d v => exact keepsSafe_wg s k d v
  | p d b => exact keepsSafe_wp s k d b
  | q d v => exact keepsSafe_wq s k d v

/-- A register instruction on a thread traps, or writes its destination and retires. -/
theorem safeAnswer_registerForm {i : Instr} (hi : registerForm i = true) (hs : s.self = .thread k) : safeAnswer s (exec i s) := by
  obtain ⟨c, v, h⟩ | ⟨w, pc, -, h⟩ := exec_fileOutcome i s k hi hs <;> rw [h]
  · exact safeAnswer_raise c v
  · exact safeAnswer_next ((keepsSafe_fileWrite s k w).trans (keepsSafe_retireTo _ k pc))

end

/-- What a control thread runs on its registers, on memory or on its trap state keeps a safe state safe. -/
theorem safeAnswer_threadForm {i : Instr} {s : State} {k : Nat} (hi : threadForm i = true) (hs : s.self = .thread k) :
    safeAnswer s (exec i s) := by
  cases hreg : registerForm i with
  | true => exact safeAnswer_registerForm hreg hs
  | false =>
    have hboth : (threadForm i && !registerForm i) = true := by rw [hi, hreg]; rfl
    cases i with
    | ld | ldu | lda => exact safeAnswer_onThread fun k => safeAnswer_accessAt fun t key => safeAnswer_setG _ _
    | ldq q a o =>
      exact safeAnswer_onThread fun k => safeAnswer_accessAt fun t key =>
        safeAnswer_next ((keepsSafe_wq t k q _).trans (keepsSafe_retire _ k))
    | st | stq => exact safeAnswer_onThread fun k => safeAnswer_storeAt _
    | str => exact safeAnswer_onThread fun k => safeAnswer_releaseAt (safeAnswer_storeAt _)
    | amo =>
      exact safeAnswer_onThread fun k => safeAnswer_atomicAt fun t key => (keepsSafe_perform t key _).answer (safeAnswer_setG _ _)
    | cas =>
      exact safeAnswer_onThread fun k => safeAnswer_atomicAt fun t key =>
        (keepsSafe_ite (keepsSafe_perform t key _) (keepsSafe_refl t)).answer (safeAnswer_setG _ _)
    | fence => exact safeAnswer_onThread fun k => safeAnswer_releaseAt (safeAnswer_next ((keepsSafe_modThread id).trans (keepsSafe_retire _ k)))
    | barInit =>
      exact safeAnswer_onThread fun k => safeAnswer_barAt fun t key =>
        safeAnswer_ite (safeAnswer_raise _ _) ((keepsSafe_perform t key _).answer safeAnswer_retire)
    | barArv | barDrp => exact safeAnswer_onThread fun k => safeAnswer_barAt fun t key => safeAnswer_barArriveAt _ key _
    | barWait =>
      exact safeAnswer_onThread fun k => safeAnswer_accessAt fun t key => safeAnswer_ite (safeAnswer_waitAt true) safeAnswer_retire
    | tkpush =>
      exact safeAnswer_onThread fun k => safeAnswer_releaseAt
        (safeAnswer_ite (safeAnswer_stallAt _ _ _) ((keepsSafe_setFifo s k _ _).answer safeAnswer_retire))
    | tkpop =>
      refine safeAnswer_onThread fun k => ?_
      split
      · exact safeAnswer_stallAt _ _ _
      · exact safeAnswer_ite (safeAnswer_stallAt _ _ _) ((keepsSafe_setFifo s k _ _).answer (safeAnswer_setG _ _))
    | csrr d c => exact safeAnswer_csrOp (.csrr d c) d 0 c (fun _ _ => none)
    | csrw d a c => exact safeAnswer_csrOp (.csrw d a c) d a c (fun _ v => some v)
    | csrs d a c => exact safeAnswer_csrOp (.csrs d a c) d a c (fun old v => if a = 0 then none else some (old ||| v))
    | csrc d a c => exact safeAnswer_csrOp (.csrc d a c) d a c (fun old v => if a = 0 then none else some (old &&& ~~~v))
    | trap | bkpt => exact safeAnswer_onThread fun k => safeAnswer_raise _ _
    | sysret =>
      exact safeAnswer_onThread fun k => safeAnswer_ite
        (safeAnswer_next (keepsSafe_modThread fun _ => statusLegal_sysretStatus _)) (safeAnswer_raise _ _)
    | _ => exact absurd hboth Bool.false_ne_true

/-! ### The fetch before an instruction (06_memory.md R138) -/

/-- t is safe where s is, and the turn is still the same agent's. -/
def safeHere (s t : State) : Prop := keepsSafe s t ∧ t.self = s.self

section

variable {s t u : State}

theorem safeHere_refl (s : State) : safeHere s s := ⟨keepsSafe_refl s, rfl⟩

theorem safeHere.trans (hst : safeHere s t) (htu : safeHere t u) : safeHere s u := ⟨hst.1.trans htu.1, htu.2.trans hst.2⟩

theorem onlyWay.safeHere (h : onlyWay s t) : safeHere s t := ⟨h.keepsSafe, by rw [h]⟩

theorem safeHere_ite {c : Prop} [Decidable c] (ht : safeHere s t) (hu : safeHere s u) : safeHere s (if c then t else u) := by
  split
  · exact ht
  · exact hu

theorem safeHere_foldl {α : Type} {f : State → α → State} (hf : ∀ s a, safeHere s (f s a)) (l : List α) (s : State) :
    safeHere s (l.foldl f s) := by
  induction l generalizing s with
  | nil => exact safeHere_refl s
  | cons a l ih => exact (hf s a).trans (ih (f s a))

end

section

variable (s : State) (k : Nat)

theorem safeHere_writeLoad (l : Load) (v : Nat) : safeHere s (writeLoad s k l v) :=
  safeHere_ite ⟨keepsSafe_wq s k _ _, rfl⟩ (safeHere_ite (safeHere_refl s) ⟨keepsSafe_modThread id, rfl⟩)

theorem safeHere_endLoads (regs : List RegName) : safeHere s (endLoads s k regs) :=
  (safeHere_foldl (fun t x => safeHere_writeLoad t k x _) _ s).trans ⟨keepsSafe_modThread id, rfl⟩

theorem safeHere_awaitLoads (i : Instr) : safeHere s (awaitLoads s k i).1 := by
  unfold awaitLoads
  dsimp only
  split
  · exact safeHere_refl s
  · split
    · exact safeHere_refl s
    · exact safeHere_endLoads s k _

theorem safeHere_fetchAhead (key : Nat) (asid : BitVec 16) (va : Nat) : safeHere s (fetchAhead s k key asid va) :=
  ⟨keepsSafe_modThread id, rfl⟩

theorem safeHere_fetchedWord (asid : BitVec 16) (va : Nat) (now : BitVec 32) : safeHere s (fetchedWord s k asid va now).1 := by
  unfold fetchedWord
  split
  · exact ⟨keepsSafe_modThread id, rfl⟩
  · exact safeHere_refl s

theorem safeHere_fetchAt (pa : Nat) (va : Word) : safeHere s (fetchAt s k pa va).state := by
  unfold fetchAt
  extract_lets line cacheable
  split
  · split <;> exact safeHere_refl s
  · split
    · exact safeHere_refl s
    · split
      · exact safeHere_refl s
      · have hway := (onlyWay_reach s pa 4 .fetch (threadOrigin s k va)).safeHere
        split
        next t key hreach =>
          rw [hreach] at hway
          exact hway.trans (safeHere_ite ⟨keepsSafe_modCore id, rfl⟩ (safeHere_refl t))
        next => exact hway

/-- A fetch that gives an instruction to run leaves a safe state safe, and the turn the thread's. -/
theorem safeHere_fetchThread {s u : State} {k : Nat} {i : Instr} (h : fetchThread s k = (u, some i)) : safeHere s u := by
  unfold fetchThread at h
  dsimp only at h
  split at h
  · cases h
  split at h
  · cases h
  have hwalk := (onlyWay_walkFor s (cacheCore k) (s.thread k).asid (s.thread k).pc.toNat).safeHere
  split at h
  · cases h
  · cases h
  next b w hb =>
  rw [hb] at hwalk
  have htranslate := (onlyWay_translate b (cacheCore k) (s.thread k).asid (s.thread k).pc.toNat .fetch true).safeHere
  split at h
  · cases h
  next c pa seam hc =>
  rw [hc] at htranslate
  split at h
  · cases h
  have hat := safeHere_fetchAt c k pa (s.thread k).pc
  split at h
  · cases h
  · cases h
  next d key hd =>
  rw [hd] at hat
  split at h
  next j _ =>
    have hu := congrArg Prod.fst h
    subst hu
    exact (((hwalk.trans htranslate).trans hat).trans (safeHere_fetchedWord d k _ _ _)).trans
      ((safeHere_fetchAhead _ k _ _ _).trans (safeHere_awaitLoads _ k j))
  next => cases h

/-- A thread form is run by a fetch alone. -/
theorem safeHere_heldThread {s u : State} {k : Nat} {i : Instr} (h : heldThread s k = (u, some i)) (hi : threadForm i = true) :
    safeHere s u := by
  unfold heldThread at h
  extract_lets at h
  split at h
  · cases h
  split at h
  · cases h
  split at h
  · cases h
    cases hi
  split at h
  · cases h
    cases hi
  split at h
  · cases h
    cases hi
  exact safeHere_fetchThread h

theorem keepsSafe_noteDue (x : Nat × Nat × Nat) : keepsSafe s (noteDue s x) := by
  unfold noteDue
  split
  · dsimp only
    split
    · exact keepsSafe_refl s
    · exact keepsSafe_of_same rfl rfl rfl
  · exact keepsSafe_refl s

theorem keepsSafe_begin_ (t : Turn) : keepsSafe s (begin_ s t) :=
  (keepsSafe_foldl keepsSafe_noteDue (nearTiles s.self) s).trans (keepsSafe_of_same rfl rfl rfl)

end

/-- Settles O60: the turn's begin and the fetch keep the state safe, and the instruction that runs does too. -/
theorem threadStepsStaySafe : Obligations.ThreadStepsStaySafe := by
  intro s u t k i hsafe hturn hheld hi hstep
  have hwho : (begin_ s (nextTurn s)).self = .thread k := by rw [begin_self, hturn]
  have hlook : held (begin_ s (nextTurn s)) = (u, some i) := by rw [held, hwho]; exact hheld
  obtain ⟨hkeeps, hself⟩ := safeHere_heldThread hheld hi
  have hexec : exec i u = .next t := by rw [← hstep, step_of_held (by rw [hturn]) hlook]
  exact safeAnswer_threadForm hi (hself.trans hwho) t hexec (hkeeps (keepsSafe_begin_ s _ hsafe))

end Sys2Proof.Machine
end

section
/-!
Commands in their queues (02_execution_model.md R45, R46, 16_ref_d_l.md R359): how they enter at an ISSUE and how they retire.
-/
namespace Sys2Proof.Machine

open Sys2Proof

/-! ### Queues and token FIFOs -/

section

variable (s : State) (k q : Nat)

@[simp] theorem queueCmds_setQueue_same (l : List QCmd) : queueCmds (setQueue s k q l) k q = l := by
  rw [queueCmds, setQueue, State.modCore, State.setCore_core_same]
  exact Map.get_set_same _ _ _ _

@[simp] theorem setQueue_fifos (l : List QCmd) (j : Nat) : ((setQueue s k q l).core j).fifos = (s.core j).fifos := by
  rw [setQueue, State.modCore, State.setCore_core]
  split
  next h => rw [h]
  next => rfl

theorem fifo_setQueue (l : List QCmd) (n : Nat) : fifo (setQueue s k q l) k n = fifo s k n := congrArg (Map.get [] · n) (setQueue_fifos s k q l k)

@[simp] theorem queueCmds_fifoPush (n : Nat) (e : BitVec 8) : queueCmds (fifoPush s k n e) k q = queueCmds s k q := by
  rw [queueCmds, fifoPush, setFifo, State.modCore, State.setCore_core_same]
  rfl

@[simp] theorem fifo_fifoPush_same (n : Nat) (e : BitVec 8) : fifo (fifoPush s k n e) k n = fifo s k n ++ [e] := by
  rw [fifo, fifoPush, setFifo, State.modCore, State.setCore_core_same]
  exact Map.get_set_same _ _ _ _

end

/-! ### ISSUE and ISSUEW (R359) -/

/-- The command that an ISSUE makes of the word in a command register. -/
def issuedCmd (s : State) (k : Nat) (w : QWord) (wait : Bool) : QCmd :=
  { id := s.nextId, word := w, asid := (s.thread k).asid, ipc := pcOf s k, priv := isPriv s k
    waited := wait || isPrecise s k (cmdFields w) (cmdOpcode w), precise := isPrecise s k (cmdFields w) (cmdOpcode w) }

/-- The state once that command stands in its queue. -/
def issued (s : State) (k : Nat) (c : QCmd) : State := { enqueueCmd s k c with nextId := s.nextId + 1 }

theorem queueCmds_issued (s : State) (k : Nat) (c : QCmd) :
    queueCmds (issued s k c) k (queueOf (cmdOpcode c.word)) = queueCmds s k (queueOf (cmdOpcode c.word)) ++ [c] :=
  queueCmds_setQueue_same s k _ _

section

variable {s : State} {k : Nat} {q : BitVec 3} {i : Instr} (hs : s.self = .thread k) (haw : (s.thread k).awaits = none)

include hs haw

theorem issue_noCommand (wait : Bool) {e : DecodeError} (he : decodeCmd (rq s k q) = .error e) : issue i q wait s = .next (raise s k fcCMD 0) := by
  have hfault : issueFault s k (rq s k q) = some fcCMD := by rw [issueFault, he]
  rw [issue, onThread_run s k _ hs, haw]
  dsimp only
  rw [hfault]
  rfl

theorem issue_enters {wait : Bool} (hok : issueFault s k (rq s k q) = none)
    (hroom : (queueCmds s k (queueOf (cmdOpcode (rq s k q)))).length < 16) :
    issue i q wait s =
      let c := issuedCmd s k (rq s k q) wait
      if c.waited = true then
        .next ((issued s k c).modThread k (fun t => { t with awaits := some c.id, stall := some ⟨false, false, 0, none⟩ }))
      else .next (retire (issued s k c) k) := by
  have hr : queueRoom s k (queueOf (cmdOpcode (rq s k q))) 1 = true := decide_eq_true hroom
  rw [issue, onThread_run s k _ hs, haw]
  dsimp only
  rw [hok]
  dsimp only
  rw [hr, if_neg (by decide)]
  rfl

end

/-! ### Retirement (R45 to R48) -/

/-- What a stepping thread learns as a command retires (10_faults_modes.md R222). -/
def toldFinished (s : State) (k q : Nat) (c : QCmd) (code : Code) (u : State) : State :=
  if code = 0 ∧ (s.thread k).status.getLsbD 6 ∧ c.orphan = false ∧ c.byForeman.isNone ∧ c.waited = false then
    u.modThread k (fun t => { t with finished := some (t.finished.getD (q,
      if namesStream (cmdOpcode c.word) then (cmdFields c.word).sid.toNat else 0, c.ipc)) })
  else u

section

variable {s : State} {k q pos : Nat} {c : QCmd} {rest : List QCmd} {code : Code}

theorem toldFinished_cores (u : State) : (toldFinished s k q c code u).cores = u.cores := by
  unfold toldFinished
  split <;> rfl

theorem toldFinished_mem (u : State) : (toldFinished s k q c code u).mem = u.mem := by
  unfold toldFinished
  split <;> rfl

theorem toldFinished_core (u : State) (j : Nat) : (toldFinished s k q c code u).core j = u.core j := by
  rw [State.core, toldFinished_cores]
  rfl

theorem toldFinished_orphan (horphan : c.orphan = true) (u : State) : toldFinished s k q c code u = u :=
  if_neg fun h => by simp [horphan] at h

theorem queueCmds_toldFinished (u : State) : queueCmds (toldFinished s k q c code u) k q = queueCmds u k q := by
  rw [queueCmds, toldFinished_core]
  rfl

theorem fifo_toldFinished (u : State) (n : Nat) : fifo (toldFinished s k q c code u) k n = fifo u k n := by
  rw [fifo, toldFinished_core]
  rfl

variable (hs : s.self = .queue k q pos) (hq : queueCmds s k q = c :: rest) (hph : c.phase = .done code)
  (hclosed : closes (cmdOpcode c.word) = true → closing s k = false)

include hs hq hph hclosed

/-- The head of a queue that may retire: with a code to push, once its FIFO takes it. -/
theorem commandRetire_head : exec .commandRetire s =
    if (cmdFields c.word).sigEn ∧ c.orphan = false then
      if fifoFull s k (cmdFields c.word).sigF.toNat || pushAhead s k (cmdFields c.word).sigF.toNat q then .next s
      else .next (toldFinished s k q c code (fifoPush (setQueue s k q rest) k (cmdFields c.word).sigF.toNat code))
    else .next (toldFinished s k q c code (setQueue s k q rest)) := by
  show execCommandRetire s = _
  have hopen : ¬ (closes (cmdOpcode c.word) = true ∧ closing s k = true) := fun h => by simp [hclosed h.1] at h
  rw [execCommandRetire, hs]
  dsimp only
  rw [hq]
  dsimp only
  rw [hph]
  dsimp only
  rw [if_neg hopen]
  rfl

theorem commandRetire_silent (hno : (cmdFields c.word).sigEn = false ∨ c.orphan = true) :
    exec .commandRetire s = .next (toldFinished s k q c code (setQueue s k q rest)) := by
  rw [commandRetire_head hs hq hph hclosed, if_neg fun h => by rcases hno with h' | h' <;> simp [h'] at h]

theorem commandRetire_pushes (hen : (cmdFields c.word).sigEn = true) (hown : c.orphan = false)
    (hroom : (fifo s k (cmdFields c.word).sigF.toNat).length < 15) (hfirst : pushAhead s k (cmdFields c.word).sigF.toNat q = false) :
    exec .commandRetire s =
      .next (toldFinished s k q c code (fifoPush (setQueue s k q rest) k (cmdFields c.word).sigF.toNat code)) := by
  have hfull : fifoFull s k (cmdFields c.word).sigF.toNat = false := decide_eq_false (by omega)
  rw [commandRetire_head hs hq hph hclosed, if_pos ⟨hen, hown⟩, hfull, hfirst]
  rfl

theorem commandRetire_waits (hen : (cmdFields c.word).sigEn = true) (hown : c.orphan = false)
    (hwait : 15 ≤ (fifo s k (cmdFields c.word).sigF.toNat).length ∨ pushAhead s k (cmdFields c.word).sigF.toNat q = true) :
    exec .commandRetire s = .next s := by
  have hmust : (fifoFull s k (cmdFields c.word).sigF.toNat || pushAhead s k (cmdFields c.word).sigF.toNat q) = true := by
    rw [Bool.or_eq_true]
    exact hwait.imp_left decide_eq_true
  rw [commandRetire_head hs hq hph hclosed, if_pos ⟨hen, hown⟩, if_pos hmust]

end

/-- Settles O25: what ISSUE and ISSUEW leave in the queue, and the four ways of a command that is done. -/
theorem commandsEnterAndRetireInOrder : Obligations.CommandsEnterAndRetireInOrder := by
  unfold Obligations.CommandsEnterAndRetireInOrder
  refine ⟨fun q s k hs haw => ⟨fun e he => ⟨issue_noCommand hs haw false he, issue_noCommand hs haw true he⟩, fun hok hroom => ⟨?_, ?_⟩⟩,
    fun s k q pos c rest code hs hq hph hclosed => ⟨fun hno => ?_, fun hen hown hroom hfirst => ?_, fun hen hown hwait => ?_⟩⟩
  · let c := issuedCmd s k (rq s k q) true
    refine ⟨_, issue_enters (wait := true) hs haw hok hroom, ?_, ?_, c, queueCmds_issued s k c, rfl, rfl, rfl, rfl, rfl, rfl, rfl⟩
    · rw [pcOf, State.modThread_thread_same]
      rfl
    · rw [State.modThread_thread_same]
      rfl
  · intro hprecise
    let c := issuedCmd s k (rq s k q) false
    have hwaited : c.waited = false := hprecise
    refine ⟨issued s k c, ?_, rfl, c, queueCmds_issued s k c, rfl, rfl, rfl, rfl, rfl, rfl, hwaited⟩
    have henter := issue_enters (i := .issue q) (wait := false) hs haw hok hroom
    rwa [if_neg (by rw [hwaited]; decide)] at henter
  · refine ⟨_, commandRetire_silent hs hq hph hclosed hno, ?_, ?_, toldFinished_mem _, fun horphan => toldFinished_orphan horphan _⟩
    · rw [queueCmds_toldFinished, queueCmds_setQueue_same]
    · rw [toldFinished_core, setQueue_fifos]
  · refine ⟨_, commandRetire_pushes hs hq hph hclosed hen hown hroom hfirst, ?_, ?_⟩
    · rw [queueCmds_toldFinished, queueCmds_fifoPush, queueCmds_setQueue_same]
    · rw [fifo_toldFinished, fifo_fifoPush_same, fifo_setQueue]
  · exact commandRetire_waits hs hq hph hclosed hen hown hwait

end Sys2Proof.Machine
end

section
/-!
Lanes of a payload, and the word ops (19_ref_t_z.md R427 to R431): what an elementwise op makes, and what each op works out.
-/
namespace Sys2Proof.Machine

open Sys2Proof

/-! ### Lanes and flags of lanes -/

/-- A digit of a number put together from digits. -/
theorem foldr_digits {B : Nat} (hB : 0 < B) (n : Nat) (f : Nat → Nat) (hf : ∀ i, f i < B) :
    (∀ i < n, (List.range n).foldr (fun i acc => f i + B * acc) 0 / B ^ i % B = f i) ∧
      (List.range n).foldr (fun i acc => f i + B * acc) 0 < B ^ n := by
  induction n generalizing f with
  | zero => exact ⟨fun i hi => absurd hi (Nat.not_lt_zero i), Nat.one_pos⟩
  | succ n ih =>
    obtain ⟨hdigit, hlt⟩ := ih (fun i => f (i + 1)) fun i => hf (i + 1)
    rw [List.range_succ_eq_map, List.foldr_cons, List.foldr_map]
    refine ⟨fun i hi => ?_, ?_⟩
    · cases i with
      | zero => rw [pow_zero, Nat.div_one, Nat.add_mul_mod_self_left, Nat.mod_eq_of_lt (hf 0)]
      | succ i =>
        rw [pow_succ', ← Nat.div_div_eq_div_mul, Nat.add_mul_div_left _ _ hB, Nat.div_eq_of_lt (hf 0), Nat.zero_add]
        exact hdigit i (Nat.lt_of_succ_lt_succ hi)
    · calc f 0 + B * _ < B + B * _ := Nat.add_lt_add_right (hf 0) _
        _ = B * (_ + 1) := by rw [Nat.mul_succ, Nat.add_comm]
        _ ≤ B * B ^ n := Nat.mul_le_mul_left B hlt
        _ = B ^ (n + 1) := (pow_succ' B n).symm

/-- A lane of a payload is a digit of it. -/
theorem lane_ofNat {x : Nat} (hx : x < (2 ^ 32) ^ 16) (i : Nat) : (lane (BitVec.ofNat 512 x) i).toNat = x / (2 ^ 32) ^ i % 2 ^ 32 := by
  rw [← pow_mul] at hx
  rw [lane, BitVec.toNat_ofNat, BitVec.toNat_ofNat, Nat.mod_eq_of_lt hx, Nat.shiftRight_eq_div_pow, pow_mul]

@[simp] theorem lane_ofLanes (f : Nat → BitVec 32) {i : Nat} (hi : i < 16) : lane (ofLanes f) i = f i := by
  obtain ⟨hdigit, hlt⟩ := foldr_digits (B := 2 ^ 32) (Nat.two_pow_pos 32) 16 (fun i => (f i).toNat) fun i => (f i).isLt
  exact BitVec.eq_of_toNat_eq ((lane_ofNat hlt i).trans (hdigit i hi))

@[simp] theorem getLsbD_ofFlags (f : Nat → Bool) {i : Nat} (hi : i < 16) : (ofFlags f).getLsbD i = f i := by
  obtain ⟨hdigit, hlt⟩ := foldr_digits (B := 2) (by decide) 16 (fun i => if f i then 1 else 0) fun i => by split <;> decide
  rw [ofFlags, BitVec.getLsbD_ofNat, decide_eq_true hi, Bool.true_and, Nat.testBit_eq_decide_div_mod_eq, hdigit i hi]
  cases f i <;> rfl

theorem ofFlags_congr {f g : Nat → Bool} (h : ∀ i < 16, f i = g i) : ofFlags f = ofFlags g :=
  BitVec.eq_of_getLsbD_eq fun i hi => by rw [getLsbD_ofFlags f hi, getLsbD_ofFlags g hi, h i hi]

theorem ofLanes_congr {f g : Nat → BitVec 32} (h : ∀ i < 16, f i = g i) : ofLanes f = ofLanes g := by
  have hlanes : ∀ i ∈ List.range 16, f i = g i := fun i hi => h i (List.mem_range.1 hi)
  rw [ofLanes, ofLanes, List.foldr_ext _ _ 0 fun i hi acc => by rw [hlanes i hi]]

/-- A payload that is masked keeps nothing of a lane that is not valid. -/
theorem maskLanes_ofLanes (v : Nat → Bool) (x : Nat → BitVec 32) :
    maskLanes (ofFlags v) (ofLanes x) = maskLanes (ofFlags v) (ofLanes fun l => if v l then x l else 0) := by
  refine ofLanes_congr fun i hi => ?_
  rw [getLsbD_ofFlags v hi, lane_ofLanes x hi, lane_ofLanes _ hi]
  cases v i <;> rfl

/-! ### What an elementwise op makes (R428) -/

theorem getLsbD_foldl_or {α : Type} (h : α → Float.Fl) (b : Nat) (l : List α) (z : Float.Fl) :
    (l.foldl (fun a e => a ||| h e) z).getLsbD b = (z.getLsbD b || l.any fun e => (h e).getLsbD b) := by
  induction l generalizing z with
  | nil => simp
  | cons e l ih => rw [List.foldl_cons, ih, BitVec.getLsbD_or, List.any_cons, Bool.or_assoc]

section

variable {ty : Nat} (hty : ty ≠ 5) (o : List Token) (g : List Nat → Nat × Float.Fl)

/-- Element i is valid where every operand's is. -/
def allValid (o : List Token) (i : Nat) : Bool := o.all fun t => t.valid.getLsbD i

/-- What an elementwise op makes of the elements numbered i. -/
def elemOf (ty : Nat) (o : List Token) (g : List Nat → Nat × Float.Fl) (i : Nat) : Nat × Float.Fl :=
  if allValid o i then g (o.map fun t => rawElem ty t.payload i) else (0, 0)

include hty

theorem elementwise_eq : elementwise ty o g =
    (ofFlags (allValid o), ofLanes (fun i => if allValid o i then BitVec.ofNat 32 (((List.range 16).map (elemOf ty o g)).getD i (0, 0)).1 else 0),
      ((List.range 16).map (elemOf ty o g)).foldl (fun a e => a ||| e.2) 0) := by
  have hvalid : (fun i => o.all fun t => elemValid ty t.valid i) = allValid o := by
    funext i
    simp only [elemValid, if_neg hty, allValid]
  have hcount : elems ty = 16 := if_neg hty
  unfold elementwise
  dsimp only
  rw [hcount, fromElems, if_neg hty]
  simp only [congrFun hvalid]
  rfl

theorem elementwise_valid {i : Nat} (hi : i < 16) : (elementwise ty o g).1.getLsbD i = allValid o i := by
  rw [elementwise_eq hty, getLsbD_ofFlags _ hi]

theorem elementwise_lane {i : Nat} (hi : i < 16) :
    lane (elementwise ty o g).2.1 i = if allValid o i then BitVec.ofNat 32 (g (o.map fun t => rawElem ty t.payload i)).1 else 0 := by
  rw [elementwise_eq hty]
  dsimp only
  rw [lane_ofLanes _ hi]
  split
  next hv => rw [List.getD_eq_getElem?_getD, List.getElem?_map, List.getElem?_range hi, Option.map_some, Option.getD_some, elemOf, if_pos hv]
  next => rfl

theorem elementwise_flag (b : Nat) : (elementwise ty o g).2.2.getLsbD b = true ↔
    ∃ i < 16, allValid o i = true ∧ (g (o.map fun t => rawElem ty t.payload i)).2.getLsbD b = true := by
  have hzero : (0 : Float.Fl).getLsbD b = false := BitVec.getLsbD_zero
  rw [elementwise_eq hty]
  dsimp only
  rw [getLsbD_foldl_or, hzero, Bool.false_or, List.any_map, List.any_eq_true]
  constructor
  · rintro ⟨i, hi, h⟩
    rw [Function.comp, elemOf] at h
    split at h
    next hv => exact ⟨i, List.mem_range.1 hi, hv, h⟩
    next => rw [hzero] at h; cases h
  · rintro ⟨i, hi, hv, h⟩
    refine ⟨i, List.mem_range.2 hi, ?_⟩
    rwa [Function.comp, elemOf, if_pos hv]

end

/-- Settles O29: the lanes, validity and flags that an elementwise op makes. -/
theorem elementwiseResult : Obligations.ElementwiseResult := by
  intro ty o g hty
  refine ⟨fun i hi => elementwise_valid hty o g hi, fun i hi hv => ?_, fun i hi hv => ?_, fun b => ?_⟩
  · rw [elementwise_valid hty o g hi] at hv
    rw [elementwise_lane hty o g hi, if_pos hv]
  · rw [elementwise_valid hty o g hi] at hv
    rw [elementwise_lane hty o g hi, hv, if_neg Bool.false_ne_true]
  · refine (elementwise_flag hty o g b).trans (exists_congr fun i => and_congr_right fun hi => ?_)
    rw [elementwise_valid hty o g hi]

/-! ### Arithmetic (R427, R430) -/

theorem intElem_zero (ty : Nat) : intElem ty 0 = 0 := by
  unfold intElem sextN
  simp

theorem getD_map_intElem (ty : Nat) (l : List Nat) (n : Nat) : (l.map (intElem ty)).getD n 0 = intElem ty (arg l n) := by
  rw [arg, List.getD_eq_getElem?_getD, List.getD_eq_getElem?_getD, List.getElem?_map]
  cases l[n]? with
  | none => exact (intElem_zero ty).symm
  | some x => rfl

theorem arith_eq (st : Site) (f : Slot) (ty : Nat) (fl : Float.Fmt → Float.Mode → List Nat → Nat × Float.Fl) (int : List Int → Int) (l : List Nat) :
    arith st f ty fl int l = if ty ≤ 2 then fl (fmtOf ty) (modeOf st f) l else finInt ty (satOf f) (int (l.map (intElem ty))) := by
  unfold arith isFloat
  split <;> simp_all

theorem minMax_eq (ty : Nat) (wantMax : Bool) (x y : Nat) : minMax ty wantMax x y =
    if ty ≤ 2 then Float.minmax (fmtOf ty) wantMax x y
    else (placeInt ty (if wantMax then (if intElem ty x < intElem ty y then intElem ty y else intElem ty x)
      else (if intElem ty y < intElem ty x then intElem ty y else intElem ty x)), 0) := by
  unfold minMax isFloat
  split <;> simp_all

section

variable {f : Slot} {s : State} {st : Site} {k : Taken} {g' : List Nat → Nat × Float.Fl}

theorem wordE_one {g : Site → Nat → List Nat → Nat × Float.Fl} (h : Fires s st (wordTakes f [f.a] (immHow (typeE f))) k)
    (hg : ∀ l, g st (typeE f) l = g' l) : wordE s f false g = .next (wordFired st f k (elementwise (typeE f) k.opnds g')) := by
  rw [← funext hg]
  exact wordOp_fires s f [f.a] (immHow (typeE f)) (fun st o => elementwise (typeE f) o (g st (typeE f))) st k h

theorem wordE_two {g : Site → Nat → List Nat → Nat × Float.Fl} (h : Fires s st (wordTakes f [f.a, f.b] (immHow (typeE f))) k)
    (hg : ∀ l, g st (typeE f) l = g' l) : wordE s f true g = .next (wordFired st f k (elementwise (typeE f) k.opnds g')) := by
  rw [← funext hg]
  exact wordOp_fires s f [f.a, f.b] (immHow (typeE f)) (fun st o => elementwise (typeE f) o (g st (typeE f))) st k h

theorem wordT_three {g : Site → Nat → List Nat → Nat × Float.Fl} (h : Fires s st (wordTakes f [f.a, f.b, thirdOf f] (immHow (typeT f))) k)
    (hg : ∀ l, g st (typeT f) l = g' l) : wordT s f g = .next (wordFired st f k (elementwise (typeT f) k.opnds g')) := by
  rw [← funext hg]
  exact wordOp_fires s f [f.a, f.b, thirdOf f] (immHow (typeT f)) (fun st o => elementwise (typeT f) o (g st (typeT f))) st k h

end

/-- An integer compare picks its condition from the difference. -/
theorem cmpElem_int {ty : Nat} (hty : 3 ≤ ty) (x y : Nat) :
    cmpElem ty 0 x y = (decide (intElem ty x = intElem ty y), 0) ∧ cmpElem ty 1 x y = (decide (intElem ty x ≠ intElem ty y), 0) ∧
      cmpElem ty 2 x y = (decide (intElem ty x < intElem ty y), 0) ∧ cmpElem ty 3 x y = (decide (intElem ty x ≤ intElem ty y), 0) := by
  have hint : isFloat ty = false := decide_eq_false (by omega)
  unfold cmpElem
  simp only [hint, Bool.false_eq_true, if_false, Bool.not_false, Bool.true_and, Bool.false_or, Prod.mk.injEq, and_true, decide_eq_decide]
  refine ⟨?_, ?_, ?_, ?_⟩ <;> omega

/-- Settles O30: each arithmetic op on its elements, and the conditions of VCMP on integers. -/
theorem wordArithmetic : Obligations.WordArithmetic := by
  refine ⟨fun f s st k => ?_, fun ty x y hty _ => cmpElem_int hty x y⟩
  refine ⟨fun h => (wordE_two h fun l => ?_ : execVadd f s = _),
    fun h => (wordE_two h fun l => ?_ : execVsub f s = _),
    fun h => (wordE_two h fun l => ?_ : execVmul f s = _),
    fun h => (wordT_three h fun l => ?_ : execVfma f s = _),
    fun h => (wordE_two h fun l => minMax_eq _ false _ _ : execVmin f s = _),
    fun h => (wordE_two h fun l => minMax_eq _ true _ _ : execVmax f s = _),
    fun h => (wordE_one h fun l => ?_ : execVabs f s = _),
    fun h => (wordE_one h fun l => ?_ : execVneg f s = _),
    fun h => (wordE_two h fun l => rfl : execVcmp f s = _),
    fun h => (wordT_three h fun l => rfl : execVclamp f s = _),
    fun h => (wordE_one h fun l => rfl : execVsinpi f s = _),
    fun h => (wordE_one h fun l => rfl : execVcospi f s = _),
    fun h => (wordE_one h fun l => rfl : execVexp2 f s = _),
    fun h => (wordE_one h fun l => rfl : execVrcp f s = _),
    fun h => (wordE_one h fun l => rfl : execVrsq f s = _)⟩
  case refine_5 | refine_6 =>
    simp only [isFloat, decide_eq_true_eq]
    rfl
  all_goals simp only [arith_eq, getD_map_intElem]

/-! ### Bit patterns and moves of lanes (R430, R431) -/

section

variable {f : Slot} {s : State} {st : Site} {k : Taken} {srcs : List (BitVec 4)} {how : Nat}

/-- A word op that makes lanes x, valid where v is, leaves none of an invalid lane (03_fabric.md R53). -/
theorem wordOp_lanes {body : Site → List Token → WordRes} (h : Fires s st (wordTakes f srcs how) k) {v : Nat → Bool} {x : Nat → BitVec 32}
    (hbody : body st k.opnds = (ofFlags v, ofLanes x, 0)) :
    wordOp s f srcs how body = .next (wordFired st f k (ofFlags v, ofLanes (fun l => if v l then x l else 0), 0)) := by
  rw [wordOp_fires s f srcs how body st k h, hbody, wordFired, wordFired, resultTok, resultTok, maskLanes_ofLanes v x]

theorem opnds_one {a : BitVec 4} (h : Fires s st (wordTakes f [a] how) k) : k.opnds = [k.opnds.getD 0 {}] := by
  obtain ⟨t, ht⟩ := List.length_eq_one_iff.1 (takes_length s st _ k h.taken)
  rw [ht]
  rfl

theorem opnds_two {a b : BitVec 4} (h : Fires s st (wordTakes f [a, b] how) k) : k.opnds = [k.opnds.getD 0 {}, k.opnds.getD 1 {}] := by
  obtain ⟨t, u, ht⟩ := List.length_eq_two.1 (takes_length s st _ k h.taken)
  rw [ht]
  rfl

/-- A lane op with one source. -/
theorem wordL_one {g : List (BitVec 32) → BitVec 32} {x : BitVec 32 → BitVec 32} (h : Fires s st (wordTakes f [f.a] 2) k)
    (hg : ∀ a, g [a] = x a) : wordL s f false g = .next (wordFired st f k
      (ofFlags (fun l => (k.opnds.getD 0 {}).valid.getLsbD l),
        ofLanes (fun l => if (k.opnds.getD 0 {}).valid.getLsbD l then x (lane (k.opnds.getD 0 {}).payload l) else 0), 0)) := by
  show wordOp s f [f.a] 2 (fun _ o => lanewise o g) = _
  rw [wordOp_fires s f _ _ _ st k h, lanewise, opnds_one h]
  simp [hg]

/-- A lane op with two sources. -/
theorem wordL_two {g : List (BitVec 32) → BitVec 32} {x : BitVec 32 → BitVec 32 → BitVec 32} (h : Fires s st (wordTakes f [f.a, f.b] 2) k)
    (hg : ∀ a b, g [a, b] = x a b) : wordL s f true g = .next (wordFired st f k
      (ofFlags (fun l => (k.opnds.getD 0 {}).valid.getLsbD l && (k.opnds.getD 1 {}).valid.getLsbD l),
        ofLanes (fun l => if (k.opnds.getD 0 {}).valid.getLsbD l && (k.opnds.getD 1 {}).valid.getLsbD l then
          x (lane (k.opnds.getD 0 {}).payload l) (lane (k.opnds.getD 1 {}).payload l) else 0), 0)) := by
  show wordOp s f [f.a, f.b] 2 (fun _ o => lanewise o g) = _
  rw [wordOp_fires s f _ _ _ st k h, lanewise, opnds_two h]
  simp [hg]

end

/-- VCNT counts ones, leading zeros or trailing zeros as its modifier says. -/
theorem vcnt_cases (n x : Nat) : BitVec.ofNat 32 (match n with | 0 => popCount 32 x | 1 => leadZeros 32 x | _ => trailZeros 32 x) =
    BitVec.ofNat 32 (if n = 0 then popCount 32 x else if n = 1 then leadZeros 32 x else trailZeros 32 x) := by
  match n with
  | 0 => rfl
  | 1 => rfl
  | n + 2 => rfl

/-- Settles O31: the lane ops by their lanes, the moves by the lanes they name. -/
theorem wordBitAndLaneOps : Obligations.WordBitAndLaneOps := by
  intro f s st k
  have hpartner : field f.m 8 6 = f.m.toNat / 64 % 8 := field_eq_div_mod f.m 8 6
  have hn : field f.m 5 2 = f.m.toNat / 4 % 16 := field_eq_div_mod f.m 5 2
  have hlow : field f.m 1 0 = f.m.toNat % 4 := field_low 1
  refine ⟨fun h => (wordL_two (x := (· &&& ·)) h fun a b => rfl : execVand f s = _),
    fun h => (wordL_two (x := (· ||| ·)) h fun a b => rfl : execVor f s = _),
    fun h => (wordL_two (x := (· ^^^ ·)) h fun a b => rfl : execVxor f s = _),
    fun h => (wordL_two (x := fun a b => a <<< (b.toNat % 32)) h fun a b => rfl : execVshl f s = _),
    fun h => (wordL_two (x := fun a b => a >>> (b.toNat % 32)) h fun a b => rfl : execVshr f s = _),
    fun h => (wordL_two (x := fun a b => a.sshiftRight (b.toNat % 32)) h fun a b => rfl : execVsar f s = _),
    fun h => (wordL_one (x := fun a => a) h fun a => rfl : execVmov f s = _), fun h => (?_ : execVcnt f s = _),
    fun h => (?_ : execVsel f s = _), fun h => (?_ : execVperm f s = _), fun h => (?_ : execVbcast f s = _),
    fun h => (?_ : execViota f s = _), fun h => (?_ : execVpswap f s = _)⟩
  · rw [← hlow]
    exact wordL_one (x := fun a => BitVec.ofNat 32 (if field f.m 1 0 = 0 then popCount 32 a.toNat
      else if field f.m 1 0 = 1 then leadZeros 32 a.toNat else trailZeros 32 a.toNat)) h fun a => vcnt_cases _ _
  · refine wordOp_lanes h ?_
    refine Prod.ext (ofFlags_congr fun i _ => ?_) (Prod.ext (ofLanes_congr fun i _ => ?_) rfl)
    · exact congrArg _ (apply_ite (fun t : Token => t.valid.getLsbD i) _ _ _)
    · exact apply_ite (fun t : Token => lane t.payload i) _ _ _
  · exact wordOp_lanes h rfl
  · rw [← hn]
    exact wordOp_lanes h rfl
  · rw [← hlow]
    exact wordOp_lanes h rfl
  · rw [← hpartner]
    refine wordOp_lanes h ?_
    simp only [Bool.and_eq_true, decide_eq_true_eq]

end Sys2Proof.Machine
end

section
/-!
The routing ops and LUTOP (16_ref_d_l.md R350, R355, R369, 17_ref_m_r.md R379, R384, 18_ref_s.md R399, R412, R416, 19_ref_t_z.md R418,
R419): what each sends, keeps or faults with.
-/
namespace Sys2Proof.Machine

open Sys2Proof

/-! ### A routing op by what its act answers -/

section

variable {f : Slot} {s : State} {st : Site} {k : Taken} {srcs : List (BitVec 4)} {dests : List Nat} {act : Taken → Site → Fired}

theorem routeOp_sends (h : Ready s st (routeTakes f srcs dests) k) {s' : State} {outs : List (Nat × Token)}
    (hact : act k st = .ok (s', outs)) : routeOp s f srcs dests act = .next (sends st k s' outs) := by
  rw [routeOp_ready s st f srcs dests act k h, hact]

theorem routeOp_faults (h : Ready s st (routeTakes f srcs dests) k) {c : Code} (hact : act k st = .error c) :
    routeOp s f srcs dests act = .next (tileFault s st c (segOf k.toks)) := by
  rw [routeOp_ready s st f srcs dests act k h, hact]

/-- An op that looks at its site first is the routing op that it picks there. -/
theorem onTile_of_ready (h : Ready s st (routeTakes f srcs dests) k) (g : Site → Res) : onTile s g = g st :=
  onTile_ready s st g h.turn h.site

end

section

variable {f : Slot} {s : State} {st : Site} {k : Taken}

/-! ### PASS, DROP, STEER, TAGCHK -/

theorem pass_sends (h : Ready s st (routeTakes f [f.a] [f.d.toNat]) k) : execPass f s = .next (sends st k
    (if (tok k 0).kind = kDIGIT ∧ (slotSt k.s st).passTag ≠ some (tok k 0).tag then
      setSlotSt k.s st { slotSt k.s st with passTag := some (tok k 0).tag, passKill := [] } else k.s)
    [(f.d.toNat, forwarded f (tok k 0))]) := routeOp_sends h rfl

theorem drop_sends (h : Ready s st (routeTakes f [f.a] [f.d.toNat]) k) : execDrop f s = .next (sends st k k.s
    (if f.m.getLsbD 0 = true ∧ (tok k 0).kind ≠ kNULL ∧ (tok k 0).valid ≠ 0 then [(f.d.toNat, forwarded f (tok k 0))] else [])) := by
  refine routeOp_sends h ?_
  by_cases hkeep : f.m.getLsbD 0 = true ∧ (tok k 0).kind ≠ kNULL ∧ (tok k 0).valid ≠ 0
  · have hnot : ¬ (f.m.getLsbD 0 = false ∨ (tok k 0).kind = kNULL ∨ (tok k 0).valid = 0) := by
      rintro (h' | h' | h')
      · exact absurd (h' ▸ hkeep.1) Bool.false_ne_true
      · exact hkeep.2.1 h'
      · exact hkeep.2.2 h'
    rw [if_pos hkeep]
    exact if_neg hnot
  · have hgone : f.m.getLsbD 0 = false ∨ (tok k 0).kind = kNULL ∨ (tok k 0).valid = 0 := by
      by_contra h'
      push Not at h'
      exact hkeep ⟨Bool.of_not_eq_false h'.1, h'.2⟩
    rw [if_neg hkeep]
    exact if_pos hgone

/-- STEER by lane l of the token it tests. -/
def steerTo (f : Slot) (tested : Token) (l : Nat) : Nat :=
  if tested.kind ≠ kNULL ∧ tested.valid.getLsbD l = true ∧ lane tested.payload l ≠ 0 then f.d.toNat else f.m.toNat % 4

theorem steerTo_eq (f : Slot) (t : Token) (l : Nat) :
    (if (decide (t.kind ≠ kNULL) && t.valid.getLsbD l && decide (lane t.payload l ≠ 0)) = true then f.d.toNat else field f.m 1 0) =
      steerTo f t l := by
  simp only [Bool.and_eq_true, decide_eq_true_eq, and_assoc, steerTo, field_low]
  rfl

/-- What STEER tests, where, and by which sources. -/
theorem execSteer_eq (f : Slot) (s : State) : execSteer f s =
    routeOp s f (if f.m.getLsbD 8 then [f.a, f.b] else [f.a]) [f.d.toNat, f.m.toNat % 4] (fun k _ =>
      let tested := if f.m.getLsbD 8 then tok k 1 else tok k 0
      if tested.kind = kDIGIT then .error fcTOKEN
      else .ok (k.s, [(steerTo f tested (if f.m.getLsbD 8 then 0 else f.m.toNat / 4 % 16), forwarded f (tok k 0))])) := by
  have hn : field f.m 5 2 = f.m.toNat / 4 % 16 := field_eq_div_mod f.m 5 2
  have hlow : field f.m 1 0 = f.m.toNat % 4 := field_low 1
  simp only [← steerTo_eq]
  rw [← hn, ← hlow]
  rfl

theorem steer_byA (hm : f.m.getLsbD 8 = false) (h : Ready s st (routeTakes f [f.a] [f.d.toNat, f.m.toNat % 4]) k)
    (hk : (tok k 0).kind ≠ kDIGIT) :
    execSteer f s = .next (sends st k k.s [(steerTo f (tok k 0) (f.m.toNat / 4 % 16), forwarded f (tok k 0))]) := by
  rw [execSteer_eq, hm]
  exact routeOp_sends h (if_neg hk)

theorem steer_byB (hm : f.m.getLsbD 8 = true) (h : Ready s st (routeTakes f [f.a, f.b] [f.d.toNat, f.m.toNat % 4]) k)
    (hk : (tok k 1).kind ≠ kDIGIT) : execSteer f s = .next (sends st k k.s [(steerTo f (tok k 1) 0, forwarded f (tok k 0))]) := by
  rw [execSteer_eq, hm]
  exact routeOp_sends h (if_neg hk)

theorem steer_digitA (hm : f.m.getLsbD 8 = false) (h : Ready s st (routeTakes f [f.a] [f.d.toNat, f.m.toNat % 4]) k)
    (hk : (tok k 0).kind = kDIGIT) : execSteer f s = .next (tileFault s st fcTOKEN (segOf k.toks)) := by
  rw [execSteer_eq, hm]
  exact routeOp_faults h (if_pos hk)

theorem steer_digitB (hm : f.m.getLsbD 8 = true) (h : Ready s st (routeTakes f [f.a, f.b] [f.d.toNat, f.m.toNat % 4]) k)
    (hk : (tok k 1).kind = kDIGIT) : execSteer f s = .next (tileFault s st fcTOKEN (segOf k.toks)) := by
  rw [execSteer_eq, hm]
  exact routeOp_faults h (if_pos hk)

theorem tagchk_sends (h : Ready s st (routeTakes f [f.a, f.b] [f.d.toNat]) k) (htag : (tok k 0).tag = (tok k 1).tag) :
    execTagchk f s = .next (sends st k k.s [(f.d.toNat, forwarded f (tok k 0))]) := routeOp_sends h (if_pos htag)

theorem tagchk_nulls (h : Ready s st (routeTakes f [f.a, f.b] [f.d.toNat]) k) (htag : (tok k 0).tag ≠ (tok k 1).tag)
    (hm : f.m.getLsbD 0 = true) : execTagchk f s = .next (sends st k k.s [(f.d.toNat, nullOf f (tok k 0))]) :=
  routeOp_sends h ((if_neg htag).trans (if_pos hm))

theorem tagchk_faults (h : Ready s st (routeTakes f [f.a, f.b] [f.d.toNat]) k) (htag : (tok k 0).tag ≠ (tok k 1).tag)
    (hm : f.m.getLsbD 0 = false) : execTagchk f s = .next (tileFault s st fcTAG (segOf k.toks)) :=
  routeOp_faults h ((if_neg htag).trans (if_neg (ne_true_of_eq_false hm)))

/-! ### TAGSET (R419) -/

theorem tagset_copies (hm : f.m.getLsbD 0 = true) (h : Ready s st (routeTakes f [f.a, f.b] [f.d.toNat]) k) :
    execTagset f s = .next (sends st k k.s [(f.d.toNat, tagged f (tok k 0) (tok k 1).tag)]) := by
  rw [execTagset, if_pos hm]
  exact routeOp_sends h rfl

theorem tagset_waits (hm : f.m.getLsbD 0 = false) (hturn : s.self = .tile st.k st.y st.x st.n)
    (hsite : siteOf s st.k st.y st.x st.n = some st) (hwait : freeTag st.ctx = none ∨ allocAhead s st = true) :
    execTagset f s = .next s := by
  rw [execTagset, if_neg (ne_true_of_eq_false hm), onTile_ready s st _ hturn hsite]
  cases hfree : freeTag st.ctx with
  | none => rfl
  | some g => exact if_pos (hwait.resolve_left (by rw [hfree]; exact Option.some_ne_none g))

/-- With a tag to grant and no tile before it, TAGSET runs as a routing op. -/
theorem tagset_grants {g : Nat} (hm : f.m.getLsbD 0 = false) (hfree : freeTag st.ctx = some g) (hfirst : allocAhead s st = false)
    (h : Ready s st (routeTakes f [f.a] [f.d.toNat]) k) : execTagset f s = .next
      (if (tok k 0).kind = kNULL then sends st k k.s [(f.d.toNat, { forwarded f (tok k 0) with tag := 0 })]
       else sends st k (modCtx k.s st.k st.j st.c (fun x => { x with tags := x.tags ++ [(g, (tok k 0).seg)] }))
        [(f.d.toNat, tagged f (tok k 0) (BitVec.ofNat 12 g))]) := by
  rw [execTagset, if_neg (ne_true_of_eq_false hm), onTile_of_ready h]
  dsimp only
  rw [hfree]
  refine (if_neg (ne_true_of_eq_false hfirst)).trans ?_
  split
  next hnull => exact routeOp_sends h (if_pos hnull)
  next hdata => exact routeOp_sends h (if_neg hdata)

theorem tagged_digit {t : Token} (h : t.kind = kDIGIT) (tag : BitVec 12) : tagged f t tag = forwarded f t := if_pos h

theorem tagged_other {t : Token} (h : t.kind ≠ kDIGIT) (tag : BitVec 12) : tagged f t tag = { forwarded f t with tag } := if_neg h

/-! ### SEGMARK (R399) -/

theorem segmark_digit (h : Ready s st (routeTakes f [f.a] [f.d.toNat]) k) (hk : (tok k 0).kind = kDIGIT) :
    execSegmark f s = .next (tileFault s st fcTOKEN (segOf k.toks)) := routeOp_faults h (if_pos hk)

/-- SEGMARK forms a control token. -/
def marks (f : Slot) (t : Token) : Bool :=
  decide (t.kind = kWORD) && t.valid.getLsbD 0 && (f.m.getLsbD 0 || decide (lane t.payload 0 ≠ 0))

/-- The control token that it forms. -/
def markToken (f : Slot) (st : Site) (k : Taken) : Token :=
  { kind := if f.m.getLsbD 0 then kMARK else kORDER, slot := f.n, tag := Config.resultTag k.s.tick, seg := (tok k 0).seg
    payload := if f.m.getLsbD 0 then (lane (tok k 0).payload 0).zeroExtend 512
      else (st.imm.zeroExtend 512 : Lanes) <<< (if f.m.getLsbD 1 then 16 else 0) }

theorem segmark_sends (h : Ready s st (routeTakes f [f.a] [f.d.toNat]) k) (hk : (tok k 0).kind ≠ kDIGIT) :
    execSegmark f s = .next (sends st k (if marks f (tok k 0) then addOut k.s st f.d.toNat [markToken f st k] else k.s)
      [(f.d.toNat, forwarded f (tok k 0))]) := routeOp_sends h (if_neg hk)

/-! ### SPLIT, MERGE, ORDMERGE (R384, R412, R416) -/

theorem forwardFrom_sends {d : Nat} (h : Ready s st (routeTakes f [BitVec.ofNat 4 d] [f.d.toNat]) k) :
    forwardFrom s f d = .next (sends st k k.s [(f.d.toNat, forwarded f (tok k 0))]) := routeOp_sends h rfl

theorem split_sends {d : Nat} (hd : (if (slotSt s st).second then field f.m 1 0 else f.d.toNat) = d)
    (h : Ready s st (routeTakes f [f.a] [d]) k) : execSplit f s = .next (sends st k k.s [(d, forwarded f (tok k 0))]) := by
  rw [execSplit, onTile_of_ready h, hd]
  exact routeOp_sends h rfl

theorem merge_sends {e : Nat} (he : firstOf s st f = some e) (h : Ready s st (routeTakes f [BitVec.ofNat 4 e] [f.d.toNat]) k) :
    execMerge f s = .next (sends st k k.s [(f.d.toNat, forwarded f (tok k 0))]) := by
  rw [execMerge, onTile_of_ready h, he]
  exact forwardFrom_sends h

theorem ordmerge_sends {e : Nat} (hm : f.m.getLsbD 0 = false) (he : firstOf s st f = some e)
    (h : Ready s st (routeTakes f [BitVec.ofNat 4 e] [f.d.toNat]) k) :
    execOrdmerge f s = .next (sends st k k.s [(f.d.toNat, forwarded f (tok k 0))]) := by
  rw [execOrdmerge, onTile_of_ready h]
  dsimp only
  rw [if_neg (ne_true_of_eq_false hm), he]
  exact forwardFrom_sends h

theorem ordmerge_whole {e : BitVec 2} (hm : f.m.getLsbD 0 = true) (he : (slotSt s st).inSeg = some e)
    (h : Ready s st (routeTakes f [BitVec.ofNat 4 e.toNat] [f.d.toNat]) k) :
    execOrdmerge f s = .next (sends st k k.s [(f.d.toNat, forwarded f (tok k 0))]) := by
  rw [execOrdmerge, onTile_of_ready h]
  dsimp only
  rw [if_pos hm, he]
  exact forwardFrom_sends h

theorem ordmerge_between (hm : f.m.getLsbD 0 = true) (hturn : s.self = .tile st.k st.y st.x st.n)
    (hsite : siteOf s st.k st.y st.x st.n = some st) (hseg : (slotSt s st).inSeg = none) (hdata : (firstOf s st f).isSome = true) :
    execOrdmerge f s = .next (tileFault s st fcTOKEN (slotSt s st).expect) := by
  rw [execOrdmerge, onTile_ready s st _ hturn hsite]
  dsimp only
  rw [if_pos hm, hseg]
  exact if_pos hdata

/-! ### LUTOP (R70, R369) -/

/-- The tile after LUTOP: its enabled flip-flops take the outputs. -/
def lutStepped (s : State) (st : Site) (l : BitVec 64) : State :=
  s.modTile st.key (fun t => { t with lutff := ((s.tile st.key).lutff &&& ~~~st.cfg.lut.enable) ||| (l &&& st.cfg.lut.enable) })

theorem lutop_sends (h : Fires s st { srcs := [f.a], how := 2, dests := [(f.d.toNat, 1)], next := f.n } k) {q l : BitVec 64}
    (hq : (k.s.tile st.key).lutff = q) (hl : lutOut st.cfg.lut ((maskLanes (tok k 0).valid (tok k 0).payload).toNat % 2 ^ 128) q.toNat = l) :
    execLutop f s = .next (sends st k (lutStepped k.s st l)
      [(f.d.toNat, resultTok (lutStepped k.s st l) f 0xF (BitVec.ofNat 512 (l.toNat + q.toNat * 2 ^ 64)))]) := by
  subst hq hl
  rw [execLutop, onTile_fires s st _ k _ h]
  exact fireAt_fires s st _ k _ h

theorem lutStepped_bit (s : State) (st : Site) (l : BitVec 64) {b : Nat} (hb : b < 64) :
    ((lutStepped s st l).tile st.key).lutff.getLsbD b =
      if st.cfg.lut.enable.getLsbD b = true then l.getLsbD b else (s.tile st.key).lutff.getLsbD b := by
  rw [lutStepped, State.modTile_tile_same]
  simp only [BitVec.getLsbD_or, BitVec.getLsbD_and, BitVec.getLsbD_not, decide_eq_true hb, Bool.true_and]
  cases st.cfg.lut.enable.getLsbD b <;> simp

/-- The lanes of L and of the flip-flops in LUTOP's word. -/
theorem lutWord_lane (l q : BitVec 64) {i : Nat} (hi : i < 4) :
    lane (maskLanes 0xF (BitVec.ofNat 512 (l.toNat + q.toNat * 2 ^ 64))) i =
      if i < 2 then l.extractLsb' (32 * i) 32 else q.extractLsb' (32 * (i - 2)) 32 := by
  have hvalid : (0xF : BitVec 16).getLsbD i = true := by
    interval_cases i <;> rfl
  rw [maskLanes, lane_ofLanes _ (by omega), if_pos hvalid]
  have hx : l.toNat + q.toNat * 2 ^ 64 < (2 ^ 32) ^ 16 := by omega
  apply BitVec.eq_of_toNat_eq
  rw [lane_ofNat hx]
  interval_cases i <;> simp [BitVec.extractLsb'_toNat, Nat.shiftRight_eq_div_pow] <;> omega

end

/-- Settles O36: each routing op by what it sends, keeps or faults with. -/
theorem routingOps : Obligations.RoutingOps := by
  intro f s st k
  have hfield : field f.m 1 0 = f.m.toNat % 4 := field_low 1
  have hframe : field f.m 3 0 = f.m.toNat % 16 := field_low 3
  refine ⟨fun hk h => ?_, fun hk htag h => ?_, fun hk htag h => ?_, fun h => (routeOp_sends h rfl : execNullt f s = _),
    fun h => (drop_sends h : execDrop f s = _), fun h => ?_,
    fun hk hm h => (steer_byA hm h hk : execSteer f s = _), fun hk hm h => (steer_byB hm h hk : execSteer f s = _),
    fun hk hm h => (steer_digitA hm h hk : execSteer f s = _), fun hk hm h => (steer_digitB hm h hk : execSteer f s = _),
    fun htag hm h => (tagchk_faults h htag hm : execTagchk f s = _), fun htag h => (tagchk_sends h htag : execTagchk f s = _),
    fun htag hm h => (tagchk_nulls h htag hm : execTagchk f s = _), fun hm hk h => ?_, fun hm hk h => ?_,
    fun g hm hfree hfirst hk h => ?_, fun hm hfree hfirst hk h => ?_,
    fun hhere hm hwait => (tagset_waits hm hhere.1 hhere.2 hwait : execTagset f s = _), fun hk hv hm h => ?_, fun hk hv hne hm h => ?_,
    fun hk h => ?_, fun hk h => (segmark_digit h hk : execSegmark f s = _),
    fun hhere hm hseg hdata => (ordmerge_between hm hhere.1 hhere.2 hseg hdata : execOrdmerge f s = _), fun hside h => ?_,
    fun hside h => ?_, fun e he => ⟨fun h => (merge_sends he h : execMerge f s = _),
      fun hm h => (ordmerge_sends hm he h : execOrdmerge f s = _)⟩,
    fun e hm he h => (ordmerge_whole hm he h : execOrdmerge f s = _), fun h => ?_⟩
  · exact (pass_sends h).trans (by rw [if_neg fun hc => hk hc.1]; rfl)
  · exact (pass_sends h).trans (by rw [if_neg fun hc => hc.2 htag]; rfl)
  · exact (pass_sends h).trans (by rw [if_pos ⟨hk, htag⟩]; rfl)
  · rw [← hframe]
    exact (routeOp_sends h rfl : execFramest f s = _)
  · exact (tagset_copies hm h).trans (by rw [tagged_other hk]; rfl)
  · exact (tagset_copies hm h).trans (by rw [tagged_digit hk]; rfl)
  · exact (tagset_grants hm hfree hfirst h).trans (by rw [if_neg hk]; rfl)
  · obtain ⟨g, hg⟩ := Option.isSome_iff_exists.1 hfree
    exact (tagset_grants hm hg hfirst h).trans (by rw [if_pos hk]; rfl)
  · have hmarks : marks f (tok k 0) = true := by simp only [marks, hk, hv, hm, decide_true, Bool.true_and, Bool.true_or]
    refine (segmark_sends h (by rw [hk]; decide)).trans ?_
    rw [if_pos hmarks, markToken, hm]
    rfl
  · have hmarks : marks f (tok k 0) = true := by simp only [marks, hk, hv, hm, hne, decide_true, Bool.true_and, Bool.false_or, ne_eq, not_false_eq_true]
    refine (segmark_sends h (by rw [hk]; decide)).trans ?_
    rw [if_pos hmarks, markToken, hm]
    rfl
  · have hmarks : marks f (tok k 0) = false := by
      rcases hk with hk | ⟨hk, hv | ⟨hm, hz⟩⟩
      · rw [marks, hk]; rfl
      · simp only [marks, hv, Bool.and_false, Bool.false_and]
      · simp only [marks, hm, hz, ne_eq, not_true_eq_false, decide_false, Bool.or_false, Bool.and_false]
    have hdigit : (tok k 0).kind ≠ kDIGIT := by rcases hk with hk | ⟨hk, -⟩ <;> rw [hk] <;> decide
    exact (segmark_sends h hdigit).trans (by rw [if_neg (ne_true_of_eq_false hmarks)]; rfl)
  · exact (split_sends (if_neg (ne_true_of_eq_false hside)) h : execSplit f s = _)
  · exact (split_sends ((if_pos hside).trans hfield) h : execSplit f s = _)
  · refine ⟨_, _, lutop_sends h rfl rfl, rfl, lutWord_lane _ _ (i := 0) (by decide), lutWord_lane _ _ (i := 1) (by decide),
      lutWord_lane _ _ (i := 2) (by decide), lutWord_lane _ _ (i := 3) (by decide), fun b hb => lutStepped_bit _ _ _ hb⟩

end Sys2Proof.Machine
end

section
/-!
The tile-store ops (19_ref_t_z.md R421, R422): what each does at a slot that is ready, by what it takes and where it reads or writes.
-/
namespace Sys2Proof.Machine

open Sys2Proof

/-! ### What a firing leaves of a tile's ranges -/

/-- The ranges of site st's tile differ in no more than the token that a FIFO tile has released. -/
def sameStore (st : Site) (s t : State) : Prop := ∀ c, ∃ out, rangeOf t st.key c = { rangeOf s st.key c with out }

section

variable {st : Site} {s t u : State}

theorem sameStore_refl (s : State) : sameStore st s s := fun _ => ⟨_, rfl⟩

theorem sameStore.trans (hst : sameStore st s t) (htu : sameStore st t u) : sameStore st s u := fun c => by
  obtain ⟨out, h⟩ := hst c
  obtain ⟨out', h'⟩ := htu c
  exact ⟨out', by rw [h', h]⟩

theorem sameStore_foldl {α : Type} {g : State → α → State} (hg : ∀ s a, sameStore st s (g s a)) (l : List α) (s : State) :
    sameStore st s (l.foldl g s) := by
  induction l generalizing s with
  | nil => exact sameStore_refl s
  | cons a l ih => exact (hg s a).trans (ih (g s a))

theorem sameStore_modTile (s : State) (key : Nat) {f : Tile → Tile} (hf : ∀ t, (f t).ranges = t.ranges) :
    sameStore st s (s.modTile key f) := fun c => ⟨_, by rw [rangeOf_modTile s key st.key c f hf]⟩

theorem sameStore_popInput (s : State) (st : Site) (d : Nat) : sameStore st s (popInput s st d) := by
  intro c
  unfold popInput
  split
  · by_cases hc : c = st.c
    · subst hc
      exact ⟨[], rangeOf_modRange_same s st.key st.c _⟩
    · refine ⟨(rangeOf s st.key c).out, ?_⟩
      rw [rangeOf, tile_modRange_same, Map.modify, Map.get_set_ne _ _ _ _ _ hc]
      rfl
  · exact sameStore_modTile (f := fun t => { t with inp := Map.set [] t.inp d ((inputOf s st.key d).drop 1) }) s st.key (fun _ => rfl) c

theorem sameStore_gather {srcs : List (BitVec 4)} {how acc : Nat} {k : Taken} (h : gather s st srcs how acc = some k) :
    sameStore st s k.s := by
  have hpop : ∀ dirs : List Nat, sameStore st s
      (dirs.foldl (fun s d => (List.range (rateIn st d)).foldl (fun s _ => popInput s st d) s) s) := fun dirs =>
    sameStore_foldl (fun s d => sameStore_foldl (fun s _ => sameStore_popInput s st d) _ s) dirs s
  unfold gather at h
  simp only at h
  split at h
  · cases h
  · split at h
    · cases h
    · split at h
      · split at h
        · cases h
        · cases h
          exact sameStore_popInput s st _
      · cases h
        dsimp only
        split
        · exact hpop _
        · exact (hpop _).trans (sameStore_modTile _ _ fun _ => rfl)

theorem sameStore_aged (s : State) (st : Site) : sameStore st s (aged s st.key) := by
  unfold aged
  split
  · exact sameStore_refl s
  · exact sameStore_modTile s st.key fun _ => rfl

theorem sameStore_takes {t : Takes} {k : Taken} (h : takes s st t = some k) : sameStore st s k.s := by
  obtain ⟨k0, hk0, rfl⟩ := Option.map_eq_some_iff.1 h
  exact (sameStore_gather hk0).trans (sameStore_aged k0.s st)

end

/-! ### A tile-store op by what its act answers -/

/-- An offset that names a line of the buffer. -/
def lineOffset (st : Site) (o : Nat) : Prop := o % 64 = 0 ∧ o < bufSize st.cfg.cfg

theorem badOffset_line {st : Site} {o : Nat} (h : lineOffset st o) : ¬ badOffset st o = true := fun hbad => by
  obtain ⟨hline, hlt⟩ := h
  have := of_decide_eq_true hbad
  omega

theorem badOffset_noLine {st : Site} {o : Nat} (h : ¬ lineOffset st o) : badOffset st o = true := by
  refine decide_eq_true ?_
  by_contra hgood
  push Not at hgood
  exact h hgood

section

variable {f : Slot} {s : State} {st : Site} {k : Taken} {srcs : List (BitVec 4)} {rdy : Site → RangeSt → Bool}
  {act : Taken → Site → RangeSt → Fired}

/-- What a firing answers leaves the tile, or its fault is charged to the segment. -/
def firedRes (s : State) (st : Site) (k : Taken) : Fired → Res
  | .error c => .next (tileFault s st c (segOf k.toks))
  | .ok (s', outs) => .next (sends st k s' outs)

theorem storeOp_fired (h : Ready s st (routeTakes f srcs [f.d.toNat]) k) (hr : rdy st (rangeOf s st.key st.c) = true) :
    storeOp s f srcs rdy act = firedRes s st k (act k st (rangeOf s st.key st.c)) := by
  rw [storeOp_ready s st f srcs rdy act k h hr]
  cases act k st (rangeOf s st.key st.c) <;> rfl

end

/-! ### TRD and TFE (R421, R422) -/

/-- Where a firing of TRD reads: at the pointer, or where lane 0 of its token says. -/
def trdOffset (f : Slot) (r : RangeSt) (a : Token) : Option Nat := storeOffset r.rp (if f.m.getLsbD 0 then none else some a)

theorem trdOffset_pointer {f : Slot} (hm : f.m.getLsbD 0 = true) (r : RangeSt) (a : Token) : trdOffset f r a = some r.rp := by
  rw [trdOffset, hm]
  rfl

theorem trdOffset_lane {f : Slot} {a : Token} (hm : f.m.getLsbD 0 = false) (hv : a.valid.getLsbD 0 = true) (r : RangeSt) :
    trdOffset f r a = some ((lane a.payload 0).toNat % 2 ^ 15) := by
  rw [trdOffset, hm]
  exact if_pos hv

theorem trdOffset_none {f : Slot} {a : Token} (hm : f.m.getLsbD 0 = false) (hv : a.valid.getLsbD 0 = false) (r : RangeSt) :
    trdOffset f r a = none := by
  rw [trdOffset, hm]
  exact if_neg (ne_true_of_eq_false hv)

theorem trdOffset_named {f : Slot} {a : Token} (hn : f.m.getLsbD 0 = true ∨ a.valid.getLsbD 0 = true) (r : RangeSt) :
    trdOffset f r a = some (if f.m.getLsbD 0 = true then r.rp else (lane a.payload 0).toNat % 2 ^ 15) := by
  cases hm : f.m.getLsbD 0 with
  | true => exact trdOffset_pointer hm r a
  | false => exact trdOffset_lane hm (hn.resolve_left (by rw [hm]; decide)) r

/-- The read pointer after a firing that steps it. -/
def readStepped (step : Bool) (st : Site) (s : State) : State :=
  if step then modRange s st.key st.c (fun r => { r with rp := r.rp + 64 }) else s

/-- The write pointer after a firing that steps it. -/
def writeStepped (step : Bool) (st : Site) (s : State) : State :=
  if step then modRange s st.key st.c (fun r => { r with wp := r.wp + 64 }) else s

section

variable {f : Slot} {s : State} {st : Site} {k : Taken}

theorem word_notNull {t : Token} (h : t.kind = kWORD) : t.kind ≠ kNULL := by rw [h]; decide

theorem word_notDigit {t : Token} (h : t.kind = kWORD) : t.kind ≠ kDIGIT := by rw [h]; decide

section

variable (h : Ready s st (routeTakes f [f.a] [f.d.toNat]) k) (hr : readFull st.cfg.cfg (rangeOf s st.key st.c) = true)

include h hr

theorem trd_null (hk : (tok k 0).kind = kNULL) :
    execTrd f s = .next (sends st k (readStepped (f.m.getLsbD 0) st k.s) [(f.d.toNat, nullOf f (tok k 0))]) := by
  rw [execTrd, storeOp_fired h hr]
  exact congrArg (firedRes s st k) (if_pos hk)

theorem trd_digit (hk : (tok k 0).kind = kDIGIT) (hm : f.m.getLsbD 0 = false) :
    execTrd f s = .next (tileFault s st fcTOKEN (segOf k.toks)) := by
  have hnull : (tok k 0).kind ≠ kNULL := by rw [hk]; decide
  rw [execTrd, storeOp_fired h hr, hm]
  exact congrArg (firedRes s st k) ((if_neg hnull).trans (if_pos ⟨hk, rfl⟩))

theorem trd_unnamed (hk : (tok k 0).kind = kWORD) (hoff : trdOffset f (rangeOf s st.key st.c) (tok k 0) = none) :
    execTrd f s = .next (sends st k k.s [(f.d.toNat, nullOf f (tok k 0))]) := by
  rw [execTrd, storeOp_fired h hr]
  dsimp only
  rw [if_neg (word_notNull hk), if_neg fun hd => word_notDigit hk hd.1]
  change storeOffset _ _ = _ at hoff
  rw [hoff]
  rfl

/-- TRD on a word, at the place it reads. -/
theorem trd_at (hk : (tok k 0).kind = kWORD) {o : Nat} (hoff : trdOffset f (rangeOf s st.key st.c) (tok k 0) = some o) :
    execTrd f s =
      if badOffset st o then .next (tileFault s st fcTOKEN (segOf k.toks))
      else if poisoned k.s (bufferAt st (readBuf st.cfg.cfg (rangeOf s st.key st.c)) o) 64 then
        .next (tileFault s st fcECC (segOf k.toks))
      else .next (sends st k (readStepped (f.m.getLsbD 0) st k.s)
        [(f.d.toNat, readTok f (tok k 0) (readPay k.s (bufferAt st (readBuf st.cfg.cfg (rangeOf s st.key st.c)) o)))]) := by
  rw [execTrd, storeOp_fired h hr]
  dsimp only
  rw [if_neg (word_notNull hk), if_neg fun hd => word_notDigit hk hd.1]
  change storeOffset _ _ = _ at hoff
  rw [hoff]
  dsimp only
  rw [apply_ite (firedRes s st k), apply_ite (firedRes s st k)]
  rfl

theorem tfe_null (hk : (tok k 0).kind = kNULL) : execTfe f s = .next (sends st k k.s [(f.d.toNat, nullOf f (tok k 0))]) := by
  rw [execTfe, storeOp_fired h hr]
  exact congrArg (firedRes s st k) (if_pos hk)

theorem tfe_frees (hk : (tok k 0).kind ≠ kNULL) :
    execTfe f s = .next (sends st k (modRange k.s st.key st.c (RangeSt.emptied st.cfg.cfg)) [(f.d.toNat, forwarded f (tok k 0))]) := by
  rw [execTfe, storeOp_fired h hr]
  exact congrArg (firedRes s st k) (if_neg hk)

end

/-! ### TWR and TSWAP (R421, R422) -/

/-- A firing of TWR or TSWAP has a place: its pointer, or a valid lane 0 of the address token. -/
def storeNamed (f : Slot) (k : Taken) : Prop := f.b = 15 ∨ (tok k 1).valid.getLsbD 0 = true

/-- That place, from the pointer of the op's side. -/
def storeAtOffset (f : Slot) (k : Taken) (p : Nat) : Nat := if f.b = 15 then p else (lane (tok k 1).payload 0).toNat % 2 ^ 15

theorem storeOffset_named (hn : storeNamed f k) (p : Nat) :
    storeOffset p (if decide (f.b = 15) then none else some (tok k 1)) = some (storeAtOffset f k p) := by
  by_cases hb : f.b = 15
  · rw [decide_eq_true hb, storeAtOffset, if_pos hb]
    rfl
  · rw [decide_eq_false hb, storeAtOffset, if_neg hb]
    exact if_pos (hn.resolve_left hb)

theorem storeOffset_unnamed (hn : ¬ storeNamed f k) (p : Nat) :
    storeOffset p (if decide (f.b = 15) then none else some (tok k 1)) = none := by
  have hb : f.b ≠ 15 := fun hb => hn (.inl hb)
  rw [decide_eq_false hb]
  exact if_neg fun hv => hn (.inr hv)

theorem anyDigit_iff : k.toks.any (fun t => t.kind == kDIGIT) = true ↔ ∃ x ∈ k.toks, x.kind = kDIGIT := by
  simp only [List.any_eq_true, beq_iff_eq]

theorem noDigit (hno : ∀ x ∈ k.toks, x.kind ≠ kDIGIT) : ¬ k.toks.any (fun t => t.kind == kDIGIT) = true := fun hd => by
  obtain ⟨x, hx, hd⟩ := anyDigit_iff.1 hd
  exact hno x hx hd

variable (h : Ready s st (routeTakes f (storeSrcs f) [f.d.toNat]) k)

section

variable (hr : writeEmpty st.cfg.cfg (rangeOf s st.key st.c) = true)

include h hr

theorem twr_digit (hk : ∃ x ∈ k.toks, x.kind = kDIGIT) : execTwr f s = .next (tileFault s st fcTOKEN (segOf k.toks)) := by
  rw [execTwr, storeOp_fired h hr]
  exact congrArg (firedRes s st k) (if_pos (anyDigit_iff.2 hk))

variable (hno : ∀ x ∈ k.toks, x.kind ≠ kDIGIT)

include hno

theorem twr_null (hk : (tok k 0).kind = kNULL) :
    execTwr f s = .next (sends st k (writeStepped (decide (f.b = 15)) st k.s) [(f.d.toNat, nullOf f (tok k 0))]) := by
  rw [execTwr, storeOp_fired h hr]
  exact congrArg (firedRes s st k) ((if_neg (noDigit hno)).trans (if_pos hk))

theorem twr_unnamed (hk : (tok k 0).kind ≠ kNULL) (hn : ¬ storeNamed f k) :
    execTwr f s = .next (sends st k k.s [(f.d.toNat, forwarded f (tok k 0))]) := by
  rw [execTwr, storeOp_fired h hr]
  dsimp only
  rw [if_neg (noDigit hno), if_neg hk, storeOffset_unnamed hn]
  rfl

/-- TWR on words, at the place it has. -/
theorem twr_at (hk : (tok k 0).kind ≠ kNULL) (hn : storeNamed f k) {o : Nat}
    (ho : storeAtOffset f k (rangeOf s st.key st.c).wp = o) : execTwr f s =
      if badOffset st o then .next (tileFault s st fcTOKEN (segOf k.toks))
      else .next (sends st k (writeStepped (decide (f.b = 15)) st (writePay k.s
          (bufferAt st (writeBuf st.cfg.cfg (rangeOf s st.key st.c)) o) (tok k 0).valid (tok k 0).payload))
        [(f.d.toNat, forwarded f (tok k 0))]) := by
  rw [execTwr, storeOp_fired h hr]
  dsimp only
  rw [if_neg (noDigit hno), if_neg hk, storeOffset_named hn, ho]
  dsimp only
  rw [apply_ite (firedRes s st k)]
  rfl

end

section

variable (hr : readFull st.cfg.cfg (rangeOf s st.key st.c) = true)

include h hr

theorem tswap_digit (hk : ∃ x ∈ k.toks, x.kind = kDIGIT) : execTswap f s = .next (tileFault s st fcTOKEN (segOf k.toks)) := by
  rw [execTswap, storeOp_fired h hr]
  exact congrArg (firedRes s st k) (if_pos (anyDigit_iff.2 hk))

variable (hno : ∀ x ∈ k.toks, x.kind ≠ kDIGIT)

include hno

theorem tswap_null (hk : (tok k 0).kind = kNULL) :
    execTswap f s = .next (sends st k (readStepped (decide (f.b = 15)) st k.s) [(f.d.toNat, nullOf f (tok k 0))]) := by
  rw [execTswap, storeOp_fired h hr]
  exact congrArg (firedRes s st k) ((if_neg (noDigit hno)).trans (if_pos hk))

theorem tswap_unnamed (hk : (tok k 0).kind ≠ kNULL) (hn : ¬ storeNamed f k) :
    execTswap f s = .next (sends st k k.s [(f.d.toNat, nullOf f (tok k 0))]) := by
  rw [execTswap, storeOp_fired h hr]
  dsimp only
  rw [if_neg (noDigit hno), if_neg hk, storeOffset_unnamed hn]
  rfl

/-- TSWAP on words, at the place it has. -/
theorem tswap_at (hk : (tok k 0).kind ≠ kNULL) (hn : storeNamed f k) {o : Nat}
    (ho : storeAtOffset f k (rangeOf s st.key st.c).rp = o) : execTswap f s =
      if badOffset st o then .next (tileFault s st fcTOKEN (segOf k.toks))
      else if poisoned k.s (bufferAt st (readBuf st.cfg.cfg (rangeOf s st.key st.c)) o) 64 then
        .next (tileFault s st fcECC (segOf k.toks))
      else .next (sends st k (readStepped (decide (f.b = 15)) st (writePay k.s
          (bufferAt st (readBuf st.cfg.cfg (rangeOf s st.key st.c)) o) (tok k 0).valid (tok k 0).payload))
        [(f.d.toNat, readTok f (tok k 0) (readPay k.s (bufferAt st (readBuf st.cfg.cfg (rangeOf s st.key st.c)) o)))]) := by
  rw [execTswap, storeOp_fired h hr]
  dsimp only
  rw [if_neg (noDigit hno), if_neg hk, storeOffset_named hn, ho]
  dsimp only
  rw [apply_ite (firedRes s st k), apply_ite (firedRes s st k)]
  rfl

end

end

/-! ### Waiting for a buffer -/

section

variable {f : Slot} {s : State} {st : Site} (hturn : s.self = .tile st.k st.y st.x st.n) (hsite : siteOf s st.k st.y st.x st.n = some st)

include hturn hsite

theorem trd_waits (hr : readFull st.cfg.cfg (rangeOf s st.key st.c) = false) : execTrd f s = .next s := by
  rw [execTrd]
  exact storeOp_waits s st f _ _ _ hturn hsite hr

theorem tswap_waits (hr : readFull st.cfg.cfg (rangeOf s st.key st.c) = false) : execTswap f s = .next s := by
  rw [execTswap]
  exact storeOp_waits s st f _ _ _ hturn hsite hr

theorem tfe_waits (hr : readFull st.cfg.cfg (rangeOf s st.key st.c) = false) : execTfe f s = .next s := by
  rw [execTfe]
  exact storeOp_waits s st f _ _ _ hturn hsite hr

theorem twr_waits (hr : writeEmpty st.cfg.cfg (rangeOf s st.key st.c) = false) : execTwr f s = .next s := by
  rw [execTwr]
  exact storeOp_waits s st f _ _ _ hturn hsite hr

end

/-! ### The buffer that TFE frees -/

/-- A full buffer, freed: its count of empties follows its count of fills. -/
def freedFull (cfg : BitVec 32) (r : RangeSt) : RangeSt :=
  { r with empties := Map.set 0 r.empties (readBuf cfg r) (Map.get 0 r.empties (readBuf cfg r) + 1), ne := r.ne + 1, rp := 0 }

theorem emptied_of_full {cfg : BitVec 32} {r : RangeSt} (h : readFull cfg r = true) : RangeSt.emptied cfg r = freedFull cfg r := by
  unfold RangeSt.emptied freedFull
  dsimp only
  rw [if_pos (c := r.full (readBuf cfg r) = true) h]

theorem modRange_emptied {s : State} {key c : Nat} {cfg : BitVec 32} (h : readFull cfg (rangeOf s key c) = true) :
    modRange s key c (RangeSt.emptied cfg) = modRange s key c (freedFull cfg) := by
  have hr : RangeSt.emptied cfg (Map.get {} (s.tile key).ranges c) = freedFull cfg (Map.get {} (s.tile key).ranges c) := emptied_of_full h
  simp only [modRange, State.modTile, Map.modify, hr]

theorem readFull_takes {s : State} {st : Site} {t : Takes} {k : Taken} {cfg : BitVec 32} (h : takes s st t = some k) :
    readFull cfg (rangeOf k.s st.key st.c) = readFull cfg (rangeOf s st.key st.c) := by
  obtain ⟨out, hout⟩ := sameStore_takes h st.c
  rw [hout]
  rfl

/-! ### The bytes that are written -/

/-- TWR and TSWAP write the valid lanes of their token and no other byte. -/
theorem readByte_writePay (s : State) (pa x : Nat) (v : BitVec 16) (p : Lanes) : readByte (writePay s pa v p) x =
    if pa ≤ x ∧ x < pa + 64 ∧ v.getLsbD ((x - pa) / 4) = true then payByte p (x - pa) else readByte s x := by
  by_cases hin : pa ≤ x ∧ x < pa + 64
  · obtain ⟨hlo, hhi⟩ := hin
    have hx : x - pa < 64 := by omega
    rw [readByte, writePay, writeCells, writeCellsM_get, if_pos hlo, List.getElem?_map, List.getElem?_range hx, Option.map_some]
    by_cases hv : v.getLsbD ((x - pa) / 4) = true
    · rw [if_pos hv, if_pos ⟨hlo, hhi, hv⟩]
      rfl
    · rw [if_neg hv, if_neg fun h => hv h.2.2]
      rfl
  · rw [if_neg fun h => hin ⟨h.1, h.2.1⟩]
    exact readByte_writePay_outside s pa x v p (by omega)

/-- Settles O37: the tile-store ops by what they take, where they read or write, and when they wait. -/
theorem tileStoreOps : Obligations.TileStoreOps := by
  intro f s st k
  have hone : f.b = 15 → Ready s st (routeTakes f [f.a] [f.d.toNat]) k → Ready s st (routeTakes f (storeSrcs f) [f.d.toNat]) k :=
    fun hb h => by rwa [storeSrcs, if_pos hb]
  have htwo : f.b ≠ 15 → Ready s st (routeTakes f [f.a, f.b] [f.d.toNat]) k → Ready s st (routeTakes f (storeSrcs f) [f.d.toNat]) k :=
    fun hb h => by rwa [storeSrcs, if_neg hb]
  have hwords : (∀ x ∈ k.toks, x.kind = kWORD) → ∀ x ∈ k.toks, x.kind ≠ kDIGIT := fun h x hx => word_notDigit (h x hx)
  have hclean : ∀ pa, poisoned k.s pa 64 = false → ¬ poisoned k.s pa 64 = true := fun _ hp => ne_true_of_eq_false hp
  refine ⟨fun ⟨h, hk, hw⟩ hr => ⟨fun hm ho hp => ?_, fun hm hv ho hp => ?_, ?_⟩, fun hb ⟨h, hk, hw⟩ => ⟨fun hr ho => ?_, fun hr ho hp => ?_⟩,
    fun hb ⟨h, hk, hw⟩ hv ho => ⟨fun hr => ?_, fun hr hp => ?_⟩, fun ⟨h, hk, hw⟩ hr hn => ⟨fun ho => ?_, fun ho hp => ?_⟩,
    fun ⟨h, hk, hw⟩ hr hm hv => (trd_unnamed h hr hk (trdOffset_none hm hv _) : execTrd f s = _),
    fun h hr hk => ⟨(trd_null h hr hk : execTrd f s = _), (tfe_null h hr hk : execTfe f s = _)⟩,
    fun h hr hk hm => (trd_digit h hr hk hm : execTrd f s = _),
    ⟨fun h hd => ⟨fun hr => (twr_digit h hr hd : execTwr f s = _), fun hr => (tswap_digit h hr hd : execTswap f s = _)⟩,
      fun h hno hk => ⟨fun hr => ?_, fun hr => ?_⟩, fun ⟨h, hk, hw⟩ hn => ⟨fun hr ho => ?_, fun hr ho => ?_, fun hr ho hp => ?_⟩,
      fun ⟨h, hk, hw⟩ hn => ⟨fun hr => (twr_unnamed h hr (hwords hw) (word_notNull hk) hn : execTwr f s = _),
        fun hr => (tswap_unnamed h hr (hwords hw) (word_notNull hk) hn : execTswap f s = _)⟩⟩,
    fun hturn hsite => ⟨fun hr => ⟨(trd_waits hturn hsite hr : execTrd f s = _), (tswap_waits hturn hsite hr : execTswap f s = _),
      (tfe_waits hturn hsite hr : execTfe f s = _)⟩, fun hr => (twr_waits hturn hsite hr : execTwr f s = _)⟩,
    fun t pa x => readByte_writePay t pa x _ _⟩
  · refine (trd_at h hr hk (trdOffset_pointer hm _ _)).trans ((if_neg (badOffset_line ho)).trans ((if_neg (hclean _ hp)).trans ?_))
    rw [hm]
    rfl
  · refine (trd_at h hr hk (trdOffset_lane hm hv _)).trans ((if_neg (badOffset_line ho)).trans ((if_neg (hclean _ hp)).trans ?_))
    rw [hm]
    rfl
  · refine (tfe_frees h hr (word_notNull hk)).trans ?_
    rw [modRange_emptied ((readFull_takes h.taken).trans hr)]
    rfl
  · refine (twr_at (hone hb h) hr (hwords hw) (word_notNull hk) (.inl hb) (if_pos hb)).trans ((if_neg (badOffset_line ho)).trans ?_)
    rw [decide_eq_true hb]
    rfl
  · refine (tswap_at (hone hb h) hr (hwords hw) (word_notNull hk) (.inl hb) (if_pos hb)).trans ((if_neg (badOffset_line ho)).trans ((if_neg (hclean _ hp)).trans ?_))
    rw [decide_eq_true hb]
    rfl
  · refine (twr_at (htwo hb h) hr (hwords hw) (word_notNull hk) (.inr hv) (if_neg hb)).trans ((if_neg (badOffset_line ho)).trans ?_)
    rw [decide_eq_false hb]
    rfl
  · refine (tswap_at (htwo hb h) hr (hwords hw) (word_notNull hk) (.inr hv) (if_neg hb)).trans ((if_neg (badOffset_line ho)).trans ((if_neg (hclean _ hp)).trans ?_))
    rw [decide_eq_false hb]
    rfl
  · exact (trd_at h hr hk (trdOffset_named hn _)).trans (if_pos (badOffset_noLine ho))
  · exact (trd_at h hr hk (trdOffset_named hn _)).trans ((if_neg (badOffset_line ho)).trans (if_pos hp))
  · refine (twr_null h hr hno hk).trans ?_
    rw [writeStepped]
    simp only [decide_eq_true_eq]
    rfl
  · refine (tswap_null h hr hno hk).trans ?_
    rw [readStepped]
    simp only [decide_eq_true_eq]
    rfl
  · exact (twr_at h hr (hwords hw) (word_notNull hk) hn rfl).trans (if_pos (badOffset_noLine ho))
  · exact (tswap_at h hr (hwords hw) (word_notNull hk) hn rfl).trans (if_pos (badOffset_noLine ho))
  · exact (tswap_at h hr (hwords hw) (word_notNull hk) hn rfl).trans ((if_neg (badOffset_line ho)).trans (if_pos hp))

end Sys2Proof.Machine
end

section
/-!
DENC and DDEC (05_online_arithmetic.md R113, R114, R128, 16_ref_d_l.md R347): the digits of a word's finite lanes, and the value of a
chain's digits.
-/
namespace Sys2Proof.Machine

open Sys2Proof

/-! ### What raising flags leaves alone -/

section

variable (s : State) (k j : Nat) (fl : BitVec 5)

@[simp] theorem raiseFlags_tiles : (raiseFlags s k j fl).tiles = s.tiles := by
  unfold raiseFlags
  split <;> rfl

@[simp] theorem raiseFlags_tile (n : Nat) : (raiseFlags s k j fl).tile n = s.tile n := by
  rw [State.tile, raiseFlags_tiles]
  rfl

@[simp] theorem slotSt_raiseFlags (st : Site) : slotSt (raiseFlags s k j fl) st = slotSt s st := by
  rw [slotSt, raiseFlags_tile]
  rfl

end

section

variable (s : State) (st : Site)

@[simp] theorem slotSt_addOut (d : Nat) (l : List Token) : slotSt (addOut s st d l) st = slotSt s st := slotSt_modTile s st _ _ fun _ => rfl

@[simp] theorem outbox_addOut (d : Nat) (l : List Token) :
    ((addOut s st d l).tile st.key).outbox = (s.tile st.key).outbox ++ l.map (fun e => (d, st.n, e)) := by
  rw [addOut, State.modTile_tile_same]

@[simp] theorem outbox_setSlotSt (v : SlotSt) (n : Nat) : ((setSlotSt s st v).tile n).outbox = (s.tile n).outbox := by
  rw [setSlotSt, State.modTile_tile]
  split <;> rfl

end

/-! ### DENC -/

theorem groupsOf_pos (f : Slot) : 0 < groupsOf f := by
  have hlen : 8 ≤ digitLen f := by
    unfold digitLen
    split <;> decide
  unfold groupsOf
  omega

/-- The common exponent of a word's lanes: one above the greatest of their values (R113). -/
def encExp (fmt : Nat) (a : Token) : Int :=
  match ((List.range 16).filter (fun i => a.valid.getLsbD i)).filterMap (fun i => logOf (wordVal fmt (lane a.payload i))) with
  | [] => 0
  | x :: r => 1 + r.foldl (fun m y => if m < y then y else m) x

/-- The bits of a lane under exponent e, and whether any was lost. -/
def encCut (fmt L : Nat) (e : Int) (a : Token) (i : Nat) : Nat × Bool :=
  match wordVal fmt (lane a.payload i) with | .fin _ m x => cutVal m x (L - e) | _ => (0, false)

/-- Digit j of lane i under exponent e (R113). -/
def encDigit (fmt L : Nat) (e : Int) (a : Token) (i j : Nat) : Int :=
  if (encCut fmt L e a i).1 / 2 ^ (L - j) % 2 = 1 then (if (wordVal fmt (lane a.payload i)).negative then -1 else 1) else 0

theorem encDigit_fin {fmt L : Nat} {e : Int} {a : Token} {i : Nat} {n : Bool} {m : Nat} {x : Int}
    (h : wordVal fmt (lane a.payload i) = .fin n m x) (j : Nat) :
    encDigit fmt L e a i j = if (cutVal m x (L - e)).1 / 2 ^ (L - j) % 2 = 1 then (if n = true then -1 else 1) else 0 := by
  rw [encDigit, encCut, h]
  rfl

/-- A word's lane is finite. -/
def finLane (fmt : Nat) (a : Token) (i : Nat) : Bool := match wordVal fmt (lane a.payload i) with | .fin _ _ _ => true | _ => false

theorem ofFlags_getLsbD (v : BitVec 16) : ofFlags (fun i => v.getLsbD i) = v :=
  BitVec.eq_of_getLsbD_eq fun _ hi => getLsbD_ofFlags _ hi

theorem valid_finite {fmt : Nat} {a : Token} (h : ∀ i < 16, a.valid.getLsbD i = true → finLane fmt a i = true) :
    ofFlags (fun i => a.valid.getLsbD i && finLane fmt a i) = a.valid := by
  refine (ofFlags_congr fun i hi => ?_).trans (ofFlags_getLsbD a.valid)
  cases hv : a.valid.getLsbD i with
  | false => rfl
  | true => rw [h i hi hv]; rfl

/-- The groups that DENC sends, one after the other. -/
def encGroups (f : Slot) (st : Site) (k : Taken) (fmt : Nat) : List Token :=
  (List.range (groupsOf f)).map fun g => digitTok f (BitVec.ofNat 12 (slotSt k.s st).chain) (encExp fmt (tok k 0)) g
    (ofFlags fun i => (tok k 0).valid.getLsbD i && finLane fmt (tok k 0) i) (encDigit fmt (digitLen f) (encExp fmt (tok k 0)) (tok k 0))

/-- The state as DENC's groups leave: the chain counted and the flags raised. -/
def encCounted (st : Site) (k : Taken) (fl : BitVec 5) : State :=
  raiseFlags (setSlotSt k.s st { slotSt k.s st with chain := (slotSt k.s st).chain + 1 }) st.k st.j fl

section

variable {f : Slot} {s : State} {st : Site} {k : Taken}

/-- A digit op at a slot that is ready, while no DENC of its tile still sends. -/
theorem digit_fires {t : Takes} (hn : t.nullOk = true) (hd : t.digitOk = true) (h : Ready s st t k) (hidle : encoding s st = false)
    (act : Site → Taken → Fired) :
    onTile s (fun st => if encoding s st then .next s else fireAt s st t (act st)) = firedRes s st k (act st k) := by
  rw [onTile_ready s st _ h.turn h.site, hidle, if_neg Bool.false_ne_true, fireAt_ready s st t k (act st) h hn hd]
  cases act st k <;> rfl

/-- What DENC takes. -/
def dencTakes (f : Slot) : Takes :=
  { routeTakes f [f.a] [] with
    how := if field f.m 5 4 = 0 then 0 else if field f.m 5 4 = 3 then 2 else 1, dests := [(f.d.toNat, groupsOf f)] }

/-- What DDEC takes. -/
def ddecTakes (f : Slot) : Takes := { routeTakes f [f.a] [] with dests := [(f.d.toNat, 1)] }

/-- DENC of a word whose exponent is in range. -/
theorem denc_encodes (h : Ready s st (dencTakes f) k) (hidle : encoding s st = false)
    (hnull : ¬ k.toks.any (fun t => t.kind == kNULL) = true) (hk : (tok k 0).kind ≠ kDIGIT)
    (hrange : ¬ (encExp (field f.m 5 4) (tok k 0) < -512 ∨ 511 < encExp (field f.m 5 4) (tok k 0))) :
    ∃ fl, execDenc f s = firedRes s st k (encOut (encCounted st k fl) st f (BitVec.ofNat 12 (slotSt k.s st).chain)
      (encGroups f st k (field f.m 5 4)) (segOf k.toks)) := by
  rw [execDenc]
  dsimp only
  exact ⟨_, (digit_fires rfl rfl h hidle _).trans
    (congrArg (firedRes s st k) ((if_neg hnull).trans ((if_neg hk).trans ((if_neg hrange).trans rfl))))⟩

/-- The groups after the first wait in the tile's outbox. -/
theorem map_range_split {α : Type} (n : Nat) (hn : 0 < n) (g : Nat → α) :
    ((List.range n).map g).take 1 = [g 0] ∧ ((List.range n).map g).drop 1 = (List.range (n - 1)).map fun i => g (i + 1) := by
  obtain ⟨m, rfl⟩ := Nat.exists_eq_succ_of_ne_zero hn.ne'
  rw [List.range_succ_eq_map, List.map_cons, List.map_map]
  exact ⟨rfl, rfl⟩

/-- The state once DENC's first group goes and the others wait. -/
def encLeft (s : State) (st : Site) (f : Slot) (tag : BitVec 12) (rest : List Token) (seg : Nat) : State :=
  addOut (setSlotSt s st { slotSt s st with leaving := { ga := [{ kind := kDIGIT, tag }] } }) st f.d.toNat (rest.map fun t => { t with seg })

theorem encOut_eq (s : State) (st : Site) (f : Slot) (tag : BitVec 12) (l : List Token) (seg : Nat) :
    encOut s st f tag l seg = .ok (encLeft s st f tag (l.drop 1) seg, (l.take 1).map fun t => (f.d.toNat, t)) := rfl

/-! ### DDEC -/

/-- The group that DDEC takes follows those that it holds, with their exponent and chain. -/
def nextGroup (f : Slot) (st : Site) (k : Taken) : Prop :=
  (tok k 0).kind = kDIGIT ∧ tokG (tok k 0) = (slotSt k.s st).digit.ga.length ∧ (slotSt k.s st).digit.ga.length < groupsOf f ∧
    ∀ t, (slotSt k.s st).digit.ga.head? = some t → tokE t = tokE (tok k 0) ∧ t.tag = (tok k 0).tag

theorem nextGroup_fits (h : nextGroup f st k) : ¬ ((tok k 0).kind ≠ kDIGIT ∨ tokG (tok k 0) ≠ (slotSt k.s st).digit.ga.length ∨
    groupsOf f ≤ (slotSt k.s st).digit.ga.length ∨
    (slotSt k.s st).digit.ga.head?.any (fun t => tokE t != tokE (tok k 0) || t.tag != (tok k 0).tag) = true) := by
  obtain ⟨hk, hg, hlt, hchain⟩ := h
  rintro (h' | h' | h' | h')
  · exact h' hk
  · exact h' hg
  · exact absurd hlt (Nat.not_lt.2 h')
  · obtain ⟨t, ht, hne⟩ := (Option.any_eq_true _ _).1 h'
    obtain ⟨he, htag⟩ := hchain t ht
    simp [he, htag] at hne

/-- What DDEC makes of a lane of all groups. -/
def ddecLane (f : Slot) (st : Site) (k : Taken) (i : Nat) : Nat × Float.Fl :=
  if (okUpTo (groupsA st k) (slotSt k.s st).digit.ga.length).getLsbD i then
    decodeLane (field f.m 5 4) (decide (prefixVal (digitOf (groupsA st k) i) (digitLen f) < 0))
      (prefixVal (digitOf (groupsA st k) i) (digitLen f)).natAbs (headE (groupsA st k) - 64)
  else if f.m.getLsbD 3 then (0, 0)
  else match field f.m 5 4 with | 0 => (0x7FC00000, 0) | 1 => (0x7FC0, 0) | 2 => (0x7E00, 0) | _ => (0, Float.fINV)

/-- The word that DDEC makes of all groups. -/
def ddecWord (f : Slot) (st : Site) (k : Taken) : Token :=
  { kind := kWORD, slot := f.n, tag := 0
    valid := if f.m.getLsbD 3 then okUpTo (groupsA st k) (slotSt k.s st).digit.ga.length else 0xFFFF
    payload := ofLanes fun i => BitVec.ofNat 32 (ddecLane f st k i).1 }

section

variable (h : Ready s st (ddecTakes f) k) (hidle : encoding s st = false) (hnext : nextGroup f st k) (hgood : badDigits (tok k 0) = false)

include h hidle hnext hgood

theorem ddec_holds (hmore : (slotSt k.s st).digit.ga.length + 1 < groupsOf f) :
    execDdec f s = .next (setSlotSt k.s st { slotSt k.s st with digit := { (slotSt k.s st).digit with ga := groupsA st k } }) := by
  rw [execDdec]
  exact (digit_fires rfl rfl h hidle _).trans (congrArg (firedRes s st k)
    ((if_neg (nextGroup_fits hnext)).trans ((if_neg (ne_true_of_eq_false hgood)).trans (if_pos hmore))))

theorem ddec_ends (hlast : groupsOf f = (slotSt k.s st).digit.ga.length + 1) :
    ∃ fl, execDdec f s = .next (sends st k (raiseFlags (setSlotSt k.s st { slotSt k.s st with digit := {} }) st.k st.j fl)
      [(f.d.toNat, ddecWord f st k)]) := by
  rw [execDdec]
  have hend : ¬ (slotSt k.s st).digit.ga.length + 1 < groupsOf f := by omega
  exact ⟨_, (digit_fires rfl rfl h hidle _).trans (congrArg (firedRes s st k)
    ((if_neg (nextGroup_fits hnext)).trans ((if_neg (ne_true_of_eq_false hgood)).trans ((if_neg hend).trans rfl))))⟩

end

end

/-- Settles O34: the groups of DENC, the groups that DDEC holds, and its lanes after the last. -/
theorem digitEncodeDecode : Obligations.DigitEncodeDecode := by
  intro f s st k hidle
  have hfmt : f.m.toNat / 16 % 4 = field f.m 5 4 := (field_eq_div_mod f.m 5 4).symm
  rw [hfmt]
  refine ⟨fun h hw hk => ?_, fun h hk hg hmore hgood hchain => ?_, fun h hk hne hg hlast hgood hchain => ?_⟩
  · intro a L v logs e hfin hlo hhi
    have hnull : ¬ k.toks.any (fun t => t.kind == kNULL) = true := by
      rw [List.any_eq_true]
      rintro ⟨x, hx, hnull⟩
      rw [hw x hx] at hnull
      exact absurd hnull (by decide)
    obtain ⟨fl, hden⟩ := denc_encodes h hidle hnull (word_notDigit hk) fun hr => by
      rcases hr with hr | hr
      · exact absurd hlo (Int.not_le.2 hr)
      · exact absurd hhi (Int.not_le.2 hr)
    obtain ⟨htake, hdrop⟩ := map_range_split (groupsOf f) (groupsOf_pos f) fun g => digitTok f (BitVec.ofNat 12 (slotSt k.s st).chain) e g
      a.valid (encDigit (field f.m 5 4) L e a)
    have hvalid := valid_finite (fmt := field f.m 5 4) (a := a) fun i hi hv => by
      obtain ⟨n, m, x, hx⟩ := hfin i hi hv
      have hx' : wordVal (field f.m 5 4) (lane a.payload i) = .fin n m x := hx
      rw [finLane, hx']
    have hgroups : encGroups f st k (field f.m 5 4) = (List.range (groupsOf f)).map fun g =>
      digitTok f (BitVec.ofNat 12 (slotSt k.s st).chain) e g a.valid (encDigit (field f.m 5 4) L e a) := by
      rw [encGroups, hvalid]
      rfl
    refine ⟨encLeft (encCounted st k fl) st f (BitVec.ofNat 12 (slotSt k.s st).chain) ((encGroups f st k (field f.m 5 4)).drop 1) (segOf k.toks),
      encDigit (field f.m 5 4) L e a, hden.trans ?_, ?_, ?_, fun i hi hv n m x hx j hj hL => encDigit_fin hx j⟩
    · rw [encOut_eq, hgroups, htake]
      rfl
    · rw [hgroups, hdrop, encLeft, outbox_addOut, outbox_setSlotSt, encCounted, raiseFlags_tile, outbox_setSlotSt, List.map_map, List.map_map]
      rfl
    · rw [encLeft, slotSt_addOut, slotSt_setSlotSt_same, encCounted, slotSt_raiseFlags, slotSt_setSlotSt_same]
  · exact ddec_holds h hidle ⟨hk, hg, by omega, hchain⟩ hgood hmore
  · obtain ⟨fl, hddec⟩ := ddec_ends h hidle ⟨hk, hg, by omega, hchain⟩ hgood hlast
    refine ⟨_, ddecWord f st k, hddec, rfl, rfl, ?_, fun i hi hok => ?_⟩
    · rw [slotSt_raiseFlags, slotSt_setSlotSt_same]
    · have hat : groupsOf f - 1 = (slotSt k.s st).digit.ga.length := by omega
      rw [hat] at hok
      refine ⟨?_, ?_⟩
      · rw [ddecWord]
        dsimp only
        split
        · exact hok
        · have hall : ∀ j : Fin 16, (0xFFFF : BitVec 16).getLsbD j = true := by decide
          exact hall ⟨i, hi⟩
      · rw [ddecWord]
        dsimp only
        rw [lane_ofLanes _ hi, ddecLane, if_pos hok]

end Sys2Proof.Machine
end

section
/-!
The matrix ops (17_ref_m_r.md R370 to R376, R382, R383, 03_fabric.md R81): loading of weights, group additions to lanes and to accumulators,
row merges and score modification.
-/
namespace Sys2Proof.Machine

open Sys2Proof

/-! ### A firing on words -/

section

variable {s : State} {st : Site} {t : Takes} {k : Taken}

theorem fireAt_words (h : Fires s st t k) (act : Taken → Fired) : fireAt s st t act = firedRes s st k (act k) := by
  rw [fireAt_fires s st t k act h]
  cases act k <;> rfl

theorem tile_fires (h : Fires s st t k) (act : Site → Taken → Fired) :
    onTile s (fun st => fireAt s st t (act st)) = firedRes s st k (act st k) := by
  rw [onTile_fires s st t k _ h, fireAt_words h]

/-- A slot that fires on words does so where its op has a behaviour for NULL, too. -/
theorem Fires_nullOk (h : Fires s st t k) : Fires s st { t with nullOk := true } k :=
  ⟨h.turn, h.site, h.room, h.links, h.taken, h.words⟩

theorem noNull_of_fires (h : Fires s st t k) : ¬ k.toks.any (fun t => t.kind == kNULL) = true := by
  rw [List.any_eq_true]
  rintro ⟨x, hx, hnull⟩
  rw [h.words x hx] at hnull
  exact absurd hnull (by decide)

end

/-! ### Lists, tables and payloads -/

theorem getD_map_range {α : Type} (g : Nat → α) (d : α) {i n : Nat} (hi : i < n) : ((List.range n).map g).getD i d = g i := by
  rw [List.getD_eq_getElem?_getD, List.getElem?_map, List.getElem?_range hi]
  rfl

/-- A table after writes at different places. -/
theorem get_foldl_set {β : Type} [DecidableEq β] (d : β) {key : Nat → Nat} (hkey : Function.Injective key) (g : Nat → β) (m : Map β)
    {j n : Nat} (hj : j < n) : Map.get d ((List.range n).foldl (fun m i => Map.set d m (key i) (g i)) m) (key j) = g j := by
  induction n with
  | zero => exact absurd hj (Nat.not_lt_zero j)
  | succ n ih =>
    rw [List.range_succ, List.foldl_append, List.foldl_cons, List.foldl_nil]
    by_cases h : j = n
    · rw [h, Map.get_set_same]
    · rw [Map.get_set_ne _ _ _ _ _ fun he => h (hkey he)]
      exact ih (by omega)

/-- A number is put together from its digits. -/
theorem foldr_digits_self (B n x : Nat) : (List.range n).foldr (fun i acc => x / B ^ i % B + B * acc) 0 = x % B ^ n := by
  induction n generalizing x with
  | zero => rw [pow_zero, Nat.mod_one]; rfl
  | succ n ih =>
    rw [List.range_succ_eq_map, List.foldr_cons, List.foldr_map, pow_zero, Nat.div_one, pow_succ', Nat.mod_mul, ← ih (x / B)]
    simp only [Nat.succ_eq_add_one, pow_succ', Nat.div_div_eq_div_mul]

theorem lane_toNat (p : Lanes) (i : Nat) : (lane p i).toNat = p.toNat / (2 ^ 32) ^ i % 2 ^ 32 := by
  rw [lane, BitVec.toNat_ofNat, Nat.shiftRight_eq_div_pow, pow_mul]

/-- A payload is put together from its lanes. -/
theorem ofLanes_lane (p : Lanes) : ofLanes (lane p) = p := by
  have hall : (List.range 16).foldr (fun i acc => (lane p i).toNat + 2 ^ 32 * acc) 0 = p.toNat % (2 ^ 32) ^ 16 := by
    simp only [lane_toNat]
    exact foldr_digits_self _ 16 _
  rw [ofLanes, hall, ← pow_mul, Nat.mod_eq_of_lt p.isLt, BitVec.ofNat_toNat, BitVec.setWidth_eq]

theorem allLanes {i : Nat} (hi : i < 16) : (0xFFFF : BitVec 16).getLsbD i = true := by
  have hall : ∀ j : Fin 16, (0xFFFF : BitVec 16).getLsbD j = true := by decide
  exact hall ⟨i, hi⟩

/-- With every lane valid a payload stays whole. -/
theorem maskLanes_all (p : Lanes) : maskLanes 0xFFFF p = p :=
  (ofLanes_congr fun _ hi => if_pos (allLanes hi)).trans (ofLanes_lane p)

theorem lane_maskLanes {v : BitVec 16} {i : Nat} (hi : i < 16) (hv : v.getLsbD i = true) (p : Lanes) : lane (maskLanes v p) i = lane p i := by
  rw [maskLanes, lane_ofLanes _ hi, if_pos hv]

theorem lane_resultTok (s : State) (f : Slot) {v : BitVec 16} {i : Nat} (hi : i < 16) (hv : v.getLsbD i = true) (p : Lanes) :
    lane (resultTok s f v p).payload i = lane p i := lane_maskLanes hi hv p

/-! ### MMA and MMAS (R372, R373) -/

section

variable (f : Slot) (st : Site) (k : Taken)

/-- What lane n of a firing starts from: 0, or the operand's lane, taken from the accumulator where source B is 14. -/
def mmaStart (n : Nat) : Nat :=
  if f.b = 15 then 0
  else if (tok k 1).valid.getLsbD n = true then
    (lane (if f.b = 14 then Map.get 0 (k.s.tile st.key).m (accOf f) else (tok k 1).payload) n).toNat
  else 0

/-- The lanes that a firing makes of its groups. -/
def mmaResult (gs : List MGroup) : Lanes := ofLanes fun n => BitVec.ofNat 32 (mmaLane (k.s.tile st.key) (mfmt f) gs (mmaStart f st k n) n).1

/-- The flags that it raises. -/
def mmaFlags (gs : List MGroup) : Float.Fl :=
  ((List.range 16).map fun n => mmaLane (k.s.tile st.key) (mfmt f) gs (mmaStart f st k n) n).foldl (fun m e => m ||| e.2) 0

/-- The state after it: the flags raised, and where source B is 14 the accumulator too. -/
def mmaAfter (gs : List MGroup) : State :=
  if f.b = 14 then addAcc (raiseFlags k.s st.k st.j (mmaFlags f st k gs)) st.key (accOf f)
    (mmaSteps (k.s.tile st.key) (mfmt f) gs (mmaStart f st k)) (mmaResult f st k gs)
  else raiseFlags k.s st.k st.j (mmaFlags f st k gs)

variable {f st k}

theorem mmaFire_fits (hfit : compatible (mfmt f) (k.s.tile st.key).wf = true) (gs : List MGroup) : mmaFire f k st gs =
    .ok (mmaAfter f st k gs, [(f.d.toNat, resultTok (mmaAfter f st k gs) f 0xFFFF (mmaResult f st k gs))]) := by
  have hpay : ofLanes (fun n => BitVec.ofNat 32
      (((List.range 16).map fun n => mmaLane (k.s.tile st.key) (mfmt f) gs (mmaStart f st k n) n).getD n (0, 0)).1) = mmaResult f st k gs :=
    ofLanes_congr fun n hn => by rw [getD_map_range _ _ hn]
  by_cases hacc : f.b = 14
  · have hstart : (fun n => if f.b = 15 then 0 else if (tok k 1).valid.getLsbD n = true then
        (lane (Map.get 0 (k.s.tile st.key).m (accOf f)) n).toNat else 0) = mmaStart f st k := by
      funext n
      rw [mmaStart, if_pos hacc]
    rw [mmaFire, hfit]
    simp only [Bool.true_eq_false, if_false, if_pos hacc, congrFun hstart, hpay]
    rw [mmaAfter, if_pos hacc]
    rfl
  · have hstart : (fun n => if f.b = 15 then 0 else if (tok k 1).valid.getLsbD n = true then
        (lane (tok k 1).payload n).toNat else 0) = mmaStart f st k := by
      funext n
      rw [mmaStart, if_neg hacc]
    rw [mmaFire, hfit]
    simp only [Bool.true_eq_false, if_false, if_neg hacc, congrFun hstart, hpay]
    rw [mmaAfter, if_neg hacc]
    rfl

theorem mmaFire_mixed (hmix : compatible (mfmt f) (k.s.tile st.key).wf = false) (gs : List MGroup) : mmaFire f k st gs = .error fcTOKEN :=
  if_pos hmix

end

/-- What a matrix op takes. -/
def matrixTakes (f : Slot) (acc how : Nat) (srcs : List (BitVec 4)) (d : Nat) : Takes := { srcs, how, acc, dests := [(d, 1)], next := f.n }

section

variable {f : Slot} {s : State} {st : Site} {k : Taken}

section

variable (h : Fires s st (matrixTakes f (accOf f) 0 (mmaSrcs f) f.d.toNat) k)

include h

theorem mma_fires : execMma f s = firedRes s st k (mmaFire f k st (mmaGroups f (tok k 0))) := by
  rw [execMma]
  exact tile_fires h _

theorem mmas_fires {gs : List MGroup} (hgs : mmasGroups f (tok k 0) = some gs) : execMmas f s = firedRes s st k (mmaFire f k st gs) := by
  rw [execMmas]
  refine (tile_fires h _).trans ?_
  rw [hgs]

theorem mmas_breaks (hgs : mmasGroups f (tok k 0) = none) : execMmas f s = .next (tileFault s st fcTOKEN (segOf k.toks)) := by
  rw [execMmas]
  refine (tile_fires h _).trans ?_
  rw [hgs]
  rfl

end

/-- Slot 0 of a systolic tile fires as an MMA does, and hands its W token on where the tile is not the last of its array (R81). -/
theorem systolic_fires (hn : st.n = 0) (hf : f = slotFields (slotWord st 0)) (hsys : isSystolic st = true)
    (h : Fires s st { srcs := mmaSrcs f, dests := (f.d.toNat, 1) :: (if forwardsEast st then [(1, 1)] else []), next := f.n } k)
    (hfit : compatible (mfmt f) (k.s.tile st.key).wf = true) : execSystolicFire s = .next (sends st k (mmaAfter f st k (mmaGroups f (tok k 0)))
      ([(f.d.toNat, resultTok (mmaAfter f st k (mmaGroups f (tok k 0))) f 0xFFFF (mmaResult f st k (mmaGroups f (tok k 0))))] ++
        if forwardsEast st then [(1, tok k 0)] else [])) := by
  have hst : { st with n := 0 } = st := by rw [← hn]
  rw [execSystolicFire, onTile_fires s st _ k _ h]
  dsimp only
  rw [hst, hsys, if_neg (by decide), ← hf]
  refine (fireAt_words (Fires_nullOk h) _).trans ?_
  rw [if_neg (noNull_of_fires h), mmaFire_fits hfit]
  rfl

/-! ### MLDW (R370, R371) -/

/-- The weight scales of all columns set. -/
def scalesSet (ti : Tile) (g : Nat → BitVec 8) : Map (BitVec 8) := (List.range 16).foldl (fun m n => Map.set 0 m n (g n)) ti.wsc

theorem weightScale_set (ti : Tile) (g : Nat → BitVec 8) {n : Nat} (hn : n < 16) :
    weightScale { ti with wsc := scalesSet ti g } n = (g n).toNat :=
  congrArg BitVec.toNat (get_foldl_set 0 Function.injective_id g ti.wsc hn)

theorem mldw_scales (h : Fires s st (matrixTakes f 0 0 [f.a] 15) k) (hm : f.m.getLsbD 0 = true) (hv : (tok k 0).valid &&& 0xF = 0xF) :
    execMldw f s = .next (k.s.modTile st.key fun ti => { ti with wsc := scalesSet ti (payByte (tok k 0).payload) }) := by
  rw [execMldw]
  exact (tile_fires h _).trans (congrArg (firedRes s st k) ((if_pos hm).trans (if_neg fun hne => hne hv)))

/-- The tile after MLDW has filled chunk 0. -/
def chunkLoaded (f : Slot) (k : Taken) (ti : Tile) : Tile :=
  { ti with
    ws := (List.range (16 * (32 / elemBits (mfmt f)))).foldl (fun m i => Map.set 0 m (16 * (32 / elemBits (mfmt f)) * 0 + i)
      (BitVec.ofNat 16 (mElem (mfmt f) (maskLanes (tok k 0).valid (tok k 0).payload) i))) ti.ws
    wf := mfmt f, wsc := scalesSet ti fun _ => 0x7F }

theorem weightScale_chunkLoaded (ti : Tile) {n : Nat} (hn : n < 16) : weightScale (chunkLoaded f k ti) n = 0x7F :=
  weightScale_set ti (fun _ => 0x7F) hn

/-- The state after MLDW has filled chunk 0. -/
def chunkAfter (f : Slot) (st : Site) (k : Taken) : State :=
  setSlotSt (k.s.modTile st.key (chunkLoaded f k)) st { slotSt k.s st with ptr := 1 }

/-- Its tile holds the chunk, its slot the chunk pointer. -/
theorem chunkAfter_tile : ∃ slots, (chunkAfter f st k).tile st.key = { chunkLoaded f k (k.s.tile st.key) with slots } := by
  rw [chunkAfter, setSlotSt, State.modTile_tile_same, State.modTile_tile_same]
  exact ⟨_, rfl⟩

theorem chunkAfter_wf : ((chunkAfter f st k).tile st.key).wf = mfmt f := by
  obtain ⟨slots, htile⟩ := chunkAfter_tile (f := f) (st := st) (k := k)
  rw [htile, chunkLoaded]

theorem chunkAfter_ptr : (slotSt (chunkAfter f st k) st).ptr = 1 := by
  rw [chunkAfter, slotSt_setSlotSt_same]

theorem chunkAfter_wsc : ((chunkAfter f st k).tile st.key).wsc = (chunkLoaded f k (k.s.tile st.key)).wsc := by
  obtain ⟨slots, htile⟩ := chunkAfter_tile (f := f) (st := st) (k := k)
  rw [htile]

theorem chunkAfter_ws : ((chunkAfter f st k).tile st.key).ws = (chunkLoaded f k (k.s.tile st.key)).ws := by
  obtain ⟨slots, htile⟩ := chunkAfter_tile (f := f) (st := st) (k := k)
  rw [htile]

theorem chunkAfter_scale {n : Nat} (hn : n < 16) : weightScale ((chunkAfter f st k).tile st.key) n = 0x7F := by
  rw [weightScale, chunkAfter_wsc]
  exact weightScale_chunkLoaded (k.s.tile st.key) hn

theorem chunksOf_pos (fmt : Nat) : 0 < chunksOf fmt := by
  unfold chunksOf
  split
  · decide
  · split <;> decide

theorem mldw_chunk (h : Fires s st (matrixTakes f 0 0 [f.a] 15) k) (hm : f.m.getLsbD 0 = false) (hp : (slotSt k.s st).ptr = 0) :
    execMldw f s = .next (chunkAfter f st k) := by
  have hfit : ¬ chunksOf (mfmt f) ≤ 0 := Nat.not_le.2 (chunksOf_pos (mfmt f))
  rw [execMldw]
  refine (tile_fires h _).trans ?_
  simp only [hm, hp, hfit, Bool.false_eq_true, Nat.lt_irrefl, false_and, or_false, if_false, if_true]
  rfl

theorem mElem_lt (fmt : Nat) (p : Lanes) (i : Nat) : mElem fmt p i < 2 ^ 16 := by
  have hbits : elemBits fmt ≤ 16 := by
    unfold elemBits
    split
    · decide
    · split <;> decide
  exact (Nat.mod_lt _ (Nat.two_pow_pos _)).trans_le (Nat.pow_le_pow_right (by decide) hbits)

theorem weight_chunkLoaded (ti : Tile) {r n : Nat} (hr : r < 32 / elemBits (mfmt f)) (hn : n < 16) :
    weight (chunkLoaded f k ti) r n = mElem (mfmt f) (maskLanes (tok k 0).valid (tok k 0).payload) (16 * r + n) := by
  have hlt : 16 * r + n < 16 * (32 / elemBits (mfmt f)) := by omega
  have hkey : Function.Injective fun i => 16 * (32 / elemBits (mfmt f)) * 0 + i := fun i j hij => by
    simpa using hij
  have hget := get_foldl_set 0 hkey
    (fun i => BitVec.ofNat 16 (mElem (mfmt f) (maskLanes (tok k 0).valid (tok k 0).payload) i)) ti.ws hlt
  simp only [Nat.mul_zero, Nat.zero_add] at hget
  simp only [weight, chunkLoaded, Nat.mul_zero, Nat.zero_add, hget, BitVec.toNat_ofNat, Nat.mod_eq_of_lt (mElem_lt _ _ _)]

theorem chunkAfter_weight {r n : Nat} (hr : r < 32 / elemBits (mfmt f)) (hn : n < 16) : weight ((chunkAfter f st k).tile st.key) r n =
    mElem (mfmt f) (maskLanes (tok k 0).valid (tok k 0).payload) (16 * r + n) := by
  rw [weight, chunkAfter_ws]
  exact weight_chunkLoaded (k.s.tile st.key) hr hn

/-! ### MDOT and MACC (R374, R375) -/

/-- The elements that two whole operands have in group g. -/
def dotPairs (fmt : Nat) (p q : Lanes) (g : Nat) : List (Nat × Nat) :=
  (List.range (groupLen fmt)).map fun i => (mElem fmt p (groupLen fmt * g + i), mElem fmt q (groupLen fmt * g + i))

/-- The accumulator with one lane replaced. -/
def laneSet (m : Lanes) (j : Nat) (x : BitVec 32) : Lanes := ofLanes fun i => if i = j then x else lane m i

theorem lane_laneSet_same (m : Lanes) {j : Nat} (hj : j < 16) (x : BitVec 32) : lane (laneSet m j x) j = x := by
  rw [laneSet, lane_ofLanes _ hj, if_pos rfl]

theorem lane_laneSet_ne (m : Lanes) {i j : Nat} (hi : i < 16) (hij : i ≠ j) (x : BitVec 32) : lane (laneSet m j x) i = lane m i := by
  rw [laneSet, lane_ofLanes _ hi, if_neg hij]

/-- One group of MDOT, added where an element of it is valid in both operands. -/
def dotGroup (f : Slot) (k : Taken) (acc : Nat × Float.Fl) (g : Nat) : Nat × Float.Fl :=
  let scale (p : Lanes) : Nat := if f.m.getLsbD 0 then nfield (lane p 8).toNat (8 * g + 7) (8 * g) else 0x7F
  let pa := maskLanes (tok k 0).valid (tok k 0).payload
  let pb := maskLanes (tok k 1).valid (tok k 1).payload
  if (List.range (groupLen (mfmt f))).any (fun i => mElemValid (mfmt f) ((tok k 0).valid &&& (tok k 1).valid) (groupLen (mfmt f) * g + i)) then
    let r := addGroup (mfmt f) (mfmt f) acc.1 (dotPairs (mfmt f) pa pb g) (scale pa) (scale pb)
    (r.1, acc.2 ||| r.2)
  else acc

/-- The groups of a firing of MDOT. -/
def dotCount (f : Slot) : Nat :=
  (if f.m.getLsbD 0 then (if mfmt f = 3 then 64 else 32) else 512 / elemBits (mfmt f)) / groupLen (mfmt f)

/-- What MDOT makes of the lane that its pointer names. -/
def dotLane (f : Slot) (st : Site) (k : Taken) : Nat × Float.Fl :=
  (List.range (dotCount f)).foldl (dotGroup f k) ((lane (Map.get 0 (k.s.tile st.key).m (accOf f)) (slotSt k.s st).ptr).toNat, 0)

/-- The tile with a lane of the accumulator replaced, which a reader sees whole. -/
def dotTile (f : Slot) (st : Site) (k : Taken) (t : Tile) : Tile :=
  { t with
    m := Map.set 0 t.m (accOf f) (laneSet (Map.get 0 (k.s.tile st.key).m (accOf f)) (slotSt k.s st).ptr (BitVec.ofNat 32 (dotLane f st k).1))
    partials := t.partials.map fun e => if e.acc = accOf f
      then { e with value := laneSet e.value (slotSt k.s st).ptr (BitVec.ofNat 32 (dotLane f st k).1) } else e }

/-- The state after MDOT. -/
def dotAfter (f : Slot) (st : Site) (k : Taken) : State :=
  setSlotSt ((raiseFlags k.s st.k st.j (dotLane f st k).2).modTile st.key (dotTile f st k)) st
    { slotSt k.s st with ptr := ((slotSt k.s st).ptr + 1) % 16 }

theorem mdot_fires (h : Fires s st (matrixTakes f 0 0 [f.a, f.b] 15) k) : execMdot f s = .next (dotAfter f st k) := by
  rw [execMdot]
  exact (tile_fires h _).trans rfl

theorem dotAfter_acc : Map.get 0 ((dotAfter f st k).tile st.key).m (accOf f) =
    laneSet (Map.get 0 (k.s.tile st.key).m (accOf f)) (slotSt k.s st).ptr (BitVec.ofNat 32 (dotLane f st k).1) := by
  rw [dotAfter, setSlotSt, State.modTile_tile_same, State.modTile_tile_same]
  simp only [dotTile, Map.get_set_same]

theorem elemBits_cases (fmt : Nat) : elemBits fmt = 4 ∨ elemBits fmt = 16 ∨ elemBits fmt = 8 := by
  unfold elemBits
  split
  · exact .inl rfl
  · split
    · exact .inr (.inl rfl)
    · exact .inr (.inr rfl)

theorem elem_lane {fmt i : Nat} (hi : i < 512 / elemBits fmt) : elemBits fmt * i / 32 < 16 := by
  rcases elemBits_cases fmt with h | h | h <;> rw [h] at hi ⊢ <;> omega

theorem groupLen_pos (fmt : Nat) : 0 < groupLen fmt := by
  unfold groupLen
  split <;> decide

/-- Where every lane of both operands is valid, every group is added, under no scale. -/
theorem dotLane_whole (hm : f.m.getLsbD 0 = false) (ha : (tok k 0).valid = 0xFFFF) (hb : (tok k 1).valid = 0xFFFF) :
    (dotLane f st k).1 = (List.range (512 / elemBits (mfmt f) / groupLen (mfmt f))).foldl (fun (x : Nat) g =>
        (addGroup (mfmt f) (mfmt f) x (dotPairs (mfmt f) (tok k 0).payload (tok k 1).payload g) 0x7F 0x7F).1)
      (lane (Map.get 0 (k.s.tile st.key).m (accOf f)) (slotSt k.s st).ptr).toNat := by
  have hcount : dotCount f = 512 / elemBits (mfmt f) / groupLen (mfmt f) := by rw [dotCount, hm]; rfl
  have hgroup : ∀ g < dotCount f, ∀ acc, (dotGroup f k acc g).1 =
      (addGroup (mfmt f) (mfmt f) acc.1 (dotPairs (mfmt f) (tok k 0).payload (tok k 1).payload g) 0x7F 0x7F).1 := by
    intro g hg acc
    rw [hcount] at hg
    have helem : groupLen (mfmt f) * g + 0 < 512 / elemBits (mfmt f) := by
      have hpos := groupLen_pos (mfmt f)
      calc groupLen (mfmt f) * g + 0 < groupLen (mfmt f) * (g + 1) := by rw [Nat.mul_succ]; omega
        _ ≤ groupLen (mfmt f) * (512 / elemBits (mfmt f) / groupLen (mfmt f)) := Nat.mul_le_mul_left _ hg
        _ ≤ 512 / elemBits (mfmt f) := Nat.mul_div_le _ _
    have hpresent : (List.range (groupLen (mfmt f))).any (fun i =>
        mElemValid (mfmt f) ((tok k 0).valid &&& (tok k 1).valid) (groupLen (mfmt f) * g + i)) = true := by
      rw [List.any_eq_true]
      refine ⟨0, List.mem_range.2 (groupLen_pos _), ?_⟩
      rw [ha, hb, BitVec.and_self, mElemValid]
      exact allLanes (elem_lane helem)
    rw [dotGroup]
    dsimp only
    rw [if_pos hpresent, hm, ha, hb, maskLanes_all, maskLanes_all]
    rfl
  have hfold : ∀ (l : List Nat) (acc : Nat × Float.Fl), (∀ g ∈ l, g < dotCount f) → (l.foldl (dotGroup f k) acc).1 =
      l.foldl (fun (x : Nat) g =>
        (addGroup (mfmt f) (mfmt f) x (dotPairs (mfmt f) (tok k 0).payload (tok k 1).payload g) 0x7F 0x7F).1) acc.1 := by
    intro l
    induction l with
    | nil => exact fun acc _ => rfl
    | cons g l ih =>
      intro acc hl
      rw [List.foldl_cons, List.foldl_cons, ih _ fun g' hg' => hl g' (List.mem_cons_of_mem g hg'),
        hgroup g (hl g List.mem_cons_self) acc]
  rw [dotLane, hfold _ _ fun g hg => List.mem_range.1 hg, hcount]

/-- The lanes that MACC makes. -/
def maccLanes (f : Slot) (st : Site) (k : Taken) (i : Nat) : Nat × Float.Fl :=
  maccLane (field f.m 1 0) (f.m.getLsbD 6) (lane (Map.get 0 (k.s.tile st.key).m (accOf f)) i)
    (if (tok k 0).valid.getLsbD i then some (lane (tok k 0).payload i) else none)

/-- The accumulator after MACC. -/
def maccResult (f : Slot) (st : Site) (k : Taken) : Lanes := ofLanes fun i => BitVec.ofNat 32 (maccLanes f st k i).1

/-- The state after MACC. -/
def maccAfter (f : Slot) (st : Site) (k : Taken) : State :=
  addAcc (raiseFlags k.s st.k st.j (((List.range 16).map (maccLanes f st k)).foldl (fun x e => x ||| e.2) 0)) st.key (accOf f)
    [Map.get 0 (k.s.tile st.key).m (accOf f)] (maccResult f st k)

theorem macc_fires (h : Fires s st (matrixTakes f 0 (if f.m.getLsbD 6 then 2 else 0) (if field f.m 1 0 = 2 then [] else [f.a]) f.d.toNat) k) :
    execMacc f s = .next (sends st k (maccAfter f st k) [(f.d.toNat, resultTok (maccAfter f st k) f 0xFFFF
      (if field f.m 1 0 = 2 then Map.get 0 (k.s.tile st.key).m (accOf f) else maccResult f st k))]) := by
  have hpay : ofLanes (fun i => BitVec.ofNat 32 (((List.range 16).map (maccLanes f st k)).getD i (0, 0)).1) = maccResult f st k :=
    ofLanes_congr fun i hi => by rw [getD_map_range _ _ hi]
  rw [execMacc]
  refine (tile_fires h _).trans ?_
  dsimp only
  rw [maccAfter, ← hpay]
  rfl

theorem maccAfter_acc : Map.get 0 ((maccAfter f st k).tile st.key).m (accOf f) = maccResult f st k := by
  rw [maccAfter, addAcc, State.modTile_tile_same]
  simp only [Map.get_set_same]

/-! ### MTRI (R383, 09_attention.md R210) -/

/-- A lane of a record's token, 0 where it is not valid. -/
def recLane (t : Token) (i : Nat) : Nat := if t.valid.getLsbD i = true then (lane t.payload i).toNat else 0

/-- The state of the slot after a token of each record. -/
def mtriAdvanced (f : Slot) (sl : SlotSt) : SlotSt :=
  { sl with posA := (sl.posA + 1) % recordLen f, posB := (sl.posB + 1) % recordLen f }

/-- A row's lane by the factors that the slot holds. -/
def mtriRow (sl : SlotSt) (a b : Token) (i : Nat) : Nat × Float.Fl :=
  fma32 (recLane b i, 0) (sl.e2.toNat, 0) (mul32 (recLane a i, 0) (sl.e1.toNat, 0))

/-- The flags of a row's valid lanes. -/
def mtriFlags (sl : SlotSt) (a b : Token) : Float.Fl :=
  (List.range 16).foldl (fun m i => if (a.valid ||| b.valid).getLsbD i then
    m ||| (((List.range 16).map (mtriRow sl a b)).getD i (0, 0)).2 else m) 0

section

variable (h : Fires s st { srcs := [f.a, f.b], dests := [(f.d.toNat, 1)], next := f.n } k)

include h

theorem mtri_apart (hpos : (slotSt k.s st).posA ≠ (slotSt k.s st).posB) : execMtri f s = .next (tileFault s st fcTOKEN (segOf k.toks)) := by
  rw [execMtri]
  refine (tile_fires (Fires_nullOk h) _).trans ?_
  dsimp only
  rw [if_neg (noNull_of_fires h), if_pos hpos]
  rfl

variable (hpos : (slotSt k.s st).posA = (slotSt k.s st).posB)

include hpos

theorem mtri_row (hrow : (slotSt k.s st).posA ≠ 0) (hgood : (slotSt k.s st).bad = false) :
    ∃ fl, execMtri f s = .next (sends st k (raiseFlags (setSlotSt k.s st (mtriAdvanced f (slotSt k.s st))) st.k st.j fl)
      [(f.d.toNat, resultTok (raiseFlags (setSlotSt k.s st (mtriAdvanced f (slotSt k.s st))) st.k st.j fl) f
        ((tok k 0).valid ||| (tok k 1).valid)
        (ofLanes fun i => BitVec.ofNat 32 (((List.range 16).map (mtriRow (slotSt k.s st) (tok k 0) (tok k 1))).getD i (0, 0)).1))]) := by
  rw [execMtri, tile_fires (Fires_nullOk h)]
  dsimp only
  rw [if_neg (noNull_of_fires h), if_neg (not_not.2 hpos), if_neg hrow]
  simp only [if_neg (ne_true_of_eq_false hgood)]
  exact ⟨mtriFlags (slotSt k.s st) (tok k 0) (tok k 1), rfl⟩

/-- The header of a merged record, where neither header is a NaN or a positive infinity. -/
theorem mtri_header (hhead : (slotSt k.s st).posA = 0) (ha : (tok k 0).valid &&& 3 = 3) (hb : (tok k 1).valid &&& 3 = 3)
    (hnan : (Float.decode Float.fp32 (recLane (tok k 0) 0)).isNan = false) (hnan' : (Float.decode Float.fp32 (recLane (tok k 1) 0)).isNan = false)
    (hinf : Float.decode Float.fp32 (recLane (tok k 0) 0) ≠ .inf false) (hinf' : Float.decode Float.fp32 (recLane (tok k 1) 0) ≠ .inf false) :
    ∃ (fl : Float.Fl) (e1 e2 : BitVec 32) (l : Nat), execMtri f s = .next (sends st k
      (raiseFlags (setSlotSt k.s st (mtriAdvanced f { slotSt k.s st with bad := false, e1, e2 })) st.k st.j fl)
      [(f.d.toNat, resultTok (raiseFlags (setSlotSt k.s st (mtriAdvanced f { slotSt k.s st with bad := false, e1, e2 })) st.k st.j fl) f 3
        (ofLanes fun i => BitVec.ofNat 32
          (if i = 0 then (Float.minmax Float.fp32 true (recLane (tok k 0) 0) (recLane (tok k 1) 0)).1 else l)))]) := by
  have hplain : ¬ ((Float.decode Float.fp32 (recLane (tok k 0) 0)).isNan || (Float.decode Float.fp32 (recLane (tok k 1) 0)).isNan ||
      Float.decode Float.fp32 (recLane (tok k 0) 0) == .inf false || Float.decode Float.fp32 (recLane (tok k 1) 0) == .inf false) = true := by
    rw [hnan, hnan', beq_eq_false_iff_ne.2 hinf, beq_eq_false_iff_ne.2 hinf']
    decide
  have hvalid : ¬ ((tok k 0).valid &&& 3 ≠ 3 ∨ (tok k 1).valid &&& 3 ≠ 3) := by
    rintro (h' | h')
    · exact h' ha
    · exact h' hb
  rw [execMtri, tile_fires (Fires_nullOk h)]
  dsimp only
  rw [if_neg (noNull_of_fires h), if_neg (not_not.2 hpos), if_pos hhead, if_neg hvalid]
  exact ⟨_, _, _, _, congrArg (firedRes s st k) ((if_neg hplain).trans rfl)⟩

end

/-! ### MSCM (R382) -/

/-- A lane is valid in both operands. -/
def bothValid (k : Taken) (i : Nat) : Bool := (tok k 0).valid.getLsbD i && (tok k 1).valid.getLsbD i

/-- What the tile's program makes of a lane. -/
def mscmLane (f : Slot) (st : Site) (k : Taken) (i : Nat) : SmRegs × Float.Fl :=
  if bothValid k i then
    smRun (fun n => Map.get 0 st.cfg.sm n) 16 0 [lane (tok k 0).payload i, lane (Map.get 0 (k.s.tile st.key).a (field f.m 8 6)) i,
      lane (tok k 1).payload i, st.imm.zeroExtend 32, 0, 0, 0, 0] 0
  else ([], 0)

theorem mscm_fires (h : Fires s st { srcs := [f.a, f.b], how := 2, dests := [(f.d.toNat, 1)], next := f.n } k) :
    ∃ t, execMscm f s = .next (sends st k t [(f.d.toNat, resultTok t f (ofFlags (bothValid k))
      (ofLanes fun i => (((List.range 16).map (mscmLane f st k)).getD i ([], 0)).1.getD 0 0))]) := by
  rw [execMscm]
  exact ⟨_, (tile_fires h _).trans rfl⟩

end

/-- Settles O35: the matrix ops by the lanes and tables they leave. -/
theorem matrixOps : Obligations.MatrixOps := by
  refine ⟨fun f s st k => ⟨fun h hfit => ⟨?_, fun gs hgs => ?_, fun hgs => (mmas_breaks h hgs : execMmas f s = _)⟩, fun h hmix => ?_,
    fun h hm hv => ?_, fun h hm hp => ?_, fun h hp => ?_, fun h => ?_, fun hn hf hsys heast h hfit => ⟨?_,
      fun hn hf hsys heast h hfit => ?_⟩⟩, fun f s st k => ⟨fun h hpos => ⟨fun hrow hgood => ?_, fun hhead ha hb hnan hnan' hinf hinf' => ?_⟩,
    fun h hpos => (mtri_apart h hpos : execMtri f s = _), fun h => ?_⟩⟩
  · exact (mma_fires h).trans (by rw [mmaFire_fits hfit]; rfl)
  · exact (mmas_fires h hgs).trans (by rw [mmaFire_fits hfit]; rfl)
  · exact (mma_fires h).trans (by rw [mmaFire_mixed hmix]; rfl)
  · refine ⟨_, mldw_scales h hm hv, fun n hn => ?_⟩
    rw [State.modTile_tile_same]
    exact weightScale_set _ _ hn
  · exact ⟨chunkAfter f st k, mldw_chunk h hm hp, chunkAfter_wf, chunkAfter_ptr, fun n hn => chunkAfter_scale hn,
      fun r n hr hn => chunkAfter_weight hr hn⟩
  · refine ⟨_, mdot_fires h, ?_, fun i hi hne => ?_, fun hm ha hb => ?_⟩
    · rw [dotAfter, slotSt_setSlotSt_same]
    · rw [dotAfter_acc, lane_laneSet_ne _ hi hne]
    · rw [dotAfter_acc, lane_laneSet_same _ hp, dotLane_whole hm ha hb]
      rfl
  · have hopt : f.m.toNat % 4 = field f.m 1 0 := (field_low 1).symm
    rw [hopt] at h ⊢
    refine ⟨_, _, macc_fires h, rfl, fun i hi => ?_, fun i hi => ?_⟩
    · rw [maccAfter_acc, maccResult, lane_ofLanes _ hi]
      rfl
    · rw [lane_resultTok _ _ hi (allLanes hi), apply_ite (lane · i), maccResult, lane_ofLanes _ hi]
      rfl
  · exact (systolic_fires hn hf hsys (by rw [heast]; exact h) hfit).trans (by rw [heast]; rfl)
  · exact (systolic_fires hn hf hsys (by rw [heast]; exact h) hfit).trans (by rw [heast]; rfl)
  · obtain ⟨fl, hrun⟩ := mtri_row h hpos hrow hgood
    refine ⟨_, _, hrun, rfl, ?_, ?_, fun i hi hv => ?_⟩
    · rw [slotSt_raiseFlags, slotSt_setSlotSt_same]
      rfl
    · rw [slotSt_raiseFlags, slotSt_setSlotSt_same, hpos]
      rfl
    · refine (lane_resultTok _ f hi hv _).trans ?_
      rw [lane_ofLanes _ hi, getD_map_range _ _ hi]
      rfl
  · obtain ⟨fl, e1, e2, l, hrun⟩ := mtri_header h hpos hhead ha hb hnan hnan' hinf hinf'
    refine ⟨_, _, hrun, rfl, ?_, ?_, ?_⟩
    · rw [lane_resultTok _ _ (by decide) (by decide), lane_ofLanes _ (by decide), if_pos rfl]
      rfl
    · rw [slotSt_raiseFlags, slotSt_setSlotSt_same]
      rfl
    · rw [slotSt_raiseFlags, slotSt_setSlotSt_same, mtriAdvanced, hhead]
  · obtain ⟨t, hrun⟩ := mscm_fires h
    have hq : field f.m 8 6 = f.m.toNat / 64 % 8 := field_eq_div_mod f.m 8 6
    refine ⟨t, _, hrun, fun i hi => getLsbD_ofFlags _ hi, fun i hi hv => ?_⟩
    have hboth : bothValid k i = true := (getLsbD_ofFlags _ hi).symm.trans hv
    refine (lane_resultTok _ f hi hv _).trans ?_
    rw [lane_ofLanes _ hi, getD_map_range _ _ hi, mscmLane, if_pos hboth, hq]

end Sys2Proof.Machine
end

section
/-!
The commands of SQ (18_ref_s.md R392 to R397, R404 to R413, 16_ref_d_l.md R363): the stream programs from issue to their end, and SCLOSE,
SSEG, SBAR and SOWN.
-/
namespace Sys2Proof.Machine

open Sys2Proof

/-! ### A command's turn -/

section

variable {s : State} {i : Instr} {k q pos : Nat} {c : QCmd}

@[simp] theorem leftQueue_word (s : State) (k : Nat) (c : QCmd) : (leftQueue s k c).word = c.word := by
  unfold leftQueue atHead
  split <;> rfl

theorem leftQueue_phase (s : State) (k : Nat) (c : QCmd) : (leftQueue s k c).phase = .ready := rfl

theorem leftQueue_notStarted (s : State) (k : Nat) (c : QCmd) : (leftQueue s k c).phase ≠ .started := by
  rw [leftQueue_phase]
  decide

/-- A command that has begun is run by its engine as it stands. -/
theorem onQueue_of_begun (h : Begun s i k q pos c) (f : State → Nat → QCmd → Res) : onQueue s i f = f s k c := by
  obtain ⟨hturn, hhere, hword, hphase⟩ := h
  simp only [onQueue, hturn, hhere, hword, Except.toOption, ne_eq, not_true_eq_false, if_false, hphase]

end

/-! ### Stream programs (R392, R393) -/

section

variable {s : State} {k : Nat} {c : QCmd} {kind : ProgKind}

/-- The stream that a command names. -/
def sidOf (c : QCmd) : Nat := (cmdFields c.word).sid.toNat

section

variable (hopen : (s.port (portKey k (sidOf c))).shut = false) (haway : programsAway s k (sidOf c) c = false) (hleft : c.phase ≠ .started)

include hopen haway hleft

theorem programTurn_fails (hcheck : programCheck s k c (isEntryKind kind) = false) :
    programTurn s k c kind = .next (faultCmd s k 0 c fcCMD 0) := by
  unfold programTurn
  exact (if_neg fun h => ne_true_of_eq_false hopen h.1).trans ((if_neg fun h => ne_true_of_eq_false haway h.1).trans
    ((if_pos hleft).trans (if_pos hcheck)))

theorem programTurn_handsOver (hcheck : programCheck s k c (isEntryKind kind) = true) (hroom : tileRoom s k (sidOf c) = true) :
    programTurn s k c kind = .next (setPhase (openPort s k (sidOf c) c (isEntryKind kind)) k c.id .started) := by
  unfold programTurn
  exact (if_neg fun h => ne_true_of_eq_false hopen h.1).trans ((if_neg fun h => ne_true_of_eq_false haway h.1).trans
    ((if_pos hleft).trans ((if_neg (by rw [hcheck]; decide)).trans (if_pos hroom))))

end

variable (hph : c.phase = .started)

include hph

/-- A program that is first at its tile reads its block and begins. -/
theorem programTurn_begins {u : State} {b : BitVec 512} (hprog : c.progress = 0) (hopen : (s.port (portKey k (sidOf c))).shut = false)
    (haway : programsAway s k (sidOf c) c = false) (hfree : (s.port (portKey k (sidOf c))).prog = none)
    (hredo : (s.port (portKey k (sidOf c))).redo = []) (hfirst : firstAtTile s k (sidOf c) c.id = true)
    (hheld : heldByEarlier s k (sidOf c) c.id = false)
    (hblock : blockPart (openPort s k (sidOf c) c (isEntryKind kind)) k c (streamEng k) = .ok u b) :
    programTurn s k c kind = .next (beginProg u k c kind b) := by
  have hgo : ¬ ((s.port (portKey k (sidOf c))).prog.isSome || !(s.port (portKey k (sidOf c))).redo.isEmpty ||
      !firstAtTile s k (sidOf c) c.id || heldByEarlier s k (sidOf c) c.id) = true := by
    rw [hfree, hredo, hfirst, hheld]
    decide
  unfold programTurn
  refine (if_neg fun h => ne_true_of_eq_false hopen h.1).trans ((if_neg fun h => ne_true_of_eq_false haway h.1).trans
    ((if_neg fun h => h hph).trans ((if_pos hprog).trans ((if_neg hgo).trans ?_))))
  change (match blockPart (openPort s k (sidOf c) c (isEntryKind kind)) k c (streamEng k) with
    | .wait s => _ | .fault s code va => _ | .ok s b => _) = _
  rw [hblock]

/-- A program whose accesses are performed completes. -/
theorem programTurn_ends (hprog : c.progress = 2) (hegress : ∀ x ∈ s.egress, x.core ≠ k ∨ x.cmdId ≠ some c.id)
    (hlines : ∀ l ∈ (s.port (portKey k (sidOf c))).lines, l.cmdId ≠ c.id)
    (hhold : ∀ h ∈ (s.port (portKey k (sidOf c))).hold, ∀ l, h = .line l → l.cmdId ≠ c.id) :
    programTurn s k c kind = .next (endCmd s k c.id 0) := by
  have hlate : ¬ (c.phase ≠ .started ∨ c.progress = 0) := by
    rintro (h | h)
    · exact h hph
    · rw [hprog] at h
      cases h
  unfold programTurn
  refine (if_neg fun h => hlate h.2).trans ((if_neg fun h => hlate h.2).trans ((if_neg fun h => h hph).trans
    ((if_neg (by rw [hprog]; decide)).trans (if_pos ⟨hprog, ?_, ?_, ?_⟩))))
  · exact List.all_eq_true.2 fun x hx => decide_eq_true (hegress x hx)
  · exact List.all_eq_true.2 fun l hl => decide_eq_true (hlines l hl)
  · refine List.all_eq_true.2 fun h hh => ?_
    cases h with
    | line l => exact decide_eq_true (hhold _ hh l rfl)
    | order | scatter => rfl

end

/-- Settles O39: the turn of a program, for each of the six commands that run one. -/
theorem streamProgramsRun : Obligations.StreamProgramsRun := by
  intro m s k q pos c n r c1 program
  have hsid : sidOf c1 = n := congrArg (fun w => (cmdFields w).sid.toNat) (leftQueue_word s k c)
  have hid : c1.id = c.id := leftQueue_id s k c
  have hprogram : ∀ i kind, exec i s = onQueue s i (fun s k q => programTurn s k q kind) → program i kind := by
    intro i kind hexec
    refine ⟨fun h hopen haway => ?_, fun h => ⟨fun u b hprog hopen haway hfree hredo hfirst hheld hblock => ?_, fun hprog he hl hh => ?_⟩⟩
    · rw [← hsid] at hopen haway
      rw [hexec, onQueue_of_leaves h]
      refine ⟨fun hcheck hroom => ?_, fun hcheck => programTurn_fails hopen haway (leftQueue_notStarted s k c) hcheck⟩
      rw [← hsid] at hroom
      rw [← hid, ← hsid]
      exact programTurn_handsOver hopen haway (leftQueue_notStarted s k c) hcheck hroom
    · rw [hexec, onQueue_of_begun h]
      exact programTurn_begins h.phase hprog hopen haway hfree hredo hfirst hheld hblock
    · rw [hexec, onQueue_of_begun h]
      exact programTurn_ends h.phase hprog he hl hh
  exact ⟨hprogram _ _ rfl, hprogram _ _ rfl, hprogram _ _ rfl, hprogram _ _ rfl, hprogram _ _ rfl, hprogram _ _ rfl⟩

/-! ### SCLOSE (R397) -/

section

variable {m : Cmd} {s : State} {k q pos : Nat} {c : QCmd}

/-- The port of the stream that a command's operands name. -/
def cmdPort (s : State) (k : Nat) (m : Cmd) : Port := s.port (portKey k m.sid.toNat)

/-- A port that is idle, or that SCLOSE has shut. -/
def portGone (p : Port) : Prop := p.isOpen = false ∨ p.shut = true

theorem portGone_not {p : Port} (hopen : p.isOpen = true) (hshut : p.shut = false) : ¬ portGone p := by
  rintro (h | h)
  · rw [hopen] at h; cases h
  · rw [hshut] at h; cases h

section

variable (h : Leaves s (.sclose m) k q pos c) (haway : programsAway (released1 s k c) k m.sid.toNat (leftQueue s k c) = false)

include h haway

theorem sclose_idle (hgone : portGone (cmdPort (released1 s k c) k m)) :
    exec (.sclose m) s = .next (endCmd (released1 s k c) k c.id 0) := by
  show execSclose m s = _
  rw [execSclose, onQueue_of_leaves h, ← leftQueue_id s k c]
  exact (if_neg (ne_true_of_eq_false haway)).trans (if_pos hgone)

theorem sclose_otherContext (hgone : ¬ portGone (cmdPort (released1 s k c) k m)) (hbind : (cmdPort (released1 s k c) k m).bind ≠ m.bind.toNat) :
    exec (.sclose m) s = .next (faultCmd (released1 s k c) k 0 (leftQueue s k c) fcCMD 0) := by
  show execSclose m s = _
  rw [execSclose, onQueue_of_leaves h]
  exact (if_neg (ne_true_of_eq_false haway)).trans ((if_neg hgone).trans ((if_pos (leftQueue_notStarted s k c)).trans (if_pos hbind)))

end

/-- SCLOSE has nothing left to wait for: the stream's programs and re-runs are over and its stores performed. -/
structure Closable (s : State) (m : Cmd) (k : Nat) (c : QCmd) : Prop where
  here : programsAway s k m.sid.toNat c = false
  opened : ¬ portGone (cmdPort s k m)
  ended : programsOver s k m.sid.toNat c.id = true
  free : (cmdPort s k m).prog = none
  redo : (cmdPort s k m).redo = []
  idle : streamBusy s k m.sid.toNat = false

section

variable (h : Begun s (.sclose m) k q pos c) (hc : Closable s m k c)

include h hc

theorem sclose_ends (hside : (cmdPort s k m).entry = false ∨ 4 ≤ (cmdPort s k m).bind) :
    exec (.sclose m) s = .next (endCmd (closeStream s k m.sid.toNat) k c.id 0) := by
  obtain ⟨hhere, hopened, hended, hfree, hredo, hidle⟩ := hc
  have hdone : ¬ (programsOver s k m.sid.toNat c.id = false ∨ (cmdPort s k m).prog.isSome = true ∨ (cmdPort s k m).redo ≠ []) := by
    rw [hended, hfree, hredo]
    simp
  have hside' : ¬ ((cmdPort s k m).entry = true ∧ (cmdPort s k m).bind < 4) := by
    rintro ⟨he, hb⟩
    rcases hside with h' | h'
    · rw [he] at h'; cases h'
    · omega
  show execSclose m s = _
  rw [execSclose, onQueue_of_begun h]
  refine (if_neg (ne_true_of_eq_false hhere)).trans ((if_neg hopened).trans ((if_neg fun hn => hn h.phase).trans ((if_neg hdone).trans
    ((if_neg (ne_true_of_eq_false hidle)).trans ?_))))
  simp only [cmdPort] at hside'
  rw [if_neg hside']

theorem sclose_compares {j : Nat} (he : (cmdPort s k m).entry = true) (hb : (cmdPort s k m).bind < 4)
    (hj : s.regionOfStream k m.sid.toNat = some j) : exec (.sclose m) s = .next (endCmd
      (compareCounts (closeStream s k m.sid.toNat) k j (cmdPort s k m).bind m.sid.toNat (some (0, c))).1 k c.id
      (compareCounts (closeStream s k m.sid.toNat) k j (cmdPort s k m).bind m.sid.toNat (some (0, c))).2) := by
  obtain ⟨hhere, hopened, hended, hfree, hredo, hidle⟩ := hc
  have hdone : ¬ (programsOver s k m.sid.toNat c.id = false ∨ (cmdPort s k m).prog.isSome = true ∨ (cmdPort s k m).redo ≠ []) := by
    rw [hended, hfree, hredo]
    simp
  show execSclose m s = _
  rw [execSclose, onQueue_of_begun h]
  refine (if_neg (ne_true_of_eq_false hhere)).trans ((if_neg hopened).trans ((if_neg fun hn => hn h.phase).trans ((if_neg hdone).trans
    ((if_neg (ne_true_of_eq_false hidle)).trans ?_))))
  simp only [cmdPort] at he hb
  rw [if_pos ⟨he, hb⟩, hj]
  rfl

end

/-! ### SSEG (R413) -/

theorem field_count (m : Cmd) : field m.ops 31 0 = m.ops.toNat % 2 ^ 32 := field_low 31

section

variable (h : Leaves s (.sseg m) k q pos c) (haway : programsAway (released1 s k c) k m.sid.toNat (leftQueue s k c) = false)

include h haway

theorem sseg_closed (hgone : portGone (cmdPort (released1 s k c) k m)) :
    exec (.sseg m) s = .next (faultCmd (released1 s k c) k 0 (leftQueue s k c) fcCMD 0) := by
  show execSseg m s = _
  rw [execSseg, onQueue_of_leaves h]
  exact (if_neg (ne_true_of_eq_false haway)).trans ((if_pos (leftQueue_notStarted s k c)).trans (if_pos hgone))

theorem sseg_none (hgone : ¬ portGone (cmdPort (released1 s k c) k m)) (hzero : m.ops.toNat % 2 ^ 32 = 0) :
    exec (.sseg m) s = .next (endCmd (released1 s k c) k c.id 0) := by
  show execSseg m s = _
  rw [execSseg, onQueue_of_leaves h, ← leftQueue_id s k c]
  exact (if_neg (ne_true_of_eq_false haway)).trans ((if_pos (leftQueue_notStarted s k c)).trans
    ((if_neg hgone).trans (if_pos ((field_count m).trans hzero))))

end

section

variable (h : Begun s (.sseg m) k q pos c) (haway : programsAway s k m.sid.toNat c = false)

include h haway

theorem sseg_counted (hle : m.ops.toNat % 2 ^ 32 ≤ segsComplete s k m.sid.toNat) : exec (.sseg m) s = .next (endCmd s k c.id 0) := by
  rw [← field_count m] at hle
  show execSseg m s = _
  rw [execSseg, onQueue_of_begun h]
  exact (if_neg (ne_true_of_eq_false haway)).trans ((if_neg fun hn => hn h.phase).trans (if_pos hle))

/-- Short of its count SSEG waits while the stream is open, and ends with CMD where it has closed. -/
theorem sseg_short (hlt : segsComplete s k m.sid.toNat < m.ops.toNat % 2 ^ 32) :
    (¬ portGone (cmdPort s k m) → exec (.sseg m) s = .next s) ∧
      (portGone (cmdPort s k m) → exec (.sseg m) s = .next (faultCmd s k 0 c fcCMD 0)) := by
  rw [← field_count m] at hlt
  have hrun : exec (.sseg m) s = if (cmdPort s k m).isOpen = false ∨ (cmdPort s k m).shut = true then .next (faultCmd s k 0 c fcCMD 0)
      else .next s := by
    show execSseg m s = _
    rw [execSseg, onQueue_of_begun h]
    exact (if_neg (ne_true_of_eq_false haway)).trans ((if_neg fun hn => hn h.phase).trans (if_neg (Nat.not_le.2 hlt)))
  exact ⟨fun hopen => hrun.trans (if_neg hopen), fun hgone => hrun.trans (if_pos hgone)⟩

end

/-! ### SBAR (R396) -/

section

variable (h : Leaves s (.sbar m) k q pos c)

include h

theorem sbar_none (hzero : m.ops.toNat % 2 ^ 32 = 0) : exec (.sbar m) s = .next (endCmd (released1 s k c) k c.id 0) := by
  show execSbar m s = _
  rw [execSbar, onQueue_of_leaves h, ← leftQueue_id s k c]
  exact (if_neg (leftQueue_notStarted s k c)).trans (if_pos ((field_count m).trans hzero))

theorem sbar_instance (hsome : m.ops.toNat % 2 ^ 32 ≠ 0) : exec (.sbar m) s = .next (addBarrier (setPhase (released1 s k c) k c.id .started)
    { id := 0, core := k, mask := BitVec.ofNat 32 m.ops.toNat, reached := 0, scope := m.flags.extractLsb' 0 2, cmdId := some c.id,
      key := 0, order := false }) := by
  show execSbar m s = _
  rw [execSbar, onQueue_of_leaves h, ← leftQueue_id s k c]
  exact (if_neg (leftQueue_notStarted s k c)).trans (if_neg fun hz => hsome ((field_count m).symm.trans hz))

end

/-- The mask of SBAR is its low 32 bits. -/
theorem sbarMask (m : Cmd) : BitVec.ofNat 32 m.ops.toNat = BitVec.ofNat 32 (m.ops.toNat % 2 ^ 32) := by
  apply BitVec.eq_of_toNat_eq
  simp

/-! ### SOWN (R411) -/

/-- The address that SOWN and MIGRATE name. -/
theorem field_base (m : Cmd) : field m.ops 55 0 = m.ops.toNat % 2 ^ 56 := field_low 55

section

variable {j : Nat} {w : Owned}

/-- SOWN of a declared range that it names: nothing to do for its owner, CMD for a stream that is not the successor, and
otherwise it begins, to wait for the owner's programs. -/
theorem sown_leaves (h : Leaves s (.sown m) k q pos c) (hreg : (released1 s k c).regionOfStream k m.sid.toNat = some j)
    (hrange : ownedAt (released1 s k c) k j m.bind.toNat (m.ops.toNat % 2 ^ 56) = some w) :
    exec (.sown m) s =
      if w.owner = m.sid.toNat then .next (endCmd (released1 s k c) k c.id 0)
      else if w.succ ≠ some m.sid.toNat then .next (faultCmd (released1 s k c) k 0 (leftQueue s k c) fcCMD 0)
      else .next (setProgress (setPhase (released1 s k c) k c.id .started) k c.id (w.owner + 1)) := by
  rw [← field_base] at hrange
  show execSown m s = _
  rw [execSown, onQueue_of_leaves h, ← leftQueue_id s k c]
  simp only [hreg, hrange]
  exact if_pos (leftQueue_notStarted s k c)

/-- The programs of stream `old` before the command of that ID in SQ have their accesses performed. -/
def oldOver (s : State) (k id old : Nat) : Prop :=
  ∀ x ∈ sqBefore s k id, isProgram x = true → (cmdFields x.word).sid.toNat = old → isDone x = true ∨ x.progress = 2

theorem sown_handsOver {old : Nat} (h : Begun s (.sown m) k q pos c) (hreg : s.regionOfStream k m.sid.toNat = some j)
    (hrange : ownedAt s k j m.bind.toNat (m.ops.toNat % 2 ^ 56) = some w) (hold : c.progress = old + 1)
    (hover : oldOver s k c.id old) (hlines : (s.port (portKey k old)).lines = []) (hhold : (s.port (portKey k old)).hold = [])
    (hown : (s.port (portKey k m.sid.toNat)).lines = []) :
    exec (.sown m) s = .next (endCmd (modCtx s k j m.bind.toNat (fun x => { x with ranges := x.ranges.map (fun v =>
      if v.base = m.ops.toNat % 2 ^ 56 then v.swap else v) })) k c.id 0) := by
  rw [← field_base] at hrange ⊢
  have hall : (sqBefore s k c.id).all (fun x => !(isProgram x && decide ((cmdFields x.word).sid.toNat = old)) ||
      isDone x || decide (x.progress = 2)) = true := by
    refine List.all_eq_true.2 fun x hx => ?_
    have hx' := hover x hx
    by_cases hp : isProgram x = true <;> by_cases hs : (cmdFields x.word).sid.toNat = old <;> simp [hp, hs]
    exact hx' hp hs
  show execSown m s = _
  rw [execSown, onQueue_of_begun h]
  simp only [hreg, hrange, h.phase, ne_eq, not_true_eq_false, if_false, hold, Nat.add_sub_cancel, hall, Bool.true_eq_false, hlines, hhold,
    hown, List.isEmpty_nil, Bool.and_self, if_true]

end

end

/-- Settles O40: each command at its turn, by the branch of its engine that the state picks. -/
theorem streamControlCommands : Obligations.StreamControlCommands := by
  intro m s k q pos c n r c1 count base
  refine ⟨fun h haway hgone => sclose_idle h haway hgone, fun h haway hopen hshut hb => sclose_otherContext h haway (portGone_not hopen hshut) hb,
    fun h hhere hopen hshut hended hfree hredo hidle hn => sclose_ends h ⟨hhere, portGone_not hopen hshut, hended, hfree, hredo, hidle⟩ hn,
    fun j h hhere hopen hshut hended hfree hredo hidle he hb hj =>
      sclose_compares h ⟨hhere, portGone_not hopen hshut, hended, hfree, hredo, hidle⟩ he hb hj,
    fun h haway hgone => sseg_closed h haway hgone, fun h haway hopen hshut hz => sseg_none h haway (portGone_not hopen hshut) hz,
    fun h haway hle => sseg_counted h haway hle, fun h haway hlt => ⟨fun hopen hshut => (sseg_short h haway hlt).1 (portGone_not hopen hshut),
      (sseg_short h haway hlt).2⟩, fun h hz => sbar_none h hz, fun h hn => ⟨_, sbar_instance h hn, ?formed⟩,
    fun j w h hreg hrange => ⟨fun ho => ?owner, fun ho hs => ?refused, fun ho hs => ?begins⟩,
    fun j w old h hreg hrange hold hover hl hh hown => sown_handsOver h hreg hrange hold hover hl hh hown⟩
  case formed =>
    rw [sbarMask]
    rfl
  case owner => exact (sown_leaves h hreg hrange).trans (if_pos ho)
  case refused => exact (sown_leaves h hreg hrange).trans ((if_neg ho).trans (if_pos hs))
  case begins => exact (sown_leaves h hreg hrange).trans ((if_neg ho).trans (if_neg fun hn => hn hs))

end Sys2Proof.Machine
end

section
/-!
The collectives (14_system.md R308, 15_ref_a_c.md R337, R338): a command joins its group's collective, and a collective that has every member
reads the sources and then writes the destinations.
-/
namespace Sys2Proof.Machine

open Sys2Proof

/-! ### Joining a collective -/

section

variable {s u1 u2 u3 : State} {k op : Nat} {c : QCmd} {b : BitVec 512} {head ms : List Byte}

/-- Fields of a group descriptor's first 16 bytes (Table 14.6). -/
def headCount (head : List Byte) : Nat := ofBytes (head.take 2)
def headRank (head : List Byte) : Nat := ofBytes ((head.drop 2).take 2)

/-- The group that a descriptor's bytes give. -/
def groupOf (head ms : List Byte) : Group :=
  { nmem := headCount head, rank := headRank head, gid := ofBytes ((head.drop 4).take 4)
    members := (List.range (headCount head)).map (fun i => ofBytes ((ms.drop (4 * i)).take 4)) }

/-- The member that a command of core k is in its collective. -/
def memberOf (k op : Nat) (c : QCmd) (b : BitVec 512) (head : List Byte) : Member :=
  { rank := headRank head, core := k, cmdId := c.id, asid := c.asid, opcode := op, block := b }

/-- The bytes that a member reads and those that its collective writes it share one. -/
def collOverlap (op : Nat) (b : BitVec 512) (head : List Byte) : Bool :=
  overlap (collSrc b) (collReads op (headRank head) (headCount head) (collLen b)) (collDst b) (collWrites op (headCount head) (collLen b))

/-- A collective whose block and descriptor are read and in order joins, unless its source overlaps its destination. -/
theorem collTurn_joins (hleft : c.phase ≠ .started) (hblock : blockPart s k c (collEng k) = .ok u1 b) (hok : collBlockOk op b = true)
    (hhead : readPart u1 k c (collEng k) 1 [(collGroup b, 16)] = .ok u2 head) (hgroup : groupOk head = true)
    (hms : readPart u2 k c (collEng k) 2 [(collGroup b + 16, 4 * headCount head)] = .ok u3 ms) :
    collTurn s k c op =
      if collOverlap op b head then .next (joinColl (faultCmd u3 k 4 c fcCMD 0) (groupOf head ms).gid (headCount head) (groupOf head ms).members
        (memberOf k op c b head) (some fcCMD))
      else .next (joinColl (setPhase u3 k c.id .started) (groupOf head ms).gid (headCount head) (groupOf head ms).members
        (memberOf k op c b head) (if groupNames u3 k (groupOf head ms) then none else some fcCMD)) := by
  unfold headCount at hms
  unfold collTurn
  refine (if_neg hleft).trans ?_
  simp only [hblock, hok, Bool.true_eq_false, if_false, hhead, hgroup, hms]
  rfl

end

/-! ### Running a collective -/

section

variable {s : State} {i : Nat} {w : Coll}

/-- The members of a collective in the order of their ranks. -/
def ranked (w : Coll) : List Member := (List.range w.nmem).filterMap (fun r => w.members.find? (fun m => decide (m.rank = r)))

/-- The turn of a collective is that of its members. -/
theorem collectiveInstance_runs (hself : s.self = .module) (hw : s.colls[i]? = some w) :
    exec (.collectiveInstance i) s = .next (runColl s i w) := by
  show execCollectiveInstance i s = _
  simp only [execCollectiveInstance, hself, hw]

/-- A collective without a fault that lacks a member of its module waits. -/
theorem runColl_short (hcode : w.code = none) (hfar : farFault s w = none) (hshort : w.members.length < w.near s) : runColl s i w = s := by
  unfold runColl
  simp only [hcode, hfar]
  exact if_pos (Or.inr (Or.inl hshort))

/-- A collective that has every member goes by rank 0's operation, type and length. -/
structure Complete (s : State) (w : Coll) : Prop where
  code : w.code = none
  far : farFault s w = none
  known : w.nmem ≠ 0
  near : w.near s ≤ w.members.length
  there : w.far s = [] ∨ w.srcs.isSome = true ∨ Config.membersThere s.tick = true
  ranks : w.near s ≤ (ranked w).length

section

variable (h : Complete s w)

include h

/-- None of what makes a collective wait for members holds of a complete one. -/
theorem Complete.notWaiting :
    ¬ (w.nmem = 0 ∨ w.members.length < w.near s ∨ (!(w.far s).isEmpty && w.srcs.isNone && !Config.membersThere s.tick) = true) := by
  obtain ⟨-, -, hknown, hnear, hthere, -⟩ := h
  rintro (h0 | hlt | hb)
  · exact hknown h0
  · omega
  · rcases hthere with hf | hs | ht
    · simp [hf] at hb
    · cases hsrc : w.srcs <;> simp [hsrc] at hb hs
    · simp [ht] at hb

/-- A complete collective ends with CMD where a member differs from rank 0; otherwise it reads the sources, and once they are there it
writes the destinations. -/
theorem runColl_complete :
    (∀ x, collOdd (ranked w) = some x →
      runColl s i w = { collFail s w (some x) fcCMD 0 with colls := (collFail s w (some x) fcCMD 0).colls.eraseIdx i }) ∧
    (collOdd (ranked w) = none → w.srcs = none →
      (∀ u x, collSources w.nmem (anyFirst s (ranked w)) s = (.wait u, x) → runColl s i w = u) ∧
      (∀ u y x, collSources w.nmem (anyFirst s (ranked w)) s = (.ok u y, x) → runColl s i w = { u with
        colls := u.colls.set i { w with srcs := some ((List.range w.nmem).map (fun r => (collKnown u w r).map (·.getD 0))) } })) ∧
    (∀ l, collOdd (ranked w) = none → w.srcs = some l →
      (∀ u x, collWrite w.nmem (l.map (fun b => b.map some)) (anyFirst s (ranked w)) s = (.wait u, x) → runColl s i w = u) ∧
      (∀ u y x, collWrite w.nmem (l.map (fun b => b.map some)) (anyFirst s (ranked w)) s = (.ok u y, x) →
        runColl s i w = { u with colls := u.colls.eraseIdx i })) := by
  have hgo := h.notWaiting
  obtain ⟨hcode, hfar, -, -, -, hranks⟩ := h
  unfold ranked at hranks ⊢
  unfold runColl
  simp only [hcode, hfar]
  rw [if_neg hgo, if_neg (Nat.not_lt.2 hranks)]
  refine ⟨fun x hodd => ?_, fun heven hsrcs => ⟨fun u x hr => ?_, fun u y x hr => ?_⟩,
    fun l heven hsrcs => ⟨fun u x hr => ?_, fun u y x hr => ?_⟩⟩
  · rw [hodd]
  · simp only [heven, hsrcs, hr]
  · simp only [heven, hsrcs, hr]
  · simp only [heven, hsrcs, hr]
  · simp only [heven, hsrcs, hr]

end

end

/-- A member whose destination is written whole retires, and the others' are written on. -/
theorem collWrite_member {n : Nat} {srcs : List (List (Option Byte))} {x : Member} {rest : List Member} {s u : State} {c : QCmd} {y : Unit}
    (hcmd : memberCmd s x = some c)
    (hwrite : writePart s x.core c (collEng x.core) 0 (collTo n x) ((memberResult x srcs).map (·.getD 0)) = .ok u y) :
    collWrite n srcs (x :: rest) s = collWrite n srcs rest (endCmd u x.core x.cmdId 0) := by
  rw [collWrite, hcmd]
  simp only [hwrite]

/-- Settles O47: the three commands share the turn that joins, and the collective's turn goes by its members. -/
theorem collectivesRun : Obligations.CollectivesRun := by
  intro m s k q pos c r c1 join
  have hjoin : ∀ i op, exec i s = onQueue s i (fun s k q => collTurn s k q op) → join i op := by
    intro i op hexec u1 b u2 head u3 ms h hblock hok hhead hgroup n rank hms g x
    have hrun := (hexec.trans (onQueue_of_leaves h _)).trans (collTurn_joins (leftQueue_notStarted s k c) hblock hok hhead hgroup hms)
    refine ⟨fun hno => hrun.trans ((if_neg (ne_true_of_eq_false hno)).trans ?_), fun hyes => hrun.trans (if_pos hyes)⟩
    rw [leftQueue_id s k c]
    rfl
  refine ⟨hjoin _ _ rfl, hjoin _ _ rfl, hjoin _ _ rfl, ?runs, fun i w hself hw hcode hfar hshort => ?short,
    fun n srcs x rest c' u y hcmd hwrite => collWrite_member hcmd hwrite, fun len rank srcs => ⟨rfl, rfl⟩⟩
  case short => rw [collectiveInstance_runs hself hw, runColl_short hcode hfar hshort]
  case runs =>
    intro i w hself hw hcode hfar hknown hnear hthere ms ended hranks
    rw [collectiveInstance_runs hself hw]
    obtain ⟨hodd, hread, hwrite⟩ := runColl_complete (i := i) ⟨hcode, hfar, hknown, hnear, hthere, hranks⟩
    exact ⟨fun x ho => congrArg _ (hodd x ho),
      fun heven hsrcs => ⟨fun u x hr => congrArg _ ((hread heven hsrcs).1 u x hr), fun u y x hr => congrArg _ ((hread heven hsrcs).2 u y x hr)⟩,
      fun l heven hsrcs => ⟨fun u x hr => congrArg _ ((hwrite l heven hsrcs).1 u x hr),
        fun u y x hr => congrArg _ ((hwrite l heven hsrcs).2 u y x hr)⟩⟩

end Sys2Proof.Machine
end

section
/-!
The hoist engines and the sluice engines (06_memory.md R145, R146, 16_ref_d_l.md R357, R358, 18_ref_s.md R398, R402, R403): their commands
from issue to their end.
-/
namespace Sys2Proof.Machine

open Sys2Proof

/-! ### The destination lines of a hoist command -/

theorem hoistPiece_off (d n i : Nat) : (hoistPiece d n i).1 = 128 * i - d % 128 := by
  unfold hoistPiece
  split
  · next h => simp [h]
  · rfl

theorem hoistPiece_length (d n i : Nat) :
    (hoistPiece d n i).2 = min (n - (128 * i - d % 128)) (128 - (d + (128 * i - d % 128)) % 128) := by
  rw [← hoistPiece_off d n i]
  rfl

/-- Line i of a destination holds its bytes of one 128-byte line of memory, the i-th from the first. -/
theorem mem_hoistPiece (d n i x : Nat) :
    (d + (hoistPiece d n i).1 ≤ x ∧ x < d + (hoistPiece d n i).1 + (hoistPiece d n i).2) ↔ d ≤ x ∧ x < d + n ∧ x / 128 = d / 128 + i := by
  rw [hoistPiece_off, hoistPiece_length]
  omega

theorem hoistPiece_pos {d n i : Nat} (hn : 0 < n) (hi : i < hoistCount d n) : 0 < (hoistPiece d n i).2 := by
  unfold hoistCount at hi
  rw [hoistPiece_length]
  omega

theorem hoistPiece_covers {d n x : Nat} (hlow : d ≤ x) (hhigh : x < d + n) : ∃ i, i < hoistCount d n ∧
    d + (hoistPiece d n i).1 ≤ x ∧ x < d + (hoistPiece d n i).1 + (hoistPiece d n i).2 ∧
    ∀ i', i' < hoistCount d n → d + (hoistPiece d n i').1 ≤ x → x < d + (hoistPiece d n i').1 + (hoistPiece d n i').2 → i' = i := by
  have hline : x / 128 = d / 128 + (x / 128 - d / 128) := by omega
  obtain ⟨hfrom, hto⟩ := (mem_hoistPiece d n (x / 128 - d / 128) x).2 ⟨hlow, hhigh, hline⟩
  refine ⟨x / 128 - d / 128, ?_, hfrom, hto, fun i' _ hfrom' hto' => ?_⟩
  · unfold hoistCount
    omega
  · obtain ⟨-, -, hline'⟩ := (mem_hoistPiece d n i' x).1 ⟨hfrom', hto'⟩
    omega

theorem hoistPiece_oneLine {d n i : Nat} (hn : 0 < n) (hi : i < hoistCount d n) :
    (d + (hoistPiece d n i).1) / 128 = (d + (hoistPiece d n i).1 + (hoistPiece d n i).2 - 1) / 128 := by
  have hpos := hoistPiece_pos hn hi
  obtain ⟨-, -, hfirst⟩ := (mem_hoistPiece d n i (d + (hoistPiece d n i).1)).1 ⟨le_refl _, by omega⟩
  obtain ⟨-, -, hlast⟩ := (mem_hoistPiece d n i (d + (hoistPiece d n i).1 + (hoistPiece d n i).2 - 1)).1 ⟨by omega, by omega⟩
  rw [hfirst, hlast]

/-! ### The turns of a hoist command (R357, R358) -/

section

variable {s : State} {k : Nat} {c : QCmd} {copy : Bool}

theorem hoistTurn_begins {u : State} {b : BitVec 512} (hleft : c.phase ≠ .started)
    (hfree : ((queueCmds s k 2).filter (fun x => decide (x.phase = .started))).length < 2) (hblock : blockPart s k c (hoistEng k) = .ok u b)
    (hok : hoistOk b = true) (hsrc : copy = true → hoistSrc b + hoistLen b ≤ 2 ^ 56) (hdst : hoistDst b + hoistLen b ≤ 2 ^ 56) :
    hoistTurn s k c copy = .next (modCmds u k (fun x => decide (x.id = c.id)) (fun x => { x with phase := .started, block := b })) := by
  have hbelow : ∀ va n, va + n ≤ 2 ^ 56 → passesTop va n = false := fun va n h => decide_eq_false (Nat.not_lt.2 h)
  have hread : ¬ (copy = true ∧ passesTop (hoistSrc b) (hoistLen b) = true) := fun h => by
    rw [hbelow _ _ (hsrc h.1)] at h
    exact Bool.false_ne_true h.2
  unfold hoistTurn withBlock
  rw [if_pos hleft, if_neg (Nat.not_le.2 hfree), hblock]
  exact congrArg Host.Outcome.next ((if_neg (by simp [hok])).trans ((if_neg hread).trans
    (if_neg (ne_true_of_eq_false (hbelow _ _ hdst)))))

variable (hbegun : c.phase = .started)

include hbegun

theorem hoistTurn_ends (hall : hoistCount (hoistDst c.block) (hoistLen c.block) ≤ c.progress) :
    hoistTurn s k c copy = .next (endCmd s k c.id 0) := by
  unfold hoistTurn
  exact (if_neg fun h => h hbegun).trans (if_pos hall)

variable (hmore : c.progress < hoistCount (hoistDst c.block) (hoistLen c.block))

include hmore

theorem hoistTurn_waits {u : State}
    (hline : hoistLine s k c c.block copy (hoistOrder c.block copy (Config.copyDescends c.id) c.progress) = .wait u) :
    hoistTurn s k c copy = .next u := by
  unfold hoistTurn
  rw [if_neg fun h => h hbegun, if_neg (Nat.not_le.2 hmore), hline]

theorem hoistTurn_moves {u : State} {v : Unit}
    (hline : hoistLine s k c c.block copy (hoistOrder c.block copy (Config.copyDescends c.id) c.progress) = .ok u v) :
    hoistTurn s k c copy = .next (modCmd u k c.id (fun q => { q with progress := c.progress + 1, parts := [], puts := [] })) := by
  unfold hoistTurn
  rw [if_neg fun h => h hbegun, if_neg (Nat.not_le.2 hmore), hline]

end

/-! ### A sluice command's way to an engine (R145) -/

section

variable {s : State} {j k : Nat} {c : QCmd}

theorem seekEngine_full (hleft : c.phase ≠ .started) (hfull : 16 ≤ (s.baseDie j).sluice.length) : seekEngine s j k c = s := by
  unfold seekEngine
  exact (if_pos hleft).trans (if_neg (Nat.not_lt.2 hfull))

theorem seekEngine_joins {u : State} (hleft : c.phase ≠ .started) (hroom : (s.baseDie j).sluice.length < 16)
    (hcross : crossFrom s (coreDie k) (j / 2) 0 = (u, false)) :
    seekEngine s j k c = setPhase (u.modBaseDie j (fun b => { b with sluice := b.sluice ++ [(k, c.id)] })) k c.id .started := by
  unfold seekEngine
  refine (if_pos hleft).trans ((if_pos hroom).trans ?_)
  rw [hcross]

theorem seekEngine_taken {eng : Nat} {rest : List Nat} (hbegun : c.phase = .started) (hidle : (s.baseDie j).idle = eng :: rest)
    (hhead : (s.baseDie j).sluice.head? = some (k, c.id)) :
    seekEngine s j k c = s.modBaseDie j (fun b => { b with
      sluice := b.sluice.drop 1, idle := rest, runs := b.runs ++ [{ engine := eng, core := k, cmdId := c.id, block := 0 }] }) := by
  unfold seekEngine
  refine (if_neg fun h => h hbegun).trans ?_
  rw [hidle]
  exact if_pos hhead

end

/-! ### SEAMPACK (R398) -/

section

variable {s u1 u2 : State} {j k : Nat} {c : QCmd} {w : SluiceRun} {b : BitVec 512} {l : List Byte}

/-- The rows of a SEAMPACK in hand: those of K, and those of V behind them. -/
def kRows (b : BitVec 512) (l : List Byte) : List (List Byte) := chunks 256 (packArgs b).ntok l
def vRows (b : BitVec 512) (l : List Byte) : List (List Byte) := chunks 256 (packArgs b).ntok (l.drop (256 * (packArgs b).ntok))

/-- The block and the side record that the rows give. -/
def packedBytes (b : BitVec 512) (l : List Byte) : List Byte :=
  (packBytes (packArgs b) (kRows b l) (vRows b l)).1 ++ (packBytes (packArgs b) (kRows b l) (vRows b l)).2

/-- With its block and its rows read, SEAMPACK checks the rows, then lets its lines in, then writes them. -/
theorem packStep_read (hblock : blockPart s k c (sluiceEng k j) = .ok u1 b) (hok : packOk b = true)
    (hrows : readPart u1 k c (sluiceEng k j) 1 (packRows (packArgs b)) = .ok u2 l) :
    (packBad (kRows b l) (packArgs b).ntok = true ∨ packBad (vRows b l) (packArgs b).ntok = true →
      packStep s j k c w = faultCmd (endRun u2 j w) k 3 c fcSEAM 0) ∧
    (packBad (kRows b l) (packArgs b).ntok = false → packBad (vRows b l) (packArgs b).ntok = false →
      (∀ u v, c.progress = 0 → engChecks (sluiceEng k j) c.asid .write ((packTo (packArgs b)).flatMap (fun x => linesOf x.1 x.2)) u2 = .ok u v →
        packStep s j k c w = setProgress u k c.id 1) ∧
      (∀ u, c.progress ≠ 0 → writePart u2 k c (sluiceEng k j) 0 (packTo (packArgs b)) (packedBytes b l) = .wait u → packStep s j k c w = u) ∧
      (∀ u v, c.progress ≠ 0 → writePart u2 k c (sluiceEng k j) 0 (packTo (packArgs b)) (packedBytes b l) = .ok u v →
        packStep s j k c w = endCmd (endRun u j w) k c.id 0)) := by
  unfold packedBytes kRows vRows
  unfold packStep
  simp only [hblock, hok, Bool.true_eq_false, if_false, hrows]
  refine ⟨fun hbad => if_pos (Bool.or_eq_true_iff.2 hbad), fun hk hv => ?_⟩
  rw [if_neg (by rw [hk, hv]; decide)]
  refine ⟨fun u v hp hcheck => (if_pos hp).trans ?_, fun u hp hw => (if_neg hp).trans ?_, fun u v hp hw => (if_neg hp).trans ?_⟩
  · rw [hcheck]
  · rw [hw]
  · rw [hw]

end

section

variable {m : Cmd} {s : State} {k q pos : Nat} {c : QCmd}

theorem seampack_leaves (h : Leaves s (.seampack m) k q pos c)
    (hrun : sluiceRun (released1 s k c) (stackField m) k (leftQueue s k c).id = none) :
    exec (.seampack m) s = .next (seekEngine (released1 s k c) (stackField m) k (leftQueue s k c)) := by
  show execSeampack m s = _
  rw [execSeampack, onQueue_of_leaves h, hrun]

/-- Once begun, SEAMPACK looks for an engine of its stack, and runs at the one that has taken it. -/
theorem seampack_begun (h : Begun s (.seampack m) k q pos c) :
    (sluiceRun s (stackField m) k c.id = none → exec (.seampack m) s = .next (seekEngine s (stackField m) k c)) ∧
      (∀ w, sluiceRun s (stackField m) k c.id = some w → exec (.seampack m) s = .next (packStep s (stackField m) k c w)) := by
  have hexec : exec (.seampack m) s = execSeampack m s := rfl
  rw [hexec, execSeampack, onQueue_of_begun h]
  exact ⟨fun hrun => by rw [hrun], fun w hrun => by rw [hrun]⟩

end

/-! ### SELPRED and SELTOPK (R402, R403) -/

section

variable {s : State} {j k : Nat} {c : QCmd} {w : SluiceRun} {topk : Bool}

theorem selBegin_reads {u u2 : State} {b : BitVec 512} {l : List Byte} (hblock : blockPart s k c (sluiceEng k j) = .ok u b)
    (hok : selOk b topk = true)
    (hquery : readPart u k c (sluiceEng k j) 1 (if selMode b = 1 then [(selQva b, 256)] else []) = .ok u2 l) :
    selBegin s j k c w topk = setProgress (setRun u2 j { w with block := b, query := l }) k c.id 1 := by
  unfold selBegin
  simp only [hblock, hok, Bool.true_eq_false, if_false, hquery]

section

variable (hmode : selMode w.block ≠ 1) (hbuf : w.buf ≠ [])

include hmode hbuf

/-- SELTOPK weighs the next element in hand against the best. -/
theorem selScan_ranks : selScan s j k c w true = setRun s j { w with
    pos := w.pos + 1, buf := w.buf.drop (selSize w.block)
    best := insertBest (selScore w.block) (selK w.block) (w.pos, ofBytes (w.buf.take (selSize w.block)), 0) w.best } := by
  unfold selScan
  exact (if_neg hmode).trans ((if_neg fun h => hbuf (List.isEmpty_iff.1 h)).trans (if_pos rfl))

/-- SELPRED passes over an element that does not satisfy its predicate. -/
theorem selScan_passes (hno : selHolds w.block (ofBytes (w.buf.take (selSize w.block))) = false) :
    selScan s j k c w false = setRun s j { w with pos := w.pos + 1, buf := w.buf.drop (selSize w.block) } := by
  unfold selScan
  exact (if_neg hmode).trans ((if_neg fun h => hbuf (List.isEmpty_iff.1 h)).trans ((if_neg Bool.false_ne_true).trans
    (if_neg (ne_true_of_eq_false hno))))

end

theorem predEnd_writes {u : State} {v : Unit}
    (hw : writePart s k c (sluiceEng k j) 1 [(selResult w.block, 64)] (selHeader w.count) = .ok u v) :
    predEnd s j k c w = endCmd (endRun u j w) k c.id 0 := by
  unfold predEnd
  rw [hw]

/-- The records of a SELTOPK, best first. -/
def topkRecords (w : SluiceRun) : List Byte := w.best.flatMap (selRecord w.block)

/-- The lines that it may write next: its records', and the header once none of those is left. -/
def topkLeft (c : QCmd) : List (Nat × Nat × Nat × Nat) :=
  if c.sent.any (fun x => decide (x.1 ≠ 0)) then c.sent.filter (fun x => decide (x.1 ≠ 0)) else c.sent

theorem topkEnd_letsIn {u : State} {l : List (Nat × Nat × Nat × Nat)} (hp : c.progress = 1)
    (hsend : sendAll (sluiceEng k j) c.asid (topkTo w.block (topkRecords w).length) s [] = .ok u l) :
    topkEnd s j k c w = modCmd u k c.id (fun q => { q with progress := 2, sent := l }) := by
  unfold topkRecords at hsend
  unfold topkEnd
  refine (if_pos hp).trans ?_
  rw [hsend]

theorem topkEnd_ends (hp : 2 ≤ c.progress) (hleft : topkLeft c = []) : topkEnd s j k c w = endCmd (endRun s j w) k c.id 0 := by
  unfold topkLeft at hleft
  unfold topkEnd
  refine (if_neg (by omega)).trans ?_
  simp only [hleft, List.getElem?_nil]

theorem topkEnd_writes {x : Nat × Nat × Nat × Nat} {p : (Nat × Nat) × Nat} (hp : 2 ≤ c.progress)
    (hpick : (topkLeft c)[Config.pieceOrder s.tick % (topkLeft c).length]? = some x)
    (hpiece : (topkTo w.block (topkRecords w).length)[x.1]? = some p) (hfree : paHeld s x.2.2.1 = false) :
    topkEnd s j k c w = modCmd (perform s x.2.2.2
      ((((selHeader w.best.length ++ topkRecords w).drop (x.2.1 - selResult w.block)).take p.1.2).map some)) k c.id
      (fun q => { q with sent := q.sent.filter (fun y => decide (y.1 ≠ x.1)) }) := by
  unfold topkLeft at hpick
  unfold topkRecords at hpiece ⊢
  unfold topkEnd
  refine (if_neg (by omega)).trans ?_
  simp only [hpick, hpiece, hfree, Bool.false_eq_true, if_false]

/-! The turn of either: the step that its progress and its place in the region pick. -/

theorem selTurn_seeks (hrun : sluiceRun s j k c.id = none) : selTurn s k c j topk = .next (seekEngine s j k c) := by
  unfold selTurn
  rw [hrun]

variable (hrun : sluiceRun s j k c.id = some w)

include hrun

theorem selTurn_begins (hp : c.progress = 0) : selTurn s k c j topk = .next (selBegin s j k c w topk) := by
  unfold selTurn
  rw [hrun]
  exact congrArg Host.Outcome.next (if_pos hp)

theorem selTurn_scans (hp : c.progress ≠ 0) (hmore : w.pos < selCount w.block) :
    selTurn s k c j topk = .next (selScan s j k c w topk) := by
  unfold selTurn
  rw [hrun]
  exact congrArg Host.Outcome.next ((if_neg hp).trans (if_pos hmore))

theorem selTurn_ends (hp : c.progress ≠ 0) (hall : selCount w.block ≤ w.pos) : selTurn s k c j topk = .next (selEnd s j k c w topk) := by
  unfold selTurn
  rw [hrun]
  exact congrArg Host.Outcome.next ((if_neg hp).trans (if_neg (Nat.not_lt.2 hall)))

end

/-- Settles O46: the hoist commands share their turn, and the sluice commands their way to an engine. -/
theorem hoistAndSluiceCommands : Obligations.HoistAndSluiceCommands := by
  refine ⟨fun m s k q pos c => ?hoists, fun m s k q pos c => ?sluices⟩
  case hoists =>
    intro r c1 hoist
    have hturn : ∀ i copy, exec i s = onQueue s i (fun s k q => hoistTurn s k q copy) → hoist i copy := by
      intro i copy hexec
      refine ⟨fun h hfree u b hblock hlow hhigh hzero hdst hsrc => ?begins, fun h => ?moves⟩
      case begins =>
        have hok : hoistOk b = true := Bool.and_eq_true_iff.2 ⟨decide_eq_true ⟨hlow, hhigh⟩, hzero⟩
        rw [hexec, onQueue_of_leaves h, ← leftQueue_id s k c]
        exact hoistTurn_begins (leftQueue_notStarted s k c) hfree hblock hok hsrc hdst
      case moves =>
        rw [hexec, onQueue_of_begun h]
        exact ⟨fun hall => hoistTurn_ends h.phase hall,
          fun hmore => ⟨fun u hl => hoistTurn_waits h.phase hmore hl, fun u v hl => hoistTurn_moves h.phase hmore hl⟩⟩
    exact ⟨hturn _ _ rfl, hturn _ _ rfl, fun d n x hlow hhigh => hoistPiece_covers hlow hhigh,
      fun d n i hn hi => ⟨hoistPiece_pos hn hi, hoistPiece_oneLine hn hi⟩⟩
  case sluices =>
    intro r c1 j e seeks
    have hid : c1.id = c.id := leftQueue_id s k c
    have hseek : ∀ i, (Leaves s i k q pos c → sluiceRun r j k c1.id = none → exec i s = .next (seekEngine r j k c1)) →
        (Begun s i k q pos c → sluiceRun s j k c.id = none → exec i s = .next (seekEngine s j k c)) → seeks i := by
      intro i hleaves hbegun
      refine ⟨fun h hrun => ?leaves, fun eng rest h hrun hidle hhead => ?taken⟩
      case leaves =>
        rw [hleaves h (hid.symm ▸ hrun)]
        exact ⟨fun u hroom hcross => congrArg _ (seekEngine_joins (leftQueue_notStarted s k c) hroom hcross),
          fun hfull => congrArg _ (seekEngine_full (leftQueue_notStarted s k c) hfull)⟩
      case taken =>
        rw [hbegun h hrun]
        exact congrArg _ (seekEngine_taken h.phase hidle hhead)
    have hselect : ∀ i topk, exec i s = onQueue s i (fun s k q => selTurn s k q j topk) → seeks i := fun i topk hexec =>
      hseek i (fun h hrun => (hexec.trans (onQueue_of_leaves h _)).trans (selTurn_seeks hrun))
        (fun h hrun => (hexec.trans (onQueue_of_begun h _)).trans (selTurn_seeks hrun))
    refine ⟨hseek _ (fun h hrun => ?_) (fun h hrun => ?_), hselect _ _ rfl, hselect _ _ rfl, ?pack, ?select⟩
    · exact seampack_leaves h hrun
    · exact (seampack_begun h).1 hrun
    case pack =>
      intro w u1 b u2 l h hrun hblock hok p kr vr hrows
      obtain ⟨hbad, hgood⟩ := packStep_read (j := j) (w := w) hblock hok hrows
      rw [(seampack_begun h).2 w hrun]
      refine ⟨fun hb => congrArg _ (hbad hb), fun hk hv => ?_⟩
      obtain ⟨hcheck, hwait, hwrite⟩ := hgood hk hv
      exact ⟨fun u v hp hc => congrArg _ (hcheck u v hp hc),
        fun hp => ⟨fun u hw => congrArg _ (hwait u hp hw), fun u v hw => congrArg _ (hwrite u v hp hw)⟩⟩
    case select =>
      intro select
      have hsel : ∀ i topk, exec i s = onQueue s i (fun s k q => selTurn s k q j topk) → select i topk := by
        intro i topk hexec w h hrun
        rw [hexec, onQueue_of_begun h]
        refine ⟨fun u b u2 l hp hblock hok hquery => ?begins, fun hp hmore => ?scans, fun ht hp hall u v hw => ?predEnds, fun ht hall => ?topkEnds⟩
        case begins => rw [selTurn_begins hrun hp, selBegin_reads hblock hok hquery]
        case scans =>
          rw [selTurn_scans hrun hp hmore]
          refine ⟨rfl, fun hmode hbuf => ⟨fun ht => ?_, fun ht hno => ?_⟩⟩
          · rw [ht, selScan_ranks hmode hbuf]
          · rw [ht, selScan_passes hmode hbuf hno]
        case predEnds =>
          rw [selTurn_ends hrun hp hall, ht]
          exact congrArg _ (predEnd_writes hw)
        case topkEnds =>
          have hend : c.progress ≠ 0 → selTurn s k c j topk = .next (topkEnd s j k c w) := by
            intro hp
            rw [selTurn_ends hrun hp hall, ht]
            rfl
          refine ⟨fun u l hp hsend => ?_, fun hp hleft => ?_, fun x p hp hpick hpiece hfree => ?_⟩
          · rw [hend (by omega), topkEnd_letsIn hp hsend]
          · rw [hend (by omega), topkEnd_ends hp hleft]
          · rw [hend (by omega), topkEnd_writes hp hpick hpiece hfree]
            rfl
      exact ⟨hsel _ _ rfl, hsel _ _ rfl⟩

end Sys2Proof.Machine
end

section
/-!
The page commands and the deep tier's services (07_consistency.md R169, 06_memory.md R147, 09_attention.md R202, 17_ref_m_r.md R380, R387 to
R389): what each does in a turn.
-/
namespace Sys2Proof.Machine

open Sys2Proof

theorem rangePages_eq (ops : BitVec 96) :
    rangePages ops = (List.range (ops.toNat / 2 ^ 64 % 2 ^ 16)).map (fun i => ops.toNat % 2 ^ 56 + 65536 * i) := by
  unfold rangePages
  rw [field_low, field_eq_div_mod]

/-! ### PGPIN (R388) -/

section

variable {m : Cmd} {s : State} {k q pos : Nat} {c : QCmd}

/-- PGPIN of pages that can be read, for one holder, pins them all or faults at the first that cannot be pinned. -/
theorem pgpin_pins {u : State} {w : Nat} {h : Holder} (hleaves : Leaves s (.pgpin m) k q pos c)
    (hread : pagesRead (leftQueue s k c).asid (rangePages m.ops) (released1 s k c) = .ready u w)
    (hone : pinHolders u k m.bind.toNat = [h]) :
    (∀ v, pinPages u (leftQueue s k c).asid h true (rangePages m.ops) = .ok v →
      exec (.pgpin m) s = .next (endCmd v k (leftQueue s k c).id 0)) ∧
    (∀ va, pinPages u (leftQueue s k c).asid h true (rangePages m.ops) = .error va →
      exec (.pgpin m) s = .next (faultCmd u k 5 (leftQueue s k c) fcXLATE va)) := by
  have hexec : exec (.pgpin m) s = execPgpin m s := rfl
  rw [hexec, execPgpin, onQueue_of_leaves hleaves]
  refine ⟨fun v hv => ?_, fun va hv => ?_⟩ <;> simp only [hread, hone, List.foldl_cons, List.foldl_nil, Except.bind, hv]

end

/-! ### PGREL (R389) -/

section

variable {m : Cmd} {s u : State} {k q pos : Nat} {c d : QCmd}

/-- A command at its turn, as it leaves its queue or later, is run by its engine, which sets its phase. -/
theorem onQueue_of_turn {i : Instr}
    (h : (Leaves s i k q pos c ∧ u = setPhase (released1 s k c) k (leftQueue s k c).id .started ∧ d = leftQueue s k c) ∨
      (Begun s i k q pos c ∧ u = setPhase s k c.id .started ∧ d = c)) :
    ∃ v, setPhase v k d.id .started = u ∧ ∀ f, onQueue s i f = f v k d := by
  rcases h with ⟨h, rfl, rfl⟩ | ⟨h, rfl, rfl⟩
  · exact ⟨_, rfl, fun f => onQueue_of_leaves h f⟩
  · exact ⟨_, rfl, fun f => onQueue_of_begun h f⟩

section

variable {v : State} (hu : setPhase v k d.id .started = u) (hrun : ∀ f, onQueue s (.pgrel m) f = f v k d)

include hu hrun

section

variable {page : Nat} (hblock : d.block = 0) (hpage : (rangePages m.ops)[d.progress]? = some page)

include hblock hpage

/-- A page that a MIGRATE moves is handled after it. -/
theorem pgrel_blocked (hmoved : (d.asid, page) ∈ u.blocked) : exec (.pgrel m) s = .next u := by
  show execPgrel m s = _
  rw [execPgrel, hrun]
  simp only [hu, hblock, if_true, hpage]
  exact if_pos (List.contains_iff_mem.2 hmoved)

/-- A page whose PTE may be read is left, released or faulted, and the next is behind it. -/
theorem pgrel_page {t : State} {w : Nat} (hfree : (d.asid, page) ∉ u.blocked) (hpte : pteRead u d.asid page = .ready t w) :
    (∀ x, releasePage t d.asid page = .left x → exec (.pgrel m) s = .next (setProgress x k d.id (d.progress + 1))) ∧
    (∀ x, releasePage t d.asid page = .cleared x → exec (.pgrel m) s = .next (modCmd (setProgress x k d.id (d.progress + 1)) k d.id
      (fun x => { x with puts := x.puts ++ [(0, d.progress)] }))) ∧
    (∀ code, releasePage t d.asid page = .fault code → exec (.pgrel m) s = .next (modCmd t k d.id
      (fun x => { x with block := BitVec.ofNat 512 (256 * page + code.toNat) }))) := by
  have hno : ¬ u.blocked.contains (d.asid, page) = true := fun h => hfree (List.contains_iff_mem.1 h)
  have hexec : exec (.pgrel m) s = execPgrel m s := rfl
  rw [hexec, execPgrel, hrun]
  simp only [hu, hblock, if_true, hpage]
  rw [if_neg hno, hpte]
  exact ⟨fun x hx => by simp only [hx], fun x hx => by simp only [hx], fun code hx => by simp only [hx]⟩

end

/-- An access translated with an entry that the PGREL has dropped is on its way. -/
def releaseBusy (u : State) (m : Cmd) (d : QCmd) : Bool :=
  translatedTo u (fun asid va _ => decide (asid = d.asid) && d.puts.any (fun p => (rangePages m.ops)[p.2]? = some (va / 65536 * 65536)))

/-- Behind its last page PGREL waits for those accesses and ends, with the fault of a page that faulted. -/
theorem pgrel_over (hover : d.block ≠ 0 ∨ (rangePages m.ops)[d.progress]? = none) :
    (releaseBusy u m d = true → exec (.pgrel m) s = .next u) ∧
    (releaseBusy u m d = false → d.block = 0 → exec (.pgrel m) s = .next (endCmd u k d.id 0)) ∧
    (releaseBusy u m d = false → d.block ≠ 0 →
      exec (.pgrel m) s = .next (faultCmd u k 5 d (BitVec.ofNat 8 d.block.toNat) (d.block.toNat / 256))) := by
  have hnone : (if d.block = 0 then (rangePages m.ops)[d.progress]? else none) = none := by
    split
    · next h0 => exact hover.resolve_left fun h => h h0
    · rfl
  have hexec : exec (.pgrel m) s = execPgrel m s := rfl
  rw [hexec, execPgrel, hrun]
  simp only [hu, hnone]
  exact ⟨fun hb => if_pos hb, fun hb h0 => (if_neg (ne_true_of_eq_false hb)).trans (if_pos h0),
    fun hb h0 => (if_neg (ne_true_of_eq_false hb)).trans (if_neg h0)⟩

end

end

section

variable {s : State} {asid : BitVec 16} {page at_ e : Nat} (hpte : rawPte s asid page = .ok (some (at_, e, true))) (hvalid : e % 2 = 1)

include hpte hvalid

/-- A valid PTE of its own page is cleared where nothing keeps the page, and its release marked pending otherwise. -/
theorem releasePage_valid :
    (pageLoose s asid page = true →
      releasePage s asid page = .cleared (shootdown (perform s at_ ((toBytes 8 (e - 1)).map some)) asid page)) ∧
    (pageLoose s asid page = false → releasePending s asid page = false →
      releasePage s asid page = .left { s with releasing := s.releasing ++ [{ asid, page }] }) := by
  unfold releasePage
  simp only [hpte]
  rw [if_neg (by omega), if_neg Bool.noConfusion]
  refine ⟨fun hl => if_neg (by rw [hl]; exact Bool.noConfusion), fun hl hp => (if_pos hl).trans ?_⟩
  exact congrArg Relq.left (if_neg (ne_true_of_eq_false hp))

end

/-! ### MIGRATE (R380) -/

section

variable {s u : State} {k va new w : Nat} {c : QCmd} {l : Leaf}

/-- The frame of a leaf PTE. -/
theorem nfield_frame (e : Nat) : nfield e 47 16 = e / 2 ^ 16 % 2 ^ 32 := by
  rw [nfield, Nat.shiftRight_eq_div_pow]

theorem nfield_tier (e : Nat) : nfield e 7 7 = e / 2 ^ 7 % 2 := by
  rw [nfield, Nat.shiftRight_eq_div_pow]
  rfl

/-- MIGRATE of a page that may move blocks its translation; one that is no page of its own, or that a release awaits, faults. -/
theorem migrateBegin_leaf (hfree : (c.asid, va) ∉ s.blocked) (hpte : pteRead s c.asid va = .ready u w) (hleaf : walkLeaf u c.asid va = .ok l) :
    (l.small = false ∨ releasePending u c.asid va = true → migrateBegin s k c va new = faultCmd u k 5 c fcXLATE va) ∧
    (l.small = true → releasePending u c.asid va = false → l.e / 2 ^ 7 % 2 = 0 → new < 2 ^ 23 →
      (new = l.e / 2 ^ 16 % 2 ^ 32 → migrateBegin s k c va new = endCmd u k c.id 0) ∧
      (new ≠ l.e / 2 ^ 16 % 2 ^ 32 → migrateBegin s k c va new = modCmd { u with blocked := u.blocked ++ [(c.asid, va)] } k c.id
        (fun c => { c with phase := .started, block := BitVec.ofNat 512 (l.e / 2 ^ 16 % 2 ^ 32) }))) := by
  have hno : ¬ s.blocked.contains (c.asid, va) = true := fun h => hfree (List.contains_iff_mem.1 h)
  unfold migrateBegin
  rw [if_neg hno]
  simp only [hpte, hleaf, nfield_frame, nfield_tier]
  refine ⟨fun hbad => if_pos hbad, fun hsmall hpend htier hnew => ?_⟩
  have hmay : ¬ (l.small = false ∨ releasePending u c.asid va = true) := by
    rw [hsmall, hpend]
    simp
  rw [if_neg hmay, if_neg (by omega), if_neg (by omega)]
  exact ⟨fun heq => if_pos heq, fun hne => if_neg hne⟩

/-- The lines of its page that a MIGRATE has still to copy. -/
def migrateLeft (c : QCmd) : List Nat := (List.range 512).filter (fun i => !c.puts.contains (0, i))

/-- MIGRATE waits for the accesses on their way to the old frame. -/
theorem migrateStep_waits (hp : c.progress = 0) :
    migrateStep s k c va new =
      if translatedTo s (fun _ _ pa => decide (pa / 65536 = c.block.toNat)) then s else setProgress s k c.id 1 := by
  unfold migrateStep
  exact if_pos hp

theorem migrateStep_copies {i : Nat} (hp : c.progress ≠ 0)
    (hpick : (migrateLeft c)[Config.pieceOrder s.tick % (migrateLeft c).length]? = some i)
    (hreach : copyReach s c.asid va c.block.toNat new i = .ready u w) :
    migrateStep s k c va new = modCmd (copyLine u c.block.toNat new i) k c.id (fun c => { c with puts := c.puts ++ [(0, i)] }) := by
  unfold migrateLeft at hpick
  unfold migrateStep
  refine (if_neg hp).trans ?_
  simp only [hpick, hreach]

theorem migrateStep_ends (hp : c.progress ≠ 0) (hleft : migrateLeft c = []) (hpte : pteRead s c.asid va = .ready u w)
    (hleaf : walkLeaf u c.asid va = .ok l) :
    migrateStep s k c va new = endCmd (unblock (shootdown (perform (moveSave u c.block.toNat new) l.pteAt
      ((toBytes 8 (l.e - l.e / 2 ^ 16 % 2 ^ 32 * 2 ^ 16 + new * 2 ^ 16)).map some)) c.asid va) c.asid va) k c.id 0 := by
  unfold migrateLeft at hleft
  unfold migrateStep
  refine (if_neg hp).trans ?_
  simp only [hleft, List.getElem?_nil, hpte, hleaf, nfield_frame]
  rfl

theorem migrate_field (m : Cmd) : field m.ops 95 64 = m.ops.toNat / 2 ^ 64 % 2 ^ 32 := field_eq_div_mod m.ops 95 64

/-- MIGRATE's turn as it leaves its queue, and once it has begun. -/
theorem migrate_leaves {m : Cmd} {q pos : Nat} (h : Leaves s (.migrate m) k q pos c) : exec (.migrate m) s =
    .next (migrateBegin (released1 s k c) k (leftQueue s k c) (m.ops.toNat % 2 ^ 56) (m.ops.toNat / 2 ^ 64 % 2 ^ 32)) := by
  show execMigrate m s = _
  rw [execMigrate, onQueue_of_leaves h, ← migrate_field, ← field_base]
  exact congrArg Host.Outcome.next (if_neg (leftQueue_notStarted s k c))

theorem migrate_begun {m : Cmd} {q pos : Nat} (h : Begun s (.migrate m) k q pos c) :
    exec (.migrate m) s = .next (migrateStep s k c (m.ops.toNat % 2 ^ 56) (m.ops.toNat / 2 ^ 64 % 2 ^ 32)) := by
  show execMigrate m s = _
  rw [execMigrate, onQueue_of_begun h, ← migrate_field, ← field_base]
  exact congrArg Host.Outcome.next (if_pos h.phase)

end

theorem copyLine_mem (s : State) (old new i : Nat) :
    (copyLine s old new i).mem = (perform s (65536 * new + 128 * i) ((readMem s (65536 * old + 128 * i) 128).map some)).mem := by
  unfold copyLine
  dsimp only
  split <;> rfl

/-- A line of the new frame holds what stood at the old one. -/
theorem readByte_copyLine (s : State) (old new i : Nat) {a : Nat} (ha : a < 128) :
    readByte (copyLine s old new i) (65536 * new + 128 * i + a) = readByte s (65536 * old + 128 * i + a) := by
  have hlen : (readMem s (65536 * old + 128 * i) 128).length = 128 := by simp [readMem]
  rw [readByte, copyLine_mem]
  refine (readByte_perform_inside s (65536 * new + 128 * i) _ (hlen.symm ▸ ha)).trans ?_
  simp [readMem]

/-! ### Deep-tier fetches (R147) -/

section

theorem markDirty_fetches (s : State) (i line : Nat) : (markDirty s i line).fetches = s.fetches := by
  unfold markDirty
  split
  · split <;> rfl
  · rfl

theorem perform_fetches (s : State) (key : Nat) (cells : List (Option Byte)) : (perform s key cells).fetches = s.fetches := by
  unfold perform
  split
  · exact markDirty_fetches _ _ _
  · rfl

variable {s : State} {i : Nat} {f : Fetch} {b : Bool} (hself : s.self = .module) (hf : s.fetches[i]? = some f)

include hself hf

theorem fetch_ended {st : Nat} (hended : f.ended = some st) : exec (.deepFetchComplete i b) s = .next (endFetch s i f st) := by
  show execDeepFetchComplete i b s = _
  simp only [execDeepFetchComplete, hself, hf, hended]

variable (hlive : f.ended = none)

include hlive

section

variable (hframe : f.frame = none)

include hframe

/-- A locator beyond its drive's pages ends the fetch. -/
theorem fetch_badLocator (hbad : Config.drivePages f.port ≤ f.index) : exec (.deepFetchComplete i b) s = .next (endFetch s i f 3) := by
  show execDeepFetchComplete i b s = _
  simp only [execDeepFetchComplete, hself, hf, hlive, hframe]
  exact if_pos hbad

/-- A fetch takes a frame from the pool, and ends where the pool is empty. -/
theorem fetch_takesFrame {u : State} {w : Nat} (hgood : f.index < Config.drivePages f.port) (hroom : portReads s f.port < 64)
    (hpool : poolReach s f.asid = .ready u w) :
    (takeFrame u f.asid = none → exec (.deepFetchComplete i b) s = .next (endFetch u i f 1)) ∧
    (∀ v frame, takeFrame u f.asid = some (v, frame) →
      exec (.deepFetchComplete i b) s = .next { v with fetches := v.fetches.set i { f with frame := some frame } }) := by
  have hexec : exec (.deepFetchComplete i b) s = execDeepFetchComplete i b s := rfl
  rw [hexec]
  simp only [execDeepFetchComplete, hself, hf, hlive, hframe]
  rw [if_neg (Nat.not_le.2 hgood), if_neg (Nat.not_le.2 hroom), hpool]
  exact ⟨fun ht => by simp only [ht], fun v frame ht => by simp only [ht]⟩

end

variable {frame : Nat} (hframe : f.frame = some frame)

include hframe

section

variable (hreads : f.stalled = false)

include hreads

theorem fetch_driveError : exec (.deepFetchComplete i true) s = .next (endFetch s i f 2) := by
  show execDeepFetchComplete i true s = _
  simp only [execDeepFetchComplete, hself, hf, hlive, hframe]
  exact (if_pos hreads).trans (if_pos trivial)

/-- A fetch moves one line of the drive's page to its frame. -/
theorem fetch_movesLine {n key : Nat} {u : State} (hnext : nextLine s f.moved = some n)
    (hreach : reach s (65536 * frame + 128 * n) 128 .write { serviceOrigin with full := true } = .ready u key) :
    ∃ t, exec (.deepFetchComplete i false) s = .next t ∧ t.mem = (perform u key ((driveLine u f.port f.index n).map some)).mem ∧
      t.fetches = (perform u key ((driveLine u f.port f.index n).map some)).fetches.set i { f with moved := f.moved ++ [n] } := by
  refine ⟨{ perform u key ((driveLine u f.port f.index n).map some) with
    fetches := u.fetches.set i { f with moved := f.moved ++ [n] } }, ?_, rfl, ?_⟩
  · show execDeepFetchComplete i false s = _
    simp only [execDeepFetchComplete, hself, hf, hlive, hframe]
    refine (if_pos hreads).trans ((if_neg Bool.false_ne_true).trans ?_)
    simp only [hnext, hreach, hreads]
  · rw [perform_fetches]

theorem fetch_stalls (hnone : nextLine s f.moved = none) :
    exec (.deepFetchComplete i false) s = .next { s with fetches := s.fetches.set i { f with stalled := true } } := by
  show execDeepFetchComplete i false s = _
  simp only [execDeepFetchComplete, hself, hf, hlive, hframe]
  refine (if_pos hreads).trans ((if_neg Bool.false_ne_true).trans ?_)
  simp only [hnone]

end

/-- With every line moved and translation stalled the PTE names the frame, and the record ends the fetch. -/
theorem fetch_installs {u : State} {w : Nat} (hstalled : f.stalled = true) (hpte : pteRead s f.asid f.page = .ready u w) :
    exec (.deepFetchComplete i b) s = .next (endFetch (installPage u f frame) i f 0) := by
  show execDeepFetchComplete i b s = _
  simp only [execDeepFetchComplete, hself, hf, hlive, hframe]
  refine (if_neg (by rw [hstalled]; exact Bool.noConfusion)).trans ?_
  simp only [hpte]

end

/-! ### Pages that go to the deep tier (R202) -/

/-- No pin of the page stands. -/
theorem pins_none {s : State} {asid : BitVec 16} {page : Nat} (h : ∀ p ∈ s.pins, ¬ (p.1 = asid ∧ p.2.1 = page)) :
    s.pins.any (fun p => decide (p.1 = asid ∧ p.2.1 = page)) = false :=
  List.any_eq_false.2 fun p hp hpin => h p hp (of_decide_eq_true hpin)

/-- A page that may go to the deep tier is blocked, and its way begins. -/
theorem moveToDeepTier_begins {s u : State} {asid : BitVec 16} {va w : Nat} {port : BitVec 2} {index : BitVec 30} {l : Leaf}
    (hself : s.self = .module) (hpte : pteRead s asid (va / 65536 * 65536) = .ready u w) (hleaf : walkLeaf u asid (va / 65536 * 65536) = .ok l)
    (hsmall : l.small = true) (htier : l.e / 2 ^ 7 % 2 = 0) (hpend : releasePending u asid (va / 65536 * 65536) = false)
    (hfree : (asid, va / 65536 * 65536) ∉ u.blocked) (hpins : ∀ p ∈ u.pins, ¬ (p.1 = asid ∧ p.2.1 = va / 65536 * 65536))
    (hindex : index.toNat < Config.drivePages port.toNat) :
    exec (.moveToDeepTier asid va port index) s = .next { u with
      blocked := u.blocked ++ [(asid, va / 65536 * 65536)]
      descents := u.descents ++ [{ asid, page := va / 65536 * 65536, port := port.toNat, index := index.toNat
                                   frame := l.e / 2 ^ 16 % 2 ^ 32 }] } := by
  have hmay : ¬ (l.small = false ∨ nfield l.e 7 7 = 1 ∨ releasePending u asid (va / 65536 * 65536) = true ∨
      u.blocked.contains (asid, va / 65536 * 65536) = true ∨
      u.pins.any (fun p => decide (p.1 = asid ∧ p.2.1 = va / 65536 * 65536)) = true ∨ Config.drivePages port.toNat ≤ index.toNat) := by
    rw [nfield_tier, pins_none hpins]
    rintro (h | h | h | h | h | h)
    · rw [hsmall] at h; cases h
    · omega
    · rw [hpend] at h; cases h
    · exact hfree (List.contains_iff_mem.1 h)
    · cases h
    · omega
  show execMoveToDeepTier asid va port index s = _
  simp only [execMoveToDeepTier, hself, hpte, hleaf]
  rw [if_neg hmay, nfield_frame]

section

variable {s : State} {i : Nat} {d : Descent} (hd : s.descents[i]? = some d) (hpins : ∀ p ∈ s.pins, ¬ (p.1 = d.asid ∧ p.2.1 = d.page))
  (hquiet : translatedTo s (fun _ _ pa => decide (pa / 65536 = d.frame)) = false)

include hd hpins hquiet

theorem descend_movesLine {n key : Nat} {u : State} (hnext : nextLine s d.moved = some n)
    (hreach : reach s (65536 * d.frame + 128 * n) 128 .read serviceOrigin = .ready u key) :
    descend s i = { putDriveLine u d.port d.index n (readMem u key 128) with
      descents := u.descents.set i { d with moved := d.moved ++ [n] } } := by
  unfold descend
  simp only [hd]
  rw [if_neg (ne_true_of_eq_false (pins_none hpins)), if_neg (ne_true_of_eq_false hquiet)]
  simp only [hnext, hreach]

/-- Behind its last line the PTE names the drive's page, and the page's translation is free. -/
theorem descend_ends {u : State} {w : Nat} {l : Leaf} (hnone : nextLine s d.moved = none) (hpte : pteRead s d.asid d.page = .ready u w)
    (hleaf : walkLeaf u d.asid d.page = .ok l) :
    (descend s i).mem =
        (perform u l.pteAt ((toBytes 8 (d.port * 2 ^ 46 + d.index * 2 ^ 16 + l.e % 2 ^ 16 + 128)).map some)).mem ∧
      (d.asid, d.page) ∉ (descend s i).blocked := by
  unfold descend
  simp only [hd]
  rw [if_neg (ne_true_of_eq_false (pins_none hpins)), if_neg (ne_true_of_eq_false hquiet)]
  simp only [hnone, hpte, hleaf]
  exact ⟨rfl, fun h => of_decide_eq_true (List.mem_filter.1 h).2 rfl⟩

end

/-- Settles O48: each command and service at its turn, by the branch that the state picks. -/
theorem pageCommands : Obligations.PageCommands := by
  intro m s k q pos c r c1 pages
  have hpages : pages = rangePages m.ops := (rangePages_eq m.ops).symm
  refine ⟨fun u w h hleaves hread hone => ?pin, fun u d h => ?release, fun asid page at_ e hpte hvalid => releasePage_valid hpte hvalid,
    ⟨fun u w l h hfree hpte hleaf => ?begins, fun h => ?moves, fun old i a _ ha => readByte_copyLine s old _ i ha⟩,
    fun i f b hself hf => ⟨fun st he => fetch_ended hself hf he, fun he hfr hbad => fetch_badLocator hself hf he hfr hbad,
      fun u w he hfr hgood hroom hpool => fetch_takesFrame hself hf he hfr hgood hroom hpool,
      fun frame he hfr hst => ⟨fetch_driveError hself hf he hfr hst, fun n u key hn hr => fetch_movesLine hself hf he hfr hst hn hr,
        fun hn => fetch_stalls hself hf he hfr hst hn⟩,
      fun frame u w he hfr hst hpte => fetch_installs hself hf he hfr hst hpte⟩,
    fun cache n hself => ?drop, ?deep, fun i d hd hpins hquiet => ⟨fun n u key hn hr => descend_movesLine hd hpins hquiet hn hr,
      fun u w l hn hpte hleaf => ⟨_, rfl, descend_ends hd hpins hquiet hn hpte hleaf⟩⟩⟩
  case pin =>
    rw [hpages] at hread ⊢
    exact pgpin_pins hleaves hread hone
  case release =>
    rw [hpages]
    obtain ⟨v, hu, hrun⟩ := onQueue_of_turn h
    exact ⟨fun page hb hp => ⟨fun hm => pgrel_blocked hu hrun hb hp hm, fun v w hf hpte => pgrel_page hu hrun hb hp hf hpte⟩,
      fun hover => pgrel_over hu hrun hover⟩
  case begins =>
    rw [migrate_leaves h]
    obtain ⟨hbad, hgood⟩ := migrateBegin_leaf (k := k) (new := m.ops.toNat / 2 ^ 64 % 2 ^ 32) hfree hpte hleaf
    exact ⟨fun hb => congrArg _ (hbad hb), fun hs hp ht hn =>
      ⟨fun heq => congrArg _ ((hgood hs hp ht hn).1 heq), fun hne => congrArg _ ((hgood hs hp ht hn).2 hne)⟩⟩
  case moves =>
    rw [migrate_begun h]
    exact ⟨fun hp => ⟨fun hb => congrArg _ ((migrateStep_waits hp).trans (if_pos hb)),
        fun hb => congrArg _ ((migrateStep_waits hp).trans (if_neg (ne_true_of_eq_false hb)))⟩,
      fun i u w hp hpick hreach => congrArg _ (migrateStep_copies hp hpick hreach),
      fun u w l hp hl hpte hleaf => congrArg _ (migrateStep_ends hp hl hpte hleaf)⟩
  case drop =>
    refine ⟨{ s with tcaches := Map.set [] s.tcaches cache ((Map.get [] s.tcaches cache).eraseIdx n) }, ?_, rfl, Map.get_set_same _ _ _ _⟩
    show execTranslationCacheDrop cache n s = _
    simp only [execTranslationCacheDrop, hself]
  case deep =>
    intro asid va port index u w l hself page hpte hleaf hsmall htier hpend hfree hpins hindex
    exact moveToDeepTier_begins hself hpte hleaf hsmall htier hpend hfree hpins hindex

end Sys2Proof.Machine
end

section
/-!
The context commands (15_ref_a_c.md R333, R334, R339 to R342, R345): CLOAD, CSWITCH, CRETIRE, CSAVE and CRESTORE, as they leave their queue
and in the turns after.
-/
namespace Sys2Proof.Machine

open Sys2Proof

/-! ### Regions after they are written -/

section

variable (s : State) (k i : Nat)

theorem region_setRegion_same (r : Option Region) : (s.setRegion k i r).region k i = r := by
  rw [State.region, State.setRegion, State.modCore_core_same]
  exact Map.get_set_same _ _ _ _

theorem region_setPhase (id : Nat) (p : Phase) (j : Nat) : (setPhase s k id p).region k j = s.region k j := by
  rw [State.region, setPhase, modCmds, State.modCore_core_same]
  rfl

variable {s k i} {g : Region}

theorem modRegion_eq (hg : s.region k i = some g) (f : Region → Region) : modRegion s k i f = s.setRegion k i (some (f g)) := by
  rw [modRegion, hg]

/-- A change of a context leaves its region's active slot. -/
theorem region_modCtx (hg : s.region k i = some g) (slot : Nat) (f : Ctx → Ctx) :
    ∃ h, (modCtx s k i slot f).region k i = some h ∧ h.active = g.active := by
  unfold modCtx
  rw [hg]
  cases hx : g.ctx slot with
  | none => exact ⟨g, by simp only [hx]; exact hg, rfl⟩
  | some x => exact ⟨g.setCtx slot (some (f x)), by simp only [hx]; exact region_setRegion_same s k i _, rfl⟩

end

/-- The region that CSWITCH and CRETIRE name. -/
theorem field_region (m : Cmd) : field m.ops 1 0 = m.ops.toNat % 4 := field_low 1

/-- The region that CSAVE names. -/
theorem field_saved (m : Cmd) : field m.ops 57 56 = m.ops.toNat / 2 ^ 56 % 4 := field_eq_div_mod m.ops 57 56

/-- The rectangle that CRESTORE names. -/
theorem field_rect (m : Cmd) : field m.ops 73 56 = m.ops.toNat / 2 ^ 56 % 2 ^ 18 := field_eq_div_mod m.ops 73 56

/-! ### CLOAD (R334) -/

section

variable {m : Cmd} {s u1 : State} {k q pos : Nat} {c : QCmd} {b : BitVec 512} (h : Leaves s (.cload m) k q pos c)
  (hblock : blockPart (released1 s k c) k (leftQueue s k c) (loaderEng k) = .ok u1 b)

include h hblock

theorem cload_badBlock (hbad : loadBlkOk b (loadBlk b (leftQueue s k c).given) = false) :
    exec (.cload m) s = .next (faultCmd u1 k 1 (leftQueue s k c) fcCMD 0) := by
  show execCload m s = _
  rw [execCload, onQueue_of_leaves h]
  simp only [hblock]
  exact if_pos hbad

variable (hok : loadBlkOk b (loadBlk b (leftQueue s k c).given) = true)
  (hway : copiesInWay u1 k (unpackRect (loadBlk b (leftQueue s k c).given).rect) = [])

include hok hway

theorem cload_reading {u : State} (himage : readImage u1 k (leftQueue s k c) (loadBlk b (leftQueue s k c).given).image = .wait u) :
    exec (.cload m) s = .next u := by
  show execCload m s = _
  rw [execCload, onQueue_of_leaves h]
  simp only [hblock]
  refine (if_neg (by rw [hok]; exact Bool.noConfusion)).trans ((if_neg fun hn => hn hway).trans ?_)
  simp only [himage]

variable {u2 u3 : State} {image : List Byte} {w : Nat}
  (himage : readImage u1 k (leftQueue s k c) (loadBlk b (leftQueue s k c).given).image = .ok u2 image)
  (hpages : pagesRead (leftQueue s k c).asid (if (loadBlk b (leftQueue s k c).given).mode % 2 = 1 then
    areaPages (unpackRect (loadBlk b (leftQueue s k c).given).rect) 1 (loadBlk b (leftQueue s k c).given).save else []) u2 = .ready u3 w)

/-- The load of CLOAD's image into its slot. -/
def cloaded (u : State) (k : Nat) (m : Cmd) (c : QCmd) (b : BitVec 512) (image : List Byte) : Option (Nat × State) :=
  loadImage u k m.bind.toNat (unpackRect (loadBlk b c.given).rect) c.asid image (loadBlk b c.given) c.word (loadTask u k c)

include himage hpages

theorem cload_refused (hload : cloaded u3 k m (leftQueue s k c) b image = none) :
    exec (.cload m) s = .next (faultCmd u3 k 1 (leftQueue s k c) fcCFG 0) := by
  unfold cloaded at hload
  show execCload m s = _
  rw [execCload, onQueue_of_leaves h]
  simp only [hblock]
  refine (if_neg (by rw [hok]; exact Bool.noConfusion)).trans ((if_neg fun hn => hn hway).trans ?_)
  simp only [himage, hpages, hload]

/-- A context that is loaded becomes active where its region has none and no switch is on its way. -/
theorem cload_ends {i : Nat} {t : State} {g : Region} (hload : cloaded u3 k m (leftQueue s k c) b image = some (i, t))
    (hg : t.region k i = some g) :
    exec (.cload m) s =
      .next (endCmd (if g.active.isNone && g.switching.isNone then activate t k i m.bind.toNat else t) k (leftQueue s k c).id 0) := by
  unfold cloaded at hload
  show execCload m s = _
  rw [execCload, onQueue_of_leaves h]
  simp only [hblock]
  refine (if_neg (by rw [hok]; exact Bool.noConfusion)).trans ((if_neg fun hn => hn hway).trans ?_)
  simp only [himage, hpages, hload, hg]

end

/-! ### CSWITCH (R345) -/

section

variable {m : Cmd} {s : State} {k q pos : Nat} {c : QCmd} {g : Region} {x : Ctx} (h : Leaves s (.cswitch m) k q pos c)
  (hg : (released1 s k c).region k (m.ops.toNat % 4) = some g)
  (hx : ctxAt (released1 s k c) k (m.ops.toNat % 4) m.bind.toNat = some x)

include h hg hx

theorem cswitch_frozen (hfrozen : x.frozen = true) :
    exec (.cswitch m) s = .next (faultCmd (released1 s k c) k 1 (leftQueue s k c) fcCFG 0) := by
  rw [← field_region] at hg hx
  show execCswitch m s = _
  rw [execCswitch, onQueue_of_leaves h]
  refine (if_neg (leftQueue_notStarted s k c)).trans ?_
  simp only [hg, hx]
  exact if_pos hfrozen

variable (hlive : x.frozen = false) (hrun : g.stopped = none) (hway : copiesInWay (released1 s k c) k g.rect = [])

include hlive hrun hway

/-- A switch to the active context, into an idle region, and away from another context. -/
theorem cswitch_switches :
    exec (.cswitch m) s =
      if g.active = some m.bind.toNat then .next (endCmd (released1 s k c) k (leftQueue s k c).id 0)
      else if g.active.isNone then .next (endCmd (activate (released1 s k c) k (m.ops.toNat % 4) m.bind.toNat) k (leftQueue s k c).id 0)
      else .next (setPhase ((released1 s k c).setRegion k (m.ops.toNat % 4)
        (some { g with switching := some ⟨m.bind.toNat, (leftQueue s k c).id, false⟩ })) k (leftQueue s k c).id .started) := by
  rw [← field_region] at hg hx ⊢
  show execCswitch m s = _
  rw [execCswitch, onQueue_of_leaves h]
  refine (if_neg (leftQueue_notStarted s k c)).trans ?_
  simp only [hg, hx]
  exact (if_neg (ne_true_of_eq_false hlive)).trans ((if_neg (by rw [hrun]; decide)).trans (if_neg fun hn => hn hway))

end

/-! ### CRETIRE (R341) -/

section

variable {m : Cmd} {s : State} {k q pos : Nat} {c : QCmd} {g : Region} {x : Ctx} (h : Leaves s (.cretire m) k q pos c)
  (hg : (released1 s k c).region k (m.ops.toNat % 4) = some g)
  (hx : ctxAt (released1 s k c) k (m.ops.toNat % 4) m.bind.toNat = some x)

include h hg hx

theorem cretire_frozen (hfrozen : x.frozen = true) :
    exec (.cretire m) s = .next (endCmd (emptyCtx
      (compareSaved (closeSaved (released1 s k c) k x) k (m.ops.toNat % 4) m.bind.toNat x (leftQueue s k c)).1 k (m.ops.toNat % 4) m.bind.toNat) k
      (leftQueue s k c).id (compareSaved (closeSaved (released1 s k c) k x) k (m.ops.toNat % 4) m.bind.toNat x (leftQueue s k c)).2) := by
  rw [← field_region] at hg hx ⊢
  show execCretire m s = _
  rw [execCretire, onQueue_of_leaves h]
  simp only [hg, hx]
  exact if_pos hfrozen

variable (hlive : x.frozen = false) (hrun : g.stopped = none) (hstay : g.switching = none)

include hlive hrun hstay

section

variable (hidle : g.active ≠ some m.bind.toNat)

include hidle

theorem cretire_idleClosed {t : State} (ht : t = setPhase (released1 s k c) k (leftQueue s k c).id .started)
    (hports : boundPorts t k (m.ops.toNat % 4) m.bind.toNat = []) :
    exec (.cretire m) s = .next (endCmd (emptyCtx t k (m.ops.toNat % 4) m.bind.toNat) k (leftQueue s k c).id 0) := by
  rw [← field_region] at hg hx hports ⊢
  have hclosed : closeBound t k (field m.ops 1 0) m.bind.toNat = (t, true) := by
    rw [closeBound, hports]
  show execCretire m s = _
  rw [execCretire, onQueue_of_leaves h]
  simp only [hg, hx]
  refine (if_neg (ne_true_of_eq_false hlive)).trans ((if_neg (by rw [hrun, hstay]; simp)).trans ?_)
  simp only [hidle, decide_false, Bool.false_and, Bool.false_eq_true, if_false, ← ht, hports, hclosed, Bool.true_eq_false, List.getLast?_nil]

/-- With a stream still to close, CRETIRE closes on. -/
theorem cretire_closing {t u : State} (ht : t = setPhase (released1 s k c) k (leftQueue s k c).id .started)
    (hclose : closeBound t k (m.ops.toNat % 4) m.bind.toNat = (u, false)) : exec (.cretire m) s = .next u := by
  rw [← field_region] at hg hx hclose
  show execCretire m s = _
  rw [execCretire, onQueue_of_leaves h]
  simp only [hg, hx]
  refine (if_neg (ne_true_of_eq_false hlive)).trans ((if_neg (by rw [hrun, hstay]; simp)).trans ?_)
  simp only [hidle, decide_false, Bool.false_and, Bool.false_eq_true, if_false, ← ht, hclose, if_true]

end

/-- The active context at its drained boundary, its streams closed, leaves. -/
theorem cretire_active {t : State}
    (ht : t = setPhase ((released1 s k c).setRegion k (m.ops.toNat % 4) (some { g with pendCmd := some (leftQueue s k c).id })) k
      (leftQueue s k c).id .started) (hactive : g.active = some m.bind.toNat)
    (hboundary : atBoundary t k (m.ops.toNat % 4) = true) (hrerun : x.rerun = none) (hdrained : drained t k (m.ops.toNat % 4) m.bind.toNat = true)
    (hports : boundPorts t k (m.ops.toNat % 4) m.bind.toNat = []) :
    exec (.cretire m) s = .next (endCmd (emptyCtx t k (m.ops.toNat % 4) m.bind.toNat) k (leftQueue s k c).id 0) := by
  rw [← field_region] at hg hx ht hboundary hdrained hports ⊢
  have hclosed : closeBound t k (field m.ops 1 0) m.bind.toNat = (t, true) := by
    rw [closeBound, hports]
  show execCretire m s = _
  rw [execCretire, onQueue_of_leaves h]
  simp only [hg, hx]
  refine (if_neg (ne_true_of_eq_false hlive)).trans ((if_neg (by rw [hrun, hstay]; simp)).trans ?_)
  simp only [decide_eq_true hactive, Bool.true_and, if_true, ← ht, hboundary, hrerun, hdrained, Option.isSome_none, Bool.not_true,
    Bool.or_self, Bool.false_eq_true, if_false, hports, hclosed, Bool.true_eq_false, List.getLast?_nil]

end

/-! ### CSAVE (R342) -/

/-- The parts of its save area that a context needs: one for each copy besides its own under REPLAY. -/
def saveParts (x : Ctx) : Nat := if x.mode.getLsbD 0 = true then x.clones.length + 1 else 1

section

variable {m : Cmd} {s u : State} {k q pos w : Nat} {c : QCmd} {g : Region} {x : Ctx} (h : Leaves s (.csave m) k q pos c)
  (hg : (released1 s k c).region k (m.ops.toNat / 2 ^ 56 % 4) = some g)
  (hx : ctxAt (released1 s k c) k (m.ops.toNat / 2 ^ 56 % 4) m.bind.toNat = some x)
  (hread : pagesRead (leftQueue s k c).asid (areaPages g.rect (saveParts x) (m.ops.toNat % 2 ^ 56)) (released1 s k c) = .ready u w)

include h hg hx hread

theorem csave_refused
    (hbad : g.active ≠ some m.bind.toNat ∨ areaOk u (leftQueue s k c).asid g.rect (saveParts x) (m.ops.toNat % 2 ^ 56) = false) :
    exec (.csave m) s = .next (faultCmd u k 1 (leftQueue s k c) fcCFG 0) := by
  rw [← field_saved] at hg hx
  rw [← field_base] at hread hbad
  unfold saveParts at hread hbad
  show execCsave m s = _
  rw [execCsave, onQueue_of_leaves h]
  simp only [hg, hx]
  refine (if_neg (leftQueue_notStarted s k c)).trans ?_
  simp only [hread]
  exact if_pos (hbad.imp id fun ha => Or.inr (Or.inr ha))

/-- CSAVE of the active context begins; under REPLAY the region stops at once. -/
theorem csave_begins (hu : u.region k (m.ops.toNat / 2 ^ 56 % 4) = some g) (hactive : g.active = some m.bind.toNat) (hlive : x.frozen = false)
    (hrun : g.stopped = none) (harea : areaOk u (leftQueue s k c).asid g.rect (saveParts x) (m.ops.toNat % 2 ^ 56) = true) :
    ∃ t h, exec (.csave m) s = .next t ∧ t.region k (m.ops.toNat / 2 ^ 56 % 4) = some h ∧ h.pendCmd = some (leftQueue s k c).id ∧
      h.active = some m.bind.toNat ∧ h.stopped = if x.mode.getLsbD 0 = true then some (m.bind.toNat, none) else none := by
  rw [← field_saved] at hg hx hu ⊢
  rw [← field_base] at hread harea
  unfold saveParts at hread harea
  obtain ⟨r, hr, hra⟩ := region_modCtx hu m.bind.toNat (fun x => { x with pending := false, firstBy := none })
  refine ⟨setPhase ((modCtx u k (field m.ops 57 56) m.bind.toNat (fun x => { x with pending := false, firstBy := none })).setRegion k
      (field m.ops 57 56) (some { r with pendCmd := some (leftQueue s k c).id
                                         stopped := if x.mode.getLsbD 0 then some (m.bind.toNat, none) else none })) k (leftQueue s k c).id
      .started, _, ?_, (region_setPhase _ _ _ _ _).trans (region_setRegion_same _ _ _ _), rfl, hra.trans hactive, rfl⟩
  have hmay : ¬ (g.active ≠ some m.bind.toNat ∨ x.frozen = true ∨ g.stopped.isSome = true ∨ areaOk u (leftQueue s k c).asid g.rect
      (if x.mode.getLsbD 0 = true then x.clones.length + 1 else 1) (field m.ops 55 0) = false) := by
    rw [hactive, hlive, hrun, harea]
    simp
  show execCsave m s = _
  rw [execCsave, onQueue_of_leaves h]
  simp only [hg, hx]
  refine (if_neg (leftQueue_notStarted s k c)).trans ?_
  simp only [hread]
  refine (if_neg hmay).trans ?_
  rw [modRegion_eq hr]

end

section

variable {m : Cmd} {s : State} {k q pos : Nat} {c : QCmd} {g : Region} {x : Ctx} (h : Begun s (.csave m) k q pos c)
  (hg : s.region k (m.ops.toNat / 2 ^ 56 % 4) = some g) (hx : ctxAt s k (m.ops.toNat / 2 ^ 56 % 4) m.bind.toNat = some x)
  (hrun : g.stopped = none)

include h hg hx hrun

theorem csave_stopsReplay (hmode : x.mode.getLsbD 0 = true) :
    exec (.csave m) s = .next (modRegion s k (m.ops.toNat / 2 ^ 56 % 4) (fun h => { h with stopped := some (m.bind.toNat, none) })) := by
  rw [← field_saved] at hg hx ⊢
  show execCsave m s = _
  rw [execCsave, onQueue_of_begun h]
  simp only [hg, hx]
  refine (if_pos h.phase).trans ((if_neg (by rw [hrun]; decide)).trans ?_)
  simp only [hmode, Bool.true_or, if_true]

/-- Under FREEZE the region stops at its boundary, its streams at rest and its copies taken back. -/
theorem csave_stopsFreeze (hmode : x.mode.getLsbD 0 = false) (hboundary : atBoundary s k (m.ops.toNat / 2 ^ 56 % 4) = true)
    (hrerun : x.rerun = none)
    (hrest : ∀ n, n < 32 → s.regionOfStream k n = some (m.ops.toNat / 2 ^ 56 % 4) → (s.port (portKey k n)).bind = m.bind.toNat →
      streamBusy s k n = false) :
    exec (.csave m) s = .next (modRegion (dropCopies s k (m.ops.toNat / 2 ^ 56 % 4) m.bind.toNat 0) k (m.ops.toNat / 2 ^ 56 % 4)
      (fun h => { h with stopped := some (m.bind.toNat, none) })) := by
  rw [← field_saved] at hg hx hboundary hrest ⊢
  have hbusy : (List.range 32).any (fun n => decide (s.regionOfStream k n = some (field m.ops 57 56) ∧
      (s.port (portKey k n)).bind = m.bind.toNat) && streamBusy s k n) = false := by
    refine List.any_eq_false.2 fun n hn hb => ?_
    obtain ⟨hd, hs⟩ := Bool.and_eq_true_iff.1 hb
    obtain ⟨hregion, hbind⟩ := of_decide_eq_true hd
    exact ne_true_of_eq_false (hrest n (List.mem_range.1 hn) hregion hbind) hs
  show execCsave m s = _
  rw [execCsave, onQueue_of_begun h]
  simp only [hg, hx]
  refine (if_pos h.phase).trans ((if_neg (by rw [hrun]; decide)).trans ?_)
  simp only [hmode, hboundary, hrerun, hbusy, Option.isNone_none, Bool.not_false, Bool.and_self, Bool.false_or, if_true, Bool.false_eq_true,
    if_false]

end

/-! ### CRESTORE (R339, R340) -/

section

variable {m : Cmd} {s : State} {k q pos : Nat} {c : QCmd}

/-- The rectangle and the address that CRESTORE's operands give. -/
def restoreRect (m : Cmd) : Rect := unpackRect (m.ops.toNat / 2 ^ 56 % 2 ^ 18)
def restoreVa (m : Cmd) : Nat := m.ops.toNat % 2 ^ 56

section

variable {u : State} {bytes : List Byte} (h : Leaves s (.crestore m) k q pos c)
  (hread : readPart (released1 s k c) k (leftQueue s k c) (loaderEng k) 0 [(restoreVa m, 64)] = .ok u bytes)

include h hread

section

variable (hfresh : (leftQueue s k c).puts.contains (9, 0) = false)

include hfresh

theorem crestore_refused (hbad : restoreOk u k m.bind.toNat (leftQueue s k c) (restoreRect m) (restoreVa m) (areaHdr bytes)
      (regionWith u k (restoreRect m)) = false) :
    exec (.crestore m) s = .next (faultCmd u k 1 (leftQueue s k c) fcCFG 0) := by
  unfold restoreRect restoreVa at *
  rw [← field_rect, ← field_base] at *
  show execCrestore m s = _
  rw [execCrestore, onQueue_of_leaves h]
  refine (if_neg (leftQueue_notStarted s k c)).trans ?_
  simp only [hread]
  exact (if_pos hfresh).trans (if_pos hbad)

variable {u2 : State} {key : Nat}
  (hok : restoreOk u k m.bind.toNat (leftQueue s k c) (restoreRect m) (restoreVa m) (areaHdr bytes) (regionWith u k (restoreRect m)) = true)
  (hway : copiesInWay u k (restoreRect m) = [])
  (hclaim : engReach u (loaderEng k) (leftQueue s k c).asid (restoreVa m + 14) 1 .write = .ok u2 key)

include hok hway hclaim

/-- CRESTORE claims its area by RESUMED; one that is claimed already, or that no scan-out wrote, ends it with CFG. -/
theorem crestore_claims :
    ((readByte u2 key).getLsbD 3 = true ∨ areaState u2 (leftQueue s k c).asid (restoreVa m) = none →
      exec (.crestore m) s = .next (faultCmd u2 k 1 (leftQueue s k c) fcCFG 0)) ∧
    ((readByte u2 key).getLsbD 3 = false → (areaState u2 (leftQueue s k c).asid (restoreVa m)).isSome = true → exec (.crestore m) s =
      .next (modCmd (perform u2 key [some (readByte u2 key ||| 8)]) k (leftQueue s k c).id (fun q => { q with puts := q.puts ++ [(9, 0)] }))) := by
  unfold restoreRect restoreVa at *
  rw [← field_rect, ← field_base] at *
  have hexec : exec (.crestore m) s = execCrestore m s := rfl
  have hrun : execCrestore m s = if (readByte u2 key).getLsbD 3 = true ∨ (areaState u2 (leftQueue s k c).asid (field m.ops 55 0)).isNone = true
      then .next (faultCmd u2 k 1 (leftQueue s k c) fcCFG 0)
      else .next (modCmd (perform u2 key [some (readByte u2 key ||| 8)]) k (leftQueue s k c).id
        (fun q => { q with puts := q.puts ++ [(9, 0)] })) := by
    rw [execCrestore, onQueue_of_leaves h]
    refine (if_neg (leftQueue_notStarted s k c)).trans ?_
    simp only [hread]
    refine (if_pos hfresh).trans ((if_neg (by rw [hok]; exact Bool.noConfusion)).trans ((if_neg fun hn => hn hway).trans ?_))
    simp only [hclaim]
  rw [hexec, hrun]
  refine ⟨fun hbad => if_pos (hbad.imp id fun ha => by rw [ha]; rfl), fun hbit hsome => if_neg ?_⟩
  rintro (hb | hn)
  · rw [hbit] at hb
    cases hb
  · rw [Option.isNone_iff_eq_none.1 hn] at hsome
    cases hsome

end

section

variable (hclaimed : (leftQueue s k c).puts.contains (9, 0) = true)

include hclaimed

theorem crestore_inPlace {i : Nat} (hregion : regionWith u k (restoreRect m) = some i)
    (hplace : restoreInPlace u k i m.bind.toNat (leftQueue s k c).asid (restoreVa m) = true) :
    exec (.crestore m) s = .next (stopFor u k i m.bind.toNat (leftQueue s k c) (restoreVa m) true) := by
  unfold restoreRect restoreVa at *
  rw [← field_rect] at hregion
  rw [← field_base] at *
  show execCrestore m s = _
  rw [execCrestore, onQueue_of_leaves h]
  refine (if_neg (leftQueue_notStarted s k c)).trans ?_
  simp only [hread]
  refine (if_neg (by rw [hclaimed]; exact Bool.noConfusion)).trans ?_
  simp only [hregion, hplace, if_true]

theorem crestore_anew {pa i : Nat} {a : SaveArea} {u2 t : State} (hregion : regionWith u k (restoreRect m) = none)
    (harea : areaState u (leftQueue s k c).asid (restoreVa m) = some (pa, a))
    (hload : reload u k (leftQueue s k c) m.bind.toNat (restoreRect m) (areaHdr bytes) (a.ctx.clones.length + 1) (restoreVa m) =
      .ok u2 (some (i, t))) :
    exec (.crestore m) s = .next (stopFor t k i m.bind.toNat (leftQueue s k c) (restoreVa m) false) := by
  unfold restoreRect restoreVa at *
  rw [← field_rect] at hregion hload
  rw [← field_base] at *
  show execCrestore m s = _
  rw [execCrestore, onQueue_of_leaves h]
  refine (if_neg (leftQueue_notStarted s k c)).trans ?_
  simp only [hread]
  refine (if_neg (by rw [hclaimed]; exact Bool.noConfusion)).trans ?_
  simp only [hregion, execCrestore.anew, harea, hload]

end

end

variable (h : Begun s (.crestore m) k q pos c)

include h

/-- Once begun, CRESTORE waits until its region has no active context, and then scans its area in. -/
theorem crestore_begun :
    exec (.crestore m) s = .next (if c.progress = 1 then scanBack s k m.bind.toNat c (restoreRect m) (restoreVa m) else s) := by
  unfold restoreRect restoreVa
  rw [← field_rect, ← field_base]
  show execCrestore m s = _
  rw [execCrestore, onQueue_of_begun h]
  exact if_pos h.phase

end

section

variable {s u : State} {k slot i pa va : Nat} {c : QCmd} {r : Rect} {a : SaveArea} {bytes : List Byte}
  (hregion : regionWith s k r = some i) (harea : areaState s c.asid va = some (pa, a))
  (hread : readPart s k c (loaderEng k) 3 [(va, areaSize r (a.ctx.clones.length + 1))] = .ok u bytes)

include hregion harea hread

theorem scanBack_scansIn (hsame : areaSame a bytes = true) (hfit : copiesFit u k i slot a = true) :
    scanBack s k slot c r va = endCmd (scanIn u k i slot pa a) k c.id 0 := by
  unfold scanBack
  simp only [hregion, harea, hread, hsame, hfit, Bool.and_self, if_true]

/-- An area whose bytes software has changed ends CRESTORE with CFG (log 34). -/
theorem scanBack_refuses (hchanged : areaSame a bytes = false) : scanBack s k slot c r va =
    unresume u k c va (fun t => faultCmd (if c.puts.contains (8, 0) then t else emptyCtx t k i slot) k 1 c fcCFG 0) := by
  unfold scanBack
  simp only [hregion, harea, hread, hchanged, Bool.false_and, Bool.false_eq_true, if_false]

end

/-- Settles O44: the turns of the five commands, each by the branch that the state picks. -/
theorem contextCommands : Obligations.ContextCommands := by
  intro m s k q pos c r c1 slot j
  have hid : c1.id = c.id := leftQueue_id s k c
  refine ⟨fun u1 b h hblock => ?load, fun g x h hg hx => ?switch, fun g x h hg hx => ?retire, fun i g x u w hi h hg hx => ?save,
    fun i g x hi h hg hx hrun => ?stop, fun u bytes h => ?claim, fun i pa a u bytes h => ?back⟩
  case load =>
    intro l
    refine ⟨fun hbad => cload_badBlock h hblock hbad, fun hok hway => ⟨fun u hi => cload_reading h hblock hok hway hi,
      fun u2 image u3 w hi hp => ⟨fun hn => cload_refused h hblock hok hway hi hp hn, fun i t g hl hg => ?_⟩⟩⟩
    have hend := cload_ends h hblock hok hway hi hp hl hg
    rw [leftQueue_id] at hend
    refine ⟨fun ha hs => ?_, fun hbusy => ?_⟩
    · rw [ha, hs] at hend
      exact hend
    · have hno : (g.active.isNone && g.switching.isNone) = false := by
        rcases hbusy with hb | hb <;> obtain ⟨v, hv⟩ := Option.isSome_iff_exists.1 hb
        · rw [hv, Option.isNone_some, Bool.false_and]
        · rw [hv, Option.isNone_some, Bool.and_false]
      rw [hno] at hend
      exact hend
  case switch =>
    refine ⟨fun hf => cswitch_frozen h hg hx hf, fun hf hs hway => ?_⟩
    rw [cswitch_switches h hg hx hf hs hway, leftQueue_id]
    refine ⟨fun ha => if_pos ha, fun ha => ?_, fun a ha hne => ?_⟩
    · rw [ha]
      rfl
    · rw [ha, if_neg (by simpa using hne)]
      rfl
  case retire =>
    refine ⟨fun hf => cretire_frozen h hg hx hf, fun hf hst hsw => ?_⟩
    intro idle held
    have hidle : idle = setPhase r k c1.id .started := by rw [hid]
    have hheld : held = setPhase (r.setRegion k j (some { g with pendCmd := some c1.id })) k c1.id .started := by rw [hid]
    rw [← hid]
    exact ⟨fun ha hp => cretire_idleClosed h hg hx hf hst hsw ha hidle hp, fun u ha hc => cretire_closing h hg hx hf hst hsw ha hidle hc,
      fun ha hb hr hd hp => cretire_active h hg hx hf hst hsw hheld ha hb hr hd hp⟩
  case save =>
    intro n va hread hu
    subst hi
    refine ⟨fun hbad => csave_refused h hg hx hread hbad, fun ha hf hs harea => ?_⟩
    rw [← hid]
    exact csave_begins h hg hx hread hu ha hf hs harea
  case stop =>
    subst hi
    exact ⟨fun hm => csave_stopsReplay h hg hx hrun hm, fun hm hb hr hrest => csave_stopsFreeze h hg hx hrun hm hb hr hrest⟩
  case claim =>
    intro va hdr rc hread
    exact ⟨fun hfresh => ⟨fun hbad => crestore_refused h hread hfresh hbad, fun u2 key hok hway hc => crestore_claims h hread hfresh hok hway hc⟩,
      fun hclaimed => ⟨fun i hr hp => crestore_inPlace h hread hclaimed hr hp,
        fun pa a u2 i t hr ha hl => crestore_anew h hread hclaimed hr ha hl⟩⟩
  case back =>
    intro va rc
    rw [crestore_begun h]
    refine ⟨fun hp => ?_, fun hp hr ha hread => ?_⟩
    · rw [hp]
      rfl
    · rw [hp]
      exact ⟨fun hs hf => congrArg _ (scanBack_scansIn hr ha hread hs hf), fun hs => congrArg _ (scanBack_refuses hr ha hread hs)⟩

end Sys2Proof.Machine
end

section
/-!
The instructions on jobs and tasks (11_scheduling.md R256 to R261, 15_ref_a_c.md R331, 16_ref_d_l.md R349, R351, R353, R362, 19_ref_t_z.md
R420, R439): ENQ, JOIN, CANCEL, TAKE, DONE, EXIT and YIELD.
-/
namespace Sys2Proof.Machine

open Sys2Proof

/-! ### Messages that leave, and what they leave alone -/

/-- No flit has failed its last retransmission. -/
def meshUp (s : State) : Prop := ∀ l, Map.get 0 s.resent l < 7

/-- From s to t messages have left: the threads, the jobs and what the foremen know of other modules stand, no message is lost, and the
mesh is up if it was. -/
structure NewsOnly (s t : State) : Prop where
  threads : t.threads = s.threads
  module : ownModule t = ownModule s
  up : meshUp s → meshUp t
  jobs : ∀ d i, (t.foreman d).job i = (s.foreman d).job i
  sentTo : ∀ d, (t.foreman d).sentTo = (s.foreman d).sentTo
  inbox : ∀ d, (s.foreman d).inbox <+: (t.foreman d).inbox
  sent : s.sent <+: t.sent

section

variable {s t u : State}

theorem newsOnly_refl (s : State) : NewsOnly s s :=
  ⟨rfl, rfl, id, fun _ _ => rfl, fun _ => rfl, fun _ => List.prefix_rfl, List.prefix_rfl⟩

theorem NewsOnly.trans (h : NewsOnly s t) (h' : NewsOnly t u) : NewsOnly s u :=
  ⟨h'.threads.trans h.threads, h'.module.trans h.module, h'.up ∘ h.up, fun d i => (h'.jobs d i).trans (h.jobs d i),
    fun d => (h'.sentTo d).trans (h.sentTo d), fun d => (h.inbox d).trans (h'.inbox d), h.sent.trans h'.sent⟩

theorem NewsOnly.job (h : NewsOnly s t) (d i : Nat) : (t.foreman d).job i = (s.foreman d).job i := h.jobs d i

/-- A flit that gets through has not failed. -/
theorem resent_foldl_lt {l : List Nat} {m : Map Nat} (h : ∀ e, Map.get 0 m e < 7) (e : Nat) :
    Map.get 0 (l.foldl (fun m e => Map.set 0 m e 0) m) e < 7 := by
  induction l generalizing m with
  | nil => exact h e
  | cons a l ih =>
    refine ih fun x => ?_
    rw [Map.get_set]
    split
    · decide
    · exact h x

theorem newsOnly_crossFrom (s : State) (a b pa : Nat) : NewsOnly s (crossFrom s a b pa).1 := by
  have htags := tagsOnly_crossFrom s a b pa
  have hforemen := sameForemen_crossFrom s a b pa
  refine ⟨htags.threads, ?_, fun h e => ?_, fun d i => by rw [hforemen.foreman d], fun d => by rw [hforemen.foreman d],
    fun d => by rw [hforemen.foreman d], by rw [htags.sent]⟩
  · unfold tagsOnly at htags
    rw [ownModule, htags]
    rfl
  · unfold crossFrom
    dsimp only
    split <;> exact resent_foldl_lt h e

/-- A change of a foreman that keeps its jobs, its inbox and what it has sent. -/
theorem newsOnly_modForeman (s : State) (d : Nat) {g : Foreman → Foreman} (hjobs : (g (s.foreman d)).jobs = (s.foreman d).jobs)
    (hsent : (g (s.foreman d)).sentTo = (s.foreman d).sentTo) (hinbox : (s.foreman d).inbox <+: (g (s.foreman d)).inbox) :
    NewsOnly s (s.modForeman d g) := by
  refine ⟨rfl, rfl, id, fun e i => ?_, fun e => ?_, fun e => ?_, List.prefix_rfl⟩ <;> rw [State.modForeman_foreman] <;> split
  · next he => rw [he, Foreman.job, Foreman.job, hjobs]
  · rfl
  · next he => rw [he, hsent]
  · rfl
  · next he => rw [he]; exact hinbox
  · exact List.prefix_rfl

theorem newsOnly_tell (s : State) (a d : Nat) (m : Msg) : NewsOnly s (tell s a d m) := by
  have hcross := newsOnly_crossFrom s a d 0
  unfold tell
  split
  · next u hc => rwa [hc] at hcross
  · next u hc =>
    rw [hc] at hcross
    exact hcross.trans (newsOnly_modForeman u d rfl rfl (List.prefix_append _ _))

theorem newsOnly_tellModule (s : State) (a w : Nat) (m : AditMsg) : NewsOnly s (tellModule s a w m) := by
  have hcross := newsOnly_crossFrom s a 4 0
  unfold tellModule
  split
  · next u hc => rwa [hc] at hcross
  · next u hc =>
    rw [hc] at hcross
    exact hcross.trans ⟨rfl, rfl, id, fun _ _ => rfl, fun _ => rfl, fun _ => List.prefix_rfl, List.prefix_append _ _⟩

theorem newsOnly_of_onlyWork (h : onlyWork s t) : NewsOnly s t := by
  have hforeman := h.foreman
  unfold onlyWork at h
  refine ⟨by rw [h], ?_, fun hup => ?_, fun d i => by rw [hforeman d], fun d => by rw [hforeman d], fun d => by rw [hforeman d], by rw [h]⟩
  · rw [h]
    rfl
  · rw [meshUp, h]
    exact hup

theorem newsOnly_foldl {α : Type} {f : State → α → State} (hf : ∀ s a, NewsOnly s (f s a)) (l : List α) (s : State) :
    NewsOnly s (l.foldl f s) := by
  induction l generalizing s with
  | nil => exact newsOnly_refl s
  | cons a l ih => exact (hf s a).trans (ih (f s a))

/-- What the step for each of a list brings about, and no message undoes, stands after all of them. -/
theorem foldl_tells {α : Type} {f : State → α → State} {p : α → State → Prop} (hf : ∀ s a, NewsOnly s (f s a))
    (hkeep : ∀ a s t, NewsOnly s t → p a s → p a t) (l : List α) (hup : meshUp s)
    (hdoes : ∀ t a, NewsOnly s t → meshUp t → p a (f t a)) {a : α} (ha : a ∈ l) : p a (l.foldl f s) := by
  induction l generalizing s with
  | nil => cases ha
  | cons b l ih =>
    rcases List.mem_cons.1 ha with rfl | hrest
    · exact hkeep a _ _ (newsOnly_foldl hf l _) (hdoes s a (newsOnly_refl s) hup)
    · exact ih ((hf s b).up hup) (fun t a ht => hdoes t a ((hf s b).trans ht)) hrest

end

/-! ### CANCEL (R331, R259) -/

/-- The job's entry at its home. -/
def jobEntry (s : State) (j : BitVec 16) : Job := (s.foreman (jobCluster j)).job (jobIndex j)

theorem jobEntry_named {s : State} {j : BitVec 16} (hopen : (jobEntry s j).isOpen = true) (hgen : (jobEntry s j).gen = jobGen j) :
    ¬ ((jobEntry s j).isOpen = false ∨ (jobEntry s j).gen ≠ jobGen j) := by
  rintro (h | h)
  · rw [hopen] at h
    cases h
  · exact h hgen

section

variable {s : State} {j : BitVec 16}

/-- The home of a job that is open sets CANCELLING, and tells the four foremen and every module that has received an ENQ of it. -/
theorem sendCancel_tells (hopen : ((s.foreman (jobCluster j)).job (jobIndex j)).isOpen = true)
    (hgen : ((s.foreman (jobCluster j)).job (jobIndex j)).gen = jobGen j) (hup : meshUp s) :
    (sendCancel s j).threads = s.threads ∧ (((sendCancel s j).foreman (jobCluster j)).job (jobIndex j)).cancelling = true ∧
      (∀ f, f < 4 → .cancel j (ownModule s) ∈ ((sendCancel s j).foreman f).inbox) ∧
      (∀ w, (j, w) ∈ (s.foreman (jobCluster j)).sentTo → (w, .cancel j (ownModule s)) ∈ (sendCancel s j).sent) := by
  have hset : (((modJob s j (fun e => { e with cancelling := true })).foreman (jobCluster j)).job (jobIndex j)).cancelling = true := by
    rw [modJob, State.modForeman_foreman_same, Foreman.job_setJob_same]
  have hsentTo : ((modJob s j (fun e => { e with cancelling := true })).foreman (jobCluster j)).sentTo = (s.foreman (jobCluster j)).sentTo := by
    rw [modJob, State.modForeman_foreman_same]
    rfl
  unfold sendCancel
  rw [if_pos ⟨hopen, hgen⟩]
  extract_lets s1 s2
  have hone : ∀ t d, NewsOnly t (tell t (jobCluster j) d (.cancel j (ownModule t))) := fun t d => newsOnly_tell t _ d _
  have hother : ∀ t (e : BitVec 16 × Nat), NewsOnly t (tellModule t (jobCluster j) e.2 (.cancel j (ownModule t))) :=
    fun t e => newsOnly_tellModule t _ e.2 _
  have hs2 : NewsOnly s1 s2 := newsOnly_foldl hone _ s1
  have hend := newsOnly_foldl hother ((s2.foreman (jobCluster j)).sentTo.filter (fun e => decide (e.1 = j))) s2
  refine ⟨hend.threads.trans hs2.threads, ?_, fun f hf => ?_, fun w hw => ?_⟩
  · rw [hend.job, hs2.job]
    exact hset
  · refine (hend.inbox f).mem ?_
    exact foldl_tells (s := s1) (p := fun f t => Msg.cancel j (ownModule s) ∈ (t.foreman f).inbox) hone (fun f t t' h hm => (h.inbox f).mem hm) _
      hup (fun t f ht hup' => by rw [← show ownModule t = ownModule s from ht.module]; exact tell_delivers hup' f _) (List.mem_range.2 hf)
  · have hmem : (j, w) ∈ (s2.foreman (jobCluster j)).sentTo.filter (fun e => decide (e.1 = j)) := by
      refine List.mem_filter.2 ⟨?_, decide_eq_true rfl⟩
      rw [hs2.sentTo]
      exact hsentTo.symm ▸ hw
    exact foldl_tells (p := fun e t => (e.2, AditMsg.cancel j (ownModule s)) ∈ t.sent) hother (fun e t t' h hm => h.sent.mem hm) _
      (hs2.up hup) (fun t e ht hup' => by rw [← show ownModule t = ownModule s from (hs2.trans ht).module]; exact tellModule_sends hup' e.2 _) hmem

theorem newsOnly_abandonOwn (s : State) (k : Nat) (j : BitVec 16) : NewsOnly s (abandonOwn s k j) := by
  unfold abandonOwn
  dsimp only
  split
  · exact newsOnly_refl s
  · split
    · exact (newsOnly_modForeman s _ rfl rfl List.prefix_rfl).trans (newsOnly_of_onlyWork (onlyWork_stopWork _ k))
    · exact newsOnly_refl s

end

section

variable {s : State} {k : Nat} {a d : BitVec 5} (hs : s.self = .thread k)

include hs

theorem cancel_denied (hno : jobDenied s k (jobArg s k a) = true) : exec (.cancel a) s = .next (raise s k fcQUEUE 0) := by
  show execCancel a s = _
  rw [execCancel, onThread_run s k _ hs]
  exact if_pos hno

theorem cancel_sends (hyes : jobDenied s k (jobArg s k a) = false) (hup : meshUp s) : ∃ u, NewsOnly s u ∧
    exec (.cancel a) s = .next (retire (abandonOwn (sendCancel u (jobArg s k a)) k (jobArg s k a)) k) := by
  refine ⟨_, newsOnly_crossFrom s (coreDie k) (jobCluster (jobArg s k a)) 0, ?_⟩
  show execCancel a s = _
  rw [execCancel, onThread_run s k _ hs]
  refine (if_neg (ne_true_of_eq_false hyes)).trans ?_
  rw [toForeman, crossFrom_of_linksUp hup]

/-! ### JOIN (R362, R258) -/

theorem join_denied (hno : jobDenied s k (jobArg s k a) = true) : exec (.join d a) s = .next (raise s k fcQUEUE 0) := by
  show execJoin d a s = _
  rw [execJoin, onThread_run s k _ hs]
  exact if_pos hno

variable (hyes : jobDenied s k (jobArg s k a) = false)

include hyes

theorem join_closed (hclosed : (jobEntry s (jobArg s k a)).isOpen = false ∨ (jobEntry s (jobArg s k a)).gen ≠ jobGen (jobArg s k a)) :
    exec (.join d a) s = .next (retire (wg s k d 0x13) k) := by
  show execJoin d a s = _
  rw [execJoin, onThread_run s k _ hs]
  exact (if_neg (ne_true_of_eq_false hyes)).trans (if_pos hclosed)

variable (hopen : (jobEntry s (jobArg s k a)).isOpen = true) (hgen : (jobEntry s (jobArg s k a)).gen = jobGen (jobArg s k a))

include hopen hgen

/-- The state after the entry of a job with count 0 is free. -/
def jobFreed (s : State) (j : BitVec 16) : State :=
  (modJob s j (fun _ => {})).modForeman (jobCluster j) (fun f => { f with sentTo := f.sentTo.filter (fun e => decide (e.1 ≠ j)) })

theorem join_ended (hzero : (jobEntry s (jobArg s k a)).count = 0) : exec (.join d a) s =
    .next (retire (wg (releaseJoins (jobFreed s (jobArg s k a)) k (jobArg s k a) (jobEntry s (jobArg s k a)).status) k d
      (jobEntry s (jobArg s k a)).status) k) := by
  show execJoin d a s = _
  rw [execJoin, onThread_run s k _ hs]
  exact (if_neg (ne_true_of_eq_false hyes)).trans ((if_neg (jobEntry_named hopen hgen)).trans (if_pos hzero))

theorem join_waits (hcount : (jobEntry s (jobArg s k a)).count ≠ 0) :
    exec (.join d a) s = stallAt (s.modThread k (fun t => { t with joining := some (jobArg s k a) })) k true d false := by
  show execJoin d a s = _
  rw [execJoin, onThread_run s k _ hs]
  exact (if_neg (ne_true_of_eq_false hyes)).trans ((if_neg (jobEntry_named hopen hgen)).trans (if_neg hcount))

end

/-- The threads that wait on a job are others than the one that frees it, and their release changes no foreman. -/
theorem releaseJoins_keeps (s : State) (me : Nat) (j : BitVec 16) (v : Word) :
    (releaseJoins s me j v).thread me = s.thread me ∧ (releaseJoins s me j v).foremen = s.foremen := by
  refine List.foldlRecOn (motive := fun t : State => t.thread me = s.thread me ∧ t.foremen = s.foremen) _ _ ⟨rfl, rfl⟩ fun t ht k _ => ?_
  obtain ⟨hthread, hforemen⟩ := ht
  split
  · split
    · next st _ _ hother =>
      obtain ⟨⟨hrest, hsame⟩, -⟩ := onlyFile_trans (onlyFile_wg t k st.d v) (onlyFile_retireTo (wg t k st.d v) k (pcOf (wg t k st.d v) k + 4))
      exact ⟨(hsame me (Ne.symm hother.2)).trans hthread, (congrArg State.foremen hrest).trans hforemen⟩
    · exact ⟨hthread, hforemen⟩
  · exact ⟨hthread, hforemen⟩

theorem jobFreed_job (s : State) (j : BitVec 16) : ((jobFreed s j).foreman (jobCluster j)).job (jobIndex j) = {} := by
  rw [jobFreed, modJob, State.modForeman_foreman_same, State.modForeman_foreman_same]
  exact Foreman.job_setJob_same (s.foreman (jobCluster j)) (jobIndex j) {}

theorem pcOf_retire (s : State) (k : Nat) : pcOf (retire s k) k = pcOf s k + 4 := by
  rw [retire, pcOf, retireTo, State.modThread_thread_same]

theorem pcOf_wg (s : State) (k : Nat) (d : BitVec 5) (v : Word) : pcOf (wg s k d v) k = pcOf s k := by
  unfold wg
  split
  · rfl
  · rw [pcOf, State.modThread_thread_same]
    rfl

theorem foremen_retire_wg (s : State) (k : Nat) (d : BitVec 5) (v : Word) : (retire (wg s k d v) k).foremen = s.foremen := by
  unfold wg
  split <;> rfl

/-- The thread, its register and the job's entry after a JOIN that ends. -/
theorem joined_fields (s : State) (k : Nat) (j : BitVec 16) (d : BitVec 5) (v : Word) :
    pcOf (retire (wg (releaseJoins (jobFreed s j) k j v) k d v) k) k = pcOf s k + 4 ∧
      rg (retire (wg (releaseJoins (jobFreed s j) k j v) k d v) k) k d = (if d = 0 then 0 else v) ∧
      ((retire (wg (releaseJoins (jobFreed s j) k j v) k d v) k).foreman (jobCluster j)).job (jobIndex j) = {} := by
  obtain ⟨hthread, hforemen⟩ := releaseJoins_keeps (jobFreed s j) k j v
  refine ⟨?_, ?_, ?_⟩
  · rw [pcOf_retire, pcOf_wg, pcOf, hthread]
    rfl
  · rw [retire, rg_retireTo, rg_wg]
    split
    · rfl
    · exact if_pos rfl
  · rw [State.foreman, foremen_retire_wg, hforemen]
    exact jobFreed_job s j

/-! ### ENQ (R351) -/

theorem stallAt_next (s : State) (k : Nat) (edge : Bool) (d : BitVec 5) (taking : Bool) : ∃ t, stallAt s k edge d taking = .next t := by
  unfold stallAt
  dsimp only
  split
  · exact ⟨_, rfl⟩
  · exact ⟨_, rfl⟩

theorem raiseJob_head (t : State) (j asid : BitVec 16) : (raiseJob t j asid).head = t.head := by
  unfold raiseJob
  split <;> rfl

theorem raiseJob_threads (t : State) (j asid : BitVec 16) : (raiseJob t j asid).threads = t.threads := by
  unfold raiseJob
  split <;> rfl

section

variable {s u : State} {k : Nat} {q : BitVec 3} {a : BitVec 5} (hs : s.self = .thread k)

include hs

theorem enq_refused (hbad : (enqDest (rg s k a)).ok = false ∨ senderOk s (enqDest (rg s k a)) (rq s k q) (s.thread k).asid = false) :
    exec (.enq q a) s = .next (raise s k fcQUEUE 0) := by
  show execEnq q a s = _
  rw [execEnq, onThread_run s k _ hs]
  exact if_pos hbad

variable (hok : (enqDest (rg s k a)).ok = true) (hsender : senderOk s (enqDest (rg s k a)) (rq s k q) (s.thread k).asid = true)

include hok hsender

/-- ENQ to a foreman of this module raises the job's count and hands the record over. -/
theorem enq_delivers (hhere : (enqDest (rg s k a)).remote = false) (hcross : toForeman s k (enqDest (rg s k a)).cluster = (u, false))
    (hmay : permitted u (tgtForeman (enqDest (rg s k a)).cluster) (coreMaster k)
      (descLine (enqDest (rg s k a)).cluster (enqDest (rg s k a)).queue) 128 .write = true)
    (hroom : (u.foreman (enqDest (rg s k a)).cluster).full = false) (hfirst : enqElder u k (enqDest (rg s k a)).cluster = false)
    (hrel : released u k 2 = true) :
    exec (.enq q a) s = .next (retire (deliverRecord (raiseJob u (recJob (rq s k q)) (s.thread k).asid) (enqDest (rg s k a)).cluster
      (enqDest (rg s k a)).queue (rq s k q) (s.thread k).asid (ownModule s + 4096 * coreDie k)) k) := by
  have hmod : ownModule (raiseJob u (recJob (rq s k q)) (s.thread k).asid) = ownModule s := by
    have hnews := newsOnly_crossFrom s (coreDie k) (enqDest (rg s k a)).cluster 0
    rw [← toForeman, hcross] at hnews
    rw [ownModule, raiseJob_head]
    exact hnews.module
  show execEnq q a s = _
  rw [execEnq, onThread_run s k _ hs]
  refine (if_neg (by rw [hok, hsender]; simp)).trans ((if_neg (ne_true_of_eq_false hhere)).trans ?_)
  simp only [hcross, hmay, hroom, hfirst, Bool.or_self, Bool.true_eq_false, Bool.false_eq_true, if_false, hmod]
  exact releaseAt_released hrel _

/-- What the other module's answer to a remote ENQ may be: its record leaves, or it ends or stalls there. -/
theorem enq_leaves (hthere : (enqDest (rg s k a)).remote = true) (hcross : crossFrom s (coreDie k) 4 0 = (u, false))
    (hport : (aditPort u (enqDest (rg s k a)).module 0).isSome = true) (hrel : released u k 3 = true) :
    ∃ t, exec (.enq q a) s = .next t ∧
      (Config.remoteAnswer s.tick ≠ 1 → Config.remoteAnswer s.tick ≠ 2 → Config.remoteAnswer s.tick ≠ 3 → ∃ v, t = retire v k ∧
        v.threads = s.threads ∧ ((enqDest (rg s k a)).module, AditMsg.enq (enqDest (rg s k a)).cluster (enqDest (rg s k a)).queue (rq s k q)
          (s.thread k).asid (ownModule s + 4096 * coreDie k)) ∈ v.sent) := by
  have hnews := newsOnly_crossFrom s (coreDie k) 4 0
  have htick : u.tick = s.tick := by
    have htags := tagsOnly_crossFrom s (coreDie k) 4 0
    rw [hcross] at htags
    unfold tagsOnly at htags
    exact (congrArg State.tick htags :)
  rw [hcross] at hnews
  have hport' : ¬ (aditPort u (enqDest (rg s k a)).module 0).isNone = true := by
    obtain ⟨p, hp⟩ := Option.isSome_iff_exists.1 hport
    rw [hp]
    exact Bool.noConfusion
  have hexec : exec (.enq q a) s = execEnq q a s := rfl
  rw [hexec, execEnq, onThread_run s k _ hs]
  dsimp only
  rw [if_neg (by rw [hok, hsender]; simp), if_pos hthere, hcross]
  dsimp only
  rw [htick]
  by_cases h1 : Config.remoteAnswer s.tick = 1
  · exact ⟨_, if_pos (Or.inr h1), fun h => absurd h1 h⟩
  rw [if_neg (not_or.2 ⟨hport', h1⟩)]
  by_cases h2 : Config.remoteAnswer s.tick = 2
  · exact ⟨_, if_pos h2, fun _ h => absurd h2 h⟩
  rw [if_neg h2]
  by_cases h3 : Config.remoteAnswer s.tick = 3
  · obtain ⟨t, ht⟩ := stallAt_next u k false 0 false
    exact ⟨t, (if_pos h3).trans ht, fun _ _ h => absurd h3 h⟩
  rw [if_neg h3, releaseAt_released hrel]
  have hraised : (raiseJob u (recJob (rq s k q)) (s.thread k).asid).threads = s.threads := (raiseJob_threads _ _ _).trans hnews.threads
  have hmod : ownModule (raiseJob u (recJob (rq s k q)) (s.thread k).asid) = ownModule s := by
    rw [ownModule, raiseJob_head]
    exact hnews.module
  refine ⟨_, rfl, fun _ _ _ => ⟨_, rfl, ?_, ?_⟩⟩
  · unfold sendAdit
    split
    · exact hraised
    · exact hraised
  · rw [← hmod]
    split
    · exact List.mem_append_right _ (List.mem_singleton_self _)
    · exact List.mem_append_right _ (List.mem_singleton_self _)

end

/-! ### TAKE (R420, R256) -/

section

variable {s : State} {k p : Nat} {x : Task} {d : BitVec 5} (hs : s.self = .thread k)

include hs

theorem take_user (hpriv : isPriv s k = false) : exec (.take d) s = .next (raise s k fcPRIV (wordOf (.take d))) := by
  show execTake d s = _
  rw [execTake, onThread_run s k _ hs]
  exact if_pos hpriv

variable (hpriv : isPriv s k = true)

include hpriv

theorem take_beside (htask : (s.thread k).task = some p) : exec (.take d) s = .next (raise s k fcQUEUE 0) := by
  show execTake d s = _
  rw [execTake, onThread_run s k _ hs]
  exact (if_neg (by rw [hpriv]; exact Bool.noConfusion)).trans (if_pos (by rw [htask]; rfl))

variable (htask : (s.thread k).task = none)

include htask

theorem take_waits (hbound : (s.core k).bound = none) : exec (.take d) s = stallAt s k true d true := by
  show execTake d s = _
  rw [execTake, onThread_run s k _ hs]
  refine (if_neg (by rw [hpriv]; exact Bool.noConfusion)).trans ((if_neg (by rw [htask]; exact Bool.noConfusion)).trans ?_)
  simp only [hbound, Option.bind_none]

theorem take_enters (hbound : (s.core k).bound = some p) (hentry : (s.foreman (coreDie k)).entry p = some x) (hnew : x.saved = false)
    (hroom : (queueCmds s k 0).length + x.cmds.length ≤ 16) (hlow : 0 ≤ argVa (s.foreman (coreDie k)) x.record)
    (hhigh : argVa (s.foreman (coreDie k)) x.record < 2 ^ 56) : exec (.take d) s = .next (takeTask s k (coreDie k) p x) := by
  have hqueue : queueRoom s k 0 x.cmds.length = true := decide_eq_true hroom
  show execTake d s = _
  rw [execTake, onThread_run s k _ hs]
  refine (if_neg (by rw [hpriv]; exact Bool.noConfusion)).trans ((if_neg (by rw [htask]; exact Bool.noConfusion)).trans ?_)
  simp only [hbound, hentry, Option.bind_some, Option.map_some]
  refine (if_neg (by rw [hqueue]; exact Bool.noConfusion)).trans ?_
  simp only [hnew, Bool.false_eq_true, if_false]
  exact if_neg (by omega)

end

/-- A task with an argument finds recX in g1. -/
theorem argRegs_first {f : Foreman} {t : Task} (h : 1 ≤ f.args (recType t.record)) :
    Map.get 0 (argRegs f t) 1 = BitVec.ofNat 64 (recX t.record) :=
  get_foldl_set 0 (fun _ _ he => Nat.succ.inj he) (fun i => BitVec.ofNat 64
    ([recX t.record, recY t.record, recZ t.record, (argVa f t.record).toNat, (recJob t.record).toNat, t.region, t.slot].getD i 0)) [] h

/-- A task that has not been saved enters the thread at its entry, and its core and its foreman know that it runs. -/
theorem takeTask_new (s : State) (k p : Nat) {x : Task} (hnew : x.saved = false) :
    ((takeTask s k (coreDie k) p x).thread k) = freshThread (s.foreman (coreDie k)) p x (s.thread k) ∧
      ((takeTask s k (coreDie k) p x).core k).bound = none ∧
      ((takeTask s k (coreDie k) p x).foreman (coreDie k)).entry p =
        some { x with state := .running, saved := false, ports := [], cmds := [], left := [] } := by
  unfold takeTask
  rw [if_neg (ne_true_of_eq_false hnew)]
  refine ⟨State.modThread_thread_same _ _ _, ?_, ?_⟩
  · simp
  · rw [State.modThread_foreman, State.modForeman_foreman_same, Foreman.entry_setEntry_same]

/-! ### DONE and EXIT (R349, R353, R257) -/

section

variable {s : State} {k p : Nat} {a : BitVec 5} (hs : s.self = .thread k)

include hs

theorem done_idle (htask : (s.thread k).task = none) : exec (.done a) s = .next (raise s k fcQUEUE 0) := by
  show execDone a s = _
  rw [execDone, onThread_run s k _ hs]
  simp only [htask]

theorem exit_idle (htask : (s.thread k).task = none) : exec (.exit a) s =
    if isPriv s k then .next (s.modThread k (fun t => { t with run := .parked })) else .next (raise s k fcQUEUE 0) := by
  show execExit a s = _
  rw [execExit, onThread_run s k _ hs]
  simp only [htask]

variable (htask : (s.thread k).task = some p)

include htask

theorem done_waits (hbusy : noCommands s k = false) : exec (.done a) s = waitAt s k true := by
  show execDone a s = _
  rw [execDone, onThread_run s k _ hs]
  simp only [htask]
  exact if_pos hbusy

/-- The code that DONE and EXIT name. -/
def endCode (s : State) (k : Nat) (a : BitVec 5) : Code := (rg s k a).extractLsb' 0 8

theorem done_ends (hfree : noCommands s k = true) (hwork : workLeft s k = false) (hrel : released s k (endScope s k) = true) :
    exec (.done a) s = .next (endTask s k (if endCode s k a = 0 then .completed else .failed) (endCode s k a)) := by
  show execDone a s = _
  rw [execDone, onThread_run s k _ hs]
  simp only [htask]
  exact (if_neg (by rw [hfree]; exact Bool.noConfusion)).trans ((if_neg (ne_true_of_eq_false hwork)).trans
    (if_neg (by rw [hrel]; exact Bool.noConfusion)))

theorem exit_fails (hrel : released s k (endScope s k) = true) (hcode : endCode s k a ≠ 0) :
    exec (.exit a) s = .next (endTask (stopWork s k) k .failed (endCode s k a)) := by
  unfold endCode at hcode ⊢
  have hkeep : ¬ ((rg s k a).extractLsb' 0 8 = 0 ∧ anyStopped s k = true) := fun h => hcode h.1
  show execExit a s = _
  rw [execExit, onThread_run s k _ hs]
  simp only [htask]
  rw [releaseAt_released hrel, if_neg hkeep, if_neg hcode]

end

/-- The end of a task leaves the thread idle, and its foreman is told. -/
theorem endTask_told {s : State} {k p : Nat} (htask : (s.thread k).task = some p) (how : EndKind) (code : Code) :
    ((endTask s k how code).thread k).task = none ∧ ((endTask s k how code).thread k).status = 1 ∧
      pcOf (endTask s k how code) k = BitVec.ofNat 64 (s.foreman (coreDie k)).idlePc ∧
      .ended p how code ∈ ((endTask s k how code).foreman (coreDie k)).inbox := by
  rw [pcOf, endTask_thread htask, endTask_inbox htask]
  exact ⟨rfl, rfl, rfl, List.mem_append_right _ (List.mem_singleton_self _)⟩

/-! ### YIELD and the save of a thread (R439, R263) -/

section

variable {s : State} {k p : Nat} {x : Task} (hs : s.self = .thread k) (htask : taskOf s k = some (p, x))

include hs htask

theorem yield_alone (hno : hasRival s (coreDie k) p x = false) : exec .yield s = .next (retire s k) := by
  show execYield s = _
  rw [execYield, onThread_run s k _ hs]
  simp only [htask, hno, Bool.and_false, Bool.false_eq_true, if_false]

variable {u : State} {key : Nat} (hmay : mayPreempt s k = true) (hlive : x.doomed = false) (hrel : released s k 2 = true)
  (hslot : slotReach s (coreDie k) p .write = .ready u key)

include hmay hlive hrel hslot

theorem yield_saves (hrival : hasRival s (coreDie k) p x = true) : exec .yield s = .next (saveThread (retire u k) k p x) := by
  show execYield s = _
  rw [execYield, onThread_run s k _ hs]
  simp only [htask, hmay, hlive, hrival, hrel, hslot, Bool.not_false, Bool.and_self, if_true, Bool.true_eq_false, if_false]

theorem threadSave_saves (hstop : x.stopping = true) : exec .threadSave s = .next (saveThread u k p x) := by
  show execThreadSave s = _
  rw [execThreadSave, onThread_run s k _ hs]
  simp only [htask, hmay, hlive, hstop, hrel, trySave, hslot, Bool.not_false, Bool.and_self, if_true]

end

/-- Settles O26: each instruction by the branch that the state picks. -/
theorem jobAndTaskInstructions : Obligations.JobAndTaskInstructions := by
  refine ⟨fun q d a s k hs => ?jobs, fun d a s k p x hs => ?tasks⟩
  case jobs =>
    intro j e r n
    refine ⟨fun u hok hsender hhere hcross hmay hroom hfirst hrel => enq_delivers hs hok hsender hhere hcross hmay hroom hfirst hrel,
      fun u hok hsender hthere hcross hport hrel => enq_leaves hs hok hsender hthere hcross hport hrel, fun hbad => enq_refused hs hbad,
      fun hno => ⟨join_denied hs hno, cancel_denied hs hno⟩,
      fun hyes => ⟨fun hclosed => join_closed hs hyes hclosed,
        fun hopen hgen hzero => ⟨_, join_ended hs hyes hopen hgen hzero, joined_fields s k j d _⟩,
        fun hopen hgen hcount => join_waits hs hyes hopen hgen hcount, fun hopen hgen hup => ?_⟩⟩
    obtain ⟨u, hu, hexec⟩ := cancel_sends hs hyes hup
    obtain ⟨hthreads, hcancelling, hinbox, hsent⟩ := sendCancel_tells (s := u) (j := j) ((congrArg Job.isOpen (hu.job _ _)).trans hopen)
      ((congrArg Job.gen (hu.job _ _)).trans hgen) (hu.up hup)
    have hown := newsOnly_abandonOwn (sendCancel u j) k j
    rw [show ownModule u = s.head.moduleNo.toNat from hu.module] at hinbox hsent
    rw [hu.sentTo] at hsent
    exact ⟨_, hexec, hown.threads.trans (hthreads.trans hu.threads), (congrArg Job.cancelling (hown.job _ _)).trans hcancelling,
      fun f hf => (hown.inbox f).mem (hinbox f hf), fun w hw => hown.sent.mem (hsent w hw)⟩
  case tasks =>
    refine ⟨fun hpriv htask hbound hentry hnew hroom hlow hhigh => ?takes, fun hpriv => take_user hs hpriv,
      fun hpriv htask => take_beside hs hpriv htask, fun hpriv htask hbound => take_waits hs hpriv htask hbound,
      fun htask hbusy => done_waits hs htask hbusy, fun htask hpriv => ?exitUser, fun htask hfree hwork hrel => ?done,
      fun htask hrel hcode => ?exit, fun htask hpriv => ?parks, fun htask => done_idle hs htask,
      fun htask hno => yield_alone hs htask hno,
      fun u key htask hrival hmay hlive hrel hslot => yield_saves hs htask hmay hlive hrel hslot hrival,
      fun u key htask hstop hlive hmay hrel hslot => threadSave_saves hs htask hmay hlive hrel hslot hstop⟩
    case takes =>
      obtain ⟨hthread, hcore, hforeman⟩ := takeTask_new s k p hnew
      refine ⟨_, take_enters hs hpriv htask hbound hentry hnew hroom hlow hhigh, ?_⟩
      rw [pcOf, hthread, hcore, hforeman]
      refine ⟨rfl, rfl, rfl, rfl, fun hargs => ?_, rfl, _, rfl, rfl, rfl⟩
      rw [rg, hthread]
      exact argRegs_first hargs
    case exitUser => exact (exit_idle hs htask).trans (if_neg (ne_true_of_eq_false hpriv))
    case parks => exact (exit_idle hs htask).trans (if_pos hpriv)
    case done => exact ⟨_, done_ends hs htask hfree hwork hrel, endTask_told htask _ _⟩
    case exit =>
      have hwork := onlyWork_stopWork s k
      obtain ⟨hnone, hstatus, -, htold⟩ := endTask_told (s := stopWork s k) (k := k)
        (by rw [hwork.thread]; exact htask) .failed (endCode s k a)
      exact ⟨_, exit_fails hs htask hrel hcode, hnone, hstatus, htold⟩

end Sys2Proof.Machine
end
